-- ==== Sys2Proof/Word.lean ====
section
/-! DEFINITION. The widths the manual uses (R3): bytes, 16-, 32- and 64-bit register values. -/

namespace Sys2Proof

/-- Eight bits, the unit of memory (R3). -/
abbrev Byte := BitVec 8
/-- A 16-bit element (R73, R74). -/
abbrev Half := BitVec 16
/-- One v or s register (R9). -/
abbrev Word := BitVec 32
/-- An even/odd register pair, an address or a program counter (R3, R9). -/
abbrev DWord := BitVec 64

end Sys2Proof
end

