-- ==== Sys2Proof/Syntax.lean ====
section
/-! DEFINITION. The syntax of every step of the part: one constructor of `Instr` for each row of the opcode
table: first the operations and events of the engines, the memory, the launch processors and the host, then the
305 instructions of the Kubenik Instruction Set (R39). -/

namespace Sys2Proof

/-- v0..v255 (R29). -/
abbrev VReg := Fin 256
/-- s0..s63 (R29). -/
abbrev SReg := Fin 64
/-- p0..p7 (R29). -/
abbrev PReg := Fin 8
/-- q0..q7; q4 to q7 decode but are reserved (R29). -/
abbrev QReg := Fin 8
/-- Tile handles h0..h63 (R29). -/
abbrev HReg := Fin 64
/-- Berths b0..b7 (R29). -/
abbrev BReg := Fin 8
/-- Rejoin registers j0..j7 (R29). -/
abbrev JReg := Fin 8
/-- Convergence registers c0..c15 (R29). -/
abbrev CReg := Fin 16
/-- Pipes n0..n15 (R29). -/
abbrev NReg := Fin 16
/-- Tensor identifiers k0..k255 (R33). -/
abbrev KId := Fin 256

/-- The classes V and S together (R30): a vector or a scalar register, or the first of a pair or quad. -/
inductive Reg where
  | v (n : VReg)
  | s (n : SReg)
  deriving DecidableEq, Repr

/-- The classes V, S and I together (R30); the immediate carries the value of IMM (R31). -/
inductive Src where
  | v (n : VReg)
  | s (n : SReg)
  | imm (w : Word)
  deriving DecidableEq, Repr

/-- The classes S and I together (R30). -/
inductive SSrc where
  | s (n : SReg)
  | imm (w : Word)
  deriving DecidableEq, Repr

/-- The A operand of an MMA form: a tile, or the scalar pair of R235. -/
inductive ASrc where
  | tile (t : HReg)
  | glob (s : SReg)
  deriving DecidableEq, Repr

/-- A barrier operand (R140): a team barrier or a cluster barrier. -/
inductive Bar where
  | team (n : Fin 16)
  | cluster (n : Fin 8)
  deriving DecidableEq, Repr

/-- The access paths of R177. -/
inductive Path where
  | ls | cp | mx | gt | fb
  deriving DecidableEq, Repr

/-- The special registers of R13. -/
inductive SpecReg where
  | thread | place | cluster | clcount | karglo | karghi | cyclo | cychi | sptlo | spthi | rsdepth | pkrlo | pkrhi
  deriving DecidableEq, Repr

/-- The guard and hint fields that every instruction carries (R27, R34, R35). -/
structure Hdr where
  /-- Guard predicate (R34). -/
  g : PReg
  /-- Negate the guard (R34). -/
  gn : Bool
  /-- Switch marker (R23). -/
  mark : Bool
  /-- Issue delay (R24). -/
  delay : BitVec 4
  /-- Yield hint (R24). -/
  yld : Bool
  /-- Operand reuse hint (R24). -/
  reuse : BitVec 2
  deriving DecidableEq, Repr

/-- What happens to an atomic on its way to the home (R189 to R191): it is performed there, merged with a later
one in the network, or diverted to the quay; `far`: the offsets of another device's memory that answer poisoned (R340). -/
inductive AtomicHow where
  | perform (far : List Nat)
  | merge (j : Nat)
  | divert
  deriving DecidableEq, Repr

/-- Who writes a device register (R322, R350): the host, Snido, or a thread's store. -/
inductive RegWriter where
  | host | snido | thread
  deriving DecidableEq, Repr

/-- What the ECC of a 32-byte DRAM word reports (R154). -/
inductive EccState where
  | good | corrected | uncorrectable
  deriving DecidableEq, Repr

/-- What a port sends a request for (R157). -/
inductive ReqSource where
  | miss | quay | cxl
  | copy (core idx : Nat)
  | gate (unit idx : Nat)
  | writeBack | discard | migration | scrub | prefetch
  deriving DecidableEq, Repr

/-- How the reads of a returning result are served: from a stale L1 copy (R173), which half of a 16-byte access (0: whole, R170), and the
offsets of another device's memory that answer poisoned (R340). -/
structure ReadHow where
  stale : Bool := false
  part : Nat := 0
  far : List Nat := []
  deriving DecidableEq, Repr

/-- What a request meets at its channel: the ECC state of the words it reads, good where none is named (R154), and whether its deadline has
passed (R158). -/
structure Met where
  errs : List EccState := []
  late : Bool := false
  deriving DecidableEq, Repr

/-- A packet in flight that is served, and the ECC state of the words it reads (R154). -/
structure PacketRead where
  i : Nat
  errs : List EccState := []
  deriving DecidableEq, Repr

/-- A port that receives a RETRAIN flit, the lane that the other end found failing and the lanes of the best narrower width (R339). -/
structure Retrain where
  port : Nat
  lane : Nat := 0
  best : List Nat := []
  deriving DecidableEq, Repr

/-- Why a fetch fails (R17, R301). -/
inductive FetchFail where
  | misaligned
  | translation (sub : Fin 4)
  | permission
  | uncorr
  deriving DecidableEq, Repr

/-- The wake events of R344. -/
inductive WakeCause where
  | notify | mailbox | cxl | flit | timer
  deriving DecidableEq, Repr

/-- An engine whose posted writes land (R221, R231, R248). -/
inductive EngineRef where
  | copy (core j : Nat)
  | gate (unit : Nat)
  | bwr (i : Nat)
  deriving DecidableEq, Repr

/-- Every step of the part, one constructor for each row of the opcode table. An instruction carries its guard
and hint fields and its decoded operands; an event carries what the environment chooses (which entry, which
timing, what arrives from outside). -/
inductive Instr where
  /-- PARK_COMPLETE, R23. -/
  | parkComplete (g : Nat)
  /-- VARIABLE_RESULT_RETURN, R22. -/
  | variableResultReturn (g idx : Nat) (lanes : Word) (how : ReadHow)
  /-- GATH_LANE_ARRIVAL, R185. -/
  | gathLaneArrival (g idx : Nat) (lanes : Word) (how : ReadHow)
  /-- ASYNC_RECORD_ARRIVAL, R263. -/
  | asyncRecordArrival (i : Nat)
  /-- FAULT_REPLY, R300. -/
  | faultReply (die i : Nat) (resolved : Bool)
  /-- ZERO_FILL, R352. -/
  | zeroFill (die i : Nat) (frame : Option Nat)
  /-- MONITOR_WRITE_OBSERVED, R183. -/
  | monitorWriteObserved (g lane : Nat)
  /-- MWAIT_BUDGET_EXPIRY, R183. -/
  | mwaitBudgetExpiry (g lane : Nat)
  /-- STORE_REGISTRATION, R172. -/
  | storeRegistration (i : Nat)
  /-- HOME_ATOMIC_PERFORM, R189. -/
  | homeAtomicPerform (i : Nat) (how : AtomicHow)
  /-- ACK_COUNT_ZERO, R172. -/
  | ackCountZero (g : Nat)
  /-- DISCARD_PERFORM, R187. -/
  | discardPerform (i : Nat)
  /-- QUAY_REQUEST_ARRIVAL, R199. -/
  | quayRequestArrival (i : Nat)
  /-- QUAY_WAVE_FORM, R200. -/
  | quayWaveForm (quay : Nat)
  /-- QUAY_WAVE_END, R205. -/
  | quayWaveEnd (w : Nat)
  /-- QUAY_REPLY, R198. -/
  | quayReply (i : Nat)
  /-- NOTIFY, R102. -/
  | notify (q : Nat) (value : DWord)
  /-- PACKET_READ, R103. -/
  | packetRead (q : Nat)
  /-- GRID, R106. -/
  | grid (i : Nat)
  /-- GANG, R264. -/
  | gang (i : Nat)
  /-- GRAPH, R273. -/
  | graph (i : Nat)
  /-- DEPEND, R108. -/
  | depend (i : Nat)
  /-- BARRIER_AND, R108. -/
  | barrierAnd (i : Nat)
  /-- DEPEND_CONDITION_HOLDS, R108. -/
  | dependConditionHolds (i : Nat)
  /-- CLUSTER_PLACEMENT, R112. -/
  | clusterPlacement (l : Nat) (cores : List Nat)
  /-- TEAM_START, R113. -/
  | teamStart (t : Nat)
  /-- TEAM_RETIRE, R109. -/
  | teamRetire (t : Nat)
  /-- GROUP_SWAP, R115. -/
  | groupSwap (core out inn : Nat)
  /-- AGED_DISPLACEMENT, R117. -/
  | agedDisplacement (core : Nat)
  /-- BUNDLE_SELECT, R120. -/
  | bundleSelect (core : Nat) (fresh : BitVec 3)
  /-- FALLBACK_ADVANCE, R119. -/
  | fallbackAdvance (g : Nat)
  /-- COPY, R219. -/
  | copy (g : Nat)
  /-- COPY_RESUME, R223. -/
  | copyResume (g : Nat)
  /-- COPY_CANCEL, R223. -/
  | copyCancel (g : Nat)
  /-- COPY_START, R217. -/
  | copyStart (core j : Nat) (fromBuf : Bool)
  /-- COPY_COMPLETE, R221. -/
  | copyComplete (core j : Nat)
  /-- COPY_STOP, R223. -/
  | copyStop (core j : Nat)
  /-- TOPK, R231. -/
  | topk (unit : Nat)
  /-- HIST, R231. -/
  | hist (unit : Nat)
  /-- PSUM, R231. -/
  | psum (unit : Nat)
  /-- PERM, R231. -/
  | perm (unit : Nat)
  /-- GATE_COMMAND_COMPLETE, R231. -/
  | gateCommandComplete (unit : Nat)
  /-- ARRAY_BOUNDARY, R237. -/
  | arrayBoundary (array : Nat)
  /-- MMA_ENTER_QUEUE, R238. -/
  | mmaEnterQueue (array slot i : Nat)
  /-- MMA_COMPLETE, R253. -/
  | mmaComplete (array : Nat)
  /-- MMA_FETCH_FAULT, R259. -/
  | mmaFetchFault (array : Nat)
  /-- BWR_COMPLETE, R248. -/
  | bwrComplete (i : Nat)
  /-- BIN_COUNT_TRIGGER, R275. -/
  | binCountTrigger (graph die node core : Nat)
  /-- BIN_TIMER_EXPIRY, R275. -/
  | binTimerExpiry (graph die node : Nat)
  /-- SEED_ENTRY, R274. -/
  | seedEntry (graph node : Nat)
  /-- LAUNCH_LIST_START, R280. -/
  | launchListStart (die : Nat)
  /-- RD, R156. -/
  | rd (port tag : Nat) (pa beats : Nat) (src : ReqSource) (met : Met)
  /-- WR, R159. -/
  | wr (port tag : Nat) (pa beats : Nat) (masks : List Word) (src : ReqSource) (met : Met)
  /-- RDR, R155. -/
  | rdr (i : Nat)
  /-- WACK, R159. -/
  | wack (i : Nat)
  /-- DELTA, R159. -/
  | delta (r : PacketRead)
  /-- DACK, R159. -/
  | dack (i : Nat)
  /-- LOCK, R160. -/
  | lock (i : Nat)
  /-- LOCKED, R160. -/
  | locked (i : Nat)
  /-- CHUNKRD, R160. -/
  | chunkrd (r : PacketRead)
  /-- CHUNK, R160. -/
  | chunk (i : Nat)
  /-- UNLOCK, R160. -/
  | unlock (i : Nat)
  /-- STACK_LOSS, R164. -/
  | stackLoss (stack : Nat)
  /-- TIER_MIGRATION, R169. -/
  | tierMigration (ctx : Nat) (va : DWord) (tier : Bool) (frame : Nat)
  /-- SAVE, R312. -/
  | save (u pa : Nat)
  /-- CONTEXT_EVICT, R307. -/
  | contextEvict (ctx : Nat)
  /-- CREATE_CONTEXT, R328. -/
  | createContext
  /-- DESTROY_CONTEXT, R328. -/
  | destroyContext
  /-- CREATE_QUEUE, R328. -/
  | createQueue
  /-- DESTROY_QUEUE, R328. -/
  | destroyQueue
  /-- RESET_QUEUE, R328. -/
  | resetQueue
  /-- PREEMPT, R329. -/
  | preempt
  /-- RESUME, R319. -/
  | resume (cores : List Nat) (pa : Nat)
  /-- MIGRATE, R328. -/
  | migrate (frame : Nat)
  /-- DECLARE_LOST, R328. -/
  | declareLost
  /-- REPAIR_LANE, R328. -/
  | repairLane (best : List Nat)
  /-- SET_MODE, R332. -/
  | setMode
  /-- NONCE, R328. -/
  | nonce
  /-- TOKEN, R347. -/
  | token
  /-- ATTEST, R349. -/
  | attest
  /-- HALT, R350. -/
  | halt
  /-- RUN, R350. -/
  | run
  /-- STEP, R350. -/
  | step
  /-- SNAP, R350. -/
  | snap
  /-- NEXTEVT, R350. -/
  | nextevt
  /-- REGISTER_WRITE, R322. -/
  | registerWrite (src : RegWriter) (pa size : Nat) (value : DWord)
  /-- CXL_MEM_READ, R325. -/
  | cxlMemRead (pa n : Nat)
  /-- CXL_MEM_WRITE, R325. -/
  | cxlMemWrite (pa : Nat) (bytes : List Byte)
  /-- BACK_INVALIDATE, R325. -/
  | backInvalidate (line : Nat)
  /-- FABRIC_WRITE_ARRIVAL, R180. -/
  | fabricWriteArrival (pa : Nat) (bytes : List Byte) (signal : Option (Nat × DWord))
  /-- DATA_FLIT, R338. -/
  | dataFlit (port : Nat) (flit : List Byte)
  /-- IDLE_FLIT, R337. -/
  | idleFlit (port : Nat) (flit : List Byte)
  /-- NAK_FLIT, R338. -/
  | nakFlit (port : Nat) (flit : List Byte)
  /-- RETRAIN_FLIT, R339. -/
  | retrainFlit (r : Retrain)
  /-- LANE_REPAIR, R339. -/
  | laneRepair (port lane : Nat) (best : List Nat)
  /-- POWER_STATE_ENTRY, R344. -/
  | powerStateEntry
  /-- WAKE_EVENT, R344. -/
  | wakeEvent (w : WakeCause)
  /-- POWER_THROTTLE, R345. -/
  | powerThrottle (step : Nat)
  /-- PACKAGE_RESET, R346. -/
  | packageReset
  /-- UNLISTED_OPCODE, R38. -/
  | unlistedOpcode (w : BitVec 96)
  /-- FETCH_FAULT, R17. -/
  | fetchFault (f : FetchFail)
  /-- PATROL_SCRUB, R157. -/
  | patrolScrub (stack word : Nat) (found : EccState)
  /-- DEVICE_DOES_NOT_ANSWER, R340. -/
  | deviceDoesNotAnswer (g seq dev : Nat)
  /-- BYTES_LAND, R221. -/
  | bytesLand (e : EngineRef) (n : Nat)
  /-- NOP, R51. -/
  | nop (h : Hdr)
  /-- BRA, R51. -/
  | bra (h : Hdr) (disp : Word)
  /-- JMPX, R51. -/
  | jmpx (h : Hdr) (a : Reg)
  /-- CALL, R51. -/
  | call (h : Hdr) (disp : Word)
  /-- CALLX, R51. -/
  | callx (h : Hdr) (a : Reg)
  /-- RET, R53. -/
  | ret (h : Hdr)
  /-- RVSET, R136. -/
  | rvset (h : Hdr) (j : JReg) (sa : SReg) (disp : Word)
  /-- RVWAIT, R137. -/
  | rvwait (h : Hdr) (j : JReg)
  /-- EXIT, R52. -/
  | exit (h : Hdr)
  /-- YIELD, R51. -/
  | yield (h : Hdr)
  /-- TRAP, R52. -/
  | trap (h : Hdr) (code : BitVec 16)
  /-- BKPT, R52. -/
  | bkpt (h : Hdr) (code : BitVec 16)
  /-- MOV, R57. -/
  | mov (h : Hdr) (d : Reg) (a : Reg)
  /-- MOVI, R57. -/
  | movi (h : Hdr) (d : Reg) (imm : Word)
  /-- IADD, R56. -/
  | iadd (h : Hdr) (d : Reg) (a : Src) (b : Src)
  /-- ISUB, R56. -/
  | isub (h : Hdr) (d : Reg) (a : Src) (b : Src)
  /-- IADD64, R58. -/
  | iadd64 (h : Hdr) (d : Reg) (a : Src) (b : Src)
  /-- ISUB64, R58. -/
  | isub64 (h : Hdr) (d : Reg) (a : Src) (b : Src)
  /-- IMUL, R56. -/
  | imul (h : Hdr) (d : Reg) (a : Src) (b : Src)
  /-- IMULHS, R56. -/
  | imulhs (h : Hdr) (d : Reg) (a : Src) (b : Src)
  /-- IMULHU, R56. -/
  | imulhu (h : Hdr) (d : Reg) (a : Src) (b : Src)
  /-- IMAD, R59. -/
  | imad (h : Hdr) (d : Reg) (a : Reg) (b : Reg) (c : Reg)
  /-- IMADW, R59. -/
  | imadw (h : Hdr) (d : Reg) (a : Reg) (b : Reg) (c : Reg)
  /-- IDIVS, R60. -/
  | idivs (h : Hdr) (d : Reg) (a : Src) (b : Src)
  /-- IDIVU, R60. -/
  | idivu (h : Hdr) (d : Reg) (a : Src) (b : Src)
  /-- IREMS, R60. -/
  | irems (h : Hdr) (d : Reg) (a : Src) (b : Src)
  /-- IREMU, R60. -/
  | iremu (h : Hdr) (d : Reg) (a : Src) (b : Src)
  /-- IMIN, R56. -/
  | imin (h : Hdr) (d : Reg) (a : Src) (b : Src)
  /-- IMAX, R56. -/
  | imax (h : Hdr) (d : Reg) (a : Src) (b : Src)
  /-- UMIN, R56. -/
  | umin (h : Hdr) (d : Reg) (a : Src) (b : Src)
  /-- UMAX, R56. -/
  | umax (h : Hdr) (d : Reg) (a : Src) (b : Src)
  /-- IABS, R57. -/
  | iabs (h : Hdr) (d : Reg) (a : Src)
  /-- AND, R56. -/
  | and (h : Hdr) (d : Reg) (a : Src) (b : Src)
  /-- OR, R56. -/
  | or (h : Hdr) (d : Reg) (a : Src) (b : Src)
  /-- XOR, R56. -/
  | xor (h : Hdr) (d : Reg) (a : Src) (b : Src)
  /-- ANDN, R56. -/
  | andn (h : Hdr) (d : Reg) (a : Src) (b : Src)
  /-- NOT, R57. -/
  | not (h : Hdr) (d : Reg) (a : Src)
  /-- SHL, R56. -/
  | shl (h : Hdr) (d : Reg) (a : Src) (b : Src)
  /-- SHR, R56. -/
  | shr (h : Hdr) (d : Reg) (a : Src) (b : Src)
  /-- SAR, R56. -/
  | sar (h : Hdr) (d : Reg) (a : Src) (b : Src)
  /-- ROTL, R56. -/
  | rotl (h : Hdr) (d : Reg) (a : Src) (b : Src)
  /-- FSHR, R59. -/
  | fshr (h : Hdr) (d : Reg) (a : Reg) (b : Reg) (c : Reg)
  /-- CLZ, R57. -/
  | clz (h : Hdr) (d : Reg) (a : Src)
  /-- POPC, R57. -/
  | popc (h : Hdr) (d : Reg) (a : Src)
  /-- BREV, R57. -/
  | brev (h : Hdr) (d : Reg) (a : Src)
  /-- BFXU, R61. -/
  | bfxu (h : Hdr) (d : Reg) (a : Src) (b : Src)
  /-- BFXS, R61. -/
  | bfxs (h : Hdr) (d : Reg) (a : Src) (b : Src)
  /-- BFI, R62. -/
  | bfi (h : Hdr) (d : Reg) (a : Reg) (b : Reg) (c : Reg)
  /-- LEA, R63. -/
  | lea (h : Hdr) (d : Reg) (a : Reg) (b : Reg) (sh : Fin 32)
  /-- LEA64, R63. -/
  | lea64 (h : Hdr) (d : Reg) (a : Reg) (b : Reg) (sh : Fin 32) (zx : Bool)
  /-- SEL, R59. -/
  | sel (h : Hdr) (d : Reg) (a : Reg) (b : Reg) (c : PReg)
  /-- ICMPEQ, R64. -/
  | icmpeq (h : Hdr) (d : PReg) (a : Src) (b : Src)
  /-- ICMPNE, R64. -/
  | icmpne (h : Hdr) (d : PReg) (a : Src) (b : Src)
  /-- ICMPLT, R64. -/
  | icmplt (h : Hdr) (d : PReg) (a : Src) (b : Src)
  /-- ICMPLE, R64. -/
  | icmple (h : Hdr) (d : PReg) (a : Src) (b : Src)
  /-- UCMPLT, R64. -/
  | ucmplt (h : Hdr) (d : PReg) (a : Src) (b : Src)
  /-- UCMPLE, R64. -/
  | ucmple (h : Hdr) (d : PReg) (a : Src) (b : Src)
  /-- ICMPEQ64, R64. -/
  | icmpeq64 (h : Hdr) (d : PReg) (a : Src) (b : Src)
  /-- UCMPLT64, R64. -/
  | ucmplt64 (h : Hdr) (d : PReg) (a : Src) (b : Src)
  /-- PAND, R65. -/
  | pand (h : Hdr) (d : PReg) (a : PReg) (b : PReg)
  /-- POR, R65. -/
  | por (h : Hdr) (d : PReg) (a : PReg) (b : PReg)
  /-- PXOR, R65. -/
  | pxor (h : Hdr) (d : PReg) (a : PReg) (b : PReg)
  /-- PNOT, R65. -/
  | pnot (h : Hdr) (d : PReg) (a : PReg)
  /-- P2V, R65. -/
  | p2v (h : Hdr) (d : Reg)
  /-- V2P, R65. -/
  | v2p (h : Hdr) (a : Reg) (mask : BitVec 7)
  /-- FADD, R87. -/
  | fadd (h : Hdr) (d : Reg) (a : Src) (b : Src)
  /-- FSUB, R87. -/
  | fsub (h : Hdr) (d : Reg) (a : Src) (b : Src)
  /-- FMUL, R87. -/
  | fmul (h : Hdr) (d : Reg) (a : Src) (b : Src)
  /-- FFMA, R87. -/
  | ffma (h : Hdr) (d : Reg) (a : Reg) (b : Reg) (c : Reg)
  /-- FMIN, R83. -/
  | fmin (h : Hdr) (d : Reg) (a : Src) (b : Src)
  /-- FMAX, R83. -/
  | fmax (h : Hdr) (d : Reg) (a : Src) (b : Src)
  /-- FABS, R87. -/
  | fabs (h : Hdr) (d : Reg) (a : Src)
  /-- FNEG, R87. -/
  | fneg (h : Hdr) (d : Reg) (a : Src)
  /-- FCMPEQ, R87. -/
  | fcmpeq (h : Hdr) (d : PReg) (a : Src) (b : Src)
  /-- FCMPLT, R87. -/
  | fcmplt (h : Hdr) (d : PReg) (a : Src) (b : Src)
  /-- FCMPLE, R87. -/
  | fcmple (h : Hdr) (d : PReg) (a : Src) (b : Src)
  /-- FCMPUN, R87. -/
  | fcmpun (h : Hdr) (d : PReg) (a : Src) (b : Src)
  /-- FRCP, R84. -/
  | frcp (h : Hdr) (d : Reg) (a : Src)
  /-- FRSQ, R84. -/
  | frsq (h : Hdr) (d : Reg) (a : Src)
  /-- FSQRT, R87. -/
  | fsqrt (h : Hdr) (d : Reg) (a : Src)
  /-- FEXP2, R84. -/
  | fexp2 (h : Hdr) (d : Reg) (a : Src)
  /-- FLOG2, R84. -/
  | flog2 (h : Hdr) (d : Reg) (a : Src)
  /-- FSIN, R84. -/
  | fsin (h : Hdr) (d : Reg) (a : Src)
  /-- FCOS, R84. -/
  | fcos (h : Hdr) (d : Reg) (a : Src)
  /-- FTANH, R84. -/
  | ftanh (h : Hdr) (d : Reg) (a : Src)
  /-- FSIG, R84. -/
  | fsig (h : Hdr) (d : Reg) (a : Src)
  /-- FCLASS, R88. -/
  | fclass (h : Hdr) (d : Reg) (a : Src)
  /-- DADD, R89. -/
  | dadd (h : Hdr) (d : Reg) (a : Src) (b : Src)
  /-- DSUB, R89. -/
  | dsub (h : Hdr) (d : Reg) (a : Src) (b : Src)
  /-- DMUL, R89. -/
  | dmul (h : Hdr) (d : Reg) (a : Src) (b : Src)
  /-- DFMA, R89. -/
  | dfma (h : Hdr) (d : Reg) (a : Reg) (b : Reg) (c : Reg)
  /-- DMIN, R89. -/
  | dmin (h : Hdr) (d : Reg) (a : Src) (b : Src)
  /-- DMAX, R89. -/
  | dmax (h : Hdr) (d : Reg) (a : Src) (b : Src)
  /-- DCMPEQ, R89. -/
  | dcmpeq (h : Hdr) (d : PReg) (a : Src) (b : Src)
  /-- DCMPLT, R89. -/
  | dcmplt (h : Hdr) (d : PReg) (a : Src) (b : Src)
  /-- DCMPLE, R89. -/
  | dcmple (h : Hdr) (d : PReg) (a : Src) (b : Src)
  /-- DCMPUN, R89. -/
  | dcmpun (h : Hdr) (d : PReg) (a : Src) (b : Src)
  /-- DRCPA, R89. -/
  | drcpa (h : Hdr) (d : Reg) (a : Src)
  /-- DSQRT, R89. -/
  | dsqrt (h : Hdr) (d : Reg) (a : Src)
  /-- DDIV, R89. -/
  | ddiv (h : Hdr) (d : Reg) (a : Src) (b : Src)
  /-- HADD2, R90. -/
  | hadd2 (h : Hdr) (d : Reg) (a : Src) (b : Src)
  /-- HMUL2, R90. -/
  | hmul2 (h : Hdr) (d : Reg) (a : Src) (b : Src)
  /-- HFMA2, R90. -/
  | hfma2 (h : Hdr) (d : Reg) (a : Reg) (b : Reg) (c : Reg)
  /-- HMIN2, R90. -/
  | hmin2 (h : Hdr) (d : Reg) (a : Src) (b : Src)
  /-- HMAX2, R90. -/
  | hmax2 (h : Hdr) (d : Reg) (a : Src) (b : Src)
  /-- BADD2, R90. -/
  | badd2 (h : Hdr) (d : Reg) (a : Src) (b : Src)
  /-- BMUL2, R90. -/
  | bmul2 (h : Hdr) (d : Reg) (a : Src) (b : Src)
  /-- BFMA2, R90. -/
  | bfma2 (h : Hdr) (d : Reg) (a : Reg) (b : Reg) (c : Reg)
  /-- BMIN2, R90. -/
  | bmin2 (h : Hdr) (d : Reg) (a : Src) (b : Src)
  /-- BMAX2, R90. -/
  | bmax2 (h : Hdr) (d : Reg) (a : Src) (b : Src)
  /-- HDOT2, R90. -/
  | hdot2 (h : Hdr) (d : Reg) (a : Reg) (b : Reg) (c : Reg)
  /-- BDOT2, R90. -/
  | bdot2 (h : Hdr) (d : Reg) (a : Reg) (b : Reg) (c : Reg)
  /-- CVTIF, R91. -/
  | cvtif (h : Hdr) (d : Reg) (a : Src)
  /-- CVTUF, R91. -/
  | cvtuf (h : Hdr) (d : Reg) (a : Src)
  /-- CVTFI, R91. -/
  | cvtfi (h : Hdr) (d : Reg) (a : Src)
  /-- CVTFIN, R91. -/
  | cvtfin (h : Hdr) (d : Reg) (a : Src)
  /-- CVTFU, R91. -/
  | cvtfu (h : Hdr) (d : Reg) (a : Src)
  /-- CVTFD, R91. -/
  | cvtfd (h : Hdr) (d : Reg) (a : Src)
  /-- CVTDF, R91. -/
  | cvtdf (h : Hdr) (d : Reg) (a : Src)
  /-- CVTLD, R91. -/
  | cvtld (h : Hdr) (d : Reg) (a : Src)
  /-- CVTDL, R91. -/
  | cvtdl (h : Hdr) (d : Reg) (a : Src)
  /-- CVTFB2, R91. -/
  | cvtfb2 (h : Hdr) (d : Reg) (a : Src) (b : Src)
  /-- CVTFH2, R91. -/
  | cvtfh2 (h : Hdr) (d : Reg) (a : Src) (b : Src)
  /-- CVTBF, R91. -/
  | cvtbf (h : Hdr) (d : Reg) (a : Src)
  /-- CVTHF, R91. -/
  | cvthf (h : Hdr) (d : Reg) (a : Src)
  /-- CVTE4, R92. -/
  | cvte4 (h : Hdr) (d : Reg) (a : Reg)
  /-- CVTE5, R92. -/
  | cvte5 (h : Hdr) (d : Reg) (a : Reg)
  /-- CVTI8, R92. -/
  | cvti8 (h : Hdr) (d : Reg) (a : Reg)
  /-- CVTE4F, R92. -/
  | cvte4f (h : Hdr) (d : Reg) (a : Src)
  /-- CVTE5F, R92. -/
  | cvte5f (h : Hdr) (d : Reg) (a : Src)
  /-- CVTI8F, R92. -/
  | cvti8f (h : Hdr) (d : Reg) (a : Src)
  /-- CVTQ4F, R93. -/
  | cvtq4f (h : Hdr) (d : Reg) (a : Src) (b : Src)
  /-- QBLK, R96. -/
  | qblk (h : Hdr) (d : VReg) (a : VReg) (b : SSrc)
  /-- QBLKE4, R96. -/
  | qblke4 (h : Hdr) (d : VReg) (a : VReg) (b : SSrc)
  /-- QSWPH, R127. -/
  | qswph (h : Hdr) (d : VReg) (a : VReg)
  /-- QSWPV, R127. -/
  | qswpv (h : Hdr) (d : VReg) (a : VReg)
  /-- QSWPD, R127. -/
  | qswpd (h : Hdr) (d : VReg) (a : VReg)
  /-- QBRD, R127. -/
  | qbrd (h : Hdr) (d : VReg) (a : VReg) (i : Fin 4)
  /-- SHFL, R127. -/
  | shfl (h : Hdr) (d : VReg) (a : VReg) (b : Src)
  /-- SHFLUP, R127. -/
  | shflup (h : Hdr) (d : VReg) (a : VReg) (b : Src)
  /-- SHFLDN, R127. -/
  | shfldn (h : Hdr) (d : VReg) (a : VReg) (b : Src)
  /-- SHFLX, R127. -/
  | shflx (h : Hdr) (d : VReg) (a : VReg) (b : Src)
  /-- VOTEANY, R129. -/
  | voteany (h : Hdr) (d : PReg) (a : PReg)
  /-- VOTEALL, R129. -/
  | voteall (h : Hdr) (d : PReg) (a : PReg)
  /-- BALLOT, R129. -/
  | ballot (h : Hdr) (d : Reg) (a : PReg)
  /-- MATCH, R129. -/
  | matchLanes (h : Hdr) (d : VReg) (a : VReg)
  /-- GSUMI, R131. -/
  | gsumi (h : Hdr) (d : Reg) (a : VReg)
  /-- GSUMF, R132. -/
  | gsumf (h : Hdr) (d : Reg) (a : VReg)
  /-- GMINI, R131. -/
  | gmini (h : Hdr) (d : Reg) (a : VReg)
  /-- GMAXI, R131. -/
  | gmaxi (h : Hdr) (d : Reg) (a : VReg)
  /-- GMINF, R131. -/
  | gminf (h : Hdr) (d : Reg) (a : VReg)
  /-- GMAXF, R131. -/
  | gmaxf (h : Hdr) (d : Reg) (a : VReg)
  /-- GSCANI, R131. -/
  | gscani (h : Hdr) (d : VReg) (a : VReg)
  /-- GSCANF, R132. -/
  | gscanf (h : Hdr) (d : VReg) (a : VReg)
  /-- ISECT, R133. -/
  | isect (h : Hdr) (d : VReg) (a : VReg) (b : VReg)
  /-- ISECTADV, R133. -/
  | isectadv (h : Hdr) (d : Reg) (a : VReg) (b : VReg)
  /-- ISHELP, R133. -/
  | ishelp (h : Hdr) (d : VReg) (a : PReg)
  /-- GCNT, R129. -/
  | gcnt (h : Hdr) (d : Reg) (a : PReg)
  /-- LDS8U, R67. -/
  | lds8u (h : Hdr) (d : Reg) (a : Reg) (disp : Word)
  /-- LDS8S, R67. -/
  | lds8s (h : Hdr) (d : Reg) (a : Reg) (disp : Word)
  /-- LDS16U, R67. -/
  | lds16u (h : Hdr) (d : Reg) (a : Reg) (disp : Word)
  /-- LDS16S, R67. -/
  | lds16s (h : Hdr) (d : Reg) (a : Reg) (disp : Word)
  /-- LDS32, R67. -/
  | lds32 (h : Hdr) (d : Reg) (a : Reg) (disp : Word)
  /-- LDS64, R67. -/
  | lds64 (h : Hdr) (d : Reg) (a : Reg) (disp : Word)
  /-- LDS128, R67. -/
  | lds128 (h : Hdr) (d : Reg) (a : Reg) (disp : Word)
  /-- STS8, R67. -/
  | sts8 (h : Hdr) (a : Reg) (b : Reg) (disp : Word)
  /-- STS16, R67. -/
  | sts16 (h : Hdr) (a : Reg) (b : Reg) (disp : Word)
  /-- STS32, R67. -/
  | sts32 (h : Hdr) (a : Reg) (b : Reg) (disp : Word)
  /-- STS64, R67. -/
  | sts64 (h : Hdr) (a : Reg) (b : Reg) (disp : Word)
  /-- STS128, R67. -/
  | sts128 (h : Hdr) (a : Reg) (b : Reg) (disp : Word)
  /-- LDSH, R68. -/
  | ldsh (h : Hdr) (d : Reg) (a : Reg) (disp : Word)
  /-- STSH, R68. -/
  | stsh (h : Hdr) (a : Reg) (b : Reg) (disp : Word)
  /-- SAADD, R192. -/
  | saadd (h : Hdr) (d : VReg) (a : Reg) (b : Reg) (disp : Word)
  /-- SACAS, R192. -/
  | sacas (h : Hdr) (d : VReg) (a : Reg) (b : Reg) (disp : Word)
  /-- SAFADD, R192. -/
  | safadd (h : Hdr) (d : VReg) (a : Reg) (b : Reg) (disp : Word)
  /-- LD8U, R70. -/
  | ld8u (h : Hdr) (d : Reg) (a : Reg) (disp : Word)
  /-- LD8S, R70. -/
  | ld8s (h : Hdr) (d : Reg) (a : Reg) (disp : Word)
  /-- LD16U, R70. -/
  | ld16u (h : Hdr) (d : Reg) (a : Reg) (disp : Word)
  /-- LD16S, R70. -/
  | ld16s (h : Hdr) (d : Reg) (a : Reg) (disp : Word)
  /-- LD32, R70. -/
  | ld32 (h : Hdr) (d : Reg) (a : Reg) (disp : Word)
  /-- LD64, R70. -/
  | ld64 (h : Hdr) (d : Reg) (a : Reg) (disp : Word)
  /-- LD128, R70. -/
  | ld128 (h : Hdr) (d : Reg) (a : Reg) (disp : Word)
  /-- ST8, R71. -/
  | st8 (h : Hdr) (a : Reg) (b : Reg) (disp : Word)
  /-- ST16, R71. -/
  | st16 (h : Hdr) (a : Reg) (b : Reg) (disp : Word)
  /-- ST32, R71. -/
  | st32 (h : Hdr) (a : Reg) (b : Reg) (disp : Word)
  /-- ST64, R71. -/
  | st64 (h : Hdr) (a : Reg) (b : Reg) (disp : Word)
  /-- ST128, R71. -/
  | st128 (h : Hdr) (a : Reg) (b : Reg) (disp : Word)
  /-- LDACQ32, R184. -/
  | ldacq32 (h : Hdr) (d : Reg) (a : Reg) (disp : Word)
  /-- LDACQ64, R184. -/
  | ldacq64 (h : Hdr) (d : Reg) (a : Reg) (disp : Word)
  /-- STREL32, R184. -/
  | strel32 (h : Hdr) (a : Reg) (b : Reg) (disp : Word)
  /-- STREL64, R184. -/
  | strel64 (h : Hdr) (a : Reg) (b : Reg) (disp : Word)
  /-- GATH32, R185. -/
  | gath32 (h : Hdr) (d : VReg) (a : Reg) (disp : Word)
  /-- GATH64, R185. -/
  | gath64 (h : Hdr) (d : VReg) (a : Reg) (disp : Word)
  /-- SCAT32, R185. -/
  | scat32 (h : Hdr) (a : Reg) (b : Reg) (disp : Word)
  /-- SCAT64, R185. -/
  | scat64 (h : Hdr) (a : Reg) (b : Reg) (disp : Word)
  /-- PREF, R186. -/
  | pref (h : Hdr) (a : Reg) (disp : Word)
  /-- LDLU32, R186. -/
  | ldlu32 (h : Hdr) (d : Reg) (a : Reg) (disp : Word)
  /-- DISC, R187. -/
  | disc (h : Hdr) (a : Reg) (disp : Word)
  /-- PUTS, R341. -/
  | puts (h : Hdr) (a : Reg) (b : Reg) (sc : SReg)
  /-- AADD32, R189. -/
  | aadd32 (h : Hdr) (d : VReg) (a : Reg) (b : Reg) (disp : Word)
  /-- AADD64, R189. -/
  | aadd64 (h : Hdr) (d : VReg) (a : Reg) (b : Reg) (disp : Word)
  /-- AMINS32, R189. -/
  | amins32 (h : Hdr) (d : VReg) (a : Reg) (b : Reg) (disp : Word)
  /-- AMAXS32, R189. -/
  | amaxs32 (h : Hdr) (d : VReg) (a : Reg) (b : Reg) (disp : Word)
  /-- AMINU32, R189. -/
  | aminu32 (h : Hdr) (d : VReg) (a : Reg) (b : Reg) (disp : Word)
  /-- AMAXU32, R189. -/
  | amaxu32 (h : Hdr) (d : VReg) (a : Reg) (b : Reg) (disp : Word)
  /-- AAND32, R189. -/
  | aand32 (h : Hdr) (d : VReg) (a : Reg) (b : Reg) (disp : Word)
  /-- AOR32, R189. -/
  | aor32 (h : Hdr) (d : VReg) (a : Reg) (b : Reg) (disp : Word)
  /-- AXOR32, R189. -/
  | axor32 (h : Hdr) (d : VReg) (a : Reg) (b : Reg) (disp : Word)
  /-- AXCH32, R189. -/
  | axch32 (h : Hdr) (d : VReg) (a : Reg) (b : Reg) (disp : Word)
  /-- AXCH64, R189. -/
  | axch64 (h : Hdr) (d : VReg) (a : Reg) (b : Reg) (disp : Word)
  /-- ACAS32, R189. -/
  | acas32 (h : Hdr) (d : VReg) (a : Reg) (b : Reg) (disp : Word)
  /-- ACAS64, R189. -/
  | acas64 (h : Hdr) (d : VReg) (a : Reg) (b : Reg) (disp : Word)
  /-- ACAS128, R189. -/
  | acas128 (h : Hdr) (d : VReg) (a : Reg) (b : Reg) (disp : Word)
  /-- AFADDB, R189. -/
  | afaddb (h : Hdr) (d : VReg) (a : Reg) (b : Reg) (disp : Word)
  /-- AFADDF, R189. -/
  | afaddf (h : Hdr) (d : VReg) (a : Reg) (b : Reg) (disp : Word)
  /-- AFADDD, R189. -/
  | afaddd (h : Hdr) (d : VReg) (a : Reg) (b : Reg) (disp : Word)
  /-- AFMINB, R189. -/
  | afminb (h : Hdr) (d : VReg) (a : Reg) (b : Reg) (disp : Word)
  /-- AFMAXB, R189. -/
  | afmaxb (h : Hdr) (d : VReg) (a : Reg) (b : Reg) (disp : Word)
  /-- AFMINF, R189. -/
  | afminf (h : Hdr) (d : VReg) (a : Reg) (b : Reg) (disp : Word)
  /-- AFMAXF, R189. -/
  | afmaxf (h : Hdr) (d : VReg) (a : Reg) (b : Reg) (disp : Word)
  /-- AFMIND, R189. -/
  | afmind (h : Hdr) (d : VReg) (a : Reg) (b : Reg) (disp : Word)
  /-- AFMAXD, R189. -/
  | afmaxd (h : Hdr) (d : VReg) (a : Reg) (b : Reg) (disp : Word)
  /-- AFADDB2, R189. -/
  | afaddb2 (h : Hdr) (d : VReg) (a : Reg) (b : Reg) (disp : Word)
  /-- AFADDF2, R189. -/
  | afaddf2 (h : Hdr) (d : VReg) (a : Reg) (b : Reg) (disp : Word)
  /-- NADD32, R189. -/
  | nadd32 (h : Hdr) (a : Reg) (b : Reg) (disp : Word)
  /-- NADD64, R189. -/
  | nadd64 (h : Hdr) (a : Reg) (b : Reg) (disp : Word)
  /-- NFADDB, R189. -/
  | nfaddb (h : Hdr) (a : Reg) (b : Reg) (disp : Word)
  /-- NFADDF, R189. -/
  | nfaddf (h : Hdr) (a : Reg) (b : Reg) (disp : Word)
  /-- NFADDD, R189. -/
  | nfaddd (h : Hdr) (a : Reg) (b : Reg) (disp : Word)
  /-- NFADDB2, R189. -/
  | nfaddb2 (h : Hdr) (a : Reg) (b : Reg) (disp : Word)
  /-- NFADDF2, R189. -/
  | nfaddf2 (h : Hdr) (a : Reg) (b : Reg) (disp : Word)
  /-- NFMINF, R189. -/
  | nfminf (h : Hdr) (a : Reg) (b : Reg) (disp : Word)
  /-- NFMAXF, R189. -/
  | nfmaxf (h : Hdr) (a : Reg) (b : Reg) (disp : Word)
  /-- NOR32, R189. -/
  | nor32 (h : Hdr) (a : Reg) (b : Reg) (disp : Word)
  /-- QCALL, R197. -/
  | qcall (h : Hdr) (d : VReg) (a : Reg) (b : Reg) (cls : Fin 256) (m : Fin 4)
  /-- QCALLA, R197. -/
  | qcalla (h : Hdr) (d : VReg) (a : Reg) (b : Reg) (cls : Fin 256) (m : Fin 4)
  /-- QCALLN, R197. -/
  | qcalln (h : Hdr) (a : Reg) (b : Reg) (cls : Fin 256) (m : Fin 4)
  /-- LDO, R204. -/
  | ldo (h : Hdr) (d : Reg) (a : Reg) (disp : Word)
  /-- STO, R204. -/
  | sto (h : Hdr) (a : Reg) (b : Reg) (disp : Word)
  /-- QRET, R204. -/
  | qret (h : Hdr) (b : VReg)
  /-- BARA, R142. -/
  | bara (h : Hdr) (d : Reg) (bar : Bar)
  /-- BARW, R142. -/
  | barw (h : Hdr) (a : Reg) (bar : Bar)
  /-- BARS, R142. -/
  | bars (h : Hdr) (bar : Bar)
  /-- BARX, R142. -/
  | barx (h : Hdr) (sa : SReg) (bar : Bar)
  /-- FENCE, R182. -/
  | fence (h : Hdr)
  /-- FENCEX, R178. -/
  | fencex (h : Hdr) (x : Path) (y : Path)
  /-- MARM, R183. -/
  | marm (h : Hdr) (a : Reg) (disp : Word)
  /-- MWAIT, R183. -/
  | mwait (h : Hdr) (d : PReg) (b : Reg) (cond : Fin 4) (budget : BitVec 24)
  /-- CVSET, R241. -/
  | cvset (h : Hdr) (c : CReg) (a : SSrc)
  /-- SIGN, R241. -/
  | sign (h : Hdr) (c : CReg)
  /-- SIGNW, R241. -/
  | signw (h : Hdr) (d : PReg) (c : CReg)
  /-- MXACQ, R236. -/
  | mxacq (h : Hdr) (d : PReg)
  /-- MXREL, R236. -/
  | mxrel (h : Hdr)
  /-- MMABF, R242. -/
  | mmabf (h : Hdr) (d : BReg) (a : ASrc) (c : CReg) (hb : HReg) (kq : Fin 4) (ms : Fin 8) (ns : Fin 8)
  /-- MMAHF, R242. -/
  | mmahf (h : Hdr) (d : BReg) (a : ASrc) (c : CReg) (hb : HReg) (kq : Fin 4) (ms : Fin 8) (ns : Fin 8)
  /-- MMAE4, R242. -/
  | mmae4 (h : Hdr) (d : BReg) (a : ASrc) (c : CReg) (hb : HReg) (kq : Fin 4) (ms : Fin 8) (ns : Fin 8)
  /-- MMAE5, R242. -/
  | mmae5 (h : Hdr) (d : BReg) (a : ASrc) (c : CReg) (hb : HReg) (kq : Fin 4) (ms : Fin 8) (ns : Fin 8)
  /-- MMAE45, R242. -/
  | mmae45 (h : Hdr) (d : BReg) (a : ASrc) (c : CReg) (hb : HReg) (kq : Fin 4) (ms : Fin 8) (ns : Fin 8)
  /-- MMAI8, R242. -/
  | mmai8 (h : Hdr) (d : BReg) (a : ASrc) (c : CReg) (hb : HReg) (kq : Fin 4) (ms : Fin 8) (ns : Fin 8)
  /-- MMAQ4, R242. -/
  | mmaq4 (h : Hdr) (d : BReg) (a : ASrc) (c : CReg) (hb : HReg) (kq : Fin 4) (ms : Fin 8) (ns : Fin 8)
  /-- MMAF64, R242. -/
  | mmaf64 (h : Hdr) (d : BReg) (a : ASrc) (c : CReg) (hb : HReg) (kq : Fin 4) (ms : Fin 8) (ns : Fin 8)
  /-- MMASE4, R242. -/
  | mmase4 (h : Hdr) (d : BReg) (a : ASrc) (c : CReg) (hb : HReg) (kq : Fin 4) (ms : Fin 8) (ns : Fin 8) (hx : HReg)
  /-- MMASI8, R242. -/
  | mmasi8 (h : Hdr) (d : BReg) (a : ASrc) (c : CReg) (hb : HReg) (kq : Fin 4) (ms : Fin 8) (ns : Fin 8) (hx : HReg)
  /-- MMAJBF, R254. -/
  | mmajbf (h : Hdr) (d : BReg) (a : HReg) (c : CReg) (hb : HReg) (ms : Fin 8) (ns : Fin 8)
  /-- MMAJE4, R254. -/
  | mmaje4 (h : Hdr) (d : BReg) (a : HReg) (c : CReg) (hb : HReg) (ms : Fin 8) (ns : Fin 8)
  /-- MMAGBF, R255. -/
  | mmagbf (h : Hdr) (d : BReg) (a : HReg) (c : CReg) (hb : HReg) (gn : Fin 4) (ms : Fin 8) (ns : Fin 8) (hx : HReg)
  /-- MMAGE4, R255. -/
  | mmage4 (h : Hdr) (d : BReg) (a : HReg) (c : CReg) (hb : HReg) (gn : Fin 4) (ms : Fin 8) (ns : Fin 8) (hx : HReg)
  /-- BZERO, R246. -/
  | bzero (h : Hdr) (b : BReg)
  /-- BRD, R246. -/
  | brd (h : Hdr) (d : VReg) (b : BReg) (x : Src)
  /-- BWR, R248. -/
  | bwr (h : Hdr) (b : BReg) (sb : SReg) (k : KId) (ms : Fin 8) (ns : Fin 8) (bar : Option Bar)
  /-- BGIVE, R246. -/
  | bgive (h : Hdr) (b : BReg) (x : SSrc)
  /-- BCLAIM, R246. -/
  | bclaim (h : Hdr) (d : PReg) (b : BReg)
  /-- BFREE, R246. -/
  | bfree (h : Hdr) (b : BReg)
  /-- BSTAT, R247. -/
  | bstat (h : Hdr) (d : Reg) (b : BReg)
  /-- SPRN8, R256. -/
  | sprn8 (h : Hdr) (d : VReg) (a : VReg)
  /-- SPRN4E, R256. -/
  | sprn4e (h : Hdr) (d : VReg) (a : VReg)
  /-- QPUSH, R213. -/
  | qpush (h : Hdr) (q : QReg) (a : SSrc)
  /-- QPOP, R213. -/
  | qpop (h : Hdr) (d : Reg) (q : QReg)
  /-- QTRY, R213. -/
  | qtry (h : Hdr) (d : Reg) (q : QReg)
  /-- TDEF, R227. -/
  | tdef (h : Hdr) (t : HReg) (sa : SReg) (sb : SReg) (ready : Bool)
  /-- TSTAT, R227. -/
  | tstat (h : Hdr) (d : Reg) (t : HReg)
  /-- TFREE, R226. -/
  | tfree (h : Hdr) (t : HReg)
  /-- TWAIT, R227. -/
  | twait (h : Hdr) (t : HReg)
  /-- KDEF, R216. -/
  | kdef (h : Hdr) (sa : SReg) (k : KId)
  /-- KREL, R216. -/
  | krel (h : Hdr) (k : KId)
  /-- EVROUTE, R229. -/
  | evroute (h : Hdr) (e : Fin 16) (g : Fin 16) (en : Bool)
  /-- EVWAIT, R229. -/
  | evwait (h : Hdr) (g : Fin 4)
  /-- EVPOST, R229. -/
  | evpost (h : Hdr) (e : Fin 6)
  /-- LAUNCH, R280. -/
  | launch (h : Hdr) (d : SReg) (sa : SReg) (disp : Word)
  /-- EMIT, R279. -/
  | emit (h : Hdr) (d : PReg) (a : Reg) (node : Fin 256)
  /-- EMITW, R279. -/
  | emitw (h : Hdr) (a : Reg) (node : Fin 256)
  /-- PIPEW, R270. -/
  | pipew (h : Hdr) (n : NReg) (a : VReg)
  /-- PIPER, R270. -/
  | piper (h : Hdr) (d : VReg) (n : NReg)
  /-- PIPETRY, R270. -/
  | pipetry (h : Hdr) (d : VReg) (n : NReg)
  /-- SRD, R302. -/
  | srd (h : Hdr) (d : Reg) (num : SpecReg)
  /-- SWR, R302. -/
  | swr (h : Hdr) (hi : Bool) (a : Reg)
  /-- KEYW, R303. -/
  | keyw (h : Hdr) (sa : SReg)
  /-- KEYR, R304. -/
  | keyr (h : Hdr) (d : Reg) (a : Reg) (disp : Word)
  /-- ERET, R292. -/
  | eret (h : Hdr)
  /-- TRPV, R293. -/
  | trpv (h : Hdr) (a : Reg) (i : Fin 4)
  /-- TLBINV, R305. -/
  | tlbinv (h : Hdr) (sa : SReg) (b : SSrc)
  /-- CACHEWB, R305. -/
  | cachewb (h : Hdr) (sa : SReg) (b : SSrc)
  /-- CACHEINV, R305. -/
  | cacheinv (h : Hdr) (sa : SReg) (b : SSrc)
  /-- QREG, R195. -/
  | qreg (h : Hdr) (d : SReg) (sa : SReg) (cls : Fin 256)
  /-- QDEREG, R195. -/
  | qdereg (h : Hdr) (d : SReg) (cls : Fin 256)
  deriving DecidableEq, Repr

end Sys2Proof
end

