-- ==== Sys2Proof/WellFormed.lean ====
section
/-! DEFINITION. Which instructions are well formed: the alignment of pairs and quads (R9, R30), one immediate for
both sources (R31), the scopes and the forbidden values that the instruction descriptions name. An event is well
formed as it stands; whether it may occur is a matter of the state. -/

namespace Sys2Proof

/-- A register that starts `w` registers is aligned to `w` (R9, R30). -/
def Reg.aligned (w : Nat) : Reg → Bool
  | .v n => n.val % w == 0
  | .s n => n.val % w == 0

/-- As `Reg.aligned`; an immediate needs no alignment. -/
def Src.aligned (w : Nat) : Src → Bool
  | .v n => n.val % w == 0
  | .s n => n.val % w == 0
  | .imm _ => true

/-- The value that IMM carries for a source, if it is class I (R31). -/
def Src.immVal? : Src → Option Word
  | .imm w => some w
  | _ => none

/-- If both sources hold class I they receive one value (R31). -/
def Src.agree (a b : Src) : Bool :=
  match a.immVal?, b.immVal? with
  | some x, some y => x == y
  | _, _ => true

/-- A scalar pair is even (R30). -/
def SReg.even (n : SReg) : Bool := n.val % 2 == 0

/-- A vector pair or quad is aligned (R30). -/
def VReg.aligned (w : Nat) (n : VReg) : Bool := n.val % w == 0

/-- The A operand of an MMA form: a pair when it is an address (R235). -/
def ASrc.aligned : ASrc → Bool
  | .tile _ => true
  | .glob s => s.val % 2 == 0

/-- Team-scope convergence registers are c0 to c7 (R239). -/
def CReg.team (c : CReg) : Bool := c.val < 8

/-- The instruction could have come from a word that passes the static decode checks of R37. -/
def Instr.wellFormed : Instr → Bool
  | .nop _ => true
  | .bra _ _ => true
  | .jmpx _ a => a.aligned 2
  | .call _ _ => true
  | .callx _ a => a.aligned 2
  | .ret _ => true
  | .rvset _ _ _ _ => true
  | .rvwait _ _ => true
  | .exit _ => true
  | .yield _ => true
  | .trap _ _ => true
  | .bkpt _ _ => true
  | .mov _ _ _ => true
  | .movi _ _ _ => true
  | .iadd _ _ a b => Src.agree a b
  | .isub _ _ a b => Src.agree a b
  | .iadd64 _ d a b => d.aligned 2 && a.aligned 2 && b.aligned 2 && Src.agree a b
  | .isub64 _ d a b => d.aligned 2 && a.aligned 2 && b.aligned 2 && Src.agree a b
  | .imul _ _ a b => Src.agree a b
  | .imulhs _ _ a b => Src.agree a b
  | .imulhu _ _ a b => Src.agree a b
  | .imad _ _ _ _ _ => true
  | .imadw _ d _ _ c => d.aligned 2 && c.aligned 2
  | .idivs _ _ a b => Src.agree a b
  | .idivu _ _ a b => Src.agree a b
  | .irems _ _ a b => Src.agree a b
  | .iremu _ _ a b => Src.agree a b
  | .imin _ _ a b => Src.agree a b
  | .imax _ _ a b => Src.agree a b
  | .umin _ _ a b => Src.agree a b
  | .umax _ _ a b => Src.agree a b
  | .iabs _ _ _ => true
  | .and _ _ a b => Src.agree a b
  | .or _ _ a b => Src.agree a b
  | .xor _ _ a b => Src.agree a b
  | .andn _ _ a b => Src.agree a b
  | .not _ _ _ => true
  | .shl _ _ a b => Src.agree a b
  | .shr _ _ a b => Src.agree a b
  | .sar _ _ a b => Src.agree a b
  | .rotl _ _ a b => Src.agree a b
  | .fshr _ _ _ _ _ => true
  | .clz _ _ _ => true
  | .popc _ _ _ => true
  | .brev _ _ _ => true
  | .bfxu _ _ a b => Src.agree a b
  | .bfxs _ _ a b => Src.agree a b
  | .bfi _ _ _ _ _ => true
  | .lea _ _ _ _ _ => true
  | .lea64 _ d a _ _ _ => d.aligned 2 && a.aligned 2
  | .sel _ _ _ _ _ => true
  | .icmpeq _ _ a b => Src.agree a b
  | .icmpne _ _ a b => Src.agree a b
  | .icmplt _ _ a b => Src.agree a b
  | .icmple _ _ a b => Src.agree a b
  | .ucmplt _ _ a b => Src.agree a b
  | .ucmple _ _ a b => Src.agree a b
  | .icmpeq64 _ _ a b => a.aligned 2 && b.aligned 2 && Src.agree a b
  | .ucmplt64 _ _ a b => a.aligned 2 && b.aligned 2 && Src.agree a b
  | .pand _ _ _ _ => true
  | .por _ _ _ _ => true
  | .pxor _ _ _ _ => true
  | .pnot _ _ _ => true
  | .p2v _ _ => true
  | .v2p _ _ _ => true
  | .fadd _ _ a b => Src.agree a b
  | .fsub _ _ a b => Src.agree a b
  | .fmul _ _ a b => Src.agree a b
  | .ffma _ _ _ _ _ => true
  | .fmin _ _ a b => Src.agree a b
  | .fmax _ _ a b => Src.agree a b
  | .fabs _ _ _ => true
  | .fneg _ _ _ => true
  | .fcmpeq _ _ a b => Src.agree a b
  | .fcmplt _ _ a b => Src.agree a b
  | .fcmple _ _ a b => Src.agree a b
  | .fcmpun _ _ a b => Src.agree a b
  | .frcp _ _ _ => true
  | .frsq _ _ _ => true
  | .fsqrt _ _ _ => true
  | .fexp2 _ _ _ => true
  | .flog2 _ _ _ => true
  | .fsin _ _ _ => true
  | .fcos _ _ _ => true
  | .ftanh _ _ _ => true
  | .fsig _ _ _ => true
  | .fclass _ _ _ => true
  | .dadd _ d a b => d.aligned 2 && a.aligned 2 && b.aligned 2 && Src.agree a b
  | .dsub _ d a b => d.aligned 2 && a.aligned 2 && b.aligned 2 && Src.agree a b
  | .dmul _ d a b => d.aligned 2 && a.aligned 2 && b.aligned 2 && Src.agree a b
  | .dfma _ d a b c => d.aligned 2 && a.aligned 2 && b.aligned 2 && c.aligned 2
  | .dmin _ d a b => d.aligned 2 && a.aligned 2 && b.aligned 2 && Src.agree a b
  | .dmax _ d a b => d.aligned 2 && a.aligned 2 && b.aligned 2 && Src.agree a b
  | .dcmpeq _ _ a b => a.aligned 2 && b.aligned 2 && Src.agree a b
  | .dcmplt _ _ a b => a.aligned 2 && b.aligned 2 && Src.agree a b
  | .dcmple _ _ a b => a.aligned 2 && b.aligned 2 && Src.agree a b
  | .dcmpun _ _ a b => a.aligned 2 && b.aligned 2 && Src.agree a b
  | .drcpa _ d a => d.aligned 2 && a.aligned 2
  | .dsqrt _ d a => d.aligned 2 && a.aligned 2
  | .ddiv _ d a b => d.aligned 2 && a.aligned 2 && b.aligned 2 && Src.agree a b
  | .hadd2 _ _ a b => Src.agree a b
  | .hmul2 _ _ a b => Src.agree a b
  | .hfma2 _ _ _ _ _ => true
  | .hmin2 _ _ a b => Src.agree a b
  | .hmax2 _ _ a b => Src.agree a b
  | .badd2 _ _ a b => Src.agree a b
  | .bmul2 _ _ a b => Src.agree a b
  | .bfma2 _ _ _ _ _ => true
  | .bmin2 _ _ a b => Src.agree a b
  | .bmax2 _ _ a b => Src.agree a b
  | .hdot2 _ _ _ _ _ => true
  | .bdot2 _ _ _ _ _ => true
  | .cvtif _ _ _ => true
  | .cvtuf _ _ _ => true
  | .cvtfi _ _ _ => true
  | .cvtfin _ _ _ => true
  | .cvtfu _ _ _ => true
  | .cvtfd _ d _ => d.aligned 2
  | .cvtdf _ _ a => a.aligned 2
  | .cvtld _ d a => d.aligned 2 && a.aligned 2
  | .cvtdl _ d a => d.aligned 2 && a.aligned 2
  | .cvtfb2 _ _ a b => Src.agree a b
  | .cvtfh2 _ _ a b => Src.agree a b
  | .cvtbf _ d _ => d.aligned 2
  | .cvthf _ d _ => d.aligned 2
  | .cvte4 _ _ a => a.aligned 4
  | .cvte5 _ _ a => a.aligned 4
  | .cvti8 _ _ a => a.aligned 4
  | .cvte4f _ d _ => d.aligned 4
  | .cvte5f _ d _ => d.aligned 4
  | .cvti8f _ d _ => d.aligned 4
  | .cvtq4f _ d a b => d.aligned 4 && Src.agree a b
  | .qblk _ _ a _ => VReg.aligned 2 a
  | .qblke4 _ _ a _ => VReg.aligned 2 a
  | .qswph _ _ _ => true
  | .qswpv _ _ _ => true
  | .qswpd _ _ _ => true
  | .qbrd _ _ _ _ => true
  | .shfl _ _ _ _ => true
  | .shflup _ _ _ _ => true
  | .shfldn _ _ _ _ => true
  | .shflx _ _ _ _ => true
  | .voteany _ _ _ => true
  | .voteall _ _ _ => true
  | .ballot _ _ _ => true
  | .matchLanes _ _ _ => true
  | .gsumi _ _ _ => true
  | .gsumf _ _ _ => true
  | .gmini _ _ _ => true
  | .gmaxi _ _ _ => true
  | .gminf _ _ _ => true
  | .gmaxf _ _ _ => true
  | .gscani _ _ _ => true
  | .gscanf _ _ _ => true
  | .isect _ _ _ _ => true
  | .isectadv _ _ _ _ => true
  | .ishelp _ _ _ => true
  | .gcnt _ _ _ => true
  | .lds8u _ _ _ _ => true
  | .lds8s _ _ _ _ => true
  | .lds16u _ _ _ _ => true
  | .lds16s _ _ _ _ => true
  | .lds32 _ _ _ _ => true
  | .lds64 _ d _ _ => d.aligned 2
  | .lds128 _ d _ _ => d.aligned 4
  | .sts8 _ _ _ _ => true
  | .sts16 _ _ _ _ => true
  | .sts32 _ _ _ _ => true
  | .sts64 _ _ b _ => b.aligned 2
  | .sts128 _ _ b _ => b.aligned 4
  | .ldsh _ _ _ _ => true
  | .stsh _ _ _ _ => true
  | .saadd _ _ _ _ _ => true
  | .sacas _ _ _ _ _ => true
  | .safadd _ _ _ _ _ => true
  | .ld8u _ _ a _ => a.aligned 2
  | .ld8s _ _ a _ => a.aligned 2
  | .ld16u _ _ a _ => a.aligned 2
  | .ld16s _ _ a _ => a.aligned 2
  | .ld32 _ _ a _ => a.aligned 2
  | .ld64 _ d a _ => d.aligned 2 && a.aligned 2
  | .ld128 _ d a _ => d.aligned 4 && a.aligned 2
  | .st8 _ a _ _ => a.aligned 2
  | .st16 _ a _ _ => a.aligned 2
  | .st32 _ a _ _ => a.aligned 2
  | .st64 _ a b _ => a.aligned 2 && b.aligned 2
  | .st128 _ a b _ => a.aligned 2 && b.aligned 4
  | .ldacq32 _ _ a _ => a.aligned 2
  | .ldacq64 _ d a _ => d.aligned 2 && a.aligned 2
  | .strel32 _ a _ _ => a.aligned 2
  | .strel64 _ a b _ => a.aligned 2 && b.aligned 2
  | .gath32 _ _ a _ => a.aligned 2
  | .gath64 _ d a _ => VReg.aligned 2 d && a.aligned 2
  | .scat32 _ a _ _ => a.aligned 2
  | .scat64 _ a b _ => a.aligned 2 && b.aligned 2
  | .pref _ a _ => a.aligned 2
  | .ldlu32 _ _ a _ => a.aligned 2
  | .disc _ a _ => a.aligned 2
  | .puts _ a b sc => a.aligned 2 && b.aligned 2 && SReg.even sc
  | .aadd32 _ _ a _ _ => a.aligned 2
  | .aadd64 _ d a b _ => VReg.aligned 2 d && a.aligned 2 && b.aligned 2
  | .amins32 _ _ a _ _ => a.aligned 2
  | .amaxs32 _ _ a _ _ => a.aligned 2
  | .aminu32 _ _ a _ _ => a.aligned 2
  | .amaxu32 _ _ a _ _ => a.aligned 2
  | .aand32 _ _ a _ _ => a.aligned 2
  | .aor32 _ _ a _ _ => a.aligned 2
  | .axor32 _ _ a _ _ => a.aligned 2
  | .axch32 _ _ a _ _ => a.aligned 2
  | .axch64 _ d a b _ => VReg.aligned 2 d && a.aligned 2 && b.aligned 2
  | .acas32 _ _ a _ _ => a.aligned 2
  | .acas64 _ d a b _ => VReg.aligned 2 d && a.aligned 2 && b.aligned 2
  | .acas128 _ d a b _ => VReg.aligned 4 d && a.aligned 2 && b.aligned 4
  | .afaddb _ _ a _ _ => a.aligned 2
  | .afaddf _ _ a _ _ => a.aligned 2
  | .afaddd _ d a b _ => VReg.aligned 2 d && a.aligned 2 && b.aligned 2
  | .afminb _ _ a _ _ => a.aligned 2
  | .afmaxb _ _ a _ _ => a.aligned 2
  | .afminf _ _ a _ _ => a.aligned 2
  | .afmaxf _ _ a _ _ => a.aligned 2
  | .afmind _ d a b _ => VReg.aligned 2 d && a.aligned 2 && b.aligned 2
  | .afmaxd _ d a b _ => VReg.aligned 2 d && a.aligned 2 && b.aligned 2
  | .afaddb2 _ _ a _ _ => a.aligned 2
  | .afaddf2 _ d a b _ => VReg.aligned 2 d && a.aligned 2 && b.aligned 2
  | .nadd32 _ a _ _ => a.aligned 2
  | .nadd64 _ a b _ => a.aligned 2 && b.aligned 2
  | .nfaddb _ a _ _ => a.aligned 2
  | .nfaddf _ a _ _ => a.aligned 2
  | .nfaddd _ a b _ => a.aligned 2 && b.aligned 2
  | .nfaddb2 _ a _ _ => a.aligned 2
  | .nfaddf2 _ a b _ => a.aligned 2 && b.aligned 2
  | .nfminf _ a _ _ => a.aligned 2
  | .nfmaxf _ a _ _ => a.aligned 2
  | .nor32 _ a _ _ => a.aligned 2
  | .qcall _ d a b cls _ => VReg.aligned 2 d && a.aligned 2 && b.aligned 2 && cls != 0
  | .qcalla _ d a b cls _ => VReg.aligned 2 d && a.aligned 2 && b.aligned 2 && cls != 0
  | .qcalln _ a b cls _ => a.aligned 2 && b.aligned 2 && cls != 0
  | .ldo _ _ _ _ => true
  | .sto _ _ _ _ => true
  | .qret _ b => VReg.aligned 2 b
  | .bara _ _ _ => true
  | .barw _ _ _ => true
  | .bars _ _ => true
  | .barx _ _ _ => true
  | .fence _ => true
  | .fencex _ x y => x != y
  | .marm _ a _ => a.aligned 2
  | .mwait _ _ b _ _ => b.aligned 2
  | .cvset _ _ _ => true
  | .sign _ _ => true
  | .signw _ _ _ => true
  | .mxacq _ _ => true
  | .mxrel _ => true
  | .mmabf _ _ a c hb kq _ _ => a.aligned && CReg.team c && decide (hb.val + kq.val < 64)
  | .mmahf _ _ a c hb kq _ _ => a.aligned && CReg.team c && decide (hb.val + kq.val < 64)
  | .mmae4 _ _ a c hb kq _ _ => a.aligned && CReg.team c && decide (hb.val + kq.val < 64)
  | .mmae5 _ _ a c hb kq _ _ => a.aligned && CReg.team c && decide (hb.val + kq.val < 64)
  | .mmae45 _ _ a c hb kq _ _ => a.aligned && CReg.team c && decide (hb.val + kq.val < 64)
  | .mmai8 _ _ a c hb kq _ _ => a.aligned && CReg.team c && decide (hb.val + kq.val < 64)
  | .mmaq4 _ _ a c hb kq _ _ => a.aligned && CReg.team c && decide (hb.val + kq.val < 64)
  | .mmaf64 _ d a c hb kq _ _ => a.aligned && CReg.team c && decide (hb.val + kq.val < 64) && d.val % 2 == 0
  | .mmase4 _ _ a c hb kq _ _ _ => a.aligned && CReg.team c && decide (hb.val + kq.val < 64)
  | .mmasi8 _ _ a c hb kq _ _ _ => a.aligned && CReg.team c && decide (hb.val + kq.val < 64)
  | .mmajbf _ _ _ c _ _ _ => !CReg.team c
  | .mmaje4 _ _ _ c _ _ _ => !CReg.team c
  | .mmagbf _ _ _ c hb gn _ _ _ => CReg.team c && decide (hb.val + 4 * gn.val + 3 < 64)
  | .mmage4 _ _ _ c hb gn _ _ _ => CReg.team c && decide (hb.val + 4 * gn.val + 3 < 64)
  | .bzero _ _ => true
  | .brd _ _ _ _ => true
  | .bwr _ _ sb _ _ _ _ => SReg.even sb
  | .bgive _ _ _ => true
  | .bclaim _ _ _ => true
  | .bfree _ _ => true
  | .bstat _ _ _ => true
  | .sprn8 _ d a => VReg.aligned 2 d && VReg.aligned 2 a
  | .sprn4e _ d a => VReg.aligned 2 d && VReg.aligned 2 a
  | .qpush _ _ _ => true
  | .qpop _ _ _ => true
  | .qtry _ d _ => d.aligned 2
  | .tdef _ _ _ _ _ => true
  | .tstat _ _ _ => true
  | .tfree _ _ => true
  | .twait _ _ => true
  | .kdef _ sa _ => SReg.even sa
  | .krel _ _ => true
  | .evroute _ _ _ _ => true
  | .evwait _ _ => true
  | .evpost _ _ => true
  | .launch _ _ sa _ => SReg.even sa
  | .emit _ _ _ _ => true
  | .emitw _ _ _ => true
  | .pipew _ _ a => VReg.aligned 2 a
  | .piper _ d _ => VReg.aligned 2 d
  | .pipetry _ d _ => VReg.aligned 4 d
  | .srd _ _ _ => true
  | .swr _ _ _ => true
  | .keyw _ sa => SReg.even sa
  | .keyr _ _ a _ => a.aligned 2
  | .eret _ => true
  | .trpv _ _ _ => true
  | .tlbinv _ sa _ => SReg.even sa
  | .cachewb _ sa _ => SReg.even sa
  | .cacheinv _ sa _ => SReg.even sa
  | .qreg _ _ sa cls => SReg.even sa && cls != 0
  | .qdereg _ _ cls => cls != 0
  | .parkComplete _ => true
  | .variableResultReturn _ _ _ _ => true
  | .gathLaneArrival _ _ _ _ => true
  | .asyncRecordArrival _ => true
  | .faultReply _ _ _ => true
  | .zeroFill _ _ _ => true
  | .monitorWriteObserved _ _ => true
  | .mwaitBudgetExpiry _ _ => true
  | .storeRegistration _ => true
  | .homeAtomicPerform _ _ => true
  | .ackCountZero _ => true
  | .discardPerform _ => true
  | .quayRequestArrival _ => true
  | .quayWaveForm _ => true
  | .quayWaveEnd _ => true
  | .quayReply _ => true
  | .notify _ _ => true
  | .packetRead _ => true
  | .grid _ => true
  | .gang _ => true
  | .graph _ => true
  | .depend _ => true
  | .barrierAnd _ => true
  | .dependConditionHolds _ => true
  | .clusterPlacement _ _ => true
  | .teamStart _ => true
  | .teamRetire _ => true
  | .groupSwap _ _ _ => true
  | .agedDisplacement _ => true
  | .bundleSelect _ _ => true
  | .fallbackAdvance _ => true
  | .copy _ => true
  | .copyResume _ => true
  | .copyCancel _ => true
  | .copyStart _ _ _ => true
  | .copyComplete _ _ => true
  | .copyStop _ _ => true
  | .topk _ => true
  | .hist _ => true
  | .psum _ => true
  | .perm _ => true
  | .gateCommandComplete _ => true
  | .arrayBoundary _ => true
  | .mmaEnterQueue _ _ _ => true
  | .mmaComplete _ => true
  | .mmaFetchFault _ => true
  | .bwrComplete _ => true
  | .binCountTrigger _ _ _ _ => true
  | .binTimerExpiry _ _ _ => true
  | .seedEntry _ _ => true
  | .launchListStart _ => true
  | .rd _ _ _ _ _ _ => true
  | .wr _ _ _ _ _ _ _ => true
  | .rdr _ => true
  | .wack _ => true
  | .delta _ => true
  | .dack _ => true
  | .lock _ => true
  | .locked _ => true
  | .chunkrd _ => true
  | .chunk _ => true
  | .unlock _ => true
  | .stackLoss _ => true
  | .tierMigration _ _ _ _ => true
  | .save _ _ => true
  | .contextEvict _ => true
  | .createContext => true
  | .destroyContext => true
  | .createQueue => true
  | .destroyQueue => true
  | .resetQueue => true
  | .preempt => true
  | .resume _ _ => true
  | .migrate _ => true
  | .declareLost => true
  | .repairLane _ => true
  | .setMode => true
  | .nonce => true
  | .token => true
  | .attest => true
  | .halt => true
  | .run => true
  | .step => true
  | .snap => true
  | .nextevt => true
  | .registerWrite _ _ _ _ => true
  | .cxlMemRead _ _ => true
  | .cxlMemWrite _ _ => true
  | .backInvalidate _ => true
  | .fabricWriteArrival _ _ _ => true
  | .dataFlit _ _ => true
  | .idleFlit _ _ => true
  | .nakFlit _ _ => true
  | .retrainFlit _ => true
  | .laneRepair _ _ _ => true
  | .powerStateEntry => true
  | .wakeEvent _ => true
  | .powerThrottle _ => true
  | .packageReset => true
  | .unlistedOpcode _ => true
  | .fetchFault _ => true
  | .patrolScrub _ _ _ => true
  | .deviceDoesNotAnswer _ _ _ => true
  | .bytesLand _ _ => true

/-- The instruction is one of the 305 of R39, not an event. -/
def Instr.isWord : Instr → Bool
  | .parkComplete _ => false
  | .variableResultReturn _ _ _ _ => false
  | .gathLaneArrival _ _ _ _ => false
  | .asyncRecordArrival _ => false
  | .faultReply _ _ _ => false
  | .zeroFill _ _ _ => false
  | .monitorWriteObserved _ _ => false
  | .mwaitBudgetExpiry _ _ => false
  | .storeRegistration _ => false
  | .homeAtomicPerform _ _ => false
  | .ackCountZero _ => false
  | .discardPerform _ => false
  | .quayRequestArrival _ => false
  | .quayWaveForm _ => false
  | .quayWaveEnd _ => false
  | .quayReply _ => false
  | .notify _ _ => false
  | .packetRead _ => false
  | .grid _ => false
  | .gang _ => false
  | .graph _ => false
  | .depend _ => false
  | .barrierAnd _ => false
  | .dependConditionHolds _ => false
  | .clusterPlacement _ _ => false
  | .teamStart _ => false
  | .teamRetire _ => false
  | .groupSwap _ _ _ => false
  | .agedDisplacement _ => false
  | .bundleSelect _ _ => false
  | .fallbackAdvance _ => false
  | .copy _ => false
  | .copyResume _ => false
  | .copyCancel _ => false
  | .copyStart _ _ _ => false
  | .copyComplete _ _ => false
  | .copyStop _ _ => false
  | .topk _ => false
  | .hist _ => false
  | .psum _ => false
  | .perm _ => false
  | .gateCommandComplete _ => false
  | .arrayBoundary _ => false
  | .mmaEnterQueue _ _ _ => false
  | .mmaComplete _ => false
  | .mmaFetchFault _ => false
  | .bwrComplete _ => false
  | .binCountTrigger _ _ _ _ => false
  | .binTimerExpiry _ _ _ => false
  | .seedEntry _ _ => false
  | .launchListStart _ => false
  | .rd _ _ _ _ _ _ => false
  | .wr _ _ _ _ _ _ _ => false
  | .rdr _ => false
  | .wack _ => false
  | .delta _ => false
  | .dack _ => false
  | .lock _ => false
  | .locked _ => false
  | .chunkrd _ => false
  | .chunk _ => false
  | .unlock _ => false
  | .stackLoss _ => false
  | .tierMigration _ _ _ _ => false
  | .save _ _ => false
  | .contextEvict _ => false
  | .createContext => false
  | .destroyContext => false
  | .createQueue => false
  | .destroyQueue => false
  | .resetQueue => false
  | .preempt => false
  | .resume _ _ => false
  | .migrate _ => false
  | .declareLost => false
  | .repairLane _ => false
  | .setMode => false
  | .nonce => false
  | .token => false
  | .attest => false
  | .halt => false
  | .run => false
  | .step => false
  | .snap => false
  | .nextevt => false
  | .registerWrite _ _ _ _ => false
  | .cxlMemRead _ _ => false
  | .cxlMemWrite _ _ => false
  | .backInvalidate _ => false
  | .fabricWriteArrival _ _ _ => false
  | .dataFlit _ _ => false
  | .idleFlit _ _ => false
  | .nakFlit _ _ => false
  | .retrainFlit _ => false
  | .laneRepair _ _ _ => false
  | .powerStateEntry => false
  | .wakeEvent _ => false
  | .powerThrottle _ => false
  | .packageReset => false
  | .unlistedOpcode _ => false
  | .fetchFault _ => false
  | .patrolScrub _ _ _ => false
  | .deviceDoesNotAnswer _ _ _ => false
  | .bytesLand _ _ => false
  | .nop _ => true
  | .bra _ _ => true
  | .jmpx _ _ => true
  | .call _ _ => true
  | .callx _ _ => true
  | .ret _ => true
  | .rvset _ _ _ _ => true
  | .rvwait _ _ => true
  | .exit _ => true
  | .yield _ => true
  | .trap _ _ => true
  | .bkpt _ _ => true
  | .mov _ _ _ => true
  | .movi _ _ _ => true
  | .iadd _ _ _ _ => true
  | .isub _ _ _ _ => true
  | .iadd64 _ _ _ _ => true
  | .isub64 _ _ _ _ => true
  | .imul _ _ _ _ => true
  | .imulhs _ _ _ _ => true
  | .imulhu _ _ _ _ => true
  | .imad _ _ _ _ _ => true
  | .imadw _ _ _ _ _ => true
  | .idivs _ _ _ _ => true
  | .idivu _ _ _ _ => true
  | .irems _ _ _ _ => true
  | .iremu _ _ _ _ => true
  | .imin _ _ _ _ => true
  | .imax _ _ _ _ => true
  | .umin _ _ _ _ => true
  | .umax _ _ _ _ => true
  | .iabs _ _ _ => true
  | .and _ _ _ _ => true
  | .or _ _ _ _ => true
  | .xor _ _ _ _ => true
  | .andn _ _ _ _ => true
  | .not _ _ _ => true
  | .shl _ _ _ _ => true
  | .shr _ _ _ _ => true
  | .sar _ _ _ _ => true
  | .rotl _ _ _ _ => true
  | .fshr _ _ _ _ _ => true
  | .clz _ _ _ => true
  | .popc _ _ _ => true
  | .brev _ _ _ => true
  | .bfxu _ _ _ _ => true
  | .bfxs _ _ _ _ => true
  | .bfi _ _ _ _ _ => true
  | .lea _ _ _ _ _ => true
  | .lea64 _ _ _ _ _ _ => true
  | .sel _ _ _ _ _ => true
  | .icmpeq _ _ _ _ => true
  | .icmpne _ _ _ _ => true
  | .icmplt _ _ _ _ => true
  | .icmple _ _ _ _ => true
  | .ucmplt _ _ _ _ => true
  | .ucmple _ _ _ _ => true
  | .icmpeq64 _ _ _ _ => true
  | .ucmplt64 _ _ _ _ => true
  | .pand _ _ _ _ => true
  | .por _ _ _ _ => true
  | .pxor _ _ _ _ => true
  | .pnot _ _ _ => true
  | .p2v _ _ => true
  | .v2p _ _ _ => true
  | .fadd _ _ _ _ => true
  | .fsub _ _ _ _ => true
  | .fmul _ _ _ _ => true
  | .ffma _ _ _ _ _ => true
  | .fmin _ _ _ _ => true
  | .fmax _ _ _ _ => true
  | .fabs _ _ _ => true
  | .fneg _ _ _ => true
  | .fcmpeq _ _ _ _ => true
  | .fcmplt _ _ _ _ => true
  | .fcmple _ _ _ _ => true
  | .fcmpun _ _ _ _ => true
  | .frcp _ _ _ => true
  | .frsq _ _ _ => true
  | .fsqrt _ _ _ => true
  | .fexp2 _ _ _ => true
  | .flog2 _ _ _ => true
  | .fsin _ _ _ => true
  | .fcos _ _ _ => true
  | .ftanh _ _ _ => true
  | .fsig _ _ _ => true
  | .fclass _ _ _ => true
  | .dadd _ _ _ _ => true
  | .dsub _ _ _ _ => true
  | .dmul _ _ _ _ => true
  | .dfma _ _ _ _ _ => true
  | .dmin _ _ _ _ => true
  | .dmax _ _ _ _ => true
  | .dcmpeq _ _ _ _ => true
  | .dcmplt _ _ _ _ => true
  | .dcmple _ _ _ _ => true
  | .dcmpun _ _ _ _ => true
  | .drcpa _ _ _ => true
  | .dsqrt _ _ _ => true
  | .ddiv _ _ _ _ => true
  | .hadd2 _ _ _ _ => true
  | .hmul2 _ _ _ _ => true
  | .hfma2 _ _ _ _ _ => true
  | .hmin2 _ _ _ _ => true
  | .hmax2 _ _ _ _ => true
  | .badd2 _ _ _ _ => true
  | .bmul2 _ _ _ _ => true
  | .bfma2 _ _ _ _ _ => true
  | .bmin2 _ _ _ _ => true
  | .bmax2 _ _ _ _ => true
  | .hdot2 _ _ _ _ _ => true
  | .bdot2 _ _ _ _ _ => true
  | .cvtif _ _ _ => true
  | .cvtuf _ _ _ => true
  | .cvtfi _ _ _ => true
  | .cvtfin _ _ _ => true
  | .cvtfu _ _ _ => true
  | .cvtfd _ _ _ => true
  | .cvtdf _ _ _ => true
  | .cvtld _ _ _ => true
  | .cvtdl _ _ _ => true
  | .cvtfb2 _ _ _ _ => true
  | .cvtfh2 _ _ _ _ => true
  | .cvtbf _ _ _ => true
  | .cvthf _ _ _ => true
  | .cvte4 _ _ _ => true
  | .cvte5 _ _ _ => true
  | .cvti8 _ _ _ => true
  | .cvte4f _ _ _ => true
  | .cvte5f _ _ _ => true
  | .cvti8f _ _ _ => true
  | .cvtq4f _ _ _ _ => true
  | .qblk _ _ _ _ => true
  | .qblke4 _ _ _ _ => true
  | .qswph _ _ _ => true
  | .qswpv _ _ _ => true
  | .qswpd _ _ _ => true
  | .qbrd _ _ _ _ => true
  | .shfl _ _ _ _ => true
  | .shflup _ _ _ _ => true
  | .shfldn _ _ _ _ => true
  | .shflx _ _ _ _ => true
  | .voteany _ _ _ => true
  | .voteall _ _ _ => true
  | .ballot _ _ _ => true
  | .matchLanes _ _ _ => true
  | .gsumi _ _ _ => true
  | .gsumf _ _ _ => true
  | .gmini _ _ _ => true
  | .gmaxi _ _ _ => true
  | .gminf _ _ _ => true
  | .gmaxf _ _ _ => true
  | .gscani _ _ _ => true
  | .gscanf _ _ _ => true
  | .isect _ _ _ _ => true
  | .isectadv _ _ _ _ => true
  | .ishelp _ _ _ => true
  | .gcnt _ _ _ => true
  | .lds8u _ _ _ _ => true
  | .lds8s _ _ _ _ => true
  | .lds16u _ _ _ _ => true
  | .lds16s _ _ _ _ => true
  | .lds32 _ _ _ _ => true
  | .lds64 _ _ _ _ => true
  | .lds128 _ _ _ _ => true
  | .sts8 _ _ _ _ => true
  | .sts16 _ _ _ _ => true
  | .sts32 _ _ _ _ => true
  | .sts64 _ _ _ _ => true
  | .sts128 _ _ _ _ => true
  | .ldsh _ _ _ _ => true
  | .stsh _ _ _ _ => true
  | .saadd _ _ _ _ _ => true
  | .sacas _ _ _ _ _ => true
  | .safadd _ _ _ _ _ => true
  | .ld8u _ _ _ _ => true
  | .ld8s _ _ _ _ => true
  | .ld16u _ _ _ _ => true
  | .ld16s _ _ _ _ => true
  | .ld32 _ _ _ _ => true
  | .ld64 _ _ _ _ => true
  | .ld128 _ _ _ _ => true
  | .st8 _ _ _ _ => true
  | .st16 _ _ _ _ => true
  | .st32 _ _ _ _ => true
  | .st64 _ _ _ _ => true
  | .st128 _ _ _ _ => true
  | .ldacq32 _ _ _ _ => true
  | .ldacq64 _ _ _ _ => true
  | .strel32 _ _ _ _ => true
  | .strel64 _ _ _ _ => true
  | .gath32 _ _ _ _ => true
  | .gath64 _ _ _ _ => true
  | .scat32 _ _ _ _ => true
  | .scat64 _ _ _ _ => true
  | .pref _ _ _ => true
  | .ldlu32 _ _ _ _ => true
  | .disc _ _ _ => true
  | .puts _ _ _ _ => true
  | .aadd32 _ _ _ _ _ => true
  | .aadd64 _ _ _ _ _ => true
  | .amins32 _ _ _ _ _ => true
  | .amaxs32 _ _ _ _ _ => true
  | .aminu32 _ _ _ _ _ => true
  | .amaxu32 _ _ _ _ _ => true
  | .aand32 _ _ _ _ _ => true
  | .aor32 _ _ _ _ _ => true
  | .axor32 _ _ _ _ _ => true
  | .axch32 _ _ _ _ _ => true
  | .axch64 _ _ _ _ _ => true
  | .acas32 _ _ _ _ _ => true
  | .acas64 _ _ _ _ _ => true
  | .acas128 _ _ _ _ _ => true
  | .afaddb _ _ _ _ _ => true
  | .afaddf _ _ _ _ _ => true
  | .afaddd _ _ _ _ _ => true
  | .afminb _ _ _ _ _ => true
  | .afmaxb _ _ _ _ _ => true
  | .afminf _ _ _ _ _ => true
  | .afmaxf _ _ _ _ _ => true
  | .afmind _ _ _ _ _ => true
  | .afmaxd _ _ _ _ _ => true
  | .afaddb2 _ _ _ _ _ => true
  | .afaddf2 _ _ _ _ _ => true
  | .nadd32 _ _ _ _ => true
  | .nadd64 _ _ _ _ => true
  | .nfaddb _ _ _ _ => true
  | .nfaddf _ _ _ _ => true
  | .nfaddd _ _ _ _ => true
  | .nfaddb2 _ _ _ _ => true
  | .nfaddf2 _ _ _ _ => true
  | .nfminf _ _ _ _ => true
  | .nfmaxf _ _ _ _ => true
  | .nor32 _ _ _ _ => true
  | .qcall _ _ _ _ _ _ => true
  | .qcalla _ _ _ _ _ _ => true
  | .qcalln _ _ _ _ _ => true
  | .ldo _ _ _ _ => true
  | .sto _ _ _ _ => true
  | .qret _ _ => true
  | .bara _ _ _ => true
  | .barw _ _ _ => true
  | .bars _ _ => true
  | .barx _ _ _ => true
  | .fence _ => true
  | .fencex _ _ _ => true
  | .marm _ _ _ => true
  | .mwait _ _ _ _ _ => true
  | .cvset _ _ _ => true
  | .sign _ _ => true
  | .signw _ _ _ => true
  | .mxacq _ _ => true
  | .mxrel _ => true
  | .mmabf _ _ _ _ _ _ _ _ => true
  | .mmahf _ _ _ _ _ _ _ _ => true
  | .mmae4 _ _ _ _ _ _ _ _ => true
  | .mmae5 _ _ _ _ _ _ _ _ => true
  | .mmae45 _ _ _ _ _ _ _ _ => true
  | .mmai8 _ _ _ _ _ _ _ _ => true
  | .mmaq4 _ _ _ _ _ _ _ _ => true
  | .mmaf64 _ _ _ _ _ _ _ _ => true
  | .mmase4 _ _ _ _ _ _ _ _ _ => true
  | .mmasi8 _ _ _ _ _ _ _ _ _ => true
  | .mmajbf _ _ _ _ _ _ _ => true
  | .mmaje4 _ _ _ _ _ _ _ => true
  | .mmagbf _ _ _ _ _ _ _ _ _ => true
  | .mmage4 _ _ _ _ _ _ _ _ _ => true
  | .bzero _ _ => true
  | .brd _ _ _ _ => true
  | .bwr _ _ _ _ _ _ _ => true
  | .bgive _ _ _ => true
  | .bclaim _ _ _ => true
  | .bfree _ _ => true
  | .bstat _ _ _ => true
  | .sprn8 _ _ _ => true
  | .sprn4e _ _ _ => true
  | .qpush _ _ _ => true
  | .qpop _ _ _ => true
  | .qtry _ _ _ => true
  | .tdef _ _ _ _ _ => true
  | .tstat _ _ _ => true
  | .tfree _ _ => true
  | .twait _ _ => true
  | .kdef _ _ _ => true
  | .krel _ _ => true
  | .evroute _ _ _ _ => true
  | .evwait _ _ => true
  | .evpost _ _ => true
  | .launch _ _ _ _ => true
  | .emit _ _ _ _ => true
  | .emitw _ _ _ => true
  | .pipew _ _ _ => true
  | .piper _ _ _ => true
  | .pipetry _ _ _ => true
  | .srd _ _ _ => true
  | .swr _ _ _ => true
  | .keyw _ _ => true
  | .keyr _ _ _ _ => true
  | .eret _ => true
  | .trpv _ _ _ => true
  | .tlbinv _ _ _ => true
  | .cachewb _ _ _ => true
  | .cacheinv _ _ _ => true
  | .qreg _ _ _ _ => true
  | .qdereg _ _ _ => true

/-- A well-formed instruction word. -/
abbrev Instr.WellFormed (i : Instr) : Prop := i.wellFormed = true

end Sys2Proof
end

