-- ==== Sys2Proof/Decode.lean ====
section
/-! DEFINITION. The instruction word (R27, R28): its fields, the decoder, total on any bytes and refusing by name,
and the encoder, both written from the encoding tables of the manual. -/

namespace Sys2Proof

/-- Why a word is no instruction (R37): each of these raises an illegal-instruction fault at issue. -/
inductive DecodeError where
  /-- Fewer than the twelve bytes of an instruction (R17). -/
  | truncated
  /-- An unlisted code, or group 0xF (R38). -/
  | unlistedOpcode
  /-- The reserved field [87:78] is not zero (R36). -/
  | reservedField
  /-- A field holds an illegal combination of R29. -/
  | illegalField
  /-- A field holds a class outside its set (R30). -/
  | wrongClass
  /-- An unused field is not 0x000 (R30, R36). -/
  | unusedField
  /-- An IMM bit without meaning is not zero (R36), or a sub-field holds an illegal value. -/
  | immBits
  /-- A pair or quad is not aligned (R9, R30). -/
  | misalignedRegister
  /-- A special-register number that R13 does not allow. -/
  | specialRegister
  deriving DecidableEq, Repr

/-- The decoder's answers. -/
abbrev Dec := Except DecodeError

/-- The fields of R27, the reserved field apart. -/
structure Raw where
  op : BitVec 12
  h : Hdr
  d : BitVec 10 := 0
  a : BitVec 10 := 0
  b : BitVec 10 := 0
  imm : Word := 0
  deriving DecidableEq, Repr

/-- A Bool as one bit. -/
def bit (b : Bool) : BitVec 1 := BitVec.ofBool b

/-- The 96-bit word of R27. -/
def Raw.toWord (r : Raw) : BitVec 96 :=
  bit r.h.mark ++ r.h.delay ++ bit r.h.yld ++ r.h.reuse ++ (0 : BitVec 10) ++ r.imm ++ r.b ++ r.a ++ r.d
    ++ bit r.h.gn ++ BitVec.ofNat 3 r.h.g.val ++ r.op

/-- Three bits as a predicate number. -/
def fin8 (x : BitVec 3) : Fin 8 := ⟨x.toNat, x.isLt⟩

/-- The fields of a word (R27), whatever the reserved field holds. -/
def Raw.ofWord (w : BitVec 96) : Raw :=
  { op := w.extractLsb' 0 12
    h := { g := fin8 (w.extractLsb' 12 3), gn := w.getLsbD 15, mark := w.getLsbD 95,
           delay := w.extractLsb' 91 4, yld := w.getLsbD 90, reuse := w.extractLsb' 88 2 }
    d := w.extractLsb' 16 10, a := w.extractLsb' 26 10, b := w.extractLsb' 36 10, imm := w.extractLsb' 46 32 }

/-- The reserved field [87:78] (R27). -/
def reservedField (w : BitVec 96) : BitVec 10 := w.extractLsb' 78 10

/-- A check of R37: go on, or refuse with the name. -/
def need (c : Bool) (e : DecodeError) : Dec Unit := if c then .ok () else .error e

/-! ### Operand fields (R29, R30) -/

/-- The operand classes of R29, with the index in each. -/
inductive Field where
  | v (n : Fin 256) | s (n : Fin 64) | p (n : Fin 8) | q (n : Fin 8) | h (n : Fin 64) | b (n : Fin 8) | j (n : Fin 8)
  | c (n : Fin 16) | pipe (n : Fin 16) | imm
  deriving DecidableEq, Repr

/-- The table of R29; `none` for an illegal combination. -/
def Field.ofBits (f : BitVec 10) : Option Field :=
  let x := f.toNat
  if h : x < 0x100 then some (.v ⟨x, h⟩)
  else if h : x - 0x100 < 64 then some (.s ⟨x - 0x100, h⟩)
  else if x < 0x200 then none
  else if h : x - 0x200 < 8 then some (.p ⟨x - 0x200, h⟩)
  else if x < 0x240 then none
  else if h : x - 0x240 < 8 then some (.q ⟨x - 0x240, h⟩)
  else if x < 0x280 then none
  else if h : x - 0x280 < 64 then some (.h ⟨x - 0x280, h⟩)
  else if h : x - 0x2C0 < 8 then some (.b ⟨x - 0x2C0, h⟩)
  else if h : x - 0x2C8 < 8 then some (.j ⟨x - 0x2C8, h⟩)
  else if h : x - 0x2D0 < 16 then some (.c ⟨x - 0x2D0, h⟩)
  else if h : x - 0x2E0 < 16 then some (.pipe ⟨x - 0x2E0, h⟩)
  else if x = 0x300 then some .imm
  else none

/-- The field value of an operand (R29, R42). -/
def Field.bits : Field → BitVec 10
  | .v n => BitVec.ofNat 10 n.val
  | .s n => BitVec.ofNat 10 (0x100 + n.val)
  | .p n => BitVec.ofNat 10 (0x200 + n.val)
  | .q n => BitVec.ofNat 10 (0x240 + n.val)
  | .h n => BitVec.ofNat 10 (0x280 + n.val)
  | .b n => BitVec.ofNat 10 (0x2C0 + n.val)
  | .j n => BitVec.ofNat 10 (0x2C8 + n.val)
  | .c n => BitVec.ofNat 10 (0x2D0 + n.val)
  | .pipe n => BitVec.ofNat 10 (0x2E0 + n.val)
  | .imm => 0x300

/-- An operand field, or the refusal of R29. -/
def field (f : BitVec 10) : Dec Field :=
  match Field.ofBits f with
  | some x => .ok x
  | none => .error .illegalField

/-- A register of the classes V and S (R30), aligned to its width. -/
def decReg (w : Nat) (f : BitVec 10) : Dec Reg := do
  match ← field f with
  | .v n => need (n.val % w == 0) .misalignedRegister; pure (.v n)
  | .s n => need (n.val % w == 0) .misalignedRegister; pure (.s n)
  | _ => .error .wrongClass

/-- A source of the classes V, S and I (R30). -/
def decSrc (w : Nat) (f : BitVec 10) (imm : Word) : Dec Src := do
  match ← field f with
  | .v n => need (n.val % w == 0) .misalignedRegister; pure (.v n)
  | .s n => need (n.val % w == 0) .misalignedRegister; pure (.s n)
  | .imm => pure (.imm imm)
  | _ => .error .wrongClass

/-- A source of the classes S and I (R30). -/
def decSSrc (f : BitVec 10) (imm : Word) : Dec SSrc := do
  match ← field f with
  | .s n => pure (.s n)
  | .imm => pure (.imm imm)
  | _ => .error .wrongClass

/-- A vector register, the first of `w` (R30). -/
def decV (w : Nat) (f : BitVec 10) : Dec VReg := do
  match ← field f with
  | .v n => need (n.val % w == 0) .misalignedRegister; pure n
  | _ => .error .wrongClass

/-- A scalar register, the first of `w` (R30). -/
def decS (w : Nat) (f : BitVec 10) : Dec SReg := do
  match ← field f with
  | .s n => need (n.val % w == 0) .misalignedRegister; pure n
  | _ => .error .wrongClass

/-- A predicate (R30). -/
def decP (f : BitVec 10) : Dec PReg := do
  match ← field f with | .p n => pure n | _ => .error .wrongClass

/-- A queue register (R30). -/
def decQ (f : BitVec 10) : Dec QReg := do
  match ← field f with | .q n => pure n | _ => .error .wrongClass

/-- A tile handle (R30). -/
def decH (f : BitVec 10) : Dec HReg := do
  match ← field f with | .h n => pure n | _ => .error .wrongClass

/-- A berth (R30). -/
def decB (f : BitVec 10) : Dec BReg := do
  match ← field f with | .b n => pure n | _ => .error .wrongClass

/-- A rejoin register (R30). -/
def decJ (f : BitVec 10) : Dec JReg := do
  match ← field f with | .j n => pure n | _ => .error .wrongClass

/-- A convergence register (R30). -/
def decC (f : BitVec 10) : Dec CReg := do
  match ← field f with | .c n => pure n | _ => .error .wrongClass

/-- A pipe (R30). -/
def decN (f : BitVec 10) : Dec NReg := do
  match ← field f with | .pipe n => pure n | _ => .error .wrongClass

/-- The A operand of an MMA form (R235, R249). -/
def decASrc (f : BitVec 10) : Dec ASrc := do
  match ← field f with
  | .h n => pure (.tile n)
  | .s n => need (n.val % 2 == 0) .misalignedRegister; pure (.glob n)
  | _ => .error .wrongClass

def encReg : Reg → BitVec 10
  | .v n => (Field.v n).bits
  | .s n => (Field.s n).bits

def encSrc : Src → BitVec 10
  | .v n => (Field.v n).bits
  | .s n => (Field.s n).bits
  | .imm _ => Field.imm.bits

def encSSrc : SSrc → BitVec 10
  | .s n => (Field.s n).bits
  | .imm _ => Field.imm.bits

def encASrc : ASrc → BitVec 10
  | .tile n => (Field.h n).bits
  | .glob n => (Field.s n).bits

/-- IMM of an instruction whose sources are `a` and `b` (R31, R36). -/
def immOf2 (a b : Src) : Word := (a.immVal?.orElse fun _ => b.immVal?).getD 0

/-- IMM of an instruction with one source that may be class I. -/
def immOf1 (a : Src) : Word := a.immVal?.getD 0

def SSrc.immVal? : SSrc → Option Word
  | .imm w => some w
  | .s _ => none

def Src.isImm (a : Src) : Bool := a.immVal?.isSome
def SSrc.isImm (a : SSrc) : Bool := a.immVal?.isSome

/-- The unused operand fields are zero (R30, R36). -/
def unused (fs : List (BitVec 10)) : Dec Unit := need (fs.all (· == 0)) .unusedField

/-- IMM is zero (R36). -/
def immZero (r : Raw) : Dec Unit := need (r.imm == 0) .immBits

/-- The `n` bits of IMM from bit `lo` as a number below `2 ^ n`. -/
def immFin (r : Raw) (lo n : Nat) : Fin (2 ^ n) := (r.imm.extractLsb' lo n).toFin

/-- The bits of IMM from `lo` up are zero (R33, R36). -/
def immTop (r : Raw) (lo : Nat) : Dec Unit := need (r.imm >>> lo == 0) .immBits

/-- A number placed in IMM at bit `lo`. -/
def at_ (lo x : Nat) : Word := BitVec.ofNat 32 (x * 2 ^ lo)

/-! ### One decoder and one encoder for each shape of operands

The names follow the operand tables: `A1`, `A2`, `A3` one, two and three sources, `CMP` a compare, `LD` and `ST` a
memory operand, and so on. A width argument is the number of registers of the operand. -/

def dN0 (r : Raw) (k : Hdr → Instr) : Dec Instr := do
  unused [r.d, r.a, r.b]; immZero r; pure (k r.h)
def eN0 (op : BitVec 12) (h : Hdr) : Raw := { op, h }

def dBR (r : Raw) (k : Hdr → Word → Instr) : Dec Instr := do
  unused [r.d, r.a, r.b]; pure (k r.h r.imm)
def eBR (op : BitVec 12) (h : Hdr) (disp : Word) : Raw := { op, h, imm := disp }

def dJX (r : Raw) (k : Hdr → Reg → Instr) : Dec Instr := do
  unused [r.d, r.b]; immZero r; pure (k r.h (← decReg 2 r.a))
def eJX (op : BitVec 12) (h : Hdr) (a : Reg) : Raw := { op, h, a := encReg a }

def dRVSET (r : Raw) (k : Hdr → JReg → SReg → Word → Instr) : Dec Instr := do
  unused [r.b]; let j ← decJ r.d; let s ← decS 1 r.a; pure (k r.h j s r.imm)
def eRVSET (op : BitVec 12) (h : Hdr) (j : JReg) (s : SReg) (disp : Word) : Raw :=
  { op, h, d := (Field.j j).bits, a := (Field.s s).bits, imm := disp }

def dRVWAIT (r : Raw) (k : Hdr → JReg → Instr) : Dec Instr := do
  unused [r.d, r.b]; immZero r; pure (k r.h (← decJ r.a))
def eRVWAIT (op : BitVec 12) (h : Hdr) (j : JReg) : Raw := { op, h, a := (Field.j j).bits }

def dC16 (r : Raw) (k : Hdr → BitVec 16 → Instr) : Dec Instr := do
  unused [r.d, r.a, r.b]; immTop r 16; pure (k r.h (r.imm.extractLsb' 0 16))
def eC16 (op : BitVec 12) (h : Hdr) (c : BitVec 16) : Raw := { op, h, imm := c.zeroExtend 32 }

def dMOV (r : Raw) (k : Hdr → Reg → Reg → Instr) : Dec Instr := do
  unused [r.b]; immZero r; let d ← decReg 1 r.d; let a ← decReg 1 r.a; pure (k r.h d a)
def eMOV (op : BitVec 12) (h : Hdr) (d a : Reg) : Raw := { op, h, d := encReg d, a := encReg a }

def dMOVI (r : Raw) (k : Hdr → Reg → Word → Instr) : Dec Instr := do
  unused [r.a, r.b]; let d ← decReg 1 r.d; pure (k r.h d r.imm)
def eMOVI (op : BitVec 12) (h : Hdr) (d : Reg) (imm : Word) : Raw := { op, h, d := encReg d, imm }

def dA2 (wd wa wb : Nat) (r : Raw) (k : Hdr → Reg → Src → Src → Instr) : Dec Instr := do
  let d ← decReg wd r.d; let a ← decSrc wa r.a r.imm; let b ← decSrc wb r.b r.imm
  need (r.imm == 0 || a.isImm || b.isImm) .immBits; pure (k r.h d a b)
def eA2 (op : BitVec 12) (h : Hdr) (d : Reg) (a b : Src) : Raw :=
  { op, h, d := encReg d, a := encSrc a, b := encSrc b, imm := immOf2 a b }

def dA1 (wd wa : Nat) (r : Raw) (k : Hdr → Reg → Src → Instr) : Dec Instr := do
  unused [r.b]; let d ← decReg wd r.d; let a ← decSrc wa r.a r.imm
  need (r.imm == 0 || a.isImm) .immBits; pure (k r.h d a)
def eA1 (op : BitVec 12) (h : Hdr) (d : Reg) (a : Src) : Raw :=
  { op, h, d := encReg d, a := encSrc a, imm := immOf1 a }

def dA1R (wd wa : Nat) (r : Raw) (k : Hdr → Reg → Reg → Instr) : Dec Instr := do
  unused [r.b]; immZero r; let d ← decReg wd r.d; let a ← decReg wa r.a; pure (k r.h d a)
def eA1R (op : BitVec 12) (h : Hdr) (d a : Reg) : Raw := { op, h, d := encReg d, a := encReg a }

/-- The third source in IMM[9:0] (R32). -/
def third (r : Raw) : BitVec 10 := r.imm.extractLsb' 0 10

def dA3 (wd wa wb wc : Nat) (r : Raw) (k : Hdr → Reg → Reg → Reg → Reg → Instr) : Dec Instr := do
  immTop r 10; let d ← decReg wd r.d; let a ← decReg wa r.a; let b ← decReg wb r.b; let c ← decReg wc (third r)
  pure (k r.h d a b c)
def eA3 (op : BitVec 12) (h : Hdr) (d a b c : Reg) : Raw :=
  { op, h, d := encReg d, a := encReg a, b := encReg b, imm := (encReg c).zeroExtend 32 }

def dLEA (r : Raw) (k : Hdr → Reg → Reg → Reg → Fin 32 → Instr) : Dec Instr := do
  immTop r 5; let d ← decReg 1 r.d; let a ← decReg 1 r.a; let b ← decReg 1 r.b; pure (k r.h d a b (immFin r 0 5))
def eLEA (op : BitVec 12) (h : Hdr) (d a b : Reg) (sh : Fin 32) : Raw :=
  { op, h, d := encReg d, a := encReg a, b := encReg b, imm := at_ 0 sh.val }

def dLEA64 (r : Raw) (k : Hdr → Reg → Reg → Reg → Fin 32 → Bool → Instr) : Dec Instr := do
  immTop r 6; let d ← decReg 2 r.d; let a ← decReg 2 r.a; let b ← decReg 1 r.b
  pure (k r.h d a b (immFin r 0 5) (r.imm.getLsbD 5))
def eLEA64 (op : BitVec 12) (h : Hdr) (d a b : Reg) (sh : Fin 32) (zx : Bool) : Raw :=
  { op, h, d := encReg d, a := encReg a, b := encReg b, imm := at_ 0 sh.val ||| at_ 5 zx.toNat }

def dSEL (r : Raw) (k : Hdr → Reg → Reg → Reg → PReg → Instr) : Dec Instr := do
  immTop r 10; let d ← decReg 1 r.d; let a ← decReg 1 r.a; let b ← decReg 1 r.b; let c ← decP (third r)
  pure (k r.h d a b c)
def eSEL (op : BitVec 12) (h : Hdr) (d a b : Reg) (c : PReg) : Raw :=
  { op, h, d := encReg d, a := encReg a, b := encReg b, imm := (Field.p c).bits.zeroExtend 32 }

def dCMP (w : Nat) (r : Raw) (k : Hdr → PReg → Src → Src → Instr) : Dec Instr := do
  let d ← decP r.d; let a ← decSrc w r.a r.imm; let b ← decSrc w r.b r.imm
  need (r.imm == 0 || a.isImm || b.isImm) .immBits; pure (k r.h d a b)
def eCMP (op : BitVec 12) (h : Hdr) (d : PReg) (a b : Src) : Raw :=
  { op, h, d := (Field.p d).bits, a := encSrc a, b := encSrc b, imm := immOf2 a b }

def dP3 (r : Raw) (k : Hdr → PReg → PReg → PReg → Instr) : Dec Instr := do
  immZero r; let d ← decP r.d; let a ← decP r.a; let b ← decP r.b; pure (k r.h d a b)
def eP3 (op : BitVec 12) (h : Hdr) (d a b : PReg) : Raw :=
  { op, h, d := (Field.p d).bits, a := (Field.p a).bits, b := (Field.p b).bits }

def dP2 (r : Raw) (k : Hdr → PReg → PReg → Instr) : Dec Instr := do
  unused [r.b]; immZero r; let d ← decP r.d; let a ← decP r.a; pure (k r.h d a)
def eP2 (op : BitVec 12) (h : Hdr) (d a : PReg) : Raw := { op, h, d := (Field.p d).bits, a := (Field.p a).bits }

def dP2V (r : Raw) (k : Hdr → Reg → Instr) : Dec Instr := do
  unused [r.a, r.b]; immZero r; pure (k r.h (← decReg 1 r.d))
def eP2V (op : BitVec 12) (h : Hdr) (d : Reg) : Raw := { op, h, d := encReg d }

def dV2P (r : Raw) (k : Hdr → Reg → BitVec 7 → Instr) : Dec Instr := do
  unused [r.d, r.b]; immTop r 8; need (!r.imm.getLsbD 0) .immBits
  let a ← decReg 1 r.a; pure (k r.h a (r.imm.extractLsb' 1 7))
def eV2P (op : BitVec 12) (h : Hdr) (a : Reg) (mask : BitVec 7) : Raw :=
  { op, h, a := encReg a, imm := at_ 1 mask.toNat }

def dQBLK (r : Raw) (k : Hdr → VReg → VReg → SSrc → Instr) : Dec Instr := do
  let d ← decV 1 r.d; let a ← decV 2 r.a; let b ← decSSrc r.b r.imm
  need (r.imm == 0 || b.isImm) .immBits; pure (k r.h d a b)
def eQBLK (op : BitVec 12) (h : Hdr) (d a : VReg) (b : SSrc) : Raw :=
  { op, h, d := (Field.v d).bits, a := (Field.v a).bits, b := encSSrc b, imm := b.immVal?.getD 0 }

def dVV (wd wa : Nat) (r : Raw) (k : Hdr → VReg → VReg → Instr) : Dec Instr := do
  unused [r.b]; immZero r; let d ← decV wd r.d; let a ← decV wa r.a; pure (k r.h d a)
def eVV (op : BitVec 12) (h : Hdr) (d a : VReg) : Raw := { op, h, d := (Field.v d).bits, a := (Field.v a).bits }

def dQBRD (r : Raw) (k : Hdr → VReg → VReg → Fin 4 → Instr) : Dec Instr := do
  unused [r.b]; immTop r 2; let d ← decV 1 r.d; let a ← decV 1 r.a; pure (k r.h d a (immFin r 0 2))
def eQBRD (op : BitVec 12) (h : Hdr) (d a : VReg) (i : Fin 4) : Raw :=
  { op, h, d := (Field.v d).bits, a := (Field.v a).bits, imm := at_ 0 i.val }

def dSHFL (r : Raw) (k : Hdr → VReg → VReg → Src → Instr) : Dec Instr := do
  let d ← decV 1 r.d; let a ← decV 1 r.a; let b ← decSrc 1 r.b r.imm
  need (r.imm == 0 || b.isImm) .immBits; pure (k r.h d a b)
def eSHFL (op : BitVec 12) (h : Hdr) (d a : VReg) (b : Src) : Raw :=
  { op, h, d := (Field.v d).bits, a := (Field.v a).bits, b := encSrc b, imm := immOf1 b }

def dRP (r : Raw) (k : Hdr → Reg → PReg → Instr) : Dec Instr := do
  unused [r.b]; immZero r; let d ← decReg 1 r.d; let a ← decP r.a; pure (k r.h d a)
def eRP (op : BitVec 12) (h : Hdr) (d : Reg) (a : PReg) : Raw := { op, h, d := encReg d, a := (Field.p a).bits }

def dRV (r : Raw) (k : Hdr → Reg → VReg → Instr) : Dec Instr := do
  unused [r.b]; immZero r; let d ← decReg 1 r.d; let a ← decV 1 r.a; pure (k r.h d a)
def eRV (op : BitVec 12) (h : Hdr) (d : Reg) (a : VReg) : Raw := { op, h, d := encReg d, a := (Field.v a).bits }

def dVVV (r : Raw) (k : Hdr → VReg → VReg → VReg → Instr) : Dec Instr := do
  immZero r; let d ← decV 1 r.d; let a ← decV 1 r.a; let b ← decV 1 r.b; pure (k r.h d a b)
def eVVV (op : BitVec 12) (h : Hdr) (d a b : VReg) : Raw :=
  { op, h, d := (Field.v d).bits, a := (Field.v a).bits, b := (Field.v b).bits }

def dRVV (r : Raw) (k : Hdr → Reg → VReg → VReg → Instr) : Dec Instr := do
  immZero r; let d ← decReg 1 r.d; let a ← decV 1 r.a; let b ← decV 1 r.b; pure (k r.h d a b)
def eRVV (op : BitVec 12) (h : Hdr) (d : Reg) (a b : VReg) : Raw :=
  { op, h, d := encReg d, a := (Field.v a).bits, b := (Field.v b).bits }

def dVP (r : Raw) (k : Hdr → VReg → PReg → Instr) : Dec Instr := do
  unused [r.b]; immZero r; let d ← decV 1 r.d; let a ← decP r.a; pure (k r.h d a)
def eVP (op : BitVec 12) (h : Hdr) (d : VReg) (a : PReg) : Raw :=
  { op, h, d := (Field.v d).bits, a := (Field.p a).bits }

def dLD (wd wa : Nat) (r : Raw) (k : Hdr → Reg → Reg → Word → Instr) : Dec Instr := do
  unused [r.b]; let d ← decReg wd r.d; let a ← decReg wa r.a; pure (k r.h d a r.imm)
def eLD (op : BitVec 12) (h : Hdr) (d a : Reg) (disp : Word) : Raw :=
  { op, h, d := encReg d, a := encReg a, imm := disp }

def dLDV (wd wa : Nat) (r : Raw) (k : Hdr → VReg → Reg → Word → Instr) : Dec Instr := do
  unused [r.b]; let d ← decV wd r.d; let a ← decReg wa r.a; pure (k r.h d a r.imm)
def eLDV (op : BitVec 12) (h : Hdr) (d : VReg) (a : Reg) (disp : Word) : Raw :=
  { op, h, d := (Field.v d).bits, a := encReg a, imm := disp }

def dST (wa wb : Nat) (r : Raw) (k : Hdr → Reg → Reg → Word → Instr) : Dec Instr := do
  unused [r.d]; let a ← decReg wa r.a; let b ← decReg wb r.b; pure (k r.h a b r.imm)
def eST (op : BitVec 12) (h : Hdr) (a b : Reg) (disp : Word) : Raw :=
  { op, h, a := encReg a, b := encReg b, imm := disp }

def dAT (wd wa wb : Nat) (r : Raw) (k : Hdr → VReg → Reg → Reg → Word → Instr) : Dec Instr := do
  let d ← decV wd r.d; let a ← decReg wa r.a; let b ← decReg wb r.b; pure (k r.h d a b r.imm)
def eAT (op : BitVec 12) (h : Hdr) (d : VReg) (a b : Reg) (disp : Word) : Raw :=
  { op, h, d := (Field.v d).bits, a := encReg a, b := encReg b, imm := disp }

def dAD (r : Raw) (k : Hdr → Reg → Word → Instr) : Dec Instr := do
  unused [r.d, r.b]; let a ← decReg 2 r.a; pure (k r.h a r.imm)
def eAD (op : BitVec 12) (h : Hdr) (a : Reg) (disp : Word) : Raw := { op, h, a := encReg a, imm := disp }

def dPUTS (r : Raw) (k : Hdr → Reg → Reg → SReg → Instr) : Dec Instr := do
  unused [r.d]; immTop r 10; let a ← decReg 2 r.a; let b ← decReg 2 r.b; let c ← decS 2 (third r); pure (k r.h a b c)
def ePUTS (op : BitVec 12) (h : Hdr) (a b : Reg) (sc : SReg) : Raw :=
  { op, h, a := encReg a, b := encReg b, imm := (Field.s sc).bits.zeroExtend 32 }

def dQCALL (r : Raw) (k : Hdr → VReg → Reg → Reg → Fin 256 → Fin 4 → Instr) : Dec Instr := do
  immTop r 10; need (r.imm.extractLsb' 0 8 != 0) .immBits
  let d ← decV 2 r.d; let a ← decReg 2 r.a; let b ← decReg 2 r.b
  pure (k r.h d a b (immFin r 0 8) (immFin r 8 2))
def eQCALL (op : BitVec 12) (h : Hdr) (d : VReg) (a b : Reg) (cls : Fin 256) (m : Fin 4) : Raw :=
  { op, h, d := (Field.v d).bits, a := encReg a, b := encReg b, imm := at_ 0 cls.val ||| at_ 8 m.val }

def dQCALLN (r : Raw) (k : Hdr → Reg → Reg → Fin 256 → Fin 4 → Instr) : Dec Instr := do
  unused [r.d]; immTop r 10; need (r.imm.extractLsb' 0 8 != 0) .immBits
  let a ← decReg 2 r.a; let b ← decReg 2 r.b; pure (k r.h a b (immFin r 0 8) (immFin r 8 2))
def eQCALLN (op : BitVec 12) (h : Hdr) (a b : Reg) (cls : Fin 256) (m : Fin 4) : Raw :=
  { op, h, a := encReg a, b := encReg b, imm := at_ 0 cls.val ||| at_ 8 m.val }

def dQRET (r : Raw) (k : Hdr → VReg → Instr) : Dec Instr := do
  unused [r.d, r.a]; immZero r; pure (k r.h (← decV 2 r.b))
def eQRET (op : BitVec 12) (h : Hdr) (b : VReg) : Raw := { op, h, b := (Field.v b).bits }

/-- A barrier number in five bits (R140); IMM[4] = 1 with IMM[3] = 1 names none. -/
def barOf (x : BitVec 5) : Option Bar :=
  if x.getLsbD 4 then
    if x.getLsbD 3 then none else some (.cluster ((x.extractLsb' 0 3).toFin))
  else some (.team ((x.extractLsb' 0 4).toFin))

def decBar (r : Raw) : Dec Bar := do
  immTop r 5
  match barOf (r.imm.extractLsb' 0 5) with
  | some b => pure b
  | none => .error .immBits

def Bar.num : Bar → Nat
  | .team n => n.val
  | .cluster n => 16 + n.val

def dBARA (r : Raw) (k : Hdr → Reg → Bar → Instr) : Dec Instr := do
  unused [r.a, r.b]; let b ← decBar r; let d ← decReg 1 r.d; pure (k r.h d b)
def eBARA (op : BitVec 12) (h : Hdr) (d : Reg) (bar : Bar) : Raw := { op, h, d := encReg d, imm := at_ 0 bar.num }

def dBARW (r : Raw) (k : Hdr → Reg → Bar → Instr) : Dec Instr := do
  unused [r.d, r.b]; let b ← decBar r; let a ← decReg 1 r.a; pure (k r.h a b)
def eBARW (op : BitVec 12) (h : Hdr) (a : Reg) (bar : Bar) : Raw := { op, h, a := encReg a, imm := at_ 0 bar.num }

def dBARS (r : Raw) (k : Hdr → Bar → Instr) : Dec Instr := do
  unused [r.d, r.a, r.b]; let b ← decBar r; pure (k r.h b)
def eBARS (op : BitVec 12) (h : Hdr) (bar : Bar) : Raw := { op, h, imm := at_ 0 bar.num }

def dBARX (r : Raw) (k : Hdr → SReg → Bar → Instr) : Dec Instr := do
  unused [r.d, r.b]; let b ← decBar r; let a ← decS 1 r.a; pure (k r.h a b)
def eBARX (op : BitVec 12) (h : Hdr) (sa : SReg) (bar : Bar) : Raw :=
  { op, h, a := (Field.s sa).bits, imm := at_ 0 bar.num }

/-- The path codes of R177. -/
def Path.code : Path → Nat
  | .ls => 0 | .cp => 1 | .mx => 2 | .gt => 3 | .fb => 4

def Path.ofCode : Nat → Option Path
  | 0 => some .ls | 1 => some .cp | 2 => some .mx | 3 => some .gt | 4 => some .fb | _ => none

def dFENCEX (r : Raw) (k : Hdr → Path → Path → Instr) : Dec Instr := do
  unused [r.d, r.a, r.b]; immTop r 7; need (!r.imm.getLsbD 3) .immBits
  match Path.ofCode (r.imm.extractLsb' 0 3).toNat, Path.ofCode (r.imm.extractLsb' 4 3).toNat with
  | some x, some y => need (x != y) .immBits; pure (k r.h x y)
  | _, _ => .error .immBits
def eFENCEX (op : BitVec 12) (h : Hdr) (x y : Path) : Raw := { op, h, imm := at_ 0 x.code ||| at_ 4 y.code }

def dMWAIT (r : Raw) (k : Hdr → PReg → Reg → Fin 4 → BitVec 24 → Instr) : Dec Instr := do
  unused [r.a]; need (r.imm.extractLsb' 2 6 == 0) .immBits
  let d ← decP r.d; let b ← decReg 2 r.b; pure (k r.h d b (immFin r 0 2) (r.imm.extractLsb' 8 24))
def eMWAIT (op : BitVec 12) (h : Hdr) (d : PReg) (b : Reg) (cond : Fin 4) (budget : BitVec 24) : Raw :=
  { op, h, d := (Field.p d).bits, b := encReg b, imm := at_ 0 cond.val ||| at_ 8 budget.toNat }

def dCVSET (r : Raw) (k : Hdr → CReg → SSrc → Instr) : Dec Instr := do
  unused [r.b]; let c ← decC r.d; let a ← decSSrc r.a r.imm; need (r.imm == 0 || a.isImm) .immBits; pure (k r.h c a)
def eCVSET (op : BitVec 12) (h : Hdr) (c : CReg) (a : SSrc) : Raw :=
  { op, h, d := (Field.c c).bits, a := encSSrc a, imm := a.immVal?.getD 0 }

def dSIGN (r : Raw) (k : Hdr → CReg → Instr) : Dec Instr := do
  unused [r.d, r.b]; immZero r; pure (k r.h (← decC r.a))
def eSIGN (op : BitVec 12) (h : Hdr) (c : CReg) : Raw := { op, h, a := (Field.c c).bits }

def dSIGNW (r : Raw) (k : Hdr → PReg → CReg → Instr) : Dec Instr := do
  unused [r.b]; immZero r; let d ← decP r.d; let c ← decC r.a; pure (k r.h d c)
def eSIGNW (op : BitVec 12) (h : Hdr) (d : PReg) (c : CReg) : Raw :=
  { op, h, d := (Field.p d).bits, a := (Field.c c).bits }

def dPD (r : Raw) (k : Hdr → PReg → Instr) : Dec Instr := do
  unused [r.a, r.b]; immZero r; pure (k r.h (← decP r.d))
def ePD (op : BitVec 12) (h : Hdr) (d : PReg) : Raw := { op, h, d := (Field.p d).bits }

/-- The sub-fields of a multiplying instruction's IMM (R250). -/
def immMma (hb : HReg) (kq : Fin 4) (ms ns : Fin 8) (hx : HReg) (gn : Fin 4) : Word :=
  at_ 0 hb.val ||| at_ 6 kq.val ||| at_ 8 ms.val ||| at_ 11 ns.val ||| at_ 14 hx.val ||| at_ 20 gn.val

def dMMA (pair : Bool) (r : Raw) (k : Hdr → BReg → ASrc → CReg → HReg → Fin 4 → Fin 8 → Fin 8 → Instr) : Dec Instr := do
  immTop r 14
  let d ← decB r.d; let a ← decASrc r.a; let c ← decC r.b
  need (CReg.team c) .wrongClass; need (!pair || d.val % 2 == 0) .misalignedRegister
  let hb : HReg := immFin r 0 6; let kq : Fin 4 := immFin r 6 2
  need (decide (hb.val + kq.val < 64)) .immBits
  pure (k r.h d a c hb kq (immFin r 8 3) (immFin r 11 3))
def eMMA (op : BitVec 12) (h : Hdr) (d : BReg) (a : ASrc) (c : CReg) (hb : HReg) (kq : Fin 4) (ms ns : Fin 8) : Raw :=
  { op, h, d := (Field.b d).bits, a := encASrc a, b := (Field.c c).bits, imm := immMma hb kq ms ns 0 0 }

def dMMAS (r : Raw) (k : Hdr → BReg → ASrc → CReg → HReg → Fin 4 → Fin 8 → Fin 8 → HReg → Instr) : Dec Instr := do
  immTop r 20
  let d ← decB r.d; let a ← decASrc r.a; let c ← decC r.b; need (CReg.team c) .wrongClass
  let hb : HReg := immFin r 0 6; let kq : Fin 4 := immFin r 6 2
  need (decide (hb.val + kq.val < 64)) .immBits
  pure (k r.h d a c hb kq (immFin r 8 3) (immFin r 11 3) (immFin r 14 6))
def eMMAS (op : BitVec 12) (h : Hdr) (d : BReg) (a : ASrc) (c : CReg) (hb : HReg) (kq : Fin 4) (ms ns : Fin 8)
    (hx : HReg) : Raw :=
  { op, h, d := (Field.b d).bits, a := encASrc a, b := (Field.c c).bits, imm := immMma hb kq ms ns hx 0 }

def dMMAJ (r : Raw) (k : Hdr → BReg → HReg → CReg → HReg → Fin 8 → Fin 8 → Instr) : Dec Instr := do
  immTop r 14; need (r.imm.extractLsb' 6 2 == 0) .immBits
  let d ← decB r.d; let a ← decH r.a; let c ← decC r.b; need (!CReg.team c) .wrongClass
  pure (k r.h d a c (immFin r 0 6) (immFin r 8 3) (immFin r 11 3))
def eMMAJ (op : BitVec 12) (h : Hdr) (d : BReg) (a : HReg) (c : CReg) (hb : HReg) (ms ns : Fin 8) : Raw :=
  { op, h, d := (Field.b d).bits, a := (Field.h a).bits, b := (Field.c c).bits, imm := immMma hb 0 ms ns 0 0 }

def dMMAG (r : Raw) (k : Hdr → BReg → HReg → CReg → HReg → Fin 4 → Fin 8 → Fin 8 → HReg → Instr) : Dec Instr := do
  immTop r 22; need (r.imm.extractLsb' 6 2 == 0) .immBits
  let d ← decB r.d; let a ← decH r.a; let c ← decC r.b; need (CReg.team c) .wrongClass
  let hb : HReg := immFin r 0 6; let gn : Fin 4 := immFin r 20 2
  need (decide (hb.val + 4 * gn.val + 3 < 64)) .immBits
  pure (k r.h d a c hb gn (immFin r 8 3) (immFin r 11 3) (immFin r 14 6))
def eMMAG (op : BitVec 12) (h : Hdr) (d : BReg) (a : HReg) (c : CReg) (hb : HReg) (gn : Fin 4) (ms ns : Fin 8)
    (hx : HReg) : Raw :=
  { op, h, d := (Field.b d).bits, a := (Field.h a).bits, b := (Field.c c).bits, imm := immMma hb 0 ms ns hx gn }

def dBN (r : Raw) (k : Hdr → BReg → Instr) : Dec Instr := do
  unused [r.d, r.b]; immZero r; pure (k r.h (← decB r.a))
def eBN (op : BitVec 12) (h : Hdr) (b : BReg) : Raw := { op, h, a := (Field.b b).bits }

def dBRD (r : Raw) (k : Hdr → VReg → BReg → Src → Instr) : Dec Instr := do
  let d ← decV 1 r.d; let b ← decB r.a; let x ← decSrc 1 r.b r.imm
  need (r.imm == 0 || x.isImm) .immBits; pure (k r.h d b x)
def eBRD (op : BitVec 12) (h : Hdr) (d : VReg) (b : BReg) (x : Src) : Raw :=
  { op, h, d := (Field.v d).bits, a := (Field.b b).bits, b := encSrc x, imm := immOf1 x }

/-- The barrier sub-field of BWR (R248): 0x1F for none, 0x18 to 0x1E illegal. -/
def bwrBar (x : BitVec 5) : Option (Option Bar) :=
  if x == 0x1F then some none else (barOf x).map some

def dBWR (r : Raw) (k : Hdr → BReg → SReg → KId → Fin 8 → Fin 8 → Option Bar → Instr) : Dec Instr := do
  unused [r.d]; immTop r 19
  let b ← decB r.a; let s ← decS 2 r.b
  match bwrBar (r.imm.extractLsb' 14 5) with
  | some bar => pure (k r.h b s (immFin r 0 8) (immFin r 8 3) (immFin r 11 3) bar)
  | none => .error .immBits
def eBWR (op : BitVec 12) (h : Hdr) (b : BReg) (sb : SReg) (k : KId) (ms ns : Fin 8) (bar : Option Bar) : Raw :=
  { op, h, a := (Field.b b).bits, b := (Field.s sb).bits,
    imm := at_ 0 k.val ||| at_ 8 ms.val ||| at_ 11 ns.val ||| at_ 14 ((bar.map Bar.num).getD 0x1F) }

def dBGIVE (r : Raw) (k : Hdr → BReg → SSrc → Instr) : Dec Instr := do
  unused [r.d]; let b ← decB r.a; let x ← decSSrc r.b r.imm; need (r.imm == 0 || x.isImm) .immBits; pure (k r.h b x)
def eBGIVE (op : BitVec 12) (h : Hdr) (b : BReg) (x : SSrc) : Raw :=
  { op, h, a := (Field.b b).bits, b := encSSrc x, imm := x.immVal?.getD 0 }

def dBCLAIM (r : Raw) (k : Hdr → PReg → BReg → Instr) : Dec Instr := do
  unused [r.b]; immZero r; let d ← decP r.d; let b ← decB r.a; pure (k r.h d b)
def eBCLAIM (op : BitVec 12) (h : Hdr) (d : PReg) (b : BReg) : Raw :=
  { op, h, d := (Field.p d).bits, a := (Field.b b).bits }

def dBSTAT (r : Raw) (k : Hdr → Reg → BReg → Instr) : Dec Instr := do
  unused [r.b]; immZero r; let d ← decReg 1 r.d; let b ← decB r.a; pure (k r.h d b)
def eBSTAT (op : BitVec 12) (h : Hdr) (d : Reg) (b : BReg) : Raw :=
  { op, h, d := encReg d, a := (Field.b b).bits }

def dQPUSH (r : Raw) (k : Hdr → QReg → SSrc → Instr) : Dec Instr := do
  unused [r.b]; let q ← decQ r.d; let a ← decSSrc r.a r.imm; need (r.imm == 0 || a.isImm) .immBits; pure (k r.h q a)
def eQPUSH (op : BitVec 12) (h : Hdr) (q : QReg) (a : SSrc) : Raw :=
  { op, h, d := (Field.q q).bits, a := encSSrc a, imm := a.immVal?.getD 0 }

def dQPOP (wd : Nat) (r : Raw) (k : Hdr → Reg → QReg → Instr) : Dec Instr := do
  unused [r.b]; immZero r; let d ← decReg wd r.d; let q ← decQ r.a; pure (k r.h d q)
def eQPOP (op : BitVec 12) (h : Hdr) (d : Reg) (q : QReg) : Raw := { op, h, d := encReg d, a := (Field.q q).bits }

def dTDEF (r : Raw) (k : Hdr → HReg → SReg → SReg → Bool → Instr) : Dec Instr := do
  immTop r 2; need (!r.imm.getLsbD 0) .immBits
  let t ← decH r.d; let a ← decS 1 r.a; let b ← decS 1 r.b; pure (k r.h t a b (r.imm.getLsbD 1))
def eTDEF (op : BitVec 12) (h : Hdr) (t : HReg) (sa sb : SReg) (ready : Bool) : Raw :=
  { op, h, d := (Field.h t).bits, a := (Field.s sa).bits, b := (Field.s sb).bits, imm := at_ 1 ready.toNat }

def dTSTAT (r : Raw) (k : Hdr → Reg → HReg → Instr) : Dec Instr := do
  unused [r.b]; immZero r; let d ← decReg 1 r.d; let t ← decH r.a; pure (k r.h d t)
def eTSTAT (op : BitVec 12) (h : Hdr) (d : Reg) (t : HReg) : Raw := { op, h, d := encReg d, a := (Field.h t).bits }

def dHN (r : Raw) (k : Hdr → HReg → Instr) : Dec Instr := do
  unused [r.d, r.b]; immZero r; pure (k r.h (← decH r.a))
def eHN (op : BitVec 12) (h : Hdr) (t : HReg) : Raw := { op, h, a := (Field.h t).bits }

def dKDEF (r : Raw) (k : Hdr → SReg → KId → Instr) : Dec Instr := do
  unused [r.d, r.b]; immTop r 8; let a ← decS 2 r.a; pure (k r.h a (immFin r 0 8))
def eKDEF (op : BitVec 12) (h : Hdr) (sa : SReg) (k : KId) : Raw :=
  { op, h, a := (Field.s sa).bits, imm := at_ 0 k.val }

def dKREL (r : Raw) (k : Hdr → KId → Instr) : Dec Instr := do
  unused [r.d, r.a, r.b]; immTop r 8; pure (k r.h (immFin r 0 8))
def eKREL (op : BitVec 12) (h : Hdr) (k : KId) : Raw := { op, h, imm := at_ 0 k.val }

def dEVROUTE (r : Raw) (k : Hdr → Fin 16 → Fin 16 → Bool → Instr) : Dec Instr := do
  unused [r.d, r.a, r.b]; immTop r 9; pure (k r.h (immFin r 0 4) (immFin r 4 4) (r.imm.getLsbD 8))
def eEVROUTE (op : BitVec 12) (h : Hdr) (e g : Fin 16) (en : Bool) : Raw :=
  { op, h, imm := at_ 0 e.val ||| at_ 4 g.val ||| at_ 8 en.toNat }

def dEVWAIT (r : Raw) (k : Hdr → Fin 4 → Instr) : Dec Instr := do
  unused [r.d, r.a, r.b]; immTop r 4; need (r.imm.extractLsb' 2 2 == 3) .immBits; pure (k r.h (immFin r 0 2))
def eEVWAIT (op : BitVec 12) (h : Hdr) (g : Fin 4) : Raw := { op, h, imm := at_ 0 (12 + g.val) }

def dEVPOST (r : Raw) (k : Hdr → Fin 6 → Instr) : Dec Instr := do
  unused [r.d, r.a, r.b]; immTop r 4
  let x := (r.imm.extractLsb' 0 4).toNat - 10
  if hx : x < 6 then
    need ((r.imm.extractLsb' 0 4).toNat ≥ 10) .immBits; pure (k r.h ⟨x, hx⟩)
  else .error .immBits
def eEVPOST (op : BitVec 12) (h : Hdr) (e : Fin 6) : Raw := { op, h, imm := at_ 0 (10 + e.val) }

def dLAUNCH (r : Raw) (k : Hdr → SReg → SReg → Word → Instr) : Dec Instr := do
  unused [r.b]; let d ← decS 1 r.d; let a ← decS 2 r.a; pure (k r.h d a r.imm)
def eLAUNCH (op : BitVec 12) (h : Hdr) (d sa : SReg) (disp : Word) : Raw :=
  { op, h, d := (Field.s d).bits, a := (Field.s sa).bits, imm := disp }

def dEMIT (r : Raw) (k : Hdr → PReg → Reg → Fin 256 → Instr) : Dec Instr := do
  unused [r.b]; immTop r 8; let d ← decP r.d; let a ← decReg 1 r.a; pure (k r.h d a (immFin r 0 8))
def eEMIT (op : BitVec 12) (h : Hdr) (d : PReg) (a : Reg) (node : Fin 256) : Raw :=
  { op, h, d := (Field.p d).bits, a := encReg a, imm := at_ 0 node.val }

def dEMITW (r : Raw) (k : Hdr → Reg → Fin 256 → Instr) : Dec Instr := do
  unused [r.d, r.b]; immTop r 8; let a ← decReg 1 r.a; pure (k r.h a (immFin r 0 8))
def eEMITW (op : BitVec 12) (h : Hdr) (a : Reg) (node : Fin 256) : Raw :=
  { op, h, a := encReg a, imm := at_ 0 node.val }

def dPIPEW (r : Raw) (k : Hdr → NReg → VReg → Instr) : Dec Instr := do
  unused [r.b]; immZero r; let n ← decN r.d; let a ← decV 2 r.a; pure (k r.h n a)
def ePIPEW (op : BitVec 12) (h : Hdr) (n : NReg) (a : VReg) : Raw :=
  { op, h, d := (Field.pipe n).bits, a := (Field.v a).bits }

def dPIPER (wd : Nat) (r : Raw) (k : Hdr → VReg → NReg → Instr) : Dec Instr := do
  unused [r.b]; immZero r; let d ← decV wd r.d; let n ← decN r.a; pure (k r.h d n)
def ePIPER (op : BitVec 12) (h : Hdr) (d : VReg) (n : NReg) : Raw :=
  { op, h, d := (Field.v d).bits, a := (Field.pipe n).bits }

/-- The numbers of R13. -/
def SpecReg.num : SpecReg → Nat
  | .thread => 0 | .place => 1 | .cluster => 2 | .clcount => 3 | .karglo => 4 | .karghi => 5 | .cyclo => 6 | .cychi => 7
  | .sptlo => 8 | .spthi => 9 | .rsdepth => 10 | .pkrlo => 11 | .pkrhi => 12

def SpecReg.ofNum : Nat → Option SpecReg
  | 0 => some .thread | 1 => some .place | 2 => some .cluster | 3 => some .clcount | 4 => some .karglo
  | 5 => some .karghi | 6 => some .cyclo | 7 => some .cychi | 8 => some .sptlo | 9 => some .spthi
  | 10 => some .rsdepth | 11 => some .pkrlo | 12 => some .pkrhi | _ => none

def dSRD (r : Raw) (k : Hdr → Reg → SpecReg → Instr) : Dec Instr := do
  unused [r.a, r.b]; immTop r 8; let d ← decReg 1 r.d
  match SpecReg.ofNum (r.imm.extractLsb' 0 8).toNat with
  | some n => pure (k r.h d n)
  | none => .error .specialRegister
def eSRD (op : BitVec 12) (h : Hdr) (d : Reg) (num : SpecReg) : Raw := { op, h, d := encReg d, imm := at_ 0 num.num }

def dSWR (r : Raw) (k : Hdr → Bool → Reg → Instr) : Dec Instr := do
  unused [r.d, r.b]; immTop r 8; let a ← decReg 1 r.a
  if r.imm == 8 then pure (k r.h false a) else if r.imm == 9 then pure (k r.h true a) else .error .specialRegister
def eSWR (op : BitVec 12) (h : Hdr) (hi : Bool) (a : Reg) : Raw := { op, h, a := encReg a, imm := at_ 0 (8 + hi.toNat) }

def dKEYW (r : Raw) (k : Hdr → SReg → Instr) : Dec Instr := do
  unused [r.d, r.b]; immZero r; pure (k r.h (← decS 2 r.a))
def eKEYW (op : BitVec 12) (h : Hdr) (sa : SReg) : Raw := { op, h, a := (Field.s sa).bits }

def dTRPV (r : Raw) (k : Hdr → Reg → Fin 4 → Instr) : Dec Instr := do
  unused [r.d, r.b]; immTop r 2; let a ← decReg 1 r.a; pure (k r.h a (immFin r 0 2))
def eTRPV (op : BitVec 12) (h : Hdr) (a : Reg) (i : Fin 4) : Raw := { op, h, a := encReg a, imm := at_ 0 i.val }

def dRNG (r : Raw) (k : Hdr → SReg → SSrc → Instr) : Dec Instr := do
  unused [r.d]; let a ← decS 2 r.a; let b ← decSSrc r.b r.imm; need (r.imm == 0 || b.isImm) .immBits; pure (k r.h a b)
def eRNG (op : BitVec 12) (h : Hdr) (sa : SReg) (b : SSrc) : Raw :=
  { op, h, a := (Field.s sa).bits, b := encSSrc b, imm := b.immVal?.getD 0 }

def dQREG (r : Raw) (k : Hdr → SReg → SReg → Fin 256 → Instr) : Dec Instr := do
  unused [r.b]; immTop r 8; need (r.imm.extractLsb' 0 8 != 0) .immBits
  let d ← decS 1 r.d; let a ← decS 2 r.a; pure (k r.h d a (immFin r 0 8))
def eQREG (op : BitVec 12) (h : Hdr) (d sa : SReg) (cls : Fin 256) : Raw :=
  { op, h, d := (Field.s d).bits, a := (Field.s sa).bits, imm := at_ 0 cls.val }

def dQDEREG (r : Raw) (k : Hdr → SReg → Fin 256 → Instr) : Dec Instr := do
  unused [r.a, r.b]; immTop r 8; need (r.imm.extractLsb' 0 8 != 0) .immBits
  let d ← decS 1 r.d; pure (k r.h d (immFin r 0 8))
def eQDEREG (op : BitVec 12) (h : Hdr) (d : SReg) (cls : Fin 256) : Raw :=
  { op, h, d := (Field.s d).bits, imm := at_ 0 cls.val }

/-! ### The opcode map (R39) -/

/-- Group 0x0, control (R39): the instruction of each index. -/
noncomputable def decodeGroup0 (r : Raw) : Nat → Dec Instr
  | 0x00 => dN0 r .nop
  | 0x01 => dBR r .bra
  | 0x02 => dJX r .jmpx
  | 0x03 => dBR r .call
  | 0x04 => dJX r .callx
  | 0x05 => dN0 r .ret
  | 0x06 => dRVSET r .rvset
  | 0x07 => dRVWAIT r .rvwait
  | 0x08 => dN0 r .exit
  | 0x09 => dN0 r .yield
  | 0x0A => dC16 r .trap
  | 0x0B => dC16 r .bkpt
  | _ => .error .unlistedOpcode

/-- Group 0x1, integer and predicate (R39): the instruction of each index. -/
noncomputable def decodeGroup1 (r : Raw) : Nat → Dec Instr
  | 0x00 => dMOV r .mov
  | 0x01 => dMOVI r .movi
  | 0x02 => dA2 1 1 1 r .iadd
  | 0x03 => dA2 1 1 1 r .isub
  | 0x04 => dA2 2 2 2 r .iadd64
  | 0x05 => dA2 2 2 2 r .isub64
  | 0x06 => dA2 1 1 1 r .imul
  | 0x07 => dA2 1 1 1 r .imulhs
  | 0x08 => dA2 1 1 1 r .imulhu
  | 0x09 => dA3 1 1 1 1 r .imad
  | 0x0A => dA3 2 1 1 2 r .imadw
  | 0x0B => dA2 1 1 1 r .idivs
  | 0x0C => dA2 1 1 1 r .idivu
  | 0x0D => dA2 1 1 1 r .irems
  | 0x0E => dA2 1 1 1 r .iremu
  | 0x0F => dA2 1 1 1 r .imin
  | 0x10 => dA2 1 1 1 r .imax
  | 0x11 => dA2 1 1 1 r .umin
  | 0x12 => dA2 1 1 1 r .umax
  | 0x13 => dA1 1 1 r .iabs
  | 0x14 => dA2 1 1 1 r .and
  | 0x15 => dA2 1 1 1 r .or
  | 0x16 => dA2 1 1 1 r .xor
  | 0x17 => dA2 1 1 1 r .andn
  | 0x18 => dA1 1 1 r .not
  | 0x19 => dA2 1 1 1 r .shl
  | 0x1A => dA2 1 1 1 r .shr
  | 0x1B => dA2 1 1 1 r .sar
  | 0x1C => dA2 1 1 1 r .rotl
  | 0x1D => dA3 1 1 1 1 r .fshr
  | 0x1E => dA1 1 1 r .clz
  | 0x1F => dA1 1 1 r .popc
  | 0x20 => dA1 1 1 r .brev
  | 0x21 => dA2 1 1 1 r .bfxu
  | 0x22 => dA2 1 1 1 r .bfxs
  | 0x23 => dA3 1 1 1 1 r .bfi
  | 0x24 => dLEA r .lea
  | 0x25 => dLEA64 r .lea64
  | 0x26 => dSEL r .sel
  | 0x27 => dCMP 1 r .icmpeq
  | 0x28 => dCMP 1 r .icmpne
  | 0x29 => dCMP 1 r .icmplt
  | 0x2A => dCMP 1 r .icmple
  | 0x2B => dCMP 1 r .ucmplt
  | 0x2C => dCMP 1 r .ucmple
  | 0x2D => dCMP 2 r .icmpeq64
  | 0x2E => dCMP 2 r .ucmplt64
  | 0x2F => dP3 r .pand
  | 0x30 => dP3 r .por
  | 0x31 => dP3 r .pxor
  | 0x32 => dP2 r .pnot
  | 0x33 => dP2V r .p2v
  | 0x34 => dV2P r .v2p
  | _ => .error .unlistedOpcode

/-- Group 0x2, FP32 (R39): the instruction of each index. -/
noncomputable def decodeGroup2 (r : Raw) : Nat → Dec Instr
  | 0x00 => dA2 1 1 1 r .fadd
  | 0x01 => dA2 1 1 1 r .fsub
  | 0x02 => dA2 1 1 1 r .fmul
  | 0x03 => dA3 1 1 1 1 r .ffma
  | 0x04 => dA2 1 1 1 r .fmin
  | 0x05 => dA2 1 1 1 r .fmax
  | 0x06 => dA1 1 1 r .fabs
  | 0x07 => dA1 1 1 r .fneg
  | 0x08 => dCMP 1 r .fcmpeq
  | 0x09 => dCMP 1 r .fcmplt
  | 0x0A => dCMP 1 r .fcmple
  | 0x0B => dCMP 1 r .fcmpun
  | 0x0C => dA1 1 1 r .frcp
  | 0x0D => dA1 1 1 r .frsq
  | 0x0E => dA1 1 1 r .fsqrt
  | 0x0F => dA1 1 1 r .fexp2
  | 0x10 => dA1 1 1 r .flog2
  | 0x11 => dA1 1 1 r .fsin
  | 0x12 => dA1 1 1 r .fcos
  | 0x13 => dA1 1 1 r .ftanh
  | 0x14 => dA1 1 1 r .fsig
  | 0x15 => dA1 1 1 r .fclass
  | _ => .error .unlistedOpcode

/-- Group 0x3, FP64 (R39): the instruction of each index. -/
noncomputable def decodeGroup3 (r : Raw) : Nat → Dec Instr
  | 0x00 => dA2 2 2 2 r .dadd
  | 0x01 => dA2 2 2 2 r .dsub
  | 0x02 => dA2 2 2 2 r .dmul
  | 0x03 => dA3 2 2 2 2 r .dfma
  | 0x04 => dA2 2 2 2 r .dmin
  | 0x05 => dA2 2 2 2 r .dmax
  | 0x06 => dCMP 2 r .dcmpeq
  | 0x07 => dCMP 2 r .dcmplt
  | 0x08 => dCMP 2 r .dcmple
  | 0x09 => dCMP 2 r .dcmpun
  | 0x0A => dA1 2 2 r .drcpa
  | 0x0B => dA1 2 2 r .dsqrt
  | 0x0C => dA2 2 2 2 r .ddiv
  | _ => .error .unlistedOpcode

/-- Group 0x4, packed 16-bit (R39): the instruction of each index. -/
noncomputable def decodeGroup4 (r : Raw) : Nat → Dec Instr
  | 0x00 => dA2 1 1 1 r .hadd2
  | 0x01 => dA2 1 1 1 r .hmul2
  | 0x02 => dA3 1 1 1 1 r .hfma2
  | 0x03 => dA2 1 1 1 r .hmin2
  | 0x04 => dA2 1 1 1 r .hmax2
  | 0x05 => dA2 1 1 1 r .badd2
  | 0x06 => dA2 1 1 1 r .bmul2
  | 0x07 => dA3 1 1 1 1 r .bfma2
  | 0x08 => dA2 1 1 1 r .bmin2
  | 0x09 => dA2 1 1 1 r .bmax2
  | 0x0A => dA3 1 1 1 1 r .hdot2
  | 0x0B => dA3 1 1 1 1 r .bdot2
  | _ => .error .unlistedOpcode

/-- Group 0x5, conversion (R39): the instruction of each index. -/
noncomputable def decodeGroup5 (r : Raw) : Nat → Dec Instr
  | 0x00 => dA1 1 1 r .cvtif
  | 0x01 => dA1 1 1 r .cvtuf
  | 0x02 => dA1 1 1 r .cvtfi
  | 0x03 => dA1 1 1 r .cvtfin
  | 0x04 => dA1 1 1 r .cvtfu
  | 0x05 => dA1 2 1 r .cvtfd
  | 0x06 => dA1 1 2 r .cvtdf
  | 0x07 => dA1 2 2 r .cvtld
  | 0x08 => dA1 2 2 r .cvtdl
  | 0x09 => dA2 1 1 1 r .cvtfb2
  | 0x0A => dA2 1 1 1 r .cvtfh2
  | 0x0B => dA1 2 1 r .cvtbf
  | 0x0C => dA1 2 1 r .cvthf
  | 0x0D => dA1R 1 4 r .cvte4
  | 0x0E => dA1R 1 4 r .cvte5
  | 0x0F => dA1R 1 4 r .cvti8
  | 0x10 => dA1 4 1 r .cvte4f
  | 0x11 => dA1 4 1 r .cvte5f
  | 0x12 => dA1 4 1 r .cvti8f
  | 0x13 => dA2 4 1 1 r .cvtq4f
  | 0x14 => dQBLK r .qblk
  | 0x15 => dQBLK r .qblke4
  | _ => .error .unlistedOpcode

/-- Group 0x6, quad and group (R39): the instruction of each index. -/
noncomputable def decodeGroup6 (r : Raw) : Nat → Dec Instr
  | 0x00 => dVV 1 1 r .qswph
  | 0x01 => dVV 1 1 r .qswpv
  | 0x02 => dVV 1 1 r .qswpd
  | 0x03 => dQBRD r .qbrd
  | 0x04 => dSHFL r .shfl
  | 0x05 => dSHFL r .shflup
  | 0x06 => dSHFL r .shfldn
  | 0x07 => dSHFL r .shflx
  | 0x08 => dP2 r .voteany
  | 0x09 => dP2 r .voteall
  | 0x0A => dRP r .ballot
  | 0x0B => dVV 1 1 r .matchLanes
  | 0x0C => dRV r .gsumi
  | 0x0D => dRV r .gsumf
  | 0x0E => dRV r .gmini
  | 0x0F => dRV r .gmaxi
  | 0x10 => dRV r .gminf
  | 0x11 => dRV r .gmaxf
  | 0x12 => dVV 1 1 r .gscani
  | 0x13 => dVV 1 1 r .gscanf
  | 0x14 => dVVV r .isect
  | 0x15 => dRVV r .isectadv
  | 0x16 => dVP r .ishelp
  | 0x17 => dRP r .gcnt
  | _ => .error .unlistedOpcode

/-- Group 0x7, scratchpad (R39): the instruction of each index. -/
noncomputable def decodeGroup7 (r : Raw) : Nat → Dec Instr
  | 0x00 => dLD 1 1 r .lds8u
  | 0x01 => dLD 1 1 r .lds8s
  | 0x02 => dLD 1 1 r .lds16u
  | 0x03 => dLD 1 1 r .lds16s
  | 0x04 => dLD 1 1 r .lds32
  | 0x05 => dLD 2 1 r .lds64
  | 0x06 => dLD 4 1 r .lds128
  | 0x07 => dST 1 1 r .sts8
  | 0x08 => dST 1 1 r .sts16
  | 0x09 => dST 1 1 r .sts32
  | 0x0A => dST 1 2 r .sts64
  | 0x0B => dST 1 4 r .sts128
  | 0x0C => dLD 1 1 r .ldsh
  | 0x0D => dST 1 1 r .stsh
  | 0x0E => dAT 1 1 1 r .saadd
  | 0x0F => dAT 1 1 1 r .sacas
  | 0x10 => dAT 1 1 1 r .safadd
  | _ => .error .unlistedOpcode

/-- Group 0x8, global memory (R39): the instruction of each index. -/
noncomputable def decodeGroup8 (r : Raw) : Nat → Dec Instr
  | 0x00 => dLD 1 2 r .ld8u
  | 0x01 => dLD 1 2 r .ld8s
  | 0x02 => dLD 1 2 r .ld16u
  | 0x03 => dLD 1 2 r .ld16s
  | 0x04 => dLD 1 2 r .ld32
  | 0x05 => dLD 2 2 r .ld64
  | 0x06 => dLD 4 2 r .ld128
  | 0x07 => dST 2 1 r .st8
  | 0x08 => dST 2 1 r .st16
  | 0x09 => dST 2 1 r .st32
  | 0x0A => dST 2 2 r .st64
  | 0x0B => dST 2 4 r .st128
  | 0x0C => dLD 1 2 r .ldacq32
  | 0x0D => dLD 2 2 r .ldacq64
  | 0x0E => dST 2 1 r .strel32
  | 0x0F => dST 2 2 r .strel64
  | 0x10 => dLDV 1 2 r .gath32
  | 0x11 => dLDV 2 2 r .gath64
  | 0x12 => dST 2 1 r .scat32
  | 0x13 => dST 2 2 r .scat64
  | 0x14 => dAD r .pref
  | 0x15 => dLD 1 2 r .ldlu32
  | 0x16 => dAD r .disc
  | 0x17 => dPUTS r .puts
  | _ => .error .unlistedOpcode

/-- Group 0x9, atomics and quay (R39): the instruction of each index. -/
noncomputable def decodeGroup9 (r : Raw) : Nat → Dec Instr
  | 0x00 => dAT 1 2 1 r .aadd32
  | 0x01 => dAT 2 2 2 r .aadd64
  | 0x02 => dAT 1 2 1 r .amins32
  | 0x03 => dAT 1 2 1 r .amaxs32
  | 0x04 => dAT 1 2 1 r .aminu32
  | 0x05 => dAT 1 2 1 r .amaxu32
  | 0x06 => dAT 1 2 1 r .aand32
  | 0x07 => dAT 1 2 1 r .aor32
  | 0x08 => dAT 1 2 1 r .axor32
  | 0x09 => dAT 1 2 1 r .axch32
  | 0x0A => dAT 2 2 2 r .axch64
  | 0x0B => dAT 1 2 1 r .acas32
  | 0x0C => dAT 2 2 2 r .acas64
  | 0x0D => dAT 4 2 4 r .acas128
  | 0x0E => dAT 1 2 1 r .afaddb
  | 0x0F => dAT 1 2 1 r .afaddf
  | 0x10 => dAT 2 2 2 r .afaddd
  | 0x11 => dAT 1 2 1 r .afminb
  | 0x12 => dAT 1 2 1 r .afmaxb
  | 0x13 => dAT 1 2 1 r .afminf
  | 0x14 => dAT 1 2 1 r .afmaxf
  | 0x15 => dAT 2 2 2 r .afmind
  | 0x16 => dAT 2 2 2 r .afmaxd
  | 0x17 => dAT 1 2 1 r .afaddb2
  | 0x18 => dAT 2 2 2 r .afaddf2
  | 0x19 => dST 2 1 r .nadd32
  | 0x1A => dST 2 2 r .nadd64
  | 0x1B => dST 2 1 r .nfaddb
  | 0x1C => dST 2 1 r .nfaddf
  | 0x1D => dST 2 2 r .nfaddd
  | 0x1E => dST 2 1 r .nfaddb2
  | 0x1F => dST 2 2 r .nfaddf2
  | 0x20 => dST 2 1 r .nfminf
  | 0x21 => dST 2 1 r .nfmaxf
  | 0x22 => dST 2 1 r .nor32
  | 0x23 => dQCALL r .qcall
  | 0x24 => dQCALL r .qcalla
  | 0x25 => dQCALLN r .qcalln
  | 0x26 => dLD 1 1 r .ldo
  | 0x27 => dST 1 1 r .sto
  | 0x28 => dQRET r .qret
  | _ => .error .unlistedOpcode

/-- Group 0xA, synchronisation (R39): the instruction of each index. -/
noncomputable def decodeGroupA (r : Raw) : Nat → Dec Instr
  | 0x00 => dBARA r .bara
  | 0x01 => dBARW r .barw
  | 0x02 => dBARS r .bars
  | 0x03 => dBARX r .barx
  | 0x04 => dN0 r .fence
  | 0x05 => dFENCEX r .fencex
  | 0x06 => dAD r .marm
  | 0x07 => dMWAIT r .mwait
  | 0x08 => dCVSET r .cvset
  | 0x09 => dSIGN r .sign
  | 0x0A => dSIGNW r .signw
  | _ => .error .unlistedOpcode

/-- Group 0xB, matrix (R39): the instruction of each index. -/
noncomputable def decodeGroupB (r : Raw) : Nat → Dec Instr
  | 0x00 => dPD r .mxacq
  | 0x01 => dN0 r .mxrel
  | 0x02 => dMMA false r .mmabf
  | 0x03 => dMMA false r .mmahf
  | 0x04 => dMMA false r .mmae4
  | 0x05 => dMMA false r .mmae5
  | 0x06 => dMMA false r .mmae45
  | 0x07 => dMMA false r .mmai8
  | 0x08 => dMMA false r .mmaq4
  | 0x09 => dMMA true r .mmaf64
  | 0x0A => dMMAS r .mmase4
  | 0x0B => dMMAS r .mmasi8
  | 0x0C => dMMAJ r .mmajbf
  | 0x0D => dMMAJ r .mmaje4
  | 0x0E => dMMAG r .mmagbf
  | 0x0F => dMMAG r .mmage4
  | 0x10 => dBN r .bzero
  | 0x11 => dBRD r .brd
  | 0x12 => dBWR r .bwr
  | 0x13 => dBGIVE r .bgive
  | 0x14 => dBCLAIM r .bclaim
  | 0x15 => dBN r .bfree
  | 0x16 => dBSTAT r .bstat
  | 0x17 => dVV 2 2 r .sprn8
  | 0x18 => dVV 2 2 r .sprn4e
  | _ => .error .unlistedOpcode

/-- Group 0xC, engines and tiles (R39): the instruction of each index. -/
noncomputable def decodeGroupC (r : Raw) : Nat → Dec Instr
  | 0x00 => dQPUSH r .qpush
  | 0x01 => dQPOP 1 r .qpop
  | 0x02 => dQPOP 2 r .qtry
  | 0x03 => dTDEF r .tdef
  | 0x04 => dTSTAT r .tstat
  | 0x05 => dHN r .tfree
  | 0x06 => dHN r .twait
  | 0x07 => dKDEF r .kdef
  | 0x08 => dKREL r .krel
  | 0x09 => dEVROUTE r .evroute
  | 0x0A => dEVWAIT r .evwait
  | 0x0B => dEVPOST r .evpost
  | _ => .error .unlistedOpcode

/-- Group 0xD, tasks (R39): the instruction of each index. -/
noncomputable def decodeGroupD (r : Raw) : Nat → Dec Instr
  | 0x00 => dLAUNCH r .launch
  | 0x01 => dEMIT r .emit
  | 0x02 => dEMITW r .emitw
  | 0x03 => dPIPEW r .pipew
  | 0x04 => dPIPER 2 r .piper
  | 0x05 => dPIPER 4 r .pipetry
  | _ => .error .unlistedOpcode

/-- Group 0xE, system (R39): the instruction of each index. -/
noncomputable def decodeGroupE (r : Raw) : Nat → Dec Instr
  | 0x00 => dSRD r .srd
  | 0x01 => dSWR r .swr
  | 0x02 => dKEYW r .keyw
  | 0x03 => dLD 1 2 r .keyr
  | 0x04 => dN0 r .eret
  | 0x05 => dTRPV r .trpv
  | 0x06 => dRNG r .tlbinv
  | 0x07 => dRNG r .cachewb
  | 0x08 => dRNG r .cacheinv
  | 0x09 => dQREG r .qreg
  | 0x0A => dQDEREG r .qdereg
  | _ => .error .unlistedOpcode

/-- The decoder over the fields: group 0xF and every unlisted code are refused by name (R38). -/
noncomputable def Raw.decode (r : Raw) : Dec Instr :=
  match r.op.toNat / 256 with
  | 0x0 => decodeGroup0 r (r.op.toNat % 256)
  | 0x1 => decodeGroup1 r (r.op.toNat % 256)
  | 0x2 => decodeGroup2 r (r.op.toNat % 256)
  | 0x3 => decodeGroup3 r (r.op.toNat % 256)
  | 0x4 => decodeGroup4 r (r.op.toNat % 256)
  | 0x5 => decodeGroup5 r (r.op.toNat % 256)
  | 0x6 => decodeGroup6 r (r.op.toNat % 256)
  | 0x7 => decodeGroup7 r (r.op.toNat % 256)
  | 0x8 => decodeGroup8 r (r.op.toNat % 256)
  | 0x9 => decodeGroup9 r (r.op.toNat % 256)
  | 0xA => decodeGroupA r (r.op.toNat % 256)
  | 0xB => decodeGroupB r (r.op.toNat % 256)
  | 0xC => decodeGroupC r (r.op.toNat % 256)
  | 0xD => decodeGroupD r (r.op.toNat % 256)
  | 0xE => decodeGroupE r (r.op.toNat % 256)
  | _ => .error .unlistedOpcode

/-- The decoder over a 96-bit word: the opcode, then the reserved field, then the operand fields (R37). -/
noncomputable def decode (w : BitVec 96) : Dec Instr :=
  if reservedField w == 0 then (Raw.ofWord w).decode
  else .error .reservedField

/-- The word that twelve bytes hold, W0 at the lowest address and each word little-endian (R3, R28). -/
def wordOfBytes : List Byte → Option (BitVec 96)
  | [b0, b1, b2, b3, b4, b5, b6, b7, b8, b9, b10, b11] =>
    some (b11 ++ b10 ++ b9 ++ b8 ++ b7 ++ b6 ++ b5 ++ b4 ++ b3 ++ b2 ++ b1 ++ b0)
  | _ => none

/-- The bytes of a word as they lie in memory (R3, R28). -/
def bytesOfWord (w : BitVec 96) : List Byte := (List.range 12).map fun i => w.extractLsb' (8 * i) 8

/-- The decoder over any bytes; what follows the twelve of the instruction is left alone. -/
noncomputable def decodeBytes (bs : List Byte) : Dec Instr :=
  match wordOfBytes (bs.take 12) with
  | some w => decode w
  | none => .error .truncated

/-- What the decoder reads from an instruction whose bits are `w`, numbered as the opcode table numbers them; the
instruction is 96 bits long, and every bit above `nbits` is zero. -/
noncomputable def decodeTableWord (nbits w : Nat) : Option Instr :=
  match decodeBytes (bytesOfWord (BitVec.ofNat 96 (w % 2 ^ nbits))) with
  | .ok i => some i
  | .error _ => none

/-- The fields of an instruction's word, written from the encoding tables of R27 to R33 and of the chapters that
own each instruction; an event has no word. -/
def Instr.toRaw : Instr → Option Raw
  | .parkComplete _ => none
  | .variableResultReturn _ _ _ _ => none
  | .gathLaneArrival _ _ _ _ => none
  | .asyncRecordArrival _ => none
  | .faultReply _ _ _ => none
  | .zeroFill _ _ _ => none
  | .monitorWriteObserved _ _ => none
  | .mwaitBudgetExpiry _ _ => none
  | .storeRegistration _ => none
  | .homeAtomicPerform _ _ => none
  | .ackCountZero _ => none
  | .discardPerform _ => none
  | .quayRequestArrival _ => none
  | .quayWaveForm _ => none
  | .quayWaveEnd _ => none
  | .quayReply _ => none
  | .notify _ _ => none
  | .packetRead _ => none
  | .grid _ => none
  | .gang _ => none
  | .graph _ => none
  | .depend _ => none
  | .barrierAnd _ => none
  | .dependConditionHolds _ => none
  | .clusterPlacement _ _ => none
  | .teamStart _ => none
  | .teamRetire _ => none
  | .groupSwap _ _ _ => none
  | .agedDisplacement _ => none
  | .bundleSelect _ _ => none
  | .fallbackAdvance _ => none
  | .copy _ => none
  | .copyResume _ => none
  | .copyCancel _ => none
  | .copyStart _ _ _ => none
  | .copyComplete _ _ => none
  | .copyStop _ _ => none
  | .topk _ => none
  | .hist _ => none
  | .psum _ => none
  | .perm _ => none
  | .gateCommandComplete _ => none
  | .arrayBoundary _ => none
  | .mmaEnterQueue _ _ _ => none
  | .mmaComplete _ => none
  | .mmaFetchFault _ => none
  | .bwrComplete _ => none
  | .binCountTrigger _ _ _ _ => none
  | .binTimerExpiry _ _ _ => none
  | .seedEntry _ _ => none
  | .launchListStart _ => none
  | .rd _ _ _ _ _ _ => none
  | .wr _ _ _ _ _ _ _ => none
  | .rdr _ => none
  | .wack _ => none
  | .delta _ => none
  | .dack _ => none
  | .lock _ => none
  | .locked _ => none
  | .chunkrd _ => none
  | .chunk _ => none
  | .unlock _ => none
  | .stackLoss _ => none
  | .tierMigration _ _ _ _ => none
  | .save _ _ => none
  | .contextEvict _ => none
  | .createContext => none
  | .destroyContext => none
  | .createQueue => none
  | .destroyQueue => none
  | .resetQueue => none
  | .preempt => none
  | .resume _ _ => none
  | .migrate _ => none
  | .declareLost => none
  | .repairLane _ => none
  | .setMode => none
  | .nonce => none
  | .token => none
  | .attest => none
  | .halt => none
  | .run => none
  | .step => none
  | .snap => none
  | .nextevt => none
  | .registerWrite _ _ _ _ => none
  | .cxlMemRead _ _ => none
  | .cxlMemWrite _ _ => none
  | .backInvalidate _ => none
  | .fabricWriteArrival _ _ _ => none
  | .dataFlit _ _ => none
  | .idleFlit _ _ => none
  | .nakFlit _ _ => none
  | .retrainFlit _ => none
  | .laneRepair _ _ _ => none
  | .powerStateEntry => none
  | .wakeEvent _ => none
  | .powerThrottle _ => none
  | .packageReset => none
  | .unlistedOpcode _ => none
  | .fetchFault _ => none
  | .patrolScrub _ _ _ => none
  | .deviceDoesNotAnswer _ _ _ => none
  | .bytesLand _ _ => none
  | .nop h => some (eN0 0x000 h)
  | .bra h disp => some (eBR 0x001 h disp)
  | .jmpx h a => some (eJX 0x002 h a)
  | .call h disp => some (eBR 0x003 h disp)
  | .callx h a => some (eJX 0x004 h a)
  | .ret h => some (eN0 0x005 h)
  | .rvset h j sa disp => some (eRVSET 0x006 h j sa disp)
  | .rvwait h j => some (eRVWAIT 0x007 h j)
  | .exit h => some (eN0 0x008 h)
  | .yield h => some (eN0 0x009 h)
  | .trap h code => some (eC16 0x00A h code)
  | .bkpt h code => some (eC16 0x00B h code)
  | .mov h d a => some (eMOV 0x100 h d a)
  | .movi h d imm => some (eMOVI 0x101 h d imm)
  | .iadd h d a b => some (eA2 0x102 h d a b)
  | .isub h d a b => some (eA2 0x103 h d a b)
  | .iadd64 h d a b => some (eA2 0x104 h d a b)
  | .isub64 h d a b => some (eA2 0x105 h d a b)
  | .imul h d a b => some (eA2 0x106 h d a b)
  | .imulhs h d a b => some (eA2 0x107 h d a b)
  | .imulhu h d a b => some (eA2 0x108 h d a b)
  | .imad h d a b c => some (eA3 0x109 h d a b c)
  | .imadw h d a b c => some (eA3 0x10A h d a b c)
  | .idivs h d a b => some (eA2 0x10B h d a b)
  | .idivu h d a b => some (eA2 0x10C h d a b)
  | .irems h d a b => some (eA2 0x10D h d a b)
  | .iremu h d a b => some (eA2 0x10E h d a b)
  | .imin h d a b => some (eA2 0x10F h d a b)
  | .imax h d a b => some (eA2 0x110 h d a b)
  | .umin h d a b => some (eA2 0x111 h d a b)
  | .umax h d a b => some (eA2 0x112 h d a b)
  | .iabs h d a => some (eA1 0x113 h d a)
  | .and h d a b => some (eA2 0x114 h d a b)
  | .or h d a b => some (eA2 0x115 h d a b)
  | .xor h d a b => some (eA2 0x116 h d a b)
  | .andn h d a b => some (eA2 0x117 h d a b)
  | .not h d a => some (eA1 0x118 h d a)
  | .shl h d a b => some (eA2 0x119 h d a b)
  | .shr h d a b => some (eA2 0x11A h d a b)
  | .sar h d a b => some (eA2 0x11B h d a b)
  | .rotl h d a b => some (eA2 0x11C h d a b)
  | .fshr h d a b c => some (eA3 0x11D h d a b c)
  | .clz h d a => some (eA1 0x11E h d a)
  | .popc h d a => some (eA1 0x11F h d a)
  | .brev h d a => some (eA1 0x120 h d a)
  | .bfxu h d a b => some (eA2 0x121 h d a b)
  | .bfxs h d a b => some (eA2 0x122 h d a b)
  | .bfi h d a b c => some (eA3 0x123 h d a b c)
  | .lea h d a b sh => some (eLEA 0x124 h d a b sh)
  | .lea64 h d a b sh zx => some (eLEA64 0x125 h d a b sh zx)
  | .sel h d a b c => some (eSEL 0x126 h d a b c)
  | .icmpeq h d a b => some (eCMP 0x127 h d a b)
  | .icmpne h d a b => some (eCMP 0x128 h d a b)
  | .icmplt h d a b => some (eCMP 0x129 h d a b)
  | .icmple h d a b => some (eCMP 0x12A h d a b)
  | .ucmplt h d a b => some (eCMP 0x12B h d a b)
  | .ucmple h d a b => some (eCMP 0x12C h d a b)
  | .icmpeq64 h d a b => some (eCMP 0x12D h d a b)
  | .ucmplt64 h d a b => some (eCMP 0x12E h d a b)
  | .pand h d a b => some (eP3 0x12F h d a b)
  | .por h d a b => some (eP3 0x130 h d a b)
  | .pxor h d a b => some (eP3 0x131 h d a b)
  | .pnot h d a => some (eP2 0x132 h d a)
  | .p2v h d => some (eP2V 0x133 h d)
  | .v2p h a mask => some (eV2P 0x134 h a mask)
  | .fadd h d a b => some (eA2 0x200 h d a b)
  | .fsub h d a b => some (eA2 0x201 h d a b)
  | .fmul h d a b => some (eA2 0x202 h d a b)
  | .ffma h d a b c => some (eA3 0x203 h d a b c)
  | .fmin h d a b => some (eA2 0x204 h d a b)
  | .fmax h d a b => some (eA2 0x205 h d a b)
  | .fabs h d a => some (eA1 0x206 h d a)
  | .fneg h d a => some (eA1 0x207 h d a)
  | .fcmpeq h d a b => some (eCMP 0x208 h d a b)
  | .fcmplt h d a b => some (eCMP 0x209 h d a b)
  | .fcmple h d a b => some (eCMP 0x20A h d a b)
  | .fcmpun h d a b => some (eCMP 0x20B h d a b)
  | .frcp h d a => some (eA1 0x20C h d a)
  | .frsq h d a => some (eA1 0x20D h d a)
  | .fsqrt h d a => some (eA1 0x20E h d a)
  | .fexp2 h d a => some (eA1 0x20F h d a)
  | .flog2 h d a => some (eA1 0x210 h d a)
  | .fsin h d a => some (eA1 0x211 h d a)
  | .fcos h d a => some (eA1 0x212 h d a)
  | .ftanh h d a => some (eA1 0x213 h d a)
  | .fsig h d a => some (eA1 0x214 h d a)
  | .fclass h d a => some (eA1 0x215 h d a)
  | .dadd h d a b => some (eA2 0x300 h d a b)
  | .dsub h d a b => some (eA2 0x301 h d a b)
  | .dmul h d a b => some (eA2 0x302 h d a b)
  | .dfma h d a b c => some (eA3 0x303 h d a b c)
  | .dmin h d a b => some (eA2 0x304 h d a b)
  | .dmax h d a b => some (eA2 0x305 h d a b)
  | .dcmpeq h d a b => some (eCMP 0x306 h d a b)
  | .dcmplt h d a b => some (eCMP 0x307 h d a b)
  | .dcmple h d a b => some (eCMP 0x308 h d a b)
  | .dcmpun h d a b => some (eCMP 0x309 h d a b)
  | .drcpa h d a => some (eA1 0x30A h d a)
  | .dsqrt h d a => some (eA1 0x30B h d a)
  | .ddiv h d a b => some (eA2 0x30C h d a b)
  | .hadd2 h d a b => some (eA2 0x400 h d a b)
  | .hmul2 h d a b => some (eA2 0x401 h d a b)
  | .hfma2 h d a b c => some (eA3 0x402 h d a b c)
  | .hmin2 h d a b => some (eA2 0x403 h d a b)
  | .hmax2 h d a b => some (eA2 0x404 h d a b)
  | .badd2 h d a b => some (eA2 0x405 h d a b)
  | .bmul2 h d a b => some (eA2 0x406 h d a b)
  | .bfma2 h d a b c => some (eA3 0x407 h d a b c)
  | .bmin2 h d a b => some (eA2 0x408 h d a b)
  | .bmax2 h d a b => some (eA2 0x409 h d a b)
  | .hdot2 h d a b c => some (eA3 0x40A h d a b c)
  | .bdot2 h d a b c => some (eA3 0x40B h d a b c)
  | .cvtif h d a => some (eA1 0x500 h d a)
  | .cvtuf h d a => some (eA1 0x501 h d a)
  | .cvtfi h d a => some (eA1 0x502 h d a)
  | .cvtfin h d a => some (eA1 0x503 h d a)
  | .cvtfu h d a => some (eA1 0x504 h d a)
  | .cvtfd h d a => some (eA1 0x505 h d a)
  | .cvtdf h d a => some (eA1 0x506 h d a)
  | .cvtld h d a => some (eA1 0x507 h d a)
  | .cvtdl h d a => some (eA1 0x508 h d a)
  | .cvtfb2 h d a b => some (eA2 0x509 h d a b)
  | .cvtfh2 h d a b => some (eA2 0x50A h d a b)
  | .cvtbf h d a => some (eA1 0x50B h d a)
  | .cvthf h d a => some (eA1 0x50C h d a)
  | .cvte4 h d a => some (eA1R 0x50D h d a)
  | .cvte5 h d a => some (eA1R 0x50E h d a)
  | .cvti8 h d a => some (eA1R 0x50F h d a)
  | .cvte4f h d a => some (eA1 0x510 h d a)
  | .cvte5f h d a => some (eA1 0x511 h d a)
  | .cvti8f h d a => some (eA1 0x512 h d a)
  | .cvtq4f h d a b => some (eA2 0x513 h d a b)
  | .qblk h d a b => some (eQBLK 0x514 h d a b)
  | .qblke4 h d a b => some (eQBLK 0x515 h d a b)
  | .qswph h d a => some (eVV 0x600 h d a)
  | .qswpv h d a => some (eVV 0x601 h d a)
  | .qswpd h d a => some (eVV 0x602 h d a)
  | .qbrd h d a i => some (eQBRD 0x603 h d a i)
  | .shfl h d a b => some (eSHFL 0x604 h d a b)
  | .shflup h d a b => some (eSHFL 0x605 h d a b)
  | .shfldn h d a b => some (eSHFL 0x606 h d a b)
  | .shflx h d a b => some (eSHFL 0x607 h d a b)
  | .voteany h d a => some (eP2 0x608 h d a)
  | .voteall h d a => some (eP2 0x609 h d a)
  | .ballot h d a => some (eRP 0x60A h d a)
  | .matchLanes h d a => some (eVV 0x60B h d a)
  | .gsumi h d a => some (eRV 0x60C h d a)
  | .gsumf h d a => some (eRV 0x60D h d a)
  | .gmini h d a => some (eRV 0x60E h d a)
  | .gmaxi h d a => some (eRV 0x60F h d a)
  | .gminf h d a => some (eRV 0x610 h d a)
  | .gmaxf h d a => some (eRV 0x611 h d a)
  | .gscani h d a => some (eVV 0x612 h d a)
  | .gscanf h d a => some (eVV 0x613 h d a)
  | .isect h d a b => some (eVVV 0x614 h d a b)
  | .isectadv h d a b => some (eRVV 0x615 h d a b)
  | .ishelp h d a => some (eVP 0x616 h d a)
  | .gcnt h d a => some (eRP 0x617 h d a)
  | .lds8u h d a disp => some (eLD 0x700 h d a disp)
  | .lds8s h d a disp => some (eLD 0x701 h d a disp)
  | .lds16u h d a disp => some (eLD 0x702 h d a disp)
  | .lds16s h d a disp => some (eLD 0x703 h d a disp)
  | .lds32 h d a disp => some (eLD 0x704 h d a disp)
  | .lds64 h d a disp => some (eLD 0x705 h d a disp)
  | .lds128 h d a disp => some (eLD 0x706 h d a disp)
  | .sts8 h a b disp => some (eST 0x707 h a b disp)
  | .sts16 h a b disp => some (eST 0x708 h a b disp)
  | .sts32 h a b disp => some (eST 0x709 h a b disp)
  | .sts64 h a b disp => some (eST 0x70A h a b disp)
  | .sts128 h a b disp => some (eST 0x70B h a b disp)
  | .ldsh h d a disp => some (eLD 0x70C h d a disp)
  | .stsh h a b disp => some (eST 0x70D h a b disp)
  | .saadd h d a b disp => some (eAT 0x70E h d a b disp)
  | .sacas h d a b disp => some (eAT 0x70F h d a b disp)
  | .safadd h d a b disp => some (eAT 0x710 h d a b disp)
  | .ld8u h d a disp => some (eLD 0x800 h d a disp)
  | .ld8s h d a disp => some (eLD 0x801 h d a disp)
  | .ld16u h d a disp => some (eLD 0x802 h d a disp)
  | .ld16s h d a disp => some (eLD 0x803 h d a disp)
  | .ld32 h d a disp => some (eLD 0x804 h d a disp)
  | .ld64 h d a disp => some (eLD 0x805 h d a disp)
  | .ld128 h d a disp => some (eLD 0x806 h d a disp)
  | .st8 h a b disp => some (eST 0x807 h a b disp)
  | .st16 h a b disp => some (eST 0x808 h a b disp)
  | .st32 h a b disp => some (eST 0x809 h a b disp)
  | .st64 h a b disp => some (eST 0x80A h a b disp)
  | .st128 h a b disp => some (eST 0x80B h a b disp)
  | .ldacq32 h d a disp => some (eLD 0x80C h d a disp)
  | .ldacq64 h d a disp => some (eLD 0x80D h d a disp)
  | .strel32 h a b disp => some (eST 0x80E h a b disp)
  | .strel64 h a b disp => some (eST 0x80F h a b disp)
  | .gath32 h d a disp => some (eLDV 0x810 h d a disp)
  | .gath64 h d a disp => some (eLDV 0x811 h d a disp)
  | .scat32 h a b disp => some (eST 0x812 h a b disp)
  | .scat64 h a b disp => some (eST 0x813 h a b disp)
  | .pref h a disp => some (eAD 0x814 h a disp)
  | .ldlu32 h d a disp => some (eLD 0x815 h d a disp)
  | .disc h a disp => some (eAD 0x816 h a disp)
  | .puts h a b sc => some (ePUTS 0x817 h a b sc)
  | .aadd32 h d a b disp => some (eAT 0x900 h d a b disp)
  | .aadd64 h d a b disp => some (eAT 0x901 h d a b disp)
  | .amins32 h d a b disp => some (eAT 0x902 h d a b disp)
  | .amaxs32 h d a b disp => some (eAT 0x903 h d a b disp)
  | .aminu32 h d a b disp => some (eAT 0x904 h d a b disp)
  | .amaxu32 h d a b disp => some (eAT 0x905 h d a b disp)
  | .aand32 h d a b disp => some (eAT 0x906 h d a b disp)
  | .aor32 h d a b disp => some (eAT 0x907 h d a b disp)
  | .axor32 h d a b disp => some (eAT 0x908 h d a b disp)
  | .axch32 h d a b disp => some (eAT 0x909 h d a b disp)
  | .axch64 h d a b disp => some (eAT 0x90A h d a b disp)
  | .acas32 h d a b disp => some (eAT 0x90B h d a b disp)
  | .acas64 h d a b disp => some (eAT 0x90C h d a b disp)
  | .acas128 h d a b disp => some (eAT 0x90D h d a b disp)
  | .afaddb h d a b disp => some (eAT 0x90E h d a b disp)
  | .afaddf h d a b disp => some (eAT 0x90F h d a b disp)
  | .afaddd h d a b disp => some (eAT 0x910 h d a b disp)
  | .afminb h d a b disp => some (eAT 0x911 h d a b disp)
  | .afmaxb h d a b disp => some (eAT 0x912 h d a b disp)
  | .afminf h d a b disp => some (eAT 0x913 h d a b disp)
  | .afmaxf h d a b disp => some (eAT 0x914 h d a b disp)
  | .afmind h d a b disp => some (eAT 0x915 h d a b disp)
  | .afmaxd h d a b disp => some (eAT 0x916 h d a b disp)
  | .afaddb2 h d a b disp => some (eAT 0x917 h d a b disp)
  | .afaddf2 h d a b disp => some (eAT 0x918 h d a b disp)
  | .nadd32 h a b disp => some (eST 0x919 h a b disp)
  | .nadd64 h a b disp => some (eST 0x91A h a b disp)
  | .nfaddb h a b disp => some (eST 0x91B h a b disp)
  | .nfaddf h a b disp => some (eST 0x91C h a b disp)
  | .nfaddd h a b disp => some (eST 0x91D h a b disp)
  | .nfaddb2 h a b disp => some (eST 0x91E h a b disp)
  | .nfaddf2 h a b disp => some (eST 0x91F h a b disp)
  | .nfminf h a b disp => some (eST 0x920 h a b disp)
  | .nfmaxf h a b disp => some (eST 0x921 h a b disp)
  | .nor32 h a b disp => some (eST 0x922 h a b disp)
  | .qcall h d a b cls m => some (eQCALL 0x923 h d a b cls m)
  | .qcalla h d a b cls m => some (eQCALL 0x924 h d a b cls m)
  | .qcalln h a b cls m => some (eQCALLN 0x925 h a b cls m)
  | .ldo h d a disp => some (eLD 0x926 h d a disp)
  | .sto h a b disp => some (eST 0x927 h a b disp)
  | .qret h b => some (eQRET 0x928 h b)
  | .bara h d bar => some (eBARA 0xA00 h d bar)
  | .barw h a bar => some (eBARW 0xA01 h a bar)
  | .bars h bar => some (eBARS 0xA02 h bar)
  | .barx h sa bar => some (eBARX 0xA03 h sa bar)
  | .fence h => some (eN0 0xA04 h)
  | .fencex h x y => some (eFENCEX 0xA05 h x y)
  | .marm h a disp => some (eAD 0xA06 h a disp)
  | .mwait h d b cond budget => some (eMWAIT 0xA07 h d b cond budget)
  | .cvset h c a => some (eCVSET 0xA08 h c a)
  | .sign h c => some (eSIGN 0xA09 h c)
  | .signw h d c => some (eSIGNW 0xA0A h d c)
  | .mxacq h d => some (ePD 0xB00 h d)
  | .mxrel h => some (eN0 0xB01 h)
  | .mmabf h d a c hb kq ms ns => some (eMMA 0xB02 h d a c hb kq ms ns)
  | .mmahf h d a c hb kq ms ns => some (eMMA 0xB03 h d a c hb kq ms ns)
  | .mmae4 h d a c hb kq ms ns => some (eMMA 0xB04 h d a c hb kq ms ns)
  | .mmae5 h d a c hb kq ms ns => some (eMMA 0xB05 h d a c hb kq ms ns)
  | .mmae45 h d a c hb kq ms ns => some (eMMA 0xB06 h d a c hb kq ms ns)
  | .mmai8 h d a c hb kq ms ns => some (eMMA 0xB07 h d a c hb kq ms ns)
  | .mmaq4 h d a c hb kq ms ns => some (eMMA 0xB08 h d a c hb kq ms ns)
  | .mmaf64 h d a c hb kq ms ns => some (eMMA 0xB09 h d a c hb kq ms ns)
  | .mmase4 h d a c hb kq ms ns hx => some (eMMAS 0xB0A h d a c hb kq ms ns hx)
  | .mmasi8 h d a c hb kq ms ns hx => some (eMMAS 0xB0B h d a c hb kq ms ns hx)
  | .mmajbf h d a c hb ms ns => some (eMMAJ 0xB0C h d a c hb ms ns)
  | .mmaje4 h d a c hb ms ns => some (eMMAJ 0xB0D h d a c hb ms ns)
  | .mmagbf h d a c hb gn ms ns hx => some (eMMAG 0xB0E h d a c hb gn ms ns hx)
  | .mmage4 h d a c hb gn ms ns hx => some (eMMAG 0xB0F h d a c hb gn ms ns hx)
  | .bzero h b => some (eBN 0xB10 h b)
  | .brd h d b x => some (eBRD 0xB11 h d b x)
  | .bwr h b sb k ms ns bar => some (eBWR 0xB12 h b sb k ms ns bar)
  | .bgive h b x => some (eBGIVE 0xB13 h b x)
  | .bclaim h d b => some (eBCLAIM 0xB14 h d b)
  | .bfree h b => some (eBN 0xB15 h b)
  | .bstat h d b => some (eBSTAT 0xB16 h d b)
  | .sprn8 h d a => some (eVV 0xB17 h d a)
  | .sprn4e h d a => some (eVV 0xB18 h d a)
  | .qpush h q a => some (eQPUSH 0xC00 h q a)
  | .qpop h d q => some (eQPOP 0xC01 h d q)
  | .qtry h d q => some (eQPOP 0xC02 h d q)
  | .tdef h t sa sb ready => some (eTDEF 0xC03 h t sa sb ready)
  | .tstat h d t => some (eTSTAT 0xC04 h d t)
  | .tfree h t => some (eHN 0xC05 h t)
  | .twait h t => some (eHN 0xC06 h t)
  | .kdef h sa k => some (eKDEF 0xC07 h sa k)
  | .krel h k => some (eKREL 0xC08 h k)
  | .evroute h e g en => some (eEVROUTE 0xC09 h e g en)
  | .evwait h g => some (eEVWAIT 0xC0A h g)
  | .evpost h e => some (eEVPOST 0xC0B h e)
  | .launch h d sa disp => some (eLAUNCH 0xD00 h d sa disp)
  | .emit h d a node => some (eEMIT 0xD01 h d a node)
  | .emitw h a node => some (eEMITW 0xD02 h a node)
  | .pipew h n a => some (ePIPEW 0xD03 h n a)
  | .piper h d n => some (ePIPER 0xD04 h d n)
  | .pipetry h d n => some (ePIPER 0xD05 h d n)
  | .srd h d num => some (eSRD 0xE00 h d num)
  | .swr h hi a => some (eSWR 0xE01 h hi a)
  | .keyw h sa => some (eKEYW 0xE02 h sa)
  | .keyr h d a disp => some (eLD 0xE03 h d a disp)
  | .eret h => some (eN0 0xE04 h)
  | .trpv h a i => some (eTRPV 0xE05 h a i)
  | .tlbinv h sa b => some (eRNG 0xE06 h sa b)
  | .cachewb h sa b => some (eRNG 0xE07 h sa b)
  | .cacheinv h sa b => some (eRNG 0xE08 h sa b)
  | .qreg h d sa cls => some (eQREG 0xE09 h d sa cls)
  | .qdereg h d cls => some (eQDEREG 0xE0A h d cls)

/-- The word of an instruction; an event has none. -/
def encode (i : Instr) : Option (BitVec 96) := i.toRaw.map Raw.toWord

/-- The bytes of an instruction as they lie in memory. -/
def encodeBytes (i : Instr) : Option (List Byte) := (encode i).map bytesOfWord

end Sys2Proof
end

