-- ==== Sys2Proof/Config.lean ====
section
/-! DEFINITION. What one conforming part fixes and the manual does not: the choices inside the sets of R84 and R85 (log 4), the
keys, images and numbers that are fused in a package (log 5), the form of fabric messages (log 6), what leaves a full set
(log 8), the turns of the launch processors (log 23), and what an engine's staging serves (log 41). Each is a constant with no
body, so that no proof can see its value. -/

namespace Sys2Proof.Config

/-- The choice that a part makes among the allowed FP32 results of R84 and R85: the result's bits, by the index of the
instruction in its group and the operand's bits. Bits outside the allowed set count as the correctly rounded result. -/
opaque approx32 : Nat → BitVec 32 → BitVec 32

/-- As `approx32`, for DRCPA (R84). -/
opaque approx64 : BitVec 64 → BitVec 64

/-- The vendor's public key, whose digest is fused in the package: x then y, 32 bytes each, big-endian (R346). -/
opaque vendorKey : List (BitVec 8)

/-- What of a Snido image its own signature covers, and that signature: the manual does not lay out an image (R346). -/
opaque imageParts : List (BitVec 8) → List (BitVec 8) × List (BitVec 8)

/-- The Snido image and its rollback number at manufacture (R346). -/
opaque factoryImage : List (BitVec 8)
opaque factoryRollback : Nat

/-- The boot ROM (R349). -/
opaque romImage : List (BitVec 8)

/-- The secret number of the package's identity key (R348), and the number that a signature over a message takes. -/
opaque identitySecret : Nat
opaque signNumber : List (BitVec 8) → Nat

/-- The identity key's certificate (R349). -/
opaque certificate : List (BitVec 8)

/-- The rollback number fused at manufacture (R346). -/
opaque fusedRollback : Nat

/-- The nonce of the n-th NONCE command (R346). -/
opaque nonce : Nat → BitVec 64

/-- Which line of an L1 set goes when a line needs a way, by core, set and a program-order stamp: replacement is not architectural (R148). -/
opaque l1Victim : Nat → Nat → Nat → Nat

/-- The set of a slice that a superblock lies in: set choice is not architectural (R151). -/
opaque l2Set : Nat → Nat

/-- Which superblock of a full set leaves, by slice, set and a program-order stamp: replacement is not architectural (R151). -/
opaque l2Victim : Nat → Nat → Nat → Nat

/-- Whether an engine's read of a byte is served from what the engine has staged, by a program-order stamp and the address (R177). -/
opaque staged : Nat → Nat → Bool

/-- The I/O die, of two, whose launch processor serves a user queue (R103). -/
opaque launchDie : Nat → Bool

/-- Whether nothing has come from CXL or the fabric for 1 ms, by a program-order stamp (R344, log 29). -/
opaque linksQuiet : Nat → Bool

/-- The port that carries the accesses to another device (R336). -/
opaque fabricPort : Nat → Nat

/-- The payload of the DATA flit that carries an access to another package, whose message form the manual does not give
(R336), by the address it concerns and a program-order stamp. -/
opaque fabricMessage : Nat → Nat → List (BitVec 8)

end Sys2Proof.Config
end

