-- ==== Sys2Proof/Machine/State.lean ====
section
/-! DEFINITION. The state of the part as plain data: threads and groups (chapters 01, 05, 06), memory at its levels
(07, 08), the quays (09), queues, tiles and the copy and gate engines (10), the matrix arrays (11), launches, gangs and
graphs (05, 13), contexts, translation and fault service (14), and the devices around them (16). -/

namespace Sys2Proof.Machine

/-- A table from numbers, in one canonical form: keys strictly rising. What an unlisted key means is said at each field. -/
abbrev AMap (β : Type) := List (Nat × β)

/-! ### Traps and records -/

/-- The cause codes of R284. -/
inductive Cause where
  | illegal | badHandle | misaligned | translation | permission | key | spill | berthOwn | mmeta | quay | uncorr
  | pipe | swtrap | brk
  /-- The CAUSE 0 of a HALT's record (R350). -/
  | halt
  deriving DecidableEq, Repr

/-- The KIND field of R289. -/
inductive Kind where
  | none | fetch | read | write | readWrite | spRead | spWrite
  deriving DecidableEq, Repr

/-- A destination field and its width in registers (DEST of R288, DESTW of R317). -/
structure Dest where
  reg : Option (Reg ⊕ PReg)
  w : Nat
  deriving DecidableEq, Repr

/-- What a trap frame, a log record and a halt record hold (R288, R289), the lane's own registers apart. -/
structure Rec where
  cause : Cause
  sub : BitVec 8 := 0
  kind : Kind := .none
  async : Bool := false
  src : Path := .ls
  resume : DWord := 0
  fpc : DWord := 0
  addr : DWord := 0
  info : Word := 0
  mask : Word := 0
  aux : DWord := 0
  dest : Dest := { reg := none, w := 0 }
  /-- Words of the destination that a later writer committed before trap entry (R292). -/
  blocked : BitVec 4 := 0
  deriving DecidableEq, Repr

/-- The part of a trap that lives outside its frame: the replacement words and which of them are blocked by a later
writer (R292, R293). -/
structure TrapCtx where
  dest : Dest
  rv : List Word
  rvValid : BitVec 4
  blocked : BitVec 4
  deriving DecidableEq, Repr

/-! ### Accesses -/

/-- The operation of an atomic, the A and N forms counted as one (R188, R207). -/
inductive AtOp where
  | add32 | add64 | mins32 | maxs32 | minu32 | maxu32 | and32 | or32 | xor32 | xch32 | xch64 | cas32 | cas64 | cas128
  | faddb | faddf | faddd | fminb | fmaxb | fminf | fmaxf | fmind | fmaxd | faddb2 | faddf2
  deriving DecidableEq, Repr

/-- How a loaded value fills its destination (R66, R69). -/
inductive Ext where
  | zero | sign
  deriving DecidableEq, Repr

/-- A global access by one lane, as far as it must be kept while its checks are served (R26, R71, R300): its kind
and its data, read from committed registers at issue. -/
inductive Acc where
  /-- `higher` are the bytes that higher lanes of the instruction have supplied (R18, R71). -/
  | store (n : Nat) (data : List Byte) (rel scat : Bool) (higher : List Nat)
  | atomic (op : AtOp) (w : Nat) (b e : List Byte) (ret : Option (Nat × Dest))
  | ldlu (seq : Nat) (d : Dest)
  | disc
  | qcall (cls m size gen : Nat) (arg : DWord) (ret : Option (Nat × Dest)) (acq rel : Bool)
  | arm
  | spill (target : DWord)
  | refill
  | frame (r : Rec)
  | eret
  | fetch
  | kdef (k : Nat)
  | putsAddr (va : DWord) (data : List Byte) (sig : DWord)
  deriving DecidableEq, Repr

/-- A byte of a store: where it goes and the lanes that count it as their own latest store (R18). -/
structure StByte where
  pa : Nat
  val : Byte
  lanes : Word := 0
  deriving DecidableEq, Repr

/-- What an LS-path write that has left the lane does when it is performed (R172). `merged` are the entries, by group,
stamp and lane, that an atomic has taken up on its way (R190). -/
inductive LsKind where
  | store (bytes : List StByte) (lanes : Word)
  | atomic (op : AtOp) (pa w : Nat) (b e : List Byte) (pend : Option Nat) (merged : List (Nat × Nat × Nat))
  | disc (line : Nat)
  /-- One word of another team's scratchpad: of several lanes the highest supplies it, and all of them wrote it (R68). -/
  | stsh (share : Nat) (off : Nat) (data : List Byte) (lanes : Word)
  | quay (pa : Nat) (va : DWord) (cls m size : Nat) (arg : DWord) (pend : Option Nat)
  | puts (writes : List (Nat × List Byte)) (sig : Nat) (count : Nat) (fabric : Bool) (lanes : Word)
  deriving DecidableEq, Repr

/-- An entry of the store queues: the acknowledgement count of a group is the number of its entries (R172). -/
structure LsOp where
  g : Nat
  lane : Nat
  seq : Nat
  /-- Which part of its instruction's store it is: a store is performed word by word, or by aligned 8 bytes (R170, R172). -/
  part : Nat := 0
  pc : DWord
  ctx : Nat
  rel : Bool
  /-- A quay diversion: the request has left for the quay and waits there (R191, R199). -/
  away : Bool := false
  /-- The virtual address of its lowest lane. -/
  va : DWord := 0
  /-- The registration of a quay request's class. -/
  gen : Nat := 0
  /-- The lanes of other threads of its core that have read its value from the core's L1 copy while it is on its way to its home, by
  group and lane (R172). -/
  seen : List (Nat × Nat) := []
  kind : LsKind
  deriving DecidableEq, Repr

/-! ### Threads -/

/-- Why a lane that re-executes its instruction waits (R115, R308). -/
inductive Reason where
  | qpop (q : Nat) | pipeFull (n : Nat) (data : List Byte) | pipeEmpty (n : Nat) | tileReady (hs : List Nat)
  | tdef (h : Nat) | event (g : Nat) | mxrel | place (array slot : Nat) | launchRoom (packet : List Byte)
  /-- A berth instruction waits until the berth is not busy: the operand that its issue read, and the PKR of then (R246, R248, R303). -/
  | berth (b : Nat) (kept : List Word) (pkr : DWord)
  /-- A LAUNCH of the packet at an address waits for its release; the PKR is that of its issue (R280, R303). -/
  | release (addr pkr : DWord)
  | buffer (q : Nat)
  /-- A PUTS lane that has passed its checks, or been served: its addresses and data, and the PKR of the issue (R303, R341). -/
  | puts (va : DWord) (data : List Byte) (sig pkr : DWord)
  deriving DecidableEq, Repr

/-- What a lane does once its group's marker park is over (R23, R25, R52, R292). -/
inductive After where
  | go | exit | trap (r : Rec) | eret
  deriving DecidableEq, Repr

/-- What a thread waits for (R115); `none` is ready. -/
inductive Wait where
  | none
  /-- The park of a switch marker, with the asynchronous record that is due at it (R263). -/
  | park (a : After) (due : Option Rec)
  | token (b : Bar) (t : Word)
  | signw (c : CReg) (gen : Word) (d : PReg)
  | rejoin (j : JReg)
  | mwait (d : PReg) (b : DWord) (cond : Nat) (budget : Nat)
  | fault (va : DWord) (acc : Acc) (pkr : DWord) (rej : Option Rec)
  | again (r : Reason)
  | submit (q : Nat)
  /-- The write of a spilling CALL at a stamp (R54). -/
  | spilled (seq : Nat)
  | held
  | gath (pend : Nat)
  /-- A QREG or QDEREG whose result has still to come, or a RET, KDEF or ERET whose read has (R54, R115, R195, R216, R292). -/
  | result (pend : Nat)
  | record
  /-- A TFREE of a tile that takes effect with the row that ends FILLING or DRAINING, or when no operation names the tile any longer (R226,
  R252). -/
  | tfree (h : Nat)
  deriving DecidableEq, Repr

/-- A monitor (R183): armed at an address; `hit` holds the first satisfying value's delivery. -/
structure Monitor where
  va : DWord
  pa : Nat
  hit : Bool := false
  deriving DecidableEq, Repr

/-- One thread's own state (R9, R97). -/
structure Lane where
  live : Bool := false
  helper : Bool := false
  pc : DWord := 0
  /-- The return stack, oldest first; RSDEPTH is its length (R53). -/
  rs : List DWord := []
  spt : DWord := 0
  /-- The CYCHI snapshot (R16). -/
  cychi : Word := 0
  /-- v registers; an unlisted one reads 0 (R10). -/
  v : AMap Word := []
  /-- p1..p7 in bits 1 to 7; bit 0 is unused, p0 reads 1 (R12). -/
  p : BitVec 8 := 0
  /-- One entry per frame, innermost first; the trap depth is its length (R287). -/
  traps : List TrapCtx := []
  monitor : Option Monitor := none
  wait : Wait := .none
  /-- The program-order stamp of its last issue: a lane that re-executes its instruction keeps that of the first (R22, R26, R300). -/
  wseq : Nat := 0
  /-- Its instruction carried S and waits on something else: the park follows that wait (R23). -/
  marker : Bool := false
  /-- The asynchronous record that is due at the park which follows its wait (R263). -/
  due : Option Rec := none
  /-- The joined set (R138). -/
  jset : Nat := 0
  /-- The core cycle at which the thread last issued or became ready (R119, R120). -/
  since : Nat := 0
  /-- The thread was not ready in the core's last cycle (R120, R123). -/
  idle : Bool := false
  /-- The core cycle before which DELAY holds the thread (R24). -/
  delayed : Nat := 0
  /-- The thread yielded at its last issue (R122). -/
  yielded : Bool := false
  deriving DecidableEq, Repr

/-- A rejoin register (R134). -/
structure Rejoin where
  valid : Bool := false
  mask : Word := 0
  target : DWord := 0
  arrived : Word := 0
  deriving DecidableEq, Repr

/-- What a pending variable-latency result waits for (R21, R22). -/
inductive PKind where
  /-- A load: bytes, extension, acquire at the commit, always performed at the home. -/
  | load (n : Nat) (ext : Ext) (acq home : Bool)
  | gath (n : Nat)
  /-- A SCAT's lanes that have passed their checks and go on in cohorts (R185). -/
  | scat
  /-- LDSH of another team's scratchpad: a lane's address is share * 2^32 + offset (R68, R176). -/
  | ldsh
  /-- KEYR (R304). -/
  | keyr
  /-- A value that is fixed already. -/
  | value
  /-- A returning atomic or a quay call: performed at the home. -/
  | remote (acq : Bool)
  /-- LAUNCH: one read for the group, then a place on the launch list, for the packet that has been read (R26, R280). -/
  | launch (packet : Option (List Byte))
  /-- QREG: one read for the group (R26, R195). -/
  | qreg (cls : Nat)
  /-- BARA's token: after its release (R142). -/
  | bara (b : Bar)
  | qdereg (cls : Nat)
  /-- The read of a RET's return address: no result register, and no park waits for it (R53, R54). -/
  | refill
  /-- The read of a KDEF's record: no result register, and no park waits for it (R216). -/
  | kdef (k : Nat)
  /-- The read of an ERET's frame, likewise (R292). -/
  | eret
  deriving DecidableEq, Repr

/-- The state of one lane of a pending result. -/
inductive PLane where
  | waiting (va : DWord)
  /-- One half of a 16-byte load has been performed, the upper one or the lower one: its words, and the bytes of the other, which were
  translated with it (R170, R323). -/
  | half (va : DWord) (hi : Bool) (words : List Word) (rest : List Nat)
  | back (words : List Word)
  /-- Waits in fault service (R300). -/
  | faulted (va : DWord)
  /-- Settled without a value: the lane traps at the marker, or keeps its value (R26, R198, R301). -/
  | lost (r : Option Rec)
  deriving DecidableEq, Repr

/-- One outstanding instruction with a variable-latency result (R22, R309, R317). -/
structure Pend where
  seq : Nat
  pc : DWord
  kind : PKind
  dest : Dest
  /-- The PKR at issue (R303). -/
  pkr : DWord
  /-- The lane that supplies a scalar destination (R12). -/
  supplier : Option Nat
  lanes : AMap PLane
  /-- Bit 4L + w: word w of lane L is superseded (R22). -/
  disc : BitVec 128 := 0
  /-- The instruction carried S. -/
  parked : Bool := false
  deriving DecidableEq, Repr

/-- What a held release does once the earlier writes of the group are performed (R172, R173). -/
inductive HeldAct where
  | barA (b : Bar) (k : Nat) (pend : Nat)
  | barS (b : Bar) (k : Nat) (lanes : Word)
  | fence (lanes : Word)
  | fencex (x y : Path) (lanes : Word)
  | emit (node : Nat) (recs : List (Nat × List Byte)) (helpers : Word) (pend : Option Nat)
  /-- `started`: the work is done, a CACHEWB waits for its acknowledgements. -/
  | maint (what : Nat) (base len : DWord) (lanes : Word) (started : Bool)
  | exit (lanes : Word)
  deriving DecidableEq, Repr

/-- A release that waits for the acknowledgement count (R172). -/
structure Held where
  seq : Nat
  /-- The lanes whose thread released: their earlier loads are performed before it (R174). -/
  lanes : Word := 0
  act : HeldAct
  deriving DecidableEq, Repr

/-- A request at a quay (R197, R199). -/
structure QReq where
  /-- The requester's group and lane; `none` for a request from CXL or the fabric. -/
  who : Option (Nat × Nat)
  seq : Nat
  pc : DWord
  ctx : Nat
  pa : Nat
  va : DWord
  cls : Nat
  /-- The registration of the class that the requester found (R195). -/
  gen : Nat := 0
  m : Nat
  size : Nat
  arg : DWord
  /-- Class 0: the operation and its lane values (R207). -/
  op : Option (AtOp × List Byte × List Byte)
  pend : Option Nat
  core : Nat
  /-- The path of its record: that of a PUTS is FB. -/
  src : Path := .ls
  /-- The entries of the store queues that it stands for: group, stamp, lane. -/
  ents : List (Nat × Nat × Nat)
  deriving DecidableEq, Repr

/-- A wave's method environment (R200 to R206). -/
structure Wave where
  quay : Nat
  slot : Nat
  sb : Nat
  reqs : List QReq
  size : Nat
  /-- The object buffer (R201). -/
  buf : List Byte
  /-- Words stored, one bit each. -/
  stored : DWord
  /-- Poisoned 32-byte halves of the superblock. -/
  pois : Byte
  replies : AMap DWord
  bundles : Nat
  wr : Bool
  /-- The first method fault taken: subcode and TRAP code (R203). -/
  flt : Option (Nat × Nat)
  deriving DecidableEq, Repr

/-- A reply on its way to its requester (R198): the status, the value's words, and the subcode and TRAP code of a method
fault. -/
structure QReply where
  req : QReq
  status : Nat
  words : List Word
  sub : Nat
  code : Nat
  deriving DecidableEq, Repr

/-! ### Engine commands -/

/-- A tensor-identifier entry (R215). -/
structure TensorId where
  base : DWord
  sbase : DWord
  fmt : Nat
  bs : Bool
  rank : Nat
  dims : List Nat
  strs : List Nat
  box : List Nat
  deriving DecidableEq, Repr

/-- The states of a journal entry (R217). -/
inductive JState where
  | queued | active | stopped | finishing
  deriving DecidableEq, Repr

/-- The stop that a copy's failure brings: the status, and what its record gives (R223). -/
structure CopyStop where
  status : Nat
  cause : Cause
  sub : BitVec 8
  kind : Kind
  va : DWord
  deriving DecidableEq, Repr

/-- A copy command in a journal (R217, R218). -/
structure Copy where
  g : Nat
  gi : Nat
  team : Nat
  ctx : Nat
  words : List Word
  src : Option TensorId
  idx : Option TensorId
  dst : Option TensorId
  pkr : DWord
  order : Nat
  /-- The QPUSH that submitted it (R288). -/
  pc : DWord := 0
  st : JState := .queued
  /-- Destination bytes written, in box order. -/
  prog : Nat := 0
  /-- Bytes credited to the barrier and landed in the tile. -/
  credited : Nat := 0
  status : Nat := 0
  fromBuf : Bool := false
  /-- A row or page waits for service: the address of the access. -/
  waiting : Bool := false
  fva : DWord := 0
  stampOnly : Bool := false
  /-- Its bytes are counted in the EXP of its destination tile (R226). -/
  entered : Bool := false
  /-- Bytes of the box from `prog` on that have been read and have still to land (R170, R219). -/
  ahead : List Byte := []
  /-- Every payload write has been issued (R221), and the stamp of that moment, or of the stop whose own stamp is due (R178). -/
  issued : Bool := false
  issuedSeq : Nat := 0
  /-- Where the 64-byte granules lie that this run of the copy has translated: 2 · granule for its reads, 2 · granule + 1 for its writes
  (R221, R223). -/
  places : List (Nat × Nat) := []
  /-- It stops as soon as what it has read has landed (R223). -/
  stopping : Option CopyStop := none
  /-- The byte whose high nibble the next unit writes, and its low nibble (R219). -/
  carry : Option (DWord × Byte) := none
  /-- The index elements that have been read: position and coordinate (R220). -/
  index : List (Int × Int) := []
  /-- The bytes of the present source row as they were fetched, and the stamp of its first (R222). -/
  rowNow : List Byte := []
  rowSeq : Nat := 0
  /-- Its stamp has been written. -/
  stamped : Bool := false
  /-- A stopped copy's stamp, with this status, has still to be written (R223). -/
  stampDue : Option Nat := none
  deriving DecidableEq, Repr

/-- A gate command (R230). -/
structure Gate where
  g : Nat
  gi : Nat
  team : Nat
  ctx : Nat
  words : List Word
  tens : List (Option TensorId)
  pkr : DWord
  order : Nat
  /-- The QPUSH that submitted it (R288). -/
  pc : DWord := 0
  started : Bool := false
  /-- Output bytes still to land: address and byte, in the order the unit writes them. -/
  out : List (DWord × Byte) := []
  /-- The 64-byte granules that have been translated for writing, and where they lie (R231). -/
  granule : List (Nat × Nat) := []
  computed : Bool := false
  /-- When it was: the stamp from which its writes count as issued (R178). -/
  outSeq : Nat := 0
  /-- Its stamp has been written (R177). -/
  stamped : Bool := false
  /-- An access waits for service: its address. -/
  waiting : Bool := false
  fva : DWord := 0
  /-- The pages that service has refused, with the causes. -/
  refused : List (Nat × Cause × BitVec 8) := []
  status : Nat := 0
  finished : Bool := false
  deriving DecidableEq, Repr

/-- 32 lanes on one core, or a wave on a quay (R97, R202). -/
structure Group where
  ctx : Nat
  /-- The team's number; a wave belongs to no team. -/
  team : Nat
  /-- GRP of R14. -/
  idx : Nat
  /-- The rounded register count (R11). -/
  regs : Nat
  lanes : List Lane
  /-- s registers; an unlisted one reads 0 (R10). -/
  s : AMap Word := []
  pkr : DWord := 0
  rj : List Rejoin := List.replicate 8 {}
  /-- Outstanding results, in program order. -/
  pend : List Pend := []
  held : List Held := []
  /-- Asynchronous records that have reached the core, in arrival order (R263). -/
  recs : List Rec := []
  /-- Queue registers (R211): the assembly buffers and the result queues, oldest first. -/
  q0 : List Word := []
  q1 : List Word := []
  q2 : List Word := []
  q3 : List Word := []
  /-- The checked commands that wait for acceptance, with the tensor entries that their checks read (R213, R214, R216). -/
  sub0 : Option Copy := none
  sub2 : Option Gate := none
  /-- Issue class (R116). -/
  cls : Nat := 1
  age : Nat := 0
  active : Bool := false
  /-- The core cycle at which it entered the active set (R117), and the first in which it may issue (R114). -/
  entered : Nat := 0
  issueFrom : Nat := 0
  /-- The fallback point: its PC and the bundles issued from it (R119). -/
  fallback : Option (DWord × Nat) := none
  /-- The last point issued and how often in a row (R122). -/
  run : Option (DWord × Nat) := none
  halted : Bool := false
  /-- Under STEP: lanes that may still issue once (R350). -/
  stepping : Word := 0
  haltRec : Option Rec := none
  wave : Option Wave := none
  deriving DecidableEq, Repr

/-- Lanes of one group at one PC that issue together (R120, R121), and which words of the instruction are fetched
afresh where the core still holds an older line (R19). -/
structure Bundle where
  g : Nat
  lanes : Word
  fresh : BitVec 3 := 7
  deriving DecidableEq, Repr

/-! ### Teams, clusters and launches -/

/-- A barrier (R140). -/
structure Barrier where
  phase : Word := 0
  arr : Nat := 0
  bal : BitVec 64 := 0
  deriving DecidableEq, Repr

/-- The states of a tile (R224). -/
inductive TState where
  | empty | filling | ready | draining
  deriving DecidableEq, Repr

/-- A tile entry (R224). -/
structure Tile where
  base : Nat := 0
  size : Nat := 0
  exp : Nat := 0
  arr : Nat := 0
  st : TState := .empty
  defined : Bool := false
  deriving DecidableEq, Repr

/-- A pipe and its table entry (R267, R268). -/
structure Pipe where
  off : Nat := 0
  ebytes : Nat := 0
  depth : Nat := 0
  declared : Bool := false
  head : Word := 0
  tail : Word := 0
  wteam : Option Nat := none
  rteam : Option Nat := none
  deriving DecidableEq, Repr

/-- What a team has alone and the teams of a gang share (R97, R265): scratchpad, tiles, team barriers, event matrix
and pipes. -/
structure Share where
  /-- Scratchpad bytes; an unlisted one is 0 (R113). -/
  scratch : AMap Byte := []
  size : Nat := 0
  tiles : List Tile := List.replicate 64 {}
  bars : List Barrier := List.replicate 16 {}
  /-- route[e] as a mask of g (R228). -/
  routes : List Half := List.replicate 16 0
  counts : List Nat := List.replicate 16 0
  pipes : List Pipe := List.replicate 16 {}
  deriving DecidableEq, Repr

/-- The instruction image of R242, and what the array needs of it. -/
structure MmaImg where
  op : Nat
  d : Nat
  a : ASrc
  imm : Word
  word : BitVec 74
  deriving DecidableEq, Repr

/-- A recorded part of a convergence register (R239, R242). -/
structure Part where
  img : MmaImg
  /-- The recording group's key and index. -/
  g : Nat
  gi : Nat
  team : Nat
  /-- The address of row 0 when A is global (R235). -/
  addr : DWord
  /-- The PKR at the signature that recorded it. -/
  pkr : DWord
  /-- The instruction that recorded it (R288). -/
  pc : DWord := 0
  deriving DecidableEq, Repr

/-- A convergence register (R239). -/
structure Conv where
  exp : Nat := 0
  cnt : Nat := 0
  gen : Word := 0
  /-- By team index within the scope. -/
  parts : AMap Part := []
  deriving DecidableEq, Repr

/-- A berth (R244). -/
structure Berth where
  owner : Option Nat := none
  pending : Nat := 0
  done : Bool := false
  lstat : Nat := 0
  chunk : Nat := 0
  /-- Words; an unlisted one is 0 (R113). -/
  words : AMap Word := []
  deriving DecidableEq, Repr

/-- A kernel descriptor (R99). -/
structure KDesc where
  addr : DWord := 0
  entry : DWord := 0
  regs : Nat := 0
  teamt : Nat := 0
  clt : Nat := 0
  role : Nat := 0
  berths : Nat := 0
  l1u : Nat := 0
  scratch : Nat := 0
  node : Bool := false
  tiles : List (BitVec 64) := []
  tids : List (BitVec 64) := []
  pipes : List (BitVec 64) := []
  teamev : DWord := 0
  clev : DWord := 0
  ncount : Nat := 0
  nrec : Nat := 0
  nwait : Nat := 0
  deriving DecidableEq, Repr

/-- An entry of an extent table (R282). -/
structure Extent where
  va : DWord
  pa : Nat
  pages : Nat
  leaf : DWord
  /-- The dirty bit of each page. -/
  dirty : List Bool := []
  deriving DecidableEq, Repr

/-- A team (R97). -/
structure Team where
  ctx : Nat
  unit : Nat
  share : Nat
  core : Nat
  idx : Nat
  desc : KDesc
  /-- The keys of its groups, by GRP. -/
  groups : List Nat
  /-- Finished groups (R98). -/
  fin : List Bool
  started : Bool := false
  retired : Bool := false
  /-- The reservation slot it holds (R236). -/
  slot : Option Nat := none
  conv : List Conv := List.replicate 8 {}
  berths : List Berth := []
  karg : DWord := 0
  clIdx : Nat := 0
  clCount : Nat := 0
  pkr : DWord := 0
  spt : DWord := 0
  stride : Nat := 0
  launch : Nat := 0
  extents : List Extent := []
  /-- The stamps of the team's FENCEXs that named MX, or GT, as Y (R178). -/
  mxFences : List Nat := []
  gtFences : List Nat := []
  /-- Load-list entries still to run (R355) and the first failure's record. -/
  loads : List (BitVec 64) := []
  loadFail : Option Rec := none
  /-- Placed by a resume that is not complete: none of its groups issues (R319). -/
  resuming : Bool := false
  deriving DecidableEq, Repr

/-- The kinds of unit (R306). -/
inductive UKind where
  | cluster | gang | node
  deriving DecidableEq, Repr

/-- A cluster, a gang or a node group: what its teams share beyond `Share` (R97, R265, R306). -/
structure CUnit where
  kind : UKind
  ctx : Nat
  launch : Nat
  clIdx : Nat
  clCount : Nat
  teams : List Nat
  bars : List Barrier := List.replicate 8 {}
  conv : List Conv := List.replicate 8 {}
  /-- A save has been asked for: its record's address (R306, R312). -/
  save : Option Nat := none
  /-- Its record is being written: STATE is 1 (R312). -/
  writing : Bool := false
  /-- It is being resumed from the record at an address (R319). -/
  resume : Option Nat := none
  deriving DecidableEq, Repr

/-- A bin of a work-graph node on one die (R274). -/
structure Bin where
  recs : List (List Byte) := []
  /-- The timer runs, or has expired (R275). -/
  timer : Bool := false
  expired : Bool := false
  /-- EMITW lanes that wait, in the order in which they began (R279): group, lane, record. -/
  waiters : List (Nat × Nat × List Byte) := []
  deriving DecidableEq, Repr

/-- The kinds of packet (R104). -/
inductive LKind where
  | grid | gang | graph | depend | barrier
  deriving DecidableEq, Repr

/-- A packet that has been read: its launch (R106, R108, R264, R273). -/
structure Launch where
  kind : LKind
  ctx : Nat
  queue : Option Nat
  num : Nat
  hdr : Word
  descs : List KDesc := []
  ncl : Nat := 0
  karg : DWord := 0
  sptbase : DWord := 0
  stride : Nat := 0
  pkr : DWord := 0
  caddr : DWord := 0
  cval : DWord := 0
  conds : List (DWord × Nat × DWord) := []
  /-- The packet's 64 bytes: its descriptors are read again as it starts (R100). -/
  packet : List Byte := []
  /-- Its start (GRID and so on) has happened. -/
  started : Bool := false
  /-- Clusters or gangs placed, and retired. -/
  placed : Nat := 0
  retired : Nat := 0
  /-- The graph's bins, by node * 4 + die, and its waiting seeds by node. -/
  bins : List Bin := []
  seeds : List (List (Nat × List Byte)) := []
  deriving DecidableEq, Repr

/-- A step of a launch's completion tree: the end of a team, of a unit, of the launch (R109). -/
inductive LStep where
  | team (t : Nat) | unit (u : Nat) | launch (l : Nat)
  deriving DecidableEq, Repr

/-- A user queue (R101, R326). -/
structure UQueue where
  ctx : Nat
  desc : Nat
  ring : Nat
  log2n : Nat
  rdidx : Nat := 0
  wridx : Nat := 0
  /-- 0 ACTIVE, 1 ERROR, 2 STOPPED. -/
  st : Nat := 0
  code : Nat := 0
  /-- DESTROY_QUEUE has been asked for. -/
  dying : Bool := false
  /-- The stamp at which a packet of it last started (R103). -/
  served : Nat := 0
  deriving DecidableEq, Repr

/-- A class descriptor (R194). -/
structure QClass where
  entries : List DWord
  size : Nat
  wr : BitVec 4
  /-- QDEREG has begun (R195). -/
  closing : Bool := false
  /-- The program-order stamp of its registration: a request belongs to one registration of its id (R195). -/
  gen : Nat := 0
  deriving DecidableEq, Repr

/-- A context (R324). -/
structure Context where
  recPa : Nat
  root : Nat
  trapva : DWord
  logbase : Nat
  logn : Nat
  savearea : Nat
  tensors : AMap TensorId := []
  classes : AMap QClass := []
  evicted : Bool := false
  dead : Bool := false
  debug : Bool := false
  deriving DecidableEq, Repr

/-! ### Engines -/

/-- A row held in a line buffer, with the stamp at which its fetch began; one that may serve no copy has no bytes (R222). -/
structure BufRow where
  tensor : TensorId
  k : Nat
  coords : List Int
  bytes : List Byte
  order : Nat
  deriving DecidableEq, Repr

/-- One core (R114, R119, R145, R217). -/
structure Core where
  /-- Core cycles counted (R16). -/
  cycles : Nat := 0
  /-- The PC table: entry to PC (R119). -/
  pcs : AMap DWord := []
  journal : AMap Copy := []
  /-- The last eight source rows fetched, oldest first, and the stamps of the FENCEXs that named CP as Y (R222). -/
  rows : List BufRow := []
  cpFences : List Nat := []
  /-- L1U of the partition word: the units that serve as ways of its L1 (R145, R148). -/
  l1u : Nat := 96
  deriving DecidableEq, Repr

/-- A part of an array operation. -/
structure MmaPart where
  team : Nat
  g : Nat
  gi : Nat
  img : MmaImg
  addr : DWord
  pkr : DWord
  /-- The instruction that recorded it (R288). -/
  pc : DWord := 0
  deriving DecidableEq, Repr

/-- An array operation (R237, R252). -/
structure MmaOp where
  parts : List MmaPart
  conv : Nat
  order : Nat
  /-- It has left its queue once (R261), and its chunk and part in progress. -/
  begun : Bool := false
  chunk : Nat := 0
  part : Nat := 0
  /-- The sizes of a grouped operation, read as it starts (R255). -/
  sizes : List Nat := []
  /-- Awaits fault service at the front: the address of the access (R259). -/
  waiting : Bool := false
  fva : DWord := 0
  deriving DecidableEq, Repr

/-- A reservation slot of an array (R236, R237). -/
structure Slot where
  team : Option Nat := none
  /-- Closed, waiting for the issue condition (R238). -/
  closed : List MmaOp := []
  queue : List MmaOp := []
  deriving DecidableEq, Repr

/-- A matrix array (R232, R237). -/
structure Arr where
  slots : List Slot := List.replicate 4 {}
  cur : Nat := 3
  run : Nat := 0
  active : Option (Nat × MmaOp) := none
  /-- Operand staging: bytes that earlier operations fetched, by address, each with the stamp of its fetch (R177). -/
  staged : AMap (Byte × Nat) := []
  deriving DecidableEq, Repr

/-- A berth store in progress (R248). -/
structure BStore where
  g : Nat
  gi : Nat
  team : Nat
  ctx : Nat
  berth : Nat
  /-- A berth pair, of FP64 elements. -/
  wide : Bool
  bar : Option Bar
  pc : DWord
  pkr : DWord
  /-- Bytes still to land. -/
  out : List (DWord × Byte)
  /-- The stamp from which its writes count as issued (R178). -/
  outSeq : Nat := 0
  /-- The 64-byte granule being written, and where it lies. -/
  granule : List (Nat × Nat) := []
  waiting : Bool := false
  fva : DWord := 0
  failed : Option Nat := none
  deriving DecidableEq, Repr

/-- A quay: its requests in arrival order (R199, R209). -/
structure Quay where
  reqs : List QReq := []
  /-- Superblocks kept busy (R200), with the requests still to be rerun alone (R206). -/
  busy : AMap (List QReq) := []
  deriving DecidableEq, Repr

/-- What the device keeps of a saved unit, under the reference that its record carries (R312, R314). -/
structure SavedUnit where
  unit : CUnit
  teams : List (Nat × Team)
  /-- By team and GRP, as each group stood when it was saved. -/
  groups : List (Nat × Nat × Group)
  shares : List (Nat × Share)
  copies : List Copy
  gates : List Gate
  /-- The closed and queued operations of each team's slot. -/
  slots : List (Nat × Slot)
  /-- The resume that has begun: the record's address, and its bytes as they were read (R319). -/
  resume : Option (Nat × List Byte) := none
  deriving DecidableEq, Repr

/-! ### Translation and faults -/

/-- Who waits for a fault-queue entry (R299, R300). -/
inductive Waiter where
  | lane (g l : Nat)
  | pend (g seq l : Nat)
  | group (g seq : Nat)
  | copy (core j : Nat)
  | gate (unit : Nat)
  | mma (array : Nat) (slot : Nat)
  | bwr (i : Nat)
  | launch (w : LStep)
  | load (team : Nat) (k : Nat)
  deriving DecidableEq, Repr

/-- A fault-queue entry (R299). -/
structure FaultEntry where
  va : DWord
  cause : Cause
  sub : BitVec 8
  kind : Kind
  src : Path
  ctx : Nat
  source : Word
  waiters : List Waiter
  /-- It stands in the queue; otherwise it waits at its walker (R334). -/
  queued : Bool := true
  /-- The physical address of the L0 entry that marked a zero fill (R352). -/
  l0 : Option Nat := none
  /-- The place of the entry in the host-assisted queue (R334). -/
  addr : Option Nat := none
  deriving DecidableEq, Repr

/-- A TLB entry (R297): the leaf of a page. -/
structure TlbEntry where
  core : Nat
  ctx : Nat
  lvl : Nat
  vpn : Nat
  leaf : DWord
  pte : Nat
  deriving DecidableEq, Repr

/-- A word held in a core's L1 (R148, R172). -/
structure L1Word where
  val : Word
  owned : Bool
  /-- The other word of its aligned 8 bytes at the instant of its filling: two copies that agree on it hold one instant (R170). -/
  pair : Word := 0
  deriving DecidableEq, Repr

/-- A line held in a slice (R151, R163). -/
structure L2Line where
  dirty : Bool
  mask : Half
  pois : BitVec 2
  deriving DecidableEq, Repr

/-! ### DRAM -/

/-- A beat (R155). -/
structure Beat where
  data : List Byte
  mask : Word
  pois : Bool := false
  deriving DecidableEq, Repr

/-- The packet types of R155. -/
inductive PType where
  | rd | wr | rdr | wack | delta | dack | lock | locked | chunkrd | chunk | unlock
  deriving DecidableEq, Repr

/-- A packet on its way (R155). -/
structure Packet where
  ty : PType
  target : Nat
  off : Nat
  beats : Nat
  port : Nat
  tag : Nat
  src : Nat := 0
  cls : Nat := 0
  budget : Nat := 0
  status : Nat := 0
  data : List Beat := []
  job : Nat := 0
  /-- What its base die finds in the cells that it reads for a request, word by word: the environment's choice (R154, R161). -/
  errs : List EccState := []
  /-- Its data transfer begins after its deadline (R157, R158). -/
  late : Bool := false
  /-- The beats of earlier writes of a read's words that were held when it arrived, by word (R156). -/
  fwd : List (Nat × Beat) := []
  deriving DecidableEq, Repr

/-- A write in its base die's queue, from its arrival to its acknowledgement (R159). -/
structure HeldWrite where
  p : Packet
  /-- Its data lie in the cells and its delta is on the way. -/
  sent : Bool := false
  deriving DecidableEq, Repr

/-- A stripe-lock job of a coordinator (R160, R351). -/
structure StripeJob where
  stripe : Nat
  coord : Nat
  /-- The stack whose chunk is wanted. -/
  want : Nat
  locked : List Nat := []
  /-- Chunks collected: stack, bytes, poisoned words. -/
  chunks : List (Nat × List Byte × List Bool) := []
  /-- The request that waits; one without words stands for the chunk itself. -/
  req : Packet
  /-- The write of the queue that waits. -/
  entry : Option Nat := none
  /-- Its LOCKs have gone out: jobs of one stripe follow each other. -/
  started : Bool := false
  deriving DecidableEq, Repr

/-- A stack's health (R166). -/
structure StackHealth where
  lost : Bool := false
  proterr : Nat := 0
  uecnt : Nat := 0
  cecnt : Nat := 0
  deriving DecidableEq, Repr

/-! ### Devices -/

/-- A Dyell port (R336 to R339). -/
structure DPort where
  /-- Next SEQ to send, and the replay buffer: the DATA flits sent and not acknowledged, oldest first, by SEQ. -/
  txSeq : Nat := 0
  replay : List (Nat × List Byte) := []
  /-- Payloads that wait for room in the replay buffer or for a retraining. -/
  txq : List (List Byte) := []
  /-- Flits put on the link, oldest first. -/
  sent : List (List Byte) := []
  /-- The last good SEQ received. -/
  rxSeq : Nat := 4095
  /-- Payloads delivered, in order. -/
  rx : List (List Byte) := []
  lanemap : List Nat := List.range 9
  spareUsed : Bool := false
  narrowed : Bool := false
  /-- A retraining in progress: the failing physical lane and the four best ones. -/
  retrain : Option (Nat × List Nat) := none
  /-- Retrained; the other end's ACK is awaited (R339, step 3). -/
  resync : Bool := false
  deriving DecidableEq, Repr

/-- A halt in DBGEVT (R350). -/
structure HaltEvt where
  ctx : Nat
  /-- The slot that the group is in, or was in last. -/
  g : Nat
  /-- The group's team and its index in it: they are what the halt names (R350). -/
  team : Nat
  gi : Nat
  r : Rec
  /-- The reference of the saved unit that its group belongs to (R350). -/
  saved : Option Nat := none
  deriving DecidableEq, Repr

/-- The mode word of a managed function (R332). -/
structure Managed where
  vec : Half := 0
  host : Bool := false
  deriving DecidableEq, Repr

/-- A fault queue's place (R334). -/
structure FqCfg where
  qbase : Nat := 0
  qlog2n : Nat := 4
  head : Nat := 0
  tail : Nat := 0
  deriving DecidableEq, Repr

/-- The device registers of chapter 16 and what stands behind them. -/
structure Dev where
  apertures : List DWord := List.replicate 32 0
  devnum : Nat := 0
  /-- MBARG0 to MBARG5 (R327). -/
  mbarg : List DWord := List.replicate 6 0
  mbvec : DWord := 0
  mbcmd : Nat := 0
  mbstatus : Nat := 0
  mbbusy : Bool := false
  /-- PWRCTL (R343). -/
  ltol : Nat := 0
  force : Nat := 0
  power : Nat := 0
  throttle : Nat := 0
  /-- The debug window (R350). -/
  dbgctx : Nat := 0
  dbgtgt : Nat := 0
  dbgcmd : Nat := 0
  dbgstatus : Nat := 0
  dbgbusy : Bool := false
  dbgbuf : DWord := 0
  halts : List HaltEvt := []
  /-- The six managed functions, in the order of R331. -/
  managed : List Managed := List.replicate 6 {}
  fq : List FqCfg := List.replicate 4 {}
  /-- Deadline-miss counters by slice; an unlisted one is 0 (R158). -/
  misses : AMap Nat := []
  stkh : List StackHealth := List.replicate 16 {}
  repl : Bool := false
  lost : List Nat := []
  ports : List DPort := List.replicate 12 {}
  /-- MSI-X messages and CXL event records sent, oldest first (R104, R342). -/
  msix : List Nat := []
  events : List (List Byte) := []
  /-- Firmware: the image in place with its rollback number, if it is no longer that of manufacture, the fused counter's advance, a pending
  update, recovery mode (R346). -/
  fw : Option (Nat × List Byte) := none
  rollback : Nat := 0
  pendingFw : Option (Nat × List Byte) := none
  recovery : Bool := false
  /-- NONCE commands so far, and whether the latest nonce is still unused. -/
  nonces : Nat := 0
  nonceLive : Bool := false
  /-- The units that a running PREEMPT has selected (R329). -/
  selected : Option (List Nat) := none
  /-- The saved unit that a running RESUME brings back (R328). -/
  resuming : Option Nat := none
  /-- REPAIR_LANE has begun its repair (R328). -/
  repairing : Bool := false
  /-- Host lines that the host caches (R325). -/
  hostLines : List Nat := []
  deriving DecidableEq, Repr

/-! ### The machine -/

/-- The whole part. -/
structure State where
  /-- Bundles selected and not yet issued (R120). -/
  issueQ : List Bundle := []
  /-- The bundle being issued. -/
  cur : Bundle := { g := 0, lanes := 0 }
  /-- What happens next outside the cores' issue: the events due, in order, with what the environment and timing
  choose. -/
  agenda : List Instr := []
  /-- An event was named that could not occur, and was passed over; the policy clears this before it looks for one that can. -/
  missed : Bool := false
  /-- Program-order stamps, one counter for the package. -/
  seq : Nat := 0
  /-- Whose turn it is: the core or quay that builds next when no event is due, plus 1920 for each round of them. -/
  turn : Nat := 0
  groups : AMap Group := []
  teams : AMap Team := []
  shares : AMap Share := []
  units : AMap CUnit := []
  saved : AMap SavedUnit := []
  launches : AMap Launch := []
  /-- The launch lists of the dies: packets (R280). -/
  launchLists : List (List (Nat × List Byte)) := List.replicate 4 []
  queues : AMap UQueue := []
  contexts : AMap Context := []
  cores : AMap Core := []
  gates : AMap (List Gate) := []
  /-- The gate units' staging: bytes that earlier commands fetched, by address, each with the stamp of its fetch (R177). -/
  gateStage : AMap (AMap (Byte × Nat)) := []
  arrays : AMap Arr := []
  bstores : AMap BStore := []
  quays : AMap Quay := []
  /-- Replies of the quays on their way (R198). -/
  qreplies : List QReply := []
  /-- Asynchronous records on their way to a core: group, context, record (R263). -/
  recsOut : List (Nat × Nat × Rec) := []
  /-- The coherent value of every byte, by physical address (R171): local and host memory, and from 2^60 the memory of
  other packages as this one reaches it (R323, R340); unlisted bytes are 0. -/
  mem : AMap Byte := []
  /-- 32-byte halves that are poisoned in their slice, by pa / 32, with the bytes written since (R163). -/
  pois : AMap Word := []
  /-- Writes and context-log records of the device that wait for the end of a wave on their superblock, oldest first (R201). -/
  late : List (List (Nat × Byte)) := []
  lateLog : List (Nat × Rec) := []
  lsq : List LsOp := []
  /-- Words in the L1s, by core * 2^46 + pa / 4. -/
  l1 : AMap L1Word := []
  /-- Fetched words in the cores' instruction lines, by core * 2^46 + pa / 4 (R19). -/
  icache : AMap Word := []
  /-- Lines in the slices, by pa / 64. -/
  l2 : AMap L2Line := []
  tlb : List TlbEntry := []
  /-- Translation caches of the dies: die * 2^46 + pa / 8 of a table entry, with its context and value (R297). -/
  tcache : AMap (Nat × DWord) := []
  /-- The fault queues of the dies (R299). -/
  faults : List (List FaultEntry) := List.replicate 4 []
  /-- The bytes in the DRAM cells, by target * 2^44 + offset (R152, R168); unlisted bytes are 0. -/
  dram : AMap Byte := []
  /-- Poison-marked ECC words, by target * 2^39 + offset / 32 (R162). -/
  dramPois : List Nat := []
  /-- ECC words found uncorrectable and not yet reconstructed, by target * 2^39 + offset / 32 (R154, R161). -/
  dramUe : List Nat := []
  packets : AMap Packet := []
  /-- The write queues of the base dies (R159). -/
  writes : AMap HeldWrite := []
  /-- Requests that wait at their ports for a tag, oldest first (R156). -/
  portQ : List Packet := []
  /-- pend[s] of each stack, by stripe * 32 + stack (R159). -/
  pendPar : AMap Nat := []
  jobs : AMap StripeJob := []
  /-- Stripe locks, by stripe * 32 + stack: the job (R160). -/
  locks : AMap Nat := []
  dev : Dev := {}
  deriving DecidableEq, Repr

/-- Why a step stops the machine. -/
inductive Fault where
  /-- An instruction is executed while `cur` names no group: the model has no issue to give it. Raised by every
  instruction's wrapper; safe: the hardware never issues such a bundle. -/
  | noBundle
  deriving DecidableEq, Repr

/-- Why a step is refused. -/
inductive Refusal where
  /-- The instruction has no meaning in the model yet. Raised by the dispatcher; safe. -/
  | notModelled (mnemonic : String)
  deriving DecidableEq, Repr

/-- The package after reset: no context, no group, nothing cached, every device register at the Reset column's value. -/
def State.reset : State := {}

end Sys2Proof.Machine
end

