-- ==== Sys2Proof/Machine/Bits.lean ====
section
/-! DEFINITION. Tables in canonical form, byte order, and the bit-field helpers of R8 that the meanings share. -/

namespace Sys2Proof.Machine

/-! ### Tables -/

/-- The entry at a key. -/
def AMap.get? {β : Type} : AMap β → Nat → Option β
  | [], _ => none
  | (k, v) :: m, a => if a = k then some v else AMap.get? m a

/-- The entry at a key, or a default for an unlisted one. -/
def AMap.getD {β : Type} (m : AMap β) (a : Nat) (d : β) : β := (AMap.get? m a).getD d

/-- The table with an entry put in place. -/
def AMap.put {β : Type} : AMap β → Nat → β → AMap β
  | [], a, x => [(a, x)]
  | (k, v) :: m, a, x =>
    if a < k then (a, x) :: (k, v) :: m else if a = k then (a, x) :: m else (k, v) :: AMap.put m a x

/-- The table without the entry of a key. -/
def AMap.del {β : Type} (m : AMap β) (a : Nat) : AMap β := m.filter fun e => e.1 != a

/-- The table with an entry changed, if there is one. -/
def AMap.upd {β : Type} (m : AMap β) (a : Nat) (f : β → β) : AMap β :=
  match AMap.get? m a with
  | some x => AMap.put m a (f x)
  | none => m

/-- Writing what an unlisted key reads as removes the entry, so that equal tables are equal lists. -/
def AMap.set {β : Type} [DecidableEq β] (dflt : β) (m : AMap β) (a : Nat) (x : β) : AMap β :=
  if x = dflt then AMap.del m a else AMap.put m a x

/-- The first number from `n` that the table does not list; `fuel` bounds the search. -/
def AMap.fresh {β : Type} (m : AMap β) : Nat → Nat → Nat
  | 0, n => n
  | fuel + 1, n => if (AMap.get? m n).isSome then AMap.fresh m fuel (n + 1) else n

/-- A number the table does not list: one above its last key. -/
def AMap.next {β : Type} (m : AMap β) : Nat := m.foldl (fun k e => if e.1 + 1 > k then e.1 + 1 else k) 1

/-- Keys rise strictly, all above `lo`. -/
def AMap.sortedFrom {β : Type} : Nat → AMap β → Bool
  | _, [] => true
  | lo, (k, _) :: m => lo ≤ k && AMap.sortedFrom (k + 1) m

/-- The canonical form of a table: strictly rising keys. -/
def AMap.sorted {β : Type} (m : AMap β) : Bool := AMap.sortedFrom 0 m

/-- The canonical form of a memory: strictly rising addresses, no entry equal to what an unlisted one reads as. -/
def Memory.wf (m : AMap Byte) : Bool := AMap.sorted m && m.all fun e => e.2 != 0

/-- A member of a rising list of numbers is put in place. -/
def setIns (a : Nat) : List Nat → List Nat
  | [] => [a]
  | b :: l => if a < b then a :: b :: l else if a = b then b :: l else b :: setIns a l

/-- A member of a list of numbers is taken out. -/
def setDel (a : Nat) (l : List Nat) : List Nat := l.filter (· != a)

/-- The list with the element at an index changed. -/
def modAt {β : Type} (l : List β) (i : Nat) (f : β → β) : List β :=
  match l[i]? with
  | some x => l.set i (f x)
  | none => l

/-- The list without the element at an index. -/
def dropAt {β : Type} (l : List β) (i : Nat) : List β := l.take i ++ l.drop (i + 1)

/-! ### Byte order (R3) -/

/-- The number that bytes hold, the least significant first. -/
def leNat : List Byte → Nat
  | [] => 0
  | b :: bs => b.toNat + 256 * leNat bs

/-- The `n` bytes of a number, the least significant first. -/
def leBytes : Nat → Nat → List Byte
  | 0, _ => []
  | n + 1, x => BitVec.ofNat 8 x :: leBytes n (x / 256)

/-- A word from four bytes, and so on for any list. -/
def leWord (bs : List Byte) : Word := BitVec.ofNat 32 (leNat bs)
def leDWord (bs : List Byte) : DWord := BitVec.ofNat 64 (leNat bs)

/-- The words of a list of bytes. -/
def leWords : Nat → List Byte → List Word
  | 0, _ => []
  | n + 1, bs => leWord (bs.take 4) :: leWords n (bs.drop 4)

/-- The bytes of a list of words. -/
def wordsBytes (ws : List Word) : List Byte := ws.flatMap fun w => leBytes 4 w.toNat

/-- A pair of words as one value, the first in bits [31:0] (R3, R9). -/
def pairOf (lo hi : Word) : DWord := hi ++ lo

def loWord (x : DWord) : Word := x.extractLsb' 0 32
def hiWord (x : DWord) : Word := x.extractLsb' 32 32

/-- The words of a register pair. -/
def words64 (x : DWord) : List Word := [loWord x, hiWord x]

/-- A field of `n` bits from bit `lo` as a number. -/
def bitsAt {w : Nat} (x : BitVec w) (lo n : Nat) : Nat := (x.extractLsb' lo n).toNat

/-- A Boolean as 0 or 1. -/
def b2n (b : Bool) : Nat := if b then 1 else 0

/-! ### Lane masks -/

/-- Lane `l` is in a mask. -/
def inMask (m : Word) (l : Nat) : Bool := m.getLsbD l

/-- The mask of the lanes that satisfy a test. -/
def maskOf (f : Nat → Bool) : Word :=
  (List.range 32).foldl (fun m l => if f l then m ||| (1 <<< l : Word) else m) 0

/-- The lanes of a mask, ascending. -/
def lanesOf (m : Word) : List Nat := (List.range 32).filter (inMask m)

/-- The number of bits set. -/
def popcount {w : Nat} (x : BitVec w) : Nat := (List.range w).foldl (fun n i => if x.getLsbD i then n + 1 else n) 0

/-- The lowest lane of a mask. -/
def lowest (m : Word) : Option Nat := (lanesOf m).head?

/-! ### Integer helpers (R8) -/

/-- x clamped to the signed n-bit range. -/
def satS (n : Nat) (x : Int) : Int :=
  if x < -(2 ^ (n - 1) : Int) then -(2 ^ (n - 1) : Int) else if x > 2 ^ (n - 1) - 1 then 2 ^ (n - 1) - 1 else x

/-- x clamped to the unsigned n-bit range. -/
def satU (n : Nat) (x : Int) : Int := if x < 0 then 0 else if x > 2 ^ n - 1 then 2 ^ n - 1 else x

/-- A signed displacement added to a 64-bit base (R43). -/
def dispAdd (a : DWord) (imm : Word) : DWord := a + imm.signExtend 64

/-- Bits [63:57] of an address repeat bit 56 (R18). -/
def canonical (a : DWord) : Bool := a == (a.extractLsb' 0 57).signExtend 64

/-- The quotient rounded up. -/
def cdiv (a b : Nat) : Nat := (a + b - 1) / b

end Sys2Proof.Machine
end

