-- ==== Sys2Proof/Machine/Lanes.lean ====
section
/-! DEFINITION. Reading and writing the registers of a lane and a group (R9, R12, R22), and the accessors of the tables
that hold groups, teams and what they share. -/

namespace Sys2Proof.Machine

/-! ### Tables of the state -/

def State.group? (s : State) (g : Nat) : Option Group := AMap.get? s.groups g
def State.updGroup (s : State) (g : Nat) (f : Group → Group) : State := { s with groups := AMap.upd s.groups g f }
def State.updTeam (s : State) (t : Nat) (f : Team → Team) : State := { s with teams := AMap.upd s.teams t f }
def State.updShare (s : State) (k : Nat) (f : Share → Share) : State := { s with shares := AMap.upd s.shares k f }
def State.updUnit (s : State) (k : Nat) (f : CUnit → CUnit) : State := { s with units := AMap.upd s.units k f }
def State.updCtx (s : State) (k : Nat) (f : Context → Context) : State := { s with contexts := AMap.upd s.contexts k f }
def State.updLaunch (s : State) (k : Nat) (f : Launch → Launch) : State := { s with launches := AMap.upd s.launches k f }
def State.core (s : State) (c : Nat) : Core := AMap.getD s.cores c {}
def State.setCore (s : State) (c : Nat) (x : Core) : State := { s with cores := AMap.put s.cores c x }
def State.array (s : State) (a : Nat) : Arr := AMap.getD s.arrays a {}
def State.setArray (s : State) (a : Nat) (x : Arr) : State := { s with arrays := AMap.put s.arrays a x }
def State.gateQ (s : State) (u : Nat) : List Gate := AMap.getD s.gates u []
def State.setGate (s : State) (u : Nat) (q : List Gate) : State := { s with gates := AMap.put s.gates u q }
def State.quay (s : State) (q : Nat) : Quay := AMap.getD s.quays q {}
def State.setQuay (s : State) (q : Nat) (x : Quay) : State := { s with quays := AMap.put s.quays q x }

/-- The team of a group's number. -/
def State.team? (s : State) (t : Nat) : Option Team := AMap.get? s.teams t

/-- What a team shares (R265). -/
def State.share (s : State) (k : Nat) : Share := AMap.getD s.shares k {}

/-- The share of a group's team. -/
def State.shareOf (s : State) (G : Group) : Share :=
  match s.team? G.team with
  | some t => s.share t.share
  | none => {}

/-- Group keys: core * 64 + slot for a core's groups, and from `quayBase` the wave slots of the quays. -/
def quayBase : Nat := 24576
def coreOf (g : Nat) : Nat := g / 64
def slotOf (g : Nat) : Nat := g % 64
def isWave (g : Nat) : Bool := quayBase ≤ g
/-- The compute die of a core (R1). -/
def dieOf (core : Nat) : Nat := core / 96
/-- The tetrad of a core (R1). -/
def tetradOf (core : Nat) : Nat := core / 4

/-- The compute die that a group's accesses belong to: of its core, or of its quay (R193). -/
def dieOfGroup (g : Nat) : Nat := if isWave g then (g - quayBase) / 4 / 96 else dieOf (coreOf g)

/-! ### Lanes -/

def Group.lane (G : Group) (l : Nat) : Lane := G.lanes.getD l {}
def Group.updLane (G : Group) (l : Nat) (f : Lane → Lane) : Group := { G with lanes := modAt G.lanes l f }
def State.updLane (s : State) (g l : Nat) (f : Lane → Lane) : State := s.updGroup g fun G => G.updLane l f

/-- The lane of a group, dead if there is none. -/
def State.lane (s : State) (g l : Nat) : Lane :=
  match s.group? g with
  | some G => G.lane l
  | none => {}

/-- The lanes of a mask, changed one by one. -/
def Group.updLanes (G : Group) (m : Word) (f : Nat → Lane → Lane) : Group :=
  { G with lanes := G.lanes.mapIdx fun l x => if inMask m l then f l x else x }

/-- Lanes whose thread has not exited (R136). -/
def Group.live (G : Group) : Word := maskOf fun l => (G.lane l).live
/-- The helper lanes (R98). -/
def Group.helpers (G : Group) : Word := maskOf fun l => (G.lane l).helper

/-! ### Registers -/

/-- A v register. -/
def Lane.vreg (L : Lane) (n : Nat) : Word := AMap.getD L.v n 0
/-- An s register. -/
def Group.sreg (G : Group) (n : Nat) : Word := AMap.getD G.s n 0
/-- A predicate; p0 reads 1 (R12). -/
def Lane.pred (L : Lane) (p : PReg) : Bool := p.val == 0 || L.p.getLsbD p.val
/-- A guard (R34). -/
def Lane.guard (L : Lane) (h : Hdr) : Bool := L.pred h.g != h.gn

/-- Word `i` of an operand in a lane, as committed (R22). -/
def Group.reg (G : Group) (l : Nat) (r : Reg) (i : Nat) : Word :=
  match r with
  | .v n => (G.lane l).vreg (n.val + i)
  | .s n => G.sreg (n.val + i)

/-- The `w` words of an operand. -/
def Group.regs' (G : Group) (l : Nat) (r : Reg) (w : Nat) : List Word := (List.range w).map (G.reg l r)

/-- A pair (R9). -/
def Group.reg64 (G : Group) (l : Nat) (r : Reg) : DWord := pairOf (G.reg l r 0) (G.reg l r 1)

/-- A scalar pair. -/
def Group.sreg64 (G : Group) (n : Nat) : DWord := pairOf (G.sreg n) (G.sreg (n + 1))

/-- v registers with one written; a value of 0 is what an unlisted register reads as. -/
def Lane.setV (L : Lane) (n : Nat) (x : Word) : Lane := { L with v := AMap.set 0 L.v n x }

/-- Consecutive v registers written. -/
def Lane.setVs (L : Lane) (n : Nat) : List Word → Lane
  | [] => L
  | x :: xs => (L.setV n x).setVs (n + 1) xs

/-- s registers with one written. -/
def Group.setS (G : Group) (n : Nat) (x : Word) : Group := { G with s := AMap.set 0 G.s n x }

/-- Consecutive s registers written. -/
def Group.setSs (G : Group) (n : Nat) : List Word → Group
  | [] => G
  | x :: xs => (G.setS n x).setSs (n + 1) xs

/-- A predicate written; a write to p0 is discarded (R12). -/
def Lane.setP (L : Lane) (p : PReg) (b : Bool) : Lane :=
  if p.val = 0 then L
  else { L with p := if b then L.p ||| (1 <<< p.val : BitVec 8) else L.p &&& ~~~(1 <<< p.val : BitVec 8) }

/-! ### The last-writer rule (R22) -/

/-- Which word of a destination a register is. -/
def Dest.wordOf (d : Dest) (r : Reg ⊕ PReg) : Option Nat :=
  match d.reg, r with
  | some (.inl (.v m)), .inl (.v n) => if m.val ≤ n.val ∧ n.val < m.val + d.w then some (n.val - m.val) else none
  | some (.inl (.s m)), .inl (.s n) => if m.val ≤ n.val ∧ n.val < m.val + d.w then some (n.val - m.val) else none
  | some (.inr p), .inr q => if p = q then some 0 else none
  | _, _ => none

/-- Bits 4L + w of a superseded word in the lanes of a mask. -/
def discBits (m : Word) (w : Nat) : BitVec 128 :=
  (lanesOf m).foldl (fun b l => b ||| (1 <<< (4 * l + w) : BitVec 128)) 0

/-- Register `n` of a class, as an operand. -/
def regAt (r : Reg) (i : Nat) : Reg :=
  match r with
  | .v n => .v (Fin.ofNat 256 (n.val + i))
  | .s n => .s (Fin.ofNat 64 (n.val + i))

/-- A write at program-order stamp `seq` to a register, in the lanes of a mask, supersedes the same word of every
pending result that is earlier in program order. -/
def supersede (ps : List Pend) (seq : Nat) (m : Word) (r : Reg ⊕ PReg) : List Pend :=
  ps.map fun p =>
    if p.seq < seq then
      match p.dest.wordOf r with
      | some w => { p with disc := p.disc ||| discBits m w }
      | none => p
    else p

/-- As `supersede`, for `w` consecutive registers. -/
def supersedeN (ps : List Pend) (seq : Nat) (m : Word) (r : Reg) : Nat → List Pend
  | 0 => ps
  | w + 1 => supersede (supersedeN ps seq m r w) seq m (.inl (regAt r w))

/-- A committed write of a destination at stamp `seq`: every lane of `T` its own values into v registers; one value,
that of the lowest lane of `N`, into s registers (R12, R22). -/
def Group.write (G : Group) (seq : Nat) (T N : Word) (d : Reg) (w : Nat) (f : Nat → List Word) : Group :=
  match d with
  | .v n =>
    { G.updLanes T (fun l L => L.setVs n.val (f l)) with pend := supersedeN G.pend seq T d w }
  | .s n =>
    match lowest N with
    | some l => { G.setSs n.val (f l) with pend := supersedeN G.pend seq 0xFFFFFFFF d w }
    | none => G

/-- A committed write of a predicate in every lane of `T` (R12, R64). -/
def Group.writeP (G : Group) (seq : Nat) (T : Word) (d : PReg) (f : Nat → Bool) : Group :=
  { G.updLanes T (fun l L => L.setP d (f l)) with pend := supersede G.pend seq T (.inr d) }

/-! ### Joined sets (R138) -/

/-- The smallest joined-set number that no live lane holds. -/
def Group.freshSet (G : Group) : Nat :=
  AMap.fresh (((List.range 32).filter fun l => (G.lane l).live).foldl
    (fun (m : AMap Unit) l => AMap.put m (G.lane l).jset ()) []) 32 0

/-- The lanes of a mask become one joined set of their own. -/
def Group.joinSet (G : Group) (m : Word) : Group :=
  let n := G.freshSet
  G.updLanes m fun _ L => { L with jset := n }

/-- A lane goes on from its PC, be it after the write of its spilling CALL, which has brought it there (R51, R54). -/
def Lane.going (L : Lane) : Bool := match L.wait with
  | .none | .spilled _ => true
  | _ => false

/-- After an issue by the lanes of `m`, members of one set that have come to different PCs, or of which some wait, form
sets of their own (R138): each turn takes the first lane's companions apart from the rest. DESIGN CHOICE (log 37): a lane that waits at a
partly guarded instruction (BARS, BARW, MWAIT, FENCE, FENCEX, SIGNW, EMITW, QREG, QDEREG and every other) parts from members that go on
behind it, whether it stands at the instruction or at pc + 12. -/
def Group.resplit (G : Group) (m : Word) : Nat → Group
  | 0 => G
  | fuel + 1 =>
    match lowest m with
    | none => G
    | some l =>
      let L := G.lane l
      let same := maskOf fun k => inMask m k && (G.lane k).jset == L.jset && (G.lane k).pc == L.pc
        && (G.lane k).going == L.going
      let rest := maskOf fun k => inMask m k && (G.lane k).jset == L.jset && !inMask same k
      let G := if rest = 0 then G else G.joinSet rest
      G.resplit (m &&& ~~~same) fuel

/-- Lanes that leave a wait part from the members of their sets that stay behind, and from one another where they come to different PCs
(R138, R300). -/
def Group.partFrom (G : Group) (m : Word) : Group :=
  (List.range 32).foldl (fun G l =>
    let L := G.lane l
    let mine := maskOf fun k => inMask m k && (G.lane k).jset == L.jset && (G.lane k).pc == L.pc && (G.lane k).going == L.going
    if inMask m l && ((List.range 32).any fun k => !inMask mine k && (G.lane k).live && (G.lane k).jset == L.jset) then G.joinSet mine
    else G) G

/-! ### Special values (R14, R15) -/

/-- THREAD of a lane (R14, R266). -/
def threadWord (team grp l : Nat) (helper : Bool) : Word :=
  BitVec.ofNat 32 (b2n helper * 2 ^ 14 + team % 4 * 2 ^ 12 + grp % 16 * 2 ^ 5 + l % 32)

/-- PLACE on a core (R15). -/
def placeWord (core : Nat) : Word :=
  BitVec.ofNat 32 (core * 2 ^ 19 + tetradOf core * 2 ^ 12 + dieOf core * 2 ^ 10 + core / 4 % 24 * 2 ^ 5 + core % 4)

end Sys2Proof.Machine
end

