-- ==== Sys2Proof/Machine/Flits.lean ====
section
/-! DEFINITION. The flits of the Dyell ports: CRC, link header, sending, acknowledging and replay (R336 to R338). -/

namespace Sys2Proof.Machine

/-- Bytes of a fixed length. -/
def fixLen (n : Nat) (bs : List Byte) : List Byte := (bs ++ List.replicate n 0).take n

/-- One bit of the reflected CRC-32 of IEEE 802.3 (R336). -/
def crcBit (c : Nat) : Nat := if c % 2 = 1 then Nat.xor (c / 2) 0xEDB88320 else c / 2

/-- One byte. -/
def crcByte (c : Nat) (b : Byte) : Nat := (List.range 8).foldl (fun c _ => crcBit c) (Nat.xor c b.toNat)

/-- The CRC of bytes (R336). -/
def crc32 (bs : List Byte) : Nat := Nat.xor (bs.foldl crcByte 0xFFFFFFFF) 0xFFFFFFFF

/-- A link header (R337). -/
def linkHeader (kind : Nat) (ack : Option Nat) (seq : Nat) : Nat :=
  kind % 8 * 2 ^ 27 + (match ack with
    | some a => 2 ^ 26 + a % 4096 * 2 ^ 14
    | none => 0) + seq % 4096

/-- A flit (R336). -/
def mkFlit (kind : Nat) (ack : Option Nat) (seq : Nat) (payload : List Byte) : List Byte :=
  let b := leBytes 8 (linkHeader kind ack seq) ++ fixLen 244 payload
  b ++ leBytes 4 (crc32 b)

/-- What a received flit says (R337). -/
structure FlitView where
  kind : Nat
  ack : Option Nat
  seq : Nat
  payload : List Byte
  deriving DecidableEq, Repr

/-- A flit that is received; `none` if it fails its CRC or has a reserved KIND, and counts as lost (R337). -/
def viewFlit (f : List Byte) : Option FlitView :=
  let h := leNat (f.take 8)
  let kind := h / 2 ^ 27 % 8
  if f.length = 256 && leNat (f.drop 252) == crc32 (f.take 252) && decide (kind < 4) then
    some { kind, ack := if h / 2 ^ 26 % 2 = 1 then some (h / 2 ^ 14 % 4096) else none, seq := h % 4096
           payload := (f.drop 8).take 244 }
  else none

/-! ### Sending (R338) -/

/-- A flit goes out with the last good SEQ as its ACK. -/
def DPort.send (p : DPort) (kind seq : Nat) (payload : List Byte) : DPort :=
  { p with sent := p.sent ++ [mkFlit kind (some p.rxSeq) seq payload] }

/-- New DATA flits go out while the replay buffer has room and no retraining holds the port. -/
def DPort.sendNew (p : DPort) : List (List Byte) → DPort
  | [] => { p with txq := [] }
  | w :: ws =>
    if p.replay.length ≥ 512 || p.retrain.isSome || p.resync then { p with txq := w :: ws }
    else
      let q := p.send 0 p.txSeq w
      { q with txSeq := (p.txSeq + 1) % 4096, replay := p.replay ++ [(p.txSeq, fixLen 244 w)] }.sendNew ws

/-- An ACK covers the buffered flits up to its SEQ. -/
def DPort.acked (p : DPort) (a : Nat) : DPort :=
  match p.replay.findIdx? fun e => e.1 == a with
  | some i => { p with replay := p.replay.drop (i + 1) }
  | none => p

/-- Every buffered flit goes out again, in order. -/
def DPort.replayAll (p : DPort) : DPort := p.replay.foldl (fun (q : DPort) e => q.send 0 e.1 e.2) p

/-- After a received flit's ACK: new flits for which there is room. -/
def DPort.pump (p : DPort) : DPort := p.sendNew p.txq

/-- An access to another package leaves through a port as a message in a DATA flit. -/
def State.fabricSend (s : State) (pa : Nat) : State :=
  let d := pa / 2 ^ 48 - 2 ^ 12
  let k := Config.fabricPort (if d < 1024 then d else s.dev.devnum) % 12
  { s with dev := { s.dev with ports := modAt s.dev.ports k fun p =>
      { p with txq := p.txq ++ [Config.fabricMessage pa s.seq] }.pump } }

end Sys2Proof.Machine
end

