-- ==== Sys2Proof/Machine/Port.lean ====
section
/-! DEFINITION. Memory below the slices: the physical map (R149, R322), homes (R150), stripes and parity (R153), the memory copy of a
word (R156, R161 to R165), the ports and base dies with their packets, reads, writes and reconstructions (R155 to R162, R351), and the
places of a slice with their write-back (R151). -/

namespace Sys2Proof.Machine

/-! ### The physical map -/

/-- What a physical address holds (R149, R322). -/
inductive Region where
  | hbm | tier2 | host | fabric | regs | reserved
  deriving DecidableEq, Repr

/-- The map of R149 and R322; from 2^60 the addresses of other packages. -/
def region (pa : Nat) : Region :=
  if pa < 0x00F000000000 then .hbm
  else if pa < 0x010000000000 then .reserved
  else if pa < 0x040000000000 then .tier2
  else if pa < 0x800000000000 then .reserved
  else if pa < 0xC00000000000 then .host
  else if pa < 0xE00000000000 then .fabric
  else if pa < 0xE00006000000 then .regs
  else if pa < 2 ^ 60 then .reserved
  else .fabric

/-! ### Fabric (R323, R340)

A translated access to fabric space keeps the target that its aperture named: from 2^60 on, an address stands for a byte of
another package, as 2^60 + device · 2^48 + address. -/

def remoteBase : Nat := 2 ^ 60
def isRemote (pa : Nat) : Bool := decide (remoteBase ≤ pa)

/-- The byte of another package. -/
def remotePa (dev pa : Nat) : Nat := remoteBase + dev * 2 ^ 48 + pa

/-- The number, beyond those of other packages, of this one as its own fabric reaches it (R323). -/
def ownDevice : Nat := 1024

/-- Where the byte of an address lies: a byte that is reached through the fabric and lies in this package is at its own address. -/
def homeOf (pa : Nat) : Nat := if pa / 2 ^ 48 = 2 ^ 12 + ownDevice then pa % 2 ^ 48 else pa

/-- Only the HBM and second-tier ranges of a remote device can be reached (R323, R340). -/
def remoteOk (pa : Nat) : Bool := match region (pa % 2 ^ 48) with
  | .hbm | .tier2 => true
  | _ => false

/-- The home slice of a local address (R150). -/
def homeSlice (pa : Nat) : Nat :=
  let x := pa / 256 % 2 ^ 40
  let f := Nat.xor (Nat.xor (Nat.xor (x % 512) (x / 2 ^ 9 % 512)) (Nat.xor (x / 2 ^ 18 % 512) (x / 2 ^ 27 % 512)))
    (x / 2 ^ 36 % 16)
  512 * (x % 3) + f

/-- The quay of an address (R150, R193). -/
def quayOf (pa : Nat) : Nat := homeSlice pa / 4

/-! ### DRAM places -/

/-- The stripe of an HBM address (R153). -/
def stripeOf (pa : Nat) : Nat := pa / 256 / 15
/-- The parity stack of a stripe (R153). -/
def parityStack (s : Nat) : Nat := s % 16
/-- The data stack of an HBM address (R153). -/
def dataStack (pa : Nat) : Nat := (stripeOf pa % 16 + 1 + pa / 256 % 15) % 16

/-- Where the byte of an HBM or second-tier address lies: TARGET and OFFSET (R153, R155, R168). -/
def dramPlace (pa : Nat) : Nat × Nat :=
  match region pa with
  | .hbm => (dataStack pa, stripeOf pa * 256 + pa % 256)
  | _ =>
    let g := (pa - 0x010000000000) / 256
    (16 + g % 2, g / 2 * 256 + pa % 256)

/-- The address whose byte lies at an offset of a stack, if the chunk there is data (the inverse of R153). -/
def placePa (stack off : Nat) : Option Nat :=
  let s := off / 256
  if stack = parityStack s then none
  else some ((s * 15 + (stack + 16 - (parityStack s + 1) % 16) % 16) * 256 + off % 256)

def dramKey (target off : Nat) : Nat := target * 2 ^ 44 + off
def eccKey (target off : Nat) : Nat := target * 2 ^ 39 + off / 32
def State.dramByte (s : State) (target off : Nat) : Byte := AMap.getD s.dram (dramKey target off) 0
def State.dramBytes (s : State) (target off n : Nat) : List Byte := (List.range n).map fun i => s.dramByte target (off + i)

/-- Bytes written into the cells. -/
def State.setDram (s : State) (target off : Nat) : List Byte → State
  | [] => s
  | b :: bs => { s with dram := AMap.set 0 s.dram (dramKey target off) b }.setDram target (off + 1) bs

/-- A stack is lost (R164). -/
def State.isLost (s : State) (stack : Nat) : Bool := (s.dev.stkh.getD stack {}).lost

/-- The other stacks of a stripe that survive (R160). -/
def State.others (s : State) (stack : Nat) : List Nat :=
  (List.range 16).filter fun k => k != stack && !s.isLost k

/-- A byte of a stack once every delta on its way to it has been applied (R159). -/
def State.settledByte (s : State) (stack off : Nat) : Byte :=
  s.packets.foldl (fun b e =>
    if e.2.ty == .delta && e.2.target == stack && decide (e.2.off ≤ off) && decide (off < e.2.off + 32 * e.2.beats) then
      b ^^^ (e.2.data.getD ((off - e.2.off) / 32) { data := [], mask := 0 }).data.getD ((off - e.2.off) % 32) 0
    else b) (s.dramByte stack off)

/-- The XOR of the bytes at one offset on a list of stacks, every delta on its way applied: a reconstruction sees no chunk whose
delta has not reached parity (R160). -/
def State.xorAt (s : State) (ks : List Nat) (off : Nat) : Byte :=
  ks.foldl (fun b k => b ^^^ s.settledByte k off) 0

/-- An ECC word reads without an uncorrectable error (R162). -/
def State.eccGood (s : State) (stack off : Nat) : Bool :=
  !s.dramPois.contains (eccKey stack off) && !s.dramUe.contains (eccKey stack off) && !s.isLost stack

/-- The other fifteen words of a stripe, at one offset (R160). -/
def otherStacks (stack : Nat) : List Nat := (List.range 16).filter (· != stack)

/-! ### The mode of a function, and messages to the host -/

/-- A managed function works in host-assisted mode (R332). -/
def State.hostMode (s : State) (i : Nat) : Bool := (s.dev.managed.getD i {}).host

/-- A message to the host (R104). -/
def State.msi (s : State) (vec : Nat) : State := { s with dev := { s.dev with msix := s.dev.msix ++ [vec] } }

/-! ### The health of a stack (R154, R158, R161, R166) -/

/-- A stack's health changes; in host-assisted mode a new UECNT is told to the host (R335). -/
def State.setStack (s : State) (stack : Nat) (f : StackHealth → StackHealth) : State :=
  let u := { s with dev := { s.dev with stkh := modAt s.dev.stkh stack f } }
  if (u.dev.stkh.getD stack {}).uecnt != (s.dev.stkh.getD stack {}).uecnt && s.hostMode 2 then
    u.msi (s.dev.managed.getD 2 {}).vec.toNat
  else u

/-- UECNT counts an uncorrectable word (R161). -/
def State.countUe (s : State) (stack : Nat) : State := s.setStack stack fun h => { h with uecnt := min 255 (h.uecnt + 1) }

/-- CECNT counts a corrected word (R154). -/
def State.countCe (s : State) (stack : Nat) : State := s.setStack stack fun h => { h with cecnt := min 255 (h.cecnt + 1) }

/-- The deadline-miss counter of a port counts a miss (R158). -/
def State.countMiss (s : State) (port : Nat) : State :=
  { s with dev := { s.dev with misses := AMap.set 0 s.dev.misses port (min (2 ^ 32 - 1) (AMap.getD s.dev.misses port 0 + 1)) } }

/-! ### Words and poison markers (R159, R162, R351) -/

/-- The poison marker of a word set, or cleared. -/
def State.markWord (s : State) (stack off : Nat) (bad : Bool) : State :=
  let k := eccKey stack off
  { s with dramPois := if bad then setIns k s.dramPois else setDel k s.dramPois, dramUe := setDel k s.dramUe }

/-- A word written whole, clean. -/
def State.writeWord (s : State) (stack off : Nat) (bs : List Byte) : State := (s.setDram stack off bs).markWord stack off false

/-- The bytes of a beat over what the word held. -/
def Beat.merge (b : Beat) (old : List Byte) : List Byte :=
  old.zipIdx.map fun e => if b.mask.getLsbD e.2 then b.data.getD e.2 0 else e.1

def Beat.full (b : Beat) : Bool := b.mask == 0xFFFFFFFF && !b.pois

/-- A beat that writes nothing. -/
def noBeat : Beat := { data := [], mask := 0 }

/-- A word and its poison once a beat is written to it (R156, R162, R163). -/
def Beat.onto (b : Beat) (w : List Byte × Bool) : List Byte × Bool :=
  if b.pois then (w.1, true) else if b.full then (b.data, false) else if w.2 then w else (b.merge w.1, false)

/-- The XOR of the words at one offset on some stacks, every delta on its way applied. -/
def State.xorWord (s : State) (ks : List Nat) (off : Nat) : List Byte := (List.range 32).map fun i => s.xorAt ks (off + i)

/-- A base die that reads a word meets what the environment makes of its cells (R154, R161): a corrected error is counted, and one
that cannot be corrected is counted and waits for its reconstruction; of a word whose state is known nothing new is met. -/
def State.meet (s : State) (stack off : Nat) (e : EccState) : State :=
  let k := eccKey stack off
  if s.dramPois.contains k || s.dramUe.contains k then s
  else match e with
    | .good => s
    | .corrected => s.countCe stack
    | .uncorrectable => ({ s with dramUe := setIns k s.dramUe }).countUe stack

/-- Words are read in order. -/
def State.meetAll (s : State) (stack : Nat) (offs : List Nat) (es : List EccState) : State :=
  (offs.zip es).foldl (fun s e => s.meet stack e.1 e.2) s

/-- An uncorrectable word is reconstructed from the other stacks, or poisoned (R161, R162, R165). -/
def State.rebuild (s : State) (stack off : Nat) : State :=
  if !s.dramUe.contains (eccKey stack off) then s
  else if stack ≥ 16 then s.markWord stack off true
  else
    let os := otherStacks stack
    if os.all fun k => s.eccGood k off then s.writeWord stack off (s.xorWord os off) else s.markWord stack off true

/-- Partners that failed are poisoned (R351). -/
def State.failPartners (s : State) (ps : List Nat) (off : Nat) : State :=
  ps.foldl (fun s k => if s.eccGood k off then s else s.markWord k off true) s

/-- A parity-only write of one word of a lost chunk (R351). -/
def State.parityOnly (s : State) (stack off : Nat) (b : Beat) : State :=
  let p := parityStack (off / 256)
  let ps := (otherStacks stack).filter (· != p)
  if b.mask = 0 && !b.pois then s
  else if b.pois then s.markWord p off true
  else if b.full then
    if ps.all fun k => s.eccGood k off then
      s.writeWord p off (b.merge (s.xorWord ps off) |>.zipIdx.map fun e => e.1 ^^^ s.xorAt ps (off + e.2))
    else (s.failPartners ps off).markWord p off true
  else if s.eccGood p off && ps.all fun k => s.eccGood k off then
    let old := s.xorWord (otherStacks stack) off
    let d := (b.merge old).zipIdx.map fun e => e.1 ^^^ old.getD e.2 0
    s.writeWord p off (d.zipIdx.map fun e => e.1 ^^^ s.dramByte p (off + e.2))
  else (s.failPartners ps off).markWord p off true

/-- One word of a write, with the whole of its parity, in one step: what a WR has done once it is acknowledged (R159, R162,
R165, R168). -/
def State.putWord (s : State) (t off : Nat) (b : Beat) : State :=
  if t ≥ 16 then
    let s := s.rebuild t off
    if b.pois then s.markWord t off true
    else if s.dramPois.contains (eccKey t off) && !b.full then s
    else s.writeWord t off (b.merge (s.dramBytes t off 32))
  else
    let p := parityStack (off / 256)
    if s.isLost t then (if s.isLost p || (otherStacks t).any s.isLost then s else s.parityOnly t off b)
    else
      let s := s.rebuild t off
      if b.pois then s.markWord t off true
      else if s.dramPois.contains (eccKey t off) then
        if !b.full then s
        else
          let ps := (otherStacks t).filter (· != p)
          let s := if s.isLost p then s
            else if ps.all fun k => s.eccGood k off then
              s.writeWord p off (b.data.zipIdx.map fun e => e.1 ^^^ s.xorAt ps (off + e.2))
            else s.markWord p off true
          s.writeWord t off b.data
      else
        let old := s.dramBytes t off 32
        let new := b.merge old
        let s := s.setDram t off new
        if s.isLost p || s.dramPois.contains (eccKey p off) then s
        else s.setDram p off ((List.range 32).map fun i => s.dramByte p (off + i) ^^^ old.getD i 0 ^^^ new.getD i 0)

/-! ### The memory copy -/

/-- What the cells give for a word and whether it is poisoned: as stored, or reconstructed from the other stacks when it cannot be
corrected or its own stack is lost (R161, R162, R165, R168). -/
def State.cellCopy (s : State) (t off : Nat) : List Byte × Bool :=
  let k := eccKey t off
  if t ≥ 16 then (s.dramBytes t off 32, s.dramPois.contains k || s.dramUe.contains k)
  else if s.eccGood t off then (s.dramBytes t off 32, false)
  else if s.dramPois.contains k && !s.isLost t then (s.dramBytes t off 32, true)
  else (s.xorWord (otherStacks t) off, !((otherStacks t).all fun k => s.eccGood k off))

/-- The words of a request, each with its offset. -/
def Packet.words (p : Packet) : List (Nat × Nat) := (List.range p.beats).map fun i => (i, p.off + 32 * i)

/-- The offsets of those words. -/
def Packet.offs (p : Packet) : List Nat := p.words.map (·.2)

/-- The beat of a request for a word. -/
def Packet.beat (p : Packet) (i : Nat) : Beat := p.data.getD i noBeat

/-- The beats of a list of writes for one word, in order. -/
def beatsFor (ps : List Packet) (t off : Nat) : List Beat :=
  ps.filterMap fun p => if p.target == t then (p.words.find? fun w => w.2 == off).map fun w => p.beat w.1 else none

/-- A word once beats have been written over it; a lost chunk takes a full one only while every partner reads (R351). -/
def State.overlay (s : State) (t off : Nat) (bs : List Beat) (w : List Byte × Bool) : List Byte × Bool :=
  bs.foldl (fun w b =>
    if t < 16 && s.isLost t && b.full && !((otherStacks t).filter (· != parityStack (off / 256))).all (fun k => s.eccGood k off) then (w.1, true)
    else b.onto w) w

/-- The writes on their way whose data no cell holds yet, oldest first: those in the base dies' write queues, then those that wait at
their ports for a tag (R156, R159). -/
def State.heldWrites (s : State) : List Packet :=
  ((s.writes.filter fun e => !e.2.sent).map fun e => e.2.p) ++ s.portQ.filter fun p => p.ty == .wr

/-- The memory copy of the 32-byte word at an address, as last written back, and whether it is poisoned (R150, R156, R163, R187). -/
def State.memCopy (s : State) (pa : Nat) : List Byte × Bool :=
  match region pa with
  | .hbm | .tier2 =>
    let (t, off) := dramPlace pa
    s.overlay t off (beatsFor s.heldWrites t off) (s.cellCopy t off)
  | _ => ((List.range 32).map fun i => AMap.getD s.mem (pa + i) 0, false)

/-- The memory copy of the 32-byte word at an address is poisoned. -/
def State.memPoisoned (s : State) (pa : Nat) : Bool := (s.memCopy pa).2

/-! ### Packets (R155) -/

/-- The codes of the packet types. -/
def PType.code : PType → Nat
  | .rd => 1 | .wr => 2 | .rdr => 3 | .wack => 4 | .delta => 5 | .dack => 6 | .lock => 7 | .locked => 8 | .chunkrd => 9
  | .chunk => 10 | .unlock => 11

/-- Requests carry BUDGET, replies STATUS. -/
def PType.reply : PType → Bool
  | .rdr | .wack => true
  | _ => false

/-- The header of a packet. -/
def Packet.header (p : Packet) : BitVec 128 :=
  BitVec.ofNat 128 (p.ty.code + p.tag % 8 * 2 ^ 49 + p.port % 2 ^ 11 * 2 ^ 52 + p.off / 32 % 2 ^ 39 * 2 ^ 63 + p.target % 32 * 2 ^ 102 +
    (p.beats - 1) % 8 * 2 ^ 107 + p.cls % 4 * 2 ^ 110 + (if p.ty.reply then p.status % 16 else p.budget % 2 ^ 16) * 2 ^ 112)

/-- BUDGET of a request: the scale and the value, rounded up. -/
def budgetCode (b : Nat) : Nat :=
  if b < 2 ^ 14 then b
  else if cdiv b 16 < 2 ^ 14 then 2 ^ 14 + cdiv b 16
  else if cdiv b 256 < 2 ^ 14 then 2 * 2 ^ 14 + cdiv b 256
  else 3 * 2 ^ 14 + min (cdiv b 4096) (2 ^ 14 - 1)

/-- A packet starts on its way. -/
def State.send (s : State) (p : Packet) : State := { s with packets := AMap.put s.packets (AMap.next s.packets) p }
def State.taken (s : State) (i : Nat) : State := { s with packets := AMap.del s.packets i }

/-- A packet of the parity ring, from one stack to another (R155, R160). -/
def ringPacket (ty : PType) (src target off beats job : Nat) : Packet :=
  { ty, target, off, beats, port := src, tag := 0, src, job }

def pendKey (stripe stack : Nat) : Nat := stripe * 32 + stack

/-- A tag is in use until its reply has arrived (R156). -/
def State.tagBusy (s : State) (port tag : Nat) : Bool :=
  (s.packets.any fun e => e.2.port == port && e.2.tag == tag && e.2.ty.reply) ||
  (s.writes.any fun e => e.2.p.port == port && e.2.p.tag == tag) ||
  s.jobs.any fun e => e.2.req.port == port && e.2.req.tag == tag && e.2.req.beats != 0

/-- A free tag of a port. -/
def State.freeTag (s : State) (port : Nat) : Option Nat := (List.range 8).find? fun t => !s.tagBusy port t

/-! ### Reconstruction under the stripe lock (R160, R161, R165) -/

/-- The coordinator of a lock: the base die that needs the chunk, or the parity stack's when its stack is lost. -/
def State.coordOf (s : State) (stack stripe : Nat) : Nat := if s.isLost stack then parityStack stripe else stack

/-- LOCK goes to every surviving stack of the stripe. -/
def State.sendLocks (s : State) (j : Nat) (J : StripeJob) : State :=
  ((List.range 16).filter fun k => !s.isLost k).foldl (fun (s : State) k => s.send (ringPacket .lock J.coord k (J.stripe * 256) 0 j))
    { s with jobs := AMap.put s.jobs j { J with started := true } }

/-- A chunk is wanted, for a request or for its own sake: its reconstruction starts, or waits for the one before it on its stripe. -/
def State.startJob (s : State) (stack : Nat) (req : Packet) (entry : Option Nat) : State :=
  let stripe := req.off / 256
  let j := AMap.next s.jobs
  let J : StripeJob := { stripe, coord := s.coordOf stack stripe, want := stack, req, entry }
  if s.jobs.any fun e => e.2.stripe == stripe then { s with jobs := AMap.put s.jobs j J } else s.sendLocks j J

/-- The next reconstruction of a stripe starts. -/
def State.nextJob (s : State) (stripe : Nat) : State :=
  match s.jobs.find? fun e => e.2.stripe == stripe with
  | some e => if e.2.started then s else s.sendLocks e.1 e.2
  | none => s

/-- Words of a surviving stack that cannot be corrected: its base die reconstructs their chunk and scrubs it; with a stack lost, or in
the second tier, they are poisoned at once (R161, R165, R168). -/
def State.repair (s : State) (stack : Nat) (offs : List Nat) : State :=
  let bad := offs.filter fun off => s.dramUe.contains (eccKey stack off)
  if bad.isEmpty then s
  else if stack ≥ 16 || (otherStacks stack).any s.isLost then bad.foldl (fun s off => s.rebuild stack off) s
  else if s.jobs.any fun e => e.2.want == stack && e.2.stripe == offs.headD 0 / 256 then s
  else s.startJob stack (ringPacket .rd stack stack (offs.headD 0 / 256 * 256) 0 0) none

/-! ### Reads and writes at a base die (R156, R159, R161, R162, R165) -/

/-- The reply of a read: each word as the cells give it, under the earlier writes that were held when the read arrived. -/
def State.readReply (s : State) (p : Packet) (st : Nat) : Packet :=
  let bs := p.words.map fun w =>
    let x := s.overlay p.target w.2 ((p.fwd.filter fun e => e.1 == w.1).map (·.2)) (s.cellCopy p.target w.2)
    ({ data := x.1, mask := 0xFFFFFFFF, pois := x.2 } : Beat)
  { p with ty := .rdr, data := bs, fwd := [], errs := [], status := if bs.any (·.pois) then 3 else st }

/-- A read is served at its base die: at once, or after a reconstruction. -/
def State.serveRead (s : State) (p : Packet) : State :=
  let t := p.target
  let early := (s.writes.filter fun e => !e.2.sent).map fun e => e.2.p
  let p := { p with fwd := p.words.flatMap fun w => (beatsFor early t w.2).map fun b => (w.1, b) }
  let lost := t < 16 && s.isLost t
  let fresh := (p.offs.zip p.errs).any fun e => e.2 == .corrected && !(s.dramPois.contains (eccKey t e.1)) && !(s.dramUe.contains (eccKey t e.1))
  let s := if lost then s else s.meetAll t p.offs p.errs
  let bad := p.offs.any fun off => s.dramUe.contains (eccKey t off)
  if t < 16 && (lost || bad) && !((otherStacks t).any s.isLost) then s.startJob t p none
  else
    let s := if lost then s else s.repair t p.offs
    s.send (s.readReply p (b2n fresh))

/-- A write of the queue is acknowledged. -/
def State.ackWrite (s : State) (k : Nat) (p : Packet) : State :=
  { s with writes := AMap.del s.writes k }.send { p with ty := .wack, data := [], errs := [] }

/-- A write takes effect at its base die, with a delta for the parity stack: the stripe is not locked. -/
def State.applyWrite (s : State) (k : Nat) (p : Packet) : State :=
  let t := p.target
  if t ≥ 16 then (p.words.foldl (fun s w => s.putWord t w.2 (p.beat w.1)) s).ackWrite k p
  else
    let stripe := p.off / 256
    let par := parityStack stripe
    let olds := p.words.map fun w => s.dramBytes t w.2 32
    let news := p.words.map fun w =>
      let b := p.beat w.1
      if b.pois || s.dramPois.contains (eccKey t w.2) then olds.getD w.1 [] else b.merge (olds.getD w.1 [])
    let s := p.words.foldl (fun s w => if (p.beat w.1).pois then s.markWord t w.2 true else s.setDram t w.2 (news.getD w.1 [])) s
    if s.isLost par then s.ackWrite k p
    else
      let n := pendKey stripe t
      let ds := olds.zipWith (fun o n => ({ data := o.zipWith (· ^^^ ·) n, mask := 0xFFFFFFFF } : Beat)) news
      { s with
        pendPar := AMap.put s.pendPar n (AMap.getD s.pendPar n 0 + 1)
        writes := AMap.put s.writes k { p, sent := true } }.send
        { ringPacket .delta t par p.off p.beats 0 with data := ds }

/-- A write at the head of its base die's queue: it waits while its stripe is locked there, takes the lock when it covers a
poisoned word in full, meets an uncorrectable one or its stack is lost, and else takes effect. -/
def State.serveWrite (s : State) (k : Nat) : State :=
  match AMap.get? s.writes k with
  | none => s
  | some e =>
    let p := e.p
    let t := p.target
    let stripe := p.off / 256
    let other := (otherStacks t).any s.isLost
    if e.sent || (s.jobs.any fun j => j.2.entry == some k) then s
    else if t ≥ 16 then
      let s := s.meetAll t p.offs p.errs
      s.applyWrite k p
    else if s.isLost t then (if other then s.ackWrite k p else s.startJob t p (some k))
    else if (AMap.get? s.locks (pendKey stripe t)).isSome || (s.jobs.any fun j => j.2.stripe == stripe && j.2.coord == t) then s
    else
      let reads := p.words.filter fun w => !(s.isLost (parityStack stripe)) || ((p.beat w.1).mask != 0 && !(p.beat w.1).full)
      let s := s.meetAll t (reads.map (·.2)) (reads.map fun w => p.errs.getD w.1 .good)
      let bad := p.words.any fun w => s.dramUe.contains (eccKey t w.2) || (s.dramPois.contains (eccKey t w.2) && (p.beat w.1).full)
      if !bad then s.applyWrite k p
      else if other then (p.words.foldl (fun s w => s.putWord t w.2 (p.beat w.1)) s).ackWrite k p
      else s.startJob t p (some k)

/-- Writes that a lock held proceed in their order. -/
def State.release (s : State) (stripe stack : Nat) : State :=
  (s.writes.filter fun e => e.2.p.target == stack && e.2.p.off / 256 == stripe).foldl (fun s e => s.serveWrite e.1) s

/-! ### The ports (R155 to R158) -/

/-- A request reaches its base die. -/
def State.accept (s : State) (p : Packet) : State :=
  let s := if p.late && p.budget != 0 then s.countMiss p.port else s
  let p := { p with late := false }
  match p.ty with
  | .wr =>
    let k := AMap.next s.writes
    { s with writes := AMap.put s.writes k { p } }.serveWrite k
  | _ => s.serveRead p

/-- A port sends a request with its tag, or with all eight in use queues it. -/
def State.request (s : State) (p : Packet) : State :=
  if (s.freeTag p.port).isSome then s.accept p else { s with portQ := s.portQ ++ [p] }

/-- A tag of a port has become free: its first waiting request takes it. -/
def State.tagFreed (s : State) (port : Nat) : State :=
  match s.portQ.findIdx? fun p => p.port == port, s.freeTag port with
  | some i, some tag =>
    match s.portQ[i]? with
    | some p => { s with portQ := dropAt s.portQ i }.accept { p with tag }
    | none => s
  | _, _ => s

/-! ### Write-back of lines (R151, R163) -/

/-- The byte mask of half `h` of a line's marked words. -/
def halfMask (l : L2Line) (h : Nat) : Word :=
  maskOf fun i => l.mask.getLsbD (8 * h + i / 4)

/-- The beat that writes back half `h` of a line. -/
def State.beatOf (s : State) (line h : Nat) : Beat :=
  let l := AMap.getD s.l2 line { dirty := false, mask := 0, pois := 0 }
  { data := (List.range 32).map fun i => AMap.getD s.mem (64 * line + 32 * h + i) 0, mask := if l.dirty then halfMask l h else 0
    pois := l.dirty && l.pois.getLsbD h && halfMask l h != 0 }

/-- A dirty line is written back and becomes clean: a write of its slice's port goes out (R150, R157); host memory's line goes back over
CXL. -/
def State.writeBack (s : State) (line : Nat) : State :=
  match AMap.get? s.l2 line with
  | none => s
  | some l =>
    if !l.dirty then s
    else
      let u := { s with l2 := AMap.put s.l2 line { l with dirty := false } }
      match region (64 * line) with
      | .hbm | .tier2 =>
        let (target, off) := dramPlace (64 * line)
        let port := homeSlice (64 * line)
        u.request { ty := .wr, target, off, beats := 2, port, tag := (s.freeTag port).getD 0, cls := 2, data := [s.beatOf line 0, s.beatOf line 1] }
      | _ => u

/-! ### The places of a slice (R151) -/

/-- The superblocks of which a slice holds lines. -/
def State.l2Tags (s : State) (slice : Nat) : List Nat :=
  s.l2.foldl (fun ts e => if homeSlice (64 * e.1) == slice then setIns (e.1 / 4) ts else ts) []

/-- A line leaves its slice. -/
def State.dropLine (s : State) (line : Nat) : State :=
  { s with l2 := AMap.del s.l2 line, pois := AMap.del (AMap.del s.pois (2 * line)) (2 * line + 1) }

/-- A superblock leaves its slice: its dirty lines are written back. -/
def State.dropTag (s : State) (sb : Nat) : State :=
  [4 * sb, 4 * sb + 1, 4 * sb + 2, 4 * sb + 3].foldl (fun (s : State) line => (s.writeBack line).dropLine line) s

/-- The superblock of a line gets a tag: a slice has 512 KiB in 16 ways of 256 bytes. Which set a superblock lies in and which one
leaves are not architectural. -/
def State.makeRoom (s : State) (line : Nat) : State :=
  let slice := homeSlice (64 * line)
  let tags := s.l2Tags slice
  if tags.length < 16 || tags.contains (line / 4) then s
  else
    let set := Config.l2Set (line / 4) % 128
    let ts := tags.filter fun t => Config.l2Set t % 128 == set
    if ts.length < 16 then s else s.dropTag (ts.getD (Config.l2Victim slice set s.seq % ts.length) 0)

end Sys2Proof.Machine
end

