-- ==== Sys2Proof/Machine/Mem.lean ====
section
/-! DEFINITION. Memory below the virtual addresses: the coherent value of a byte, the lines of the slices and what performing a
write at its home does (R151, R163, R171, R172, R183), L1 copies and acquires (R148, R172), writes that a wave holds (R201),
discards (R187), and apertures (R323). -/

namespace Sys2Proof.Machine

/-! ### The coherent value -/

/-- The coherent value of a byte (R171). -/
def State.byte (s : State) (pa : Nat) : Byte := AMap.getD s.mem pa 0
def State.bytes (s : State) (pa n : Nat) : List Byte := (List.range n).map fun i => s.byte (pa + i)

/-- A byte of the coherent memory set. -/
def State.setByte (s : State) (pa : Nat) (b : Byte) : State := { s with mem := AMap.set 0 s.mem pa b }

/-- Two poison bits (R151). -/
def bitPair (a b : Bool) : BitVec 2 := BitVec.ofNat 2 (b2n a + 2 * b2n b)

/-- Poison arrives for a half of a line that is held: the words that stores have put there cover their bytes (R163). -/
def State.takePoison (s : State) (h : Nat) (l : L2Line) : State :=
  { s with pois := AMap.put s.pois h (if l.dirty then halfMask l (h % 2) else 0)
           l2 := AMap.upd s.l2 (h / 2) fun l => { l with pois := l.pois ||| (1 <<< (h % 2) : BitVec 2) } }

/-- The line of an address is held in its slice, and with it the words of `need`: those that the line lacks are read from memory, with
the poison of their halves, and then every word is held (R151, R163). A line that takes a place has the poison of its halves. -/
def State.alloc (s : State) (pa : Nat) (need : Half) : State :=
  let line := pa / 64
  if isRemote pa then s
  else match AMap.get? s.l2 line with
  | some l =>
    if need &&& ~~~l.mask = 0 then s
    else
      let s := { s with l2 := AMap.put s.l2 line { l with mask := 0xFFFF } }
      [0, 1].foldl (fun (s : State) i =>
        if (AMap.get? s.pois (2 * line + i)).isNone && ~~~l.mask >>> (8 * i) &&& (0xFF : Half) != 0 && s.memPoisoned (64 * line + 32 * i) then
          s.takePoison (2 * line + i) l
        else s) s
  | none =>
    let s := s.makeRoom line
    let p0 := s.memPoisoned (64 * line)
    let p1 := s.memPoisoned (64 * line + 32)
    let s := if p0 then { s with pois := AMap.put s.pois (2 * line) 0 } else s
    let s := if p1 then { s with pois := AMap.put s.pois (2 * line + 1) 0 } else s
    { s with l2 := AMap.put s.l2 line { dirty := false, mask := if need = 0 then 0 else 0xFFFF, pois := bitPair p0 p1 } }

/-- The line of an address is filled: every word is held (R151). -/
def State.fill (s : State) (pa : Nat) : State := s.alloc pa 0xFFFF

/-- Every line that a range touches is brought in. -/
def State.fillRange (s : State) (pa n : Nat) : State :=
  (List.range (if n = 0 then 0 else (pa + n - 1) / 64 - pa / 64 + 1)).foldl (fun s i => s.fill (pa + 64 * i)) s

/-- A slice holds the word of an address (R151). -/
def State.held (s : State) (a : Nat) : Bool := match AMap.get? s.l2 (a / 64) with
  | some l => l.mask.getLsbD (a % 64 / 4)
  | none => false

/-- The half of a byte is poisoned: in its slice, or in memory while no slice holds its word (R151, R163). -/
def State.poisoned (s : State) (a : Nat) : Bool :=
  (AMap.get? s.pois (a / 32)).isSome || (!isRemote a && !s.held a && s.memPoisoned (a / 32 * 32))

/-- The lowest poisoned byte of a range (R301). -/
def State.poisonIn (s : State) (pa n : Nat) : Option Nat :=
  ((List.range n).map (pa + ·)).find? fun a => s.poisoned (homeOf a)

/-! ### Monitors (R183) -/

/-- The condition of an MWAIT. -/
def mwaitHolds (cond : Nat) (m b : DWord) : Bool :=
  match cond with
  | 0 => m == b
  | 1 => b.toNat ≤ m.toNat
  | 2 => m != b
  | _ => b.toNat % 2 ^ 48 ≤ m.toNat % 2 ^ 48

/-- A monitor whose word a write touched examines the new value; the first that satisfies the wait is kept. -/
def Lane.observe (L : Lane) (touched : Nat → Bool) (val : Nat → DWord) : Lane :=
  match L.monitor, L.wait with
  | some m, .mwait _ b cond _ =>
    if touched m.pa && mwaitHolds cond (val m.pa) b then { L with monitor := some { m with hit := true } } else L
  | _, _ => L

/-- The waiting monitors of a group examine a write of the bytes at `pas`. -/
def Group.observe (G : Group) (s : State) (pas : List Nat) : Group :=
  let touched := fun m => pas.any fun a => decide (m ≤ a) && decide (a < m + 8)
  { G with lanes := G.lanes.map fun L => L.observe touched fun m => leDWord (s.bytes m 8) }

/-- Every waiting monitor of the package examines a write of the bytes at `pas`. -/
def State.observeAll (s : State) (pas : List Nat) : State :=
  { s with groups := s.groups.map fun e => (e.1, e.2.observe s pas) }

/-- Some thread has a monitor registered at the word of an address: the word is owned by no core (R183). -/
def State.monitored (s : State) (pa : Nat) : Bool :=
  s.groups.any fun e => e.2.lanes.any fun L =>
    L.live && match L.monitor with
      | some m => m.pa / 4 ≤ pa / 4 && pa / 4 < m.pa / 4 + 2
      | none => false

/-! ### L1 (R148, R172) -/

def l1Key (core pa : Nat) : Nat := core * 2 ^ 46 + pa / 4

/-- Ownership by cores other than `keep` is revoked and their owned copies dropped; the copies of `drop` go as well. -/
def State.revoke (s : State) (keep : Option Nat) (drop pas : List Nat) : State :=
  { s with l1 := s.l1.filter fun e =>
      let c := e.1 / 2 ^ 46
      !(pas.any (fun pa => pa / 4 == e.1 % 2 ^ 46) && ((e.2.owned && keep != some c) || drop.contains c)) }

/-- An acquire on a core: every copy of a word that it does not own is dropped (R172). -/
def State.acquire (s : State) (core : Nat) : State :=
  { s with l1 := s.l1.filter fun e => e.2.owned || e.1 / 2 ^ 46 != core }

/-- A core's copy of the word of an address. -/
def State.l1Word (s : State) (core pa : Nat) : Option L1Word := AMap.get? s.l1 (l1Key core pa)

/-- The line of an L1 key. -/
def l1Line (key : Nat) : Nat := key % 2 ^ 46 / 16

/-- The lines of a set, pa[13:6], that a core holds (R148). -/
def State.l1Set (s : State) (core set : Nat) : List Nat :=
  s.l1.foldl (fun ls e => if e.1 / 2 ^ 46 == core && l1Line e.1 % 256 == set then setIns (l1Line e.1) ls else ls) []

/-- A core's copy of a line goes; its owned words have their value at the home (R171, R172). -/
def State.l1Drop (s : State) (core line : Nat) : State :=
  { s with l1 := s.l1.filter fun e => !(e.1 / 2 ^ 46 == core && l1Line e.1 == line) }

/-- The ways of a core's L1: its L1 units (R145, R148). -/
def State.l1Ways (s : State) (core : Nat) : Nat := (AMap.getD s.cores core {}).l1u

/-- A set keeps as many lines as there are ways; `keep` stays. Which line goes is not architectural (R148). -/
def State.l1Fit (s : State) (core set : Nat) (keep : Option Nat) : Nat → State
  | 0 => s
  | fuel + 1 =>
    let ls := (s.l1Set core set).filter fun x => some x != keep
    if ls.length + b2n keep.isSome ≤ s.l1Ways core then s
    else (s.l1Drop core (ls.getD (Config.l1Victim core set s.seq % ls.length) 0)).l1Fit core set keep fuel

/-- A core's copy of a word takes its value at the home at this instant, with that of the other word of the aligned 8 bytes, unless its
half is poisoned (R171, R301). -/
def State.l1Put (s : State) (core a : Nat) : State :=
  if s.poisoned a then s
  else
    let w : L1Word := { val := leWord (s.bytes a 4), owned := false, pair := leWord (s.bytes (a / 8 * 8 + (4 - a % 8)) 4) }
    { s with l1 := AMap.put s.l1 (l1Key core a) w }

/-- A core's copy of the line of an address takes a way: the words that it lacks are filled, and those of the bytes in `read`, which have
just been read at the home, are filled anew unless the core owns them (R148, R171, R175). -/
def State.l1Fill (s : State) (core pa : Nat) (read : List Nat) : State :=
  if isRemote pa || region pa == .regs || s.l1Ways core = 0 then s
  else
    let line := pa / 64
    let s := (List.range 16).foldl (fun s i =>
      let a := 64 * line + 4 * i
      match s.l1Word core a with
      | some w => if w.owned || !(read.any fun b => b / 4 == a / 4) then s else s.l1Put core a
      | none => s.l1Put core a) s
    s.l1Fit core (line % 256) (some line) 96

/-- The core's L1 after its units were divided anew (R145, R146): the lines of the ways that were closed are gone. -/
def State.l1Resize (s : State) (core n : Nat) : State :=
  let s := { s with cores := AMap.put s.cores core { AMap.getD s.cores core {} with l1u := n } }
  let sets := s.l1.foldl (fun ls e => if e.1 / 2 ^ 46 == core then setIns (l1Line e.1 % 256) ls else ls) []
  sets.foldl (fun s set => s.l1Fit core set none 96) s

/-! ### Writes at the home -/

/-- One byte written: the coherent value, the line's dirty bit and mask (R151), and its half's poison (R163). -/
def State.writeByte (s : State) (pa : Nat) (b : Byte) : State :=
  let s := s.setByte pa b
  let line := pa / 64
  let bit : Half := 1 <<< (pa % 64 / 4)
  let l := AMap.getD s.l2 line { dirty := true, mask := 0, pois := 0 }
  let s := if isRemote pa then s else { s with l2 := AMap.put s.l2 line { l with dirty := true, mask := l.mask ||| bit } }
  match AMap.get? s.pois (pa / 32) with
  | none => s
  | some m =>
    let m := m ||| (1 <<< (pa % 32) : Word)
    if m = 0xFFFFFFFF then
      { s with pois := AMap.del s.pois (pa / 32)
               l2 := AMap.upd s.l2 line fun l => { l with pois := l.pois &&& ~~~(1 <<< (pa / 32 % 2) : BitVec 2) } }
    else { s with pois := AMap.put s.pois (pa / 32) m }

/-- The lines of a write take their places; a word that it covers only in part is brought in first (R151). -/
def State.allocAll (s : State) (pas : List Nat) : State :=
  pas.foldl (fun s pa =>
    let w := pa / 4 * 4
    s.alloc pa (if [w, w + 1, w + 2, w + 3].all pas.contains then 0 else 1 <<< (pa % 64 / 4))) s

/-- Bytes written, in order. -/
def State.writeList (s : State) : List (Nat × Byte) → State
  | [] => s
  | e :: es => (s.writeByte e.1 e.2).writeList es

/-- Lines that the host caches are back-invalidated, and the host answers (R325). -/
def State.backInv (s : State) (pas : List Nat) : State :=
  { s with dev := { s.dev with hostLines := s.dev.hostLines.filter fun l => !pas.any fun pa => pa / 64 == l } }

/-- Bytes of a write at the places where they lie. -/
def homed (es : List (Nat × Byte)) : List (Nat × Byte) := es.map fun e => (homeOf e.1, e.2)

/-- A write performed at its home at one instant (R171), over the fabric by a message: the host's copies go first, ownership elsewhere is revoked,
monitors examine the value. `keep` is the core whose registration it is, `drop` the cores whose own copy it supersedes. -/
def State.homeWrite (s : State) (keep : Option Nat) (drop : List Nat) (es : List (Nat × Byte)) : State :=
  let far := (es.map (·.1)).find? isRemote
  let es := homed es
  let pas := es.map (·.1)
  let s := match far with
    | some pa => s.fabricSend pa
    | none => s
  let s := (s.backInv pas).allocAll pas
  ((s.writeList es).revoke (if far.isSome then none else keep) drop pas).observeAll pas

/-- The bytes of a contiguous write. -/
def span (pa : Nat) (bs : List Byte) : List (Nat × Byte) := bs.mapIdx fun i b => (pa + i, b)

/-- A registration makes its core own the words it stored (R172), unless a monitor holds them at the home (R183). -/
def State.own (s : State) (core : Nat) (pas : List Nat) : State :=
  pas.foldl (fun s pa =>
    if s.monitored pa || isRemote pa || s.l1Ways core = 0 then { s with l1 := AMap.del s.l1 (l1Key core pa) }
    else
      { s with l1 := AMap.put s.l1 (l1Key core pa) { val := leWord (s.bytes (pa / 4 * 4) 4), owned := true } }.l1Fit core
        (pa / 64 % 256) (some (pa / 64)) 96) s

/-- No core owns the words at an address any longer (R183). -/
def State.disown (s : State) (pas : List Nat) : State := s.revoke none [] pas

/-- A wave on another superblock than `own` holds that of one of these addresses (R201). -/
def State.heldFor (s : State) (own : Option Nat) (pas : List Nat) : Bool :=
  s.groups.any fun e => match e.2.wave with
    | some w => own != some w.sb && pas.any fun pa => homeOf pa / 256 == w.sb
    | none => false

/-- A wave holds the superblock of one of these addresses: every other access waits for its end (R201). -/
def State.waveHolds (s : State) (pas : List Nat) : Bool := s.heldFor none pas

/-- A line of these addresses has to be filled for an access, and its slice's port has no free tag for the read: the fill waits (R150,
R151, R156). DEDUCED (log 42): with a tag free, the read, its reply and the access are one event. -/
def State.portHolds (s : State) (pas : List Nat) : Bool :=
  pas.any fun pa =>
    let a := homeOf pa
    (region a == .hbm || region a == .tier2) && !s.held a && (s.freeTag (homeSlice a)).isNone

/-- An access to these addresses has to wait: for the end of a wave, or for a tag of a port. -/
def State.holds (s : State) (pas : List Nat) : Bool := s.waveHolds pas || s.portHolds pas

/-- A write of the device itself: it waits for the end of a wave that holds its superblock (R201). -/
def State.devWrite (s : State) (es : List (Nat × Byte)) : State :=
  if s.waveHolds (es.map (·.1)) then { s with late := s.late ++ [es] } else s.homeWrite none [] es

/-- Device writes that no wave holds any longer are performed, in order. -/
def State.drainLate (s : State) : State :=
  s.late.foldl (fun s es => s.devWrite es) { s with late := [] }

/-- Other packages hold some halves poisoned: what the environment has made of their memory (R301, R340). -/
def State.farPoison (s : State) (pas : List Nat) : State :=
  pas.foldl (fun (s : State) pa =>
    if isRemote pa && remoteOk pa && homeOf pa == pa then { s with pois := AMap.put s.pois (pa / 32) 0 } else s) s

/-! ### Discards (R187) -/

/-- The line becomes its memory copy: every L1 copy and ownership goes, the L2 line is invalidated without write-back. -/
def State.discardLine (s : State) (line : Nat) : State :=
  if 64 * line ≥ 0x800000000000 then s
  else
    let b0 := (s.memCopy (64 * line)).1
    let b1 := (s.memCopy (64 * line + 32)).1
    let s := s.backInv [64 * line]
    let s := (b0 ++ b1).zipIdx.foldl (fun s e => s.setByte (64 * line + e.2) e.1) s
    let s := { s.dropLine line with l1 := s.l1.filter fun e => e.1 % 2 ^ 46 / 16 != line }
    s.observeAll ((List.range 64).map (64 * line + ·))

/-! ### Apertures (R323) -/

/-- Where a fabric address leads: device and remote address; none for an invalid aperture. -/
def State.aperture (s : State) (pa : Nat) : Option (Nat × Nat) :=
  let r := s.dev.apertures.getD (pa / 2 ^ 40 % 32) 0
  if r.getLsbD 63 && bitsAt r 0 8 < 4 then some (bitsAt r 48 10, bitsAt r 0 8 * 2 ^ 40 + pa % 2 ^ 40) else none

/-- A physical address with the target of its aperture. One that names the package's own number leads to it through the fabric. -/
def State.target (s : State) (pa : Nat) : Option Nat :=
  if region pa == .fabric && !isRemote pa then
    (s.aperture pa).map fun d => remotePa (if d.1 = s.dev.devnum then ownDevice else d.1) d.2
  else some pa

end Sys2Proof.Machine
end

