-- ==== Sys2Proof/Machine/Translate.lean ====
section
/-! DEFINITION. Address translation: page-table entries (R294), the walk with its accessed and dirty bits (R295), rights
and keys (R296), TLBs, translation caches and extent tables (R282, R297), and the fresh rewalk (R298). -/

namespace Sys2Proof.Machine

/-- What an access needs of its leaf (R296). -/
inductive Right where
  | fetch | read | write | both | frameWrite | frameRead
  deriving DecidableEq, Repr

def Right.writes : Right → Bool
  | .write | .both | .frameWrite => true
  | _ => false
def Right.reads : Right → Bool
  | .read | .both | .frameRead => true
  | _ => false

/-- KIND of R289 for an access. -/
def Right.kind : Right → Kind
  | .fetch => .fetch
  | .read | .frameRead => .read
  | .write | .frameWrite => .write
  | .both => .readWrite

/-! ### Entries (R294) -/

def pteV (e : DWord) : Bool := e.getLsbD 0
def pteLeaf (e : DWord) : Bool := e.getLsbD 1
def pteR (e : DWord) : Bool := e.getLsbD 2
def pteW (e : DWord) : Bool := e.getLsbD 3
def pteX (e : DWord) : Bool := e.getLsbD 4
def pteA (e : DWord) : Bool := e.getLsbD 5
def pteD (e : DWord) : Bool := e.getLsbD 6
def pteKey (e : DWord) : Nat := bitsAt e 7 5
def pteTier (e : DWord) : Bool := e.getLsbD 12
def pteHost (e : DWord) : Bool := e.getLsbD 13
/-- The first byte of the frame of a leaf. -/
def pteFrame (e : DWord) : Nat := bitsAt e 16 36 * 2 ^ 16
/-- The next table of a non-leaf entry. -/
def pteNext (e : DWord) : Nat := bitsAt e 13 35 * 2 ^ 13

/-- log2 of the page that a leaf at a level maps. -/
def pageLog (lvl : Nat) : Nat := 16 + 10 * lvl

/-- The index of a level's table. -/
def vaIndex (va : DWord) (lvl : Nat) : Nat := if lvl = 3 then bitsAt va 46 11 else bitsAt va (pageLog lvl) 10

/-- A valid entry is malformed (R294). -/
def pteMalformed (e : DWord) (lvl : Nat) : Bool :=
  if pteLeaf e then
    lvl == 3 || bitsAt e 14 2 != 0 || bitsAt e 48 4 != 0 || pteFrame e % 2 ^ pageLog lvl != 0
      || (pteTier e && region (pteFrame e) != .tier2) || (pteHost e && pteFrame e < 0x800000000000)
      || (pteTier e && pteHost e)
  else lvl == 0 || bitsAt e 2 11 != 0

/-! ### Walks (R295) -/

/-- Who translates: the TLB and die it goes through, the context, and the team whose extent table serves (R282). -/
structure Via where
  tlb : Nat
  die : Nat
  ctx : Nat
  team : Nat
  /-- The superblock of the wave that translates: only other waves hold its accesses (R201). -/
  own : Option Nat := none
  deriving DecidableEq, Repr

/-- A fault of a walk: cause, subcode, and the L0 entry it stopped at when that entry is not valid (R352). -/
structure XFault where
  cause : Cause
  sub : BitVec 8 := 0
  l0 : Option Nat := none
  /-- How far behind the access's address the failing page begins (R299). -/
  off : Nat := 0
  /-- No fault: a wave holds the superblock of an entry that the walk needs (R201). -/
  held : Bool := false
  deriving DecidableEq, Repr

/-- A leaf that a walk found. -/
structure Leaf where
  e : DWord
  lvl : Nat
  pte : Nat
  deriving DecidableEq, Repr

/-- A non-leaf entry from the die's translation cache (R297). -/
def State.cachedPte (s : State) (die ctx addr : Nat) (fresh : Bool) : Option DWord :=
  match AMap.get? s.tcache (die * 2 ^ 46 + addr / 8) with
  | some (c, e) => if c = ctx && !fresh then some e else none
  | none => none

/-- A non-leaf entry, from the die's translation cache or from its home (R171, R297). -/
def State.readPte (s : State) (die ctx addr : Nat) (fresh : Bool) : DWord :=
  (s.cachedPte die ctx addr fresh).getD (leDWord (s.bytes addr 8))

/-- Another wave than the translating one holds the superblock of an entry (R201). -/
def State.pteHeld (s : State) (v : Via) (addr : Nat) : Bool := s.heldFor v.own [addr]

/-- The walk down to a leaf; `fuel` counts the levels left. DESIGN CHOICE (log 38): a table that lies in a reserved range
reads as entries of 0, which are not present. The walk waits for a wave that holds an entry which it needs (R201). -/
def State.walkFrom (s : State) (v : Via) (va : DWord) (fresh : Bool) (table : Nat) : Nat → State × Except XFault Leaf
  | 0 => (s, .error { cause := .translation, sub := 1 })
  | fuel + 1 =>
    let lvl := fuel
    let addr := table + 8 * vaIndex va lvl
    let e := s.readPte v.die v.ctx addr fresh
    if (s.cachedPte v.die v.ctx addr fresh).isNone && s.pteHeld v addr then (s, .error { cause := .translation, held := true })
    else if !pteV e then (s, .error { cause := .translation, sub := 0, l0 := if lvl = 0 then some addr else none })
    else if pteMalformed e lvl then (s, .error { cause := .translation, sub := 1 })
    else if pteLeaf e then (s, .ok { e, lvl, pte := addr })
    else
      let s := { s with tcache := AMap.put s.tcache (v.die * 2 ^ 46 + addr / 8) (v.ctx, e) }
      s.walkFrom v va fresh (pteNext e) fuel

/-- The physical address that a leaf gives (R295). -/
def Leaf.pa (f : Leaf) (va : DWord) : Nat := pteFrame f.e + va.toNat % 2 ^ pageLog f.lvl

/-- The rights and key checks, in the order of R296. -/
def checkLeaf (e : DWord) (r : Right) (pkr : Option DWord) : Option XFault :=
  let k := pteKey e
  let rights :=
    (r != .fetch || pteX e) && (!r.reads || pteR e) && (!r.writes || pteW e)
  if !rights then some { cause := .permission }
  else
    match r, pkr with
    | .fetch, _ | .frameWrite, _ | .frameRead, _ | _, none => none
    | _, some p =>
      let ad := p.getLsbD (2 * k)
      let wd := p.getLsbD (2 * k + 1)
      if ad || (r.writes && wd) then some { cause := .key, sub := BitVec.ofNat 8 k } else none

/-- The checks of a leaf, the reserved ranges of R149 first, then the accessed and dirty bits, set at the home of the
entry with V and the rights checked again on the value read there (R295). -/
def State.useLeaf (s : State) (v : Via) (f : Leaf) (va : DWord) (r : Right) (pkr : Option DWord) :
    State × Except XFault (Nat × Leaf) :=
  if region (f.pa va) = .reserved then (s, .error { cause := .translation, sub := 3 })
  else
    match checkLeaf f.e r pkr with
    | some x => (s, .error x)
    | none =>
      if pteA f.e && (!r.writes || pteD f.e) then (s, .ok (f.pa va, f))
      else if s.pteHeld v f.pte then (s, .error { cause := .translation, held := true })
      else
        let e := leDWord ((List.range 8).map fun i => s.byte (homeOf (f.pte + i)))
        if !pteV e then (s, .error { cause := .translation, sub := 0, l0 := if f.lvl = 0 then some f.pte else none })
        else if pteMalformed e f.lvl || !pteLeaf e then (s, .error { cause := .translation, sub := 1 })
        else
          match checkLeaf e r pkr with
          | some x => (s, .error x)
          | none =>
            let e' := e ||| (if r.writes then 0x60 else 0x20 : DWord)
            let s := s.homeWrite none [] (span f.pte (leBytes 8 e'.toNat))
            let f := { f with e := e' }
            if region (f.pa va) = .reserved then (s, .error { cause := .translation, sub := 3 })
            else (s, .ok (f.pa va, f))

/-- The TLB entry of a page (R297). -/
def State.tlbHit (s : State) (v : Via) (va : DWord) : Option Leaf :=
  (s.tlb.find? fun t => t.core == v.tlb && t.ctx == v.ctx && t.vpn == va.toNat / 2 ^ pageLog t.lvl).map
    fun t => { e := t.leaf, lvl := t.lvl, pte := t.pte }

/-- A leaf takes the place of what the TLB held for its page. -/
def State.tlbFill (s : State) (v : Via) (va : DWord) (f : Leaf) : State :=
  { s with tlb := { core := v.tlb, ctx := v.ctx, lvl := f.lvl, vpn := va.toNat / 2 ^ pageLog f.lvl, leaf := f.e, pte := f.pte }
      :: s.tlb.filter fun t => !(t.core == v.tlb && t.ctx == v.ctx && t.vpn == va.toNat / 2 ^ pageLog t.lvl) }

/-- An entry of an extent table covers an address. -/
def Extent.covers (x : Extent) (va : DWord) : Bool := decide (x.va.toNat ≤ va.toNat) && decide (va.toNat < x.va.toNat + x.pages * 65536)

/-- The extent-table entry of an address, with the dirty bit of its page (R282). -/
def State.extentHit (s : State) (v : Via) (va : DWord) : Option (Nat × DWord) :=
  match s.team? v.team with
  | some t => (t.extents.find? fun x => x.covers va).map fun x =>
      (x.pa + (va.toNat - x.va.toNat), if x.dirty.getD ((va.toNat - x.va.toNat) / 65536) false then x.leaf ||| 0x40 else x.leaf &&& ~~~0x40)
  | none => none

/-- A walk for a write has set the dirty bit of a page: the copy in the extent table follows (R282). -/
def State.extentWritten (s : State) (v : Via) (va : DWord) : State :=
  let set := fun (x : Extent) => if x.covers va then { x with dirty := x.dirty.set ((va.toNat - x.va.toNat) / 65536) true } else x
  s.updTeam v.team fun t => { t with extents := t.extents.map set }

/-- The root of a context's tables (R294, R324). -/
def State.rootOf (s : State) (ctx : Nat) : Nat := ((AMap.get? s.contexts ctx).map Context.root).getD 0

/-- One walk and the checks of its leaf; the leaf that served is kept in the TLB. -/
def State.walk (s : State) (v : Via) (va : DWord) (r : Right) (pkr : Option DWord) (fresh : Bool) :
    State × Except XFault Nat :=
  if !canonical va then (s, .error { cause := .translation, sub := 2 })
  else
    match s.walkFrom v va fresh (s.rootOf v.ctx) 4 with
    | (s, .error x) => (s, .error x)
    | (s, .ok f) =>
      match s.useLeaf v f va r pkr with
      | (s, .error x) => (s, .error x)
      | (s, .ok (pa, f)) => (s.tlbFill v va f, .ok pa)

/-- Translation of an access to a physical address (R295 to R298): by the extent table, the TLB or a walk; before a fault
is reported the tables are walked once more at their homes. -/
def State.translateRaw (s : State) (v : Via) (va : DWord) (r : Right) (pkr : Option DWord) : State × Except XFault Nat :=
  if !canonical va then (s, .error { cause := .translation, sub := 2 })
  else
    let viaTlb : State × Except XFault Nat :=
      match s.tlbHit v va with
      | some f =>
        match s.useLeaf v f va r pkr with
        | (s, .ok (pa, f)) => (s.tlbFill v va f, .ok pa)
        | (s, .error _) => s.walk v va r pkr true
      | none =>
        match s.walk v va r pkr false with
        | (s, .ok pa) => (s, .ok pa)
        | (s, .error _) => s.walk v va r pkr true
    match s.extentHit v va with
    | some (pa, leaf) =>
      if (checkLeaf leaf r pkr).isNone && (!r.writes || pteD leaf) && r != .fetch then (s, .ok pa)
      else match viaTlb with
        | (s, .ok pa) => (if r.writes then s.extentWritten v va else s, .ok pa)
        | (s, .error x) => (s, .error x)
    | none => viaTlb

/-- Translation of an access, with the target that a fabric address has then (R323). Register space takes only the plain
loads and stores of R322, for which `regs` stands. -/
def State.translateFor (s : State) (regs : Bool) (v : Via) (va : DWord) (r : Right) (pkr : Option DWord) :
    State × Except XFault Nat :=
  match s.translateRaw v va r pkr with
  | (s, .error x) => (s, .error x)
  | (s, .ok pa) =>
    if region pa == .regs && !regs then (s, .error { cause := .translation, sub := 3 })
    else match s.target pa with
      | some t => (s, .ok t)
      | none => (s, .error { cause := .translation, sub := 3 })

/-- As `translateFor`, for every other access. -/
def State.translate (s : State) (v : Via) (va : DWord) (r : Right) (pkr : Option DWord) : State × Except XFault Nat :=
  s.translateFor false v va r pkr

/-- KEYR's probe and the page check of the maintenance instructions: a fresh walk to the leaf, without rights, key or
accessed bits (R304, R305). -/
def State.probe (s : State) (v : Via) (va : DWord) : State × Option Leaf :=
  if !canonical va then (s, none)
  else
    match s.walkFrom v va true (s.rootOf v.ctx) 4 with
    | (s, .ok f) => (s, if region (f.pa va) = .reserved then none else some f)
    | (s, .error _) => (s, none)

/-- Such a probe has to wait for a wave (R201). -/
def State.probeHeld (s : State) (v : Via) (va : DWord) : Bool :=
  canonical va && match (s.walkFrom v va true (s.rootOf v.ctx) 4).2 with
    | .error x => x.held
    | .ok _ => false

/-- Every TLB and translation-cache entry and every extent-table entry of a context that overlaps a page test is dropped
(R305, R307, R169). Translation-cache entries of the context go whole. -/
def State.dropTranslations (s : State) (ctx : Nat) (overlaps : Nat → Nat → Bool) : State :=
  { s with
    tlb := s.tlb.filter fun t => !(t.ctx == ctx && overlaps (t.vpn * 2 ^ pageLog t.lvl) (2 ^ pageLog t.lvl))
    tcache := s.tcache.filter fun e => e.2.1 != ctx
    teams := s.teams.map fun e =>
      (e.1, if e.2.ctx == ctx then
        { e.2 with extents := e.2.extents.filter fun x => !overlaps x.va.toNat (x.pages * 65536) } else e.2) }

end Sys2Proof.Machine
end

