-- ==== Sys2Proof/Machine/Service.lean ====
section
/-! DEFINITION. Records of traps as bytes (R284, R288, R289), the context log (R290, R324), and the fault queues of the
dies (R299, R334). -/

namespace Sys2Proof.Machine

/-! ### Records -/

/-- The cause codes of R284. -/
def Cause.code : Cause → Nat
  | .illegal => 1 | .badHandle => 2 | .misaligned => 3 | .translation => 4 | .permission => 5 | .key => 6 | .spill => 7
  | .berthOwn => 8 | .mmeta => 9 | .quay => 10 | .uncorr => 11 | .pipe => 12 | .swtrap => 13 | .brk => 14 | .halt => 0

/-- The path codes of R177. -/
def pathCode : Path → Nat
  | .ls => 0 | .cp => 1 | .mx => 2 | .gt => 3 | .fb => 4

/-- The KIND codes of R289. -/
def Kind.code : Kind → Nat
  | .none => 0 | .fetch => 1 | .read => 2 | .write => 3 | .readWrite => 4 | .spRead => 5 | .spWrite => 6

/-- The CAUSE word of R289. -/
def Rec.causeWord (r : Rec) : Word :=
  BitVec.ofNat 32 (r.cause.code + r.sub.toNat * 2 ^ 8 + r.kind.code * 2 ^ 20 + b2n r.async * 2 ^ 24 + pathCode r.src * 2 ^ 25)

/-- An operand field (R29). -/
def fieldCode : Reg ⊕ PReg → Nat
  | .inl (.v n) => n.val
  | .inl (.s n) => 0x100 + n.val
  | .inr p => 0x200 + p.val

/-- The W code of a width in registers (R288). -/
def widthCode (w : Nat) : Nat := if w = 0 then 0 else if w = 1 then 1 else if w = 2 then 2 else 3

/-- The DEST word of R288: zero when no destination is pending. -/
def Dest.word (d : Dest) : Word :=
  match d.reg with
  | some r => if d.w = 0 then 0 else BitVec.ofNat 32 (fieldCode r + widthCode d.w * 2 ^ 10)
  | none => 0

def noDest : Dest := { reg := none, w := 0 }

/-- The first 64 bytes of a frame, which a log record shares (R288, R324). -/
def Rec.head (r : Rec) (depth : Nat) (psave : Byte) : List Byte :=
  leBytes 8 r.resume.toNat ++ leBytes 8 r.fpc.toNat ++ leBytes 8 r.addr.toNat ++ leBytes 4 r.causeWord.toNat ++
  leBytes 4 r.info.toNat ++ leBytes 4 r.mask.toNat ++ leBytes 4 psave.toNat ++ leBytes 8 r.aux.toNat ++
  leBytes 4 r.dest.word.toNat ++ leBytes 4 depth ++ leBytes 8 0

/-- A trap frame (R288): the record, the predicates and v0 to v7 of the lane. -/
def frameBytes (r : Rec) (L : Lane) : List Byte :=
  r.head (L.traps.length + 1) (L.p &&& 0xFE) ++ wordsBytes ((List.range 8).map L.vreg) ++ List.replicate 32 0

/-! ### The context log (R290, R324) -/

/-- A record goes to the ring of its context, or raises the overflow count when the ring is full. -/
def State.logRecord (s : State) (ctx : Nat) (r : Rec) : State :=
  match AMap.get? s.contexts ctx with
  | none => s
  | some c =>
    let head := leNat (s.bytes (c.recPa + 0x20) 8)
    let tail := leNat (s.bytes (c.recPa + 0x28) 8)
    if s.waveHolds (c.recPa :: [c.logbase + 64 * (head % 2 ^ c.logn)]) then { s with lateLog := s.lateLog ++ [(ctx, r)] }
    else if (head + 2 ^ 64 - tail) % 2 ^ 64 = 2 ^ c.logn then
      let n := leNat (s.bytes (c.recPa + 0x1C) 4)
      s.homeWrite none [] (span (c.recPa + 0x1C) (leBytes 4 (if n = 2 ^ 32 - 1 then n else n + 1)))
    else
      let s := s.homeWrite none [] (span (c.logbase + 64 * (head % 2 ^ c.logn)) (r.head 0 0))
      s.homeWrite none [] (span (c.recPa + 0x20) (leBytes 8 (head + 1)))

/-- Records that waited for a wave go to the log, in order (R201). -/
def State.drainLog (s : State) : State :=
  s.lateLog.foldl (fun s e => s.logRecord e.1 e.2) { s with lateLog := [] }

/-- A record for a group sets out for its core (R263). -/
def State.deliver (s : State) (g ctx : Nat) (r : Rec) : State :=
  { s with recsOut := s.recsOut ++ [(g, ctx, { r with async := true })] }

/-- A record reaches its group, or the log when the group, or the lane that it names, has finished (R198, R263, R290). -/
def State.arriveRec (s : State) (g ctx : Nat) (r : Rec) : State :=
  match s.group? g with
  | some G =>
    if G.ctx = ctx && (if r.mask = 0 then G.live else G.live &&& r.mask) != 0 then
      s.updGroup g fun G => { G with recs := G.recs ++ [r] }
    else s.logRecord ctx { r with mask := 0 }
  | none => s.logRecord ctx { r with mask := 0 }

/-! ### Fault service (R299, R334) -/

/-- The bytes of a fault-queue entry with REPLY 0 (R299). -/
def FaultEntry.bytes (e : FaultEntry) : List Byte :=
  let c : Rec := { cause := e.cause, sub := e.sub, kind := e.kind, src := e.src }
  leBytes 8 e.va.toNat ++ leBytes 4 c.causeWord.toNat ++ leBytes 2 e.ctx ++
  leBytes 2 (if e.waiters.length > 0xFFFF then 0xFFFF else e.waiters.length) ++ leBytes 4 e.source.toNat ++
  leBytes 12 0

/-- SOURCE of R299. -/
def sourceWord (core slot : Nat) (p : Path) : Word := BitVec.ofNat 32 (core % 512 + slot % 64 * 2 ^ 9 + pathCode p * 2 ^ 15)

/-- SOURCE of a group's own access. -/
def groupSource (g : Nat) (p : Path) : Word :=
  if isWave g then sourceWord 0x1FF 0x3F p else sourceWord (coreOf g) (slotOf g) p

/-- An entry takes its place in a host-assisted queue when there is room: its bytes are written, HEAD advances and the
vector is sent (R334, R335). -/
def State.placeHost (s : State) (die : Nat) (e : FaultEntry) : State × FaultEntry :=
  let q := s.dev.fq.getD die {}
  if (q.head + 2 ^ 64 - q.tail) % 2 ^ 64 ≥ 2 ^ q.qlog2n then (s, { e with queued := false })
  else
    let a := q.qbase + 32 * (q.head % 2 ^ q.qlog2n)
    let s := s.devWrite (span a e.bytes)
    let s := { s with dev := { s.dev with fq := modAt s.dev.fq die fun q => { q with head := (q.head + 1) % 2 ^ 64 } } }
    (s.msi (s.dev.managed.getD 0 {}).vec.toNat, { e with queued := true, addr := some a })

/-- A new entry joins the queue of the mode that page faults are served in (R332). In hardware mode Snido keeps its own
queues. -/
def State.placeFault (s : State) (die : Nat) (e : FaultEntry) : State × FaultEntry :=
  if s.hostMode 0 then s.placeHost die e else (s, { e with queued := true, addr := none })

/-- The REPLY word that the host has written for an entry of its queue (R299). -/
def State.replyOf (s : State) (e : FaultEntry) : Nat := match e.addr with
  | some a => leNat (s.bytes (a + 0x14) 4)
  | none => 0

/-- The entry that a fault joins: of the same page and kind, and not yet replied to (R299). -/
def joins (answered : Bool) (e f : FaultEntry) : Bool :=
  e.ctx == f.ctx && e.va.toNat / 65536 == f.va.toNat / 65536 && e.kind == f.kind && e.cause == f.cause && !answered

/-- A fault goes to the queue of its die, coalesced with a waiting entry (R299). -/
def State.toService (s : State) (die : Nat) (f : FaultEntry) : State :=
  let q := s.faults.getD die []
  match q.findIdx? fun e => joins (s.replyOf e != 0) e f with
  | some i =>
    let s := { s with faults := s.faults.set die (modAt q i fun e => { e with waiters := e.waiters ++ f.waiters }) }
    match q[i]? with
    | some e =>
      match e.addr with
      | some a =>
        let n := e.waiters.length + f.waiters.length
        s.devWrite (span (a + 0x0E) (leBytes 2 (if n > 0xFFFF then 0xFFFF else n)))
      | none => s
    | none => s
  | none =>
    let (s, f) := s.placeFault die f
    { s with faults := modAt s.faults die fun q => q ++ [f] }

/-- Waiters that a test names leave every queue; an entry keeps its place (R300). -/
def State.dropWaiters (s : State) (p : Waiter → Bool) : State :=
  { s with faults := s.faults.map fun q => q.map fun e => { e with waiters := e.waiters.filter fun w => !p w } }

/-- A cause that goes to fault service: 0x04 to 0x07 but for the subcodes that R284 excepts (R285). What a wave holds waits as well. -/
def XFault.serviced (x : XFault) : Bool :=
  x.held || match x.cause with
  | .translation => !(x.sub == 2 || x.sub == 4 || x.sub == 5)
  | .permission | .key | .spill => true
  | _ => false

end Sys2Proof.Machine
end

