-- ==== Sys2Proof/Machine/Events.lean ====
section
/-! DEFINITION. What the teams of a core and a tetrad share: the event matrix (R228), barriers (R140, R142), tiles and
the copies that name them (R218, R219, R226), and the end of a thread, a group and a context (R52, R98, R109, R137, R291). -/

namespace Sys2Proof.Machine

/-! ### Time and readiness -/

/-- Where a group's bundles are built: on its core, or for a wave, which has its quay's builder for itself (R202), from 384 on. -/
def issueUnit (g : Nat) : Nat := if isWave g then 384 + (g - quayBase) else coreOf g

/-- The cycle of a group's core (R16), or of its quay. -/
def State.now (s : State) (g : Nat) : Nat :=
  (s.core (issueUnit g)).cycles

/-- A lane's wait is over: it becomes ready, or parks when its instruction carried S (R23, R115). -/
def Lane.wakeUp (L : Lane) (now : Nat) : Lane :=
  { L with wait := if L.marker then .park .go L.due else .none, marker := false, due := none, since := now }

/-- Lanes of a group become ready (R115). -/
def State.wake (s : State) (g : Nat) (m : Word) : State :=
  s.updGroup g fun G => G.updLanes m fun _ L => L.wakeUp (s.now g)

/-! ### The event matrix (R228) -/

/-- A pulse on source `e` counts in every routed condition. -/
def Share.pulse (h : Share) (e : Nat) : Share :=
  { h with counts := h.counts.mapIdx fun g n =>
      if (h.routes.getD e 0).getLsbD g && n < 0xFFFF then n + 1 else n }

/-- A waiter takes one count of condition `g`. -/
def Share.take (h : Share) (g : Nat) : Share := { h with counts := modAt h.counts g (· - 1) }

/-! ### Barriers (R140, R142) -/

/-- Where a barrier is kept. -/
inductive BarAt where
  | share (k n : Nat)
  | unit (u n : Nat)
  deriving DecidableEq, Repr

/-- The barrier that an operand names for a team. -/
def barOf (t : Team) : Bar → BarAt
  | .team n => .share t.share n.val
  | .cluster n => .unit t.unit n.val

def State.barrier (s : State) : BarAt → Barrier
  | .share k n => (s.share k).bars.getD n {}
  | .unit u n => match AMap.get? s.units u with
    | some x => x.bars.getD n {}
    | none => {}

def State.setBarrier (s : State) (b : BarAt) (x : Barrier) : State :=
  match b with
  | .share k n => s.updShare k fun h => { h with bars := h.bars.set n x }
  | .unit u n => s.updUnit u fun v => { v with bars := v.bars.set n x }

/-- A team takes part in a barrier: of its share, or of its cluster or gang. -/
def BarAt.covers (b : BarAt) (t : Team) : Bool :=
  match b with
  | .share k _ => t.share == k
  | .unit u _ => t.unit == u

/-- The groups that a barrier covers: those of the teams that have not retired, whose slots may hold other groups. -/
def State.barGroups (s : State) (b : BarAt) : List Nat :=
  (s.teams.filter fun e => b.covers e.2 && !e.2.retired).flatMap fun e => e.2.groups

/-- The number of non-helper threads of a group that have not exited. -/
def Group.counted (G : Group) : Nat := popcount (G.live &&& ~~~G.helpers)

/-- EXP of R140. -/
def State.expected (s : State) (b : BarAt) : Nat :=
  (s.barGroups b).foldl (fun n g => match s.group? g with
    | some G => n + G.counted
    | none => n) 0

/-- A wait on token `t` is over once PHASE has passed it (R142). -/
def passed (phase t : Word) : Bool := !((phase - t) == 0 || 2 ^ 31 ≤ (phase - t).toNat)

/-- The lanes of a group that wait on a barrier whose PHASE has passed their token. -/
def State.tokenLanes (s : State) (b : BarAt) (phase : Word) (G : Group) : Word :=
  match s.team? G.team with
  | none => 0
  | some t => maskOf fun l =>
      match (G.lane l).wait with
      | .token bar tok => (G.lane l).live && barOf t bar == b && passed phase tok
      | _ => false

/-- The lanes that a phase releases perform an acquire and go on. -/
def State.releaseTokens (s : State) (b : BarAt) (phase : Word) : List Nat → State
  | [] => s
  | g :: gs =>
    match s.group? g with
    | none => s.releaseTokens b phase gs
    | some G =>
      let m := s.tokenLanes b phase G
      if m = 0 then s.releaseTokens b phase gs
      else ((s.wake g m).acquire (coreOf g)).releaseTokens b phase gs

/-- complete() of R142; a team barrier 0 to 3 pulses its source (R228). -/
def State.completeBar (s : State) (b : BarAt) : State :=
  let x := s.barrier b
  let s := s.setBarrier b { x with phase := x.phase + 1, arr := 0 }
  let s := match b with
    | .share k n => if n < 4 then s.updShare k fun h => h.pulse (6 + n) else s
    | .unit _ _ => s
  s.releaseTokens b (x.phase + 1) (s.barGroups b)

/-- check() of R142: a phase needs one arrival. -/
def State.checkBar (s : State) (b : BarAt) : State :=
  let x := s.barrier b
  if 1 ≤ x.arr && s.expected b ≤ x.arr && x.bal.sle 0 then s.completeBar b else s

/-- arrive(k) of R142. -/
def State.arriveBar (s : State) (b : BarAt) (k : Nat) : State :=
  let x := s.barrier b
  (s.setBarrier b { x with arr := (x.arr + k) % 65536 }).checkBar b

/-- A credit of bytes (R143). -/
def State.creditBar (s : State) (b : BarAt) (n : Nat) : State :=
  let x := s.barrier b
  (s.setBarrier b { x with bal := x.bal - BitVec.ofNat 64 n }).checkBar b

/-! ### Tensors and copies (R215, R218, R219) -/

/-- The width in bits of a format (R215). -/
def fmtWidth (fmt : Nat) : Nat :=
  match fmt with
  | 0 | 1 | 2 => 8
  | 3 => 4
  | 4 | 5 => 16
  | 6 | 8 => 32
  | 7 => 64
  | _ => 0

/-- The number of elements of a tensor's box (R219). -/
def TensorId.boxElems (t : TensorId) : Nat := (t.box.take t.rank).foldl (· * ·) 1

/-- The bytes of a tensor's box. -/
def TensorId.boxBytes (t : TensorId) : Nat := t.boxElems * fmtWidth t.fmt / 8

def Copy.word (c : Copy) (i : Nat) : Word := c.words.getD i 0
def Copy.sk (c : Copy) : Bool := (c.word 0).getLsbD 8
def Copy.dk (c : Copy) : Bool := (c.word 0).getLsbD 9
def Copy.hasIdx (c : Copy) : Bool := (c.word 0).getLsbD 10
def Copy.hasBar (c : Copy) : Bool := (c.word 0).getLsbD 11
def Copy.hasStamp (c : Copy) : Bool := (c.word 0).getLsbD 12
def Copy.cq (c : Copy) : Bool := (c.word 0).getLsbD 13
def Copy.tag (c : Copy) : Nat := bitsAt (c.word 0) 16 16
def Copy.budget (c : Copy) : Nat := bitsAt (c.word 1) 8 24
def Copy.wt (c : Copy) : Bool := (c.word 1).getLsbD 7
def Copy.wg (c : Copy) : Nat := bitsAt (c.word 1) 5 2
def Copy.ev (c : Copy) : Bool := (c.word 1).getLsbD 4
def Copy.es (c : Copy) : Nat := bitsAt (c.word 1) 2 2

/-- The words of a tensor or tile operand. -/
def operandLen (tile : Bool) (t : Option TensorId) : Nat :=
  if tile then 1 else match t with
    | some t => 1 + t.rank
    | none => 1
def Copy.idxAt (c : Copy) : Nat := 2 + operandLen c.sk c.src
def Copy.dstAt (c : Copy) : Nat := c.idxAt + (if c.hasIdx then 2 else 0)
def Copy.barAt (c : Copy) : Nat := c.dstAt + operandLen c.dk c.dst
def Copy.stampAt (c : Copy) : Nat := c.barAt + b2n c.hasBar

/-- The tensor that gives the box (R219). -/
def Copy.boxTensor (c : Copy) : Option TensorId := if c.sk then c.dst else c.src
/-- n of R219: the box's bytes. -/
def Copy.total (c : Copy) : Nat := match c.boxTensor with
  | some t => t.boxBytes
  | none => 0
def Copy.srcTile (c : Copy) : Option Nat := if c.sk then some (bitsAt (c.word 2) 0 6) else none
def Copy.dstTile (c : Copy) : Option Nat := if c.dk then some (bitsAt (c.word c.dstAt) 0 6) else none
def Copy.barrier (c : Copy) : Option Bar :=
  if c.hasBar then
    let w := c.word c.barAt
    if w.getLsbD 4 then some (.cluster (Fin.ofNat 8 (bitsAt w 0 3))) else some (.team (Fin.ofNat 16 (bitsAt w 0 4)))
  else none
def Copy.stampVa (c : Copy) : DWord := pairOf (c.word c.stampAt) (c.word (c.stampAt + 1))
/-- concat(STATUS, SEQ) of R221. -/
def Copy.stampWord (c : Copy) (status : Nat) : DWord :=
  BitVec.ofNat 64 (status * 2 ^ 48 + bitsAt (c.word (c.stampAt + 3)) 0 16 * 2 ^ 32 + (c.word (c.stampAt + 2)).toNat)

/-! ### Tiles (R226) -/

/-- A journal entry belongs to a team that shares `k`. -/
def State.sharesOf (s : State) (k : Nat) (c : Copy) : Bool :=
  match s.team? c.team with
  | some t => t.share == k
  | none => false

def State.tile (s : State) (k h : Nat) : Tile := (s.share k).tiles.getD h {}
def State.setTile (s : State) (k h : Nat) (x : Tile) : State := s.updShare k fun sh => { sh with tiles := sh.tiles.set h x }

/-- The tiles that an operation names (R250). -/
def MmaImg.tiles (i : MmaImg) : List Nat :=
  let f := fun lo n => bitsAt i.imm lo n
  (match i.a with
    | .tile t => [t.val]
    | .glob _ => []) ++
  ((List.range (if i.op == 0xB0E || i.op == 0xB0F then 4 * f 20 2 + 4 else f 6 2 + 1)).map (f 0 6 + ·)) ++
  (if i.op == 0xB0A || i.op == 0xB0B || i.op == 0xB0E || i.op == 0xB0F then [f 14 6] else [])

/-- An unfinished operation of a team that shares `k` names a tile (R252). -/
def State.tileInOp (s : State) (k h : Nat) : Bool :=
  let names := fun (o : MmaOp) => o.parts.any fun p => p.img.tiles.contains h && match s.team? p.team with
    | some T => T.share == k
    | none => false
  s.arrays.any fun a => (a.2.slots.any fun x => (x.closed ++ x.queue).any names) || match a.2.active with
    | some (_, o) => names o
    | none => false

/-- The save of a team's unit has begun to write its record: nothing of the unit starts any more (R312). -/
def State.beingSaved (s : State) (t : Nat) : Bool :=
  match (s.team? t).bind fun T => AMap.get? s.units T.unit with
  | some u => u.writing
  | none => false

/-- The number of the share of a group's team. -/
def State.keyOf (s : State) (G : Group) : Nat := match s.team? G.team with
  | some t => t.share
  | none => 0

/-- EXP and ARR are 20 bits wide (R224). -/
def cnt20 (n : Nat) : Nat := n % 2 ^ 20

/-- Destination commands held for an EMPTY tile enter it: FILLING, their bytes expected. -/
def State.tileEnter (s : State) (core k h : Nat) : State :=
  let C := s.core core
  let held := C.journal.filter fun e => e.2.dstTile == some h && !e.2.entered && s.sharesOf k e.2
  if held.isEmpty then s
  else
    let n := held.foldl (fun n e => n + e.2.total) 0
    let t := s.tile k h
    let mark : Nat × Copy → Nat × Copy := fun e =>
      if held.any (fun x => x.1 == e.1) then (e.1, { e.2 with entered := true }) else e
    let s := s.setCore core { C with journal := C.journal.map mark }
    s.setTile k h { t with st := .filling, exp := cnt20 (t.exp + n) }

/-- A TFREE waits on a tile. -/
def State.freeWaits (s : State) (k h : Nat) : Bool :=
  s.groups.any fun e => s.keyOf e.2 == k && e.2.lanes.any fun L => L.live && L.wait == .tfree h

/-- The TFREEs that wait on a tile have taken effect: their lanes go on (R226). -/
def State.freeDone (s : State) (k h : Nat) : State :=
  { s with groups := s.groups.map fun e =>
      if s.keyOf e.2 == k then
        (e.1, { e.2 with lanes := e.2.lanes.map fun L => if L.wait == .tfree h then L.wakeUp (s.now e.1) else L })
      else e }

/-- A tile becomes EMPTY with nothing expected or landed: the TFREEs that wait for it have taken effect, and what was held for it
enters. -/
def State.tileEmpty (s : State) (core k h : Nat) : State :=
  let t := s.tile k h
  ((s.setTile k h { t with st := .empty, exp := 0, arr := 0 }).freeDone k h).tileEnter core k h

/-- A READY tile that no operation names any longer: a TFREE that has waited for that takes effect (R226, R252). -/
def State.freeSettle (s : State) (core k h : Nat) : State :=
  if (s.tile k h).st == .ready && s.freeWaits k h && !s.tileInOp k h then s.tileEmpty core k h else s

/-- The rows of R226 that end FILLING and DRAINING. -/
def State.tileSettle (s : State) (core k h : Nat) : State :=
  let t := s.tile k h
  let js := (s.core core).journal.filter fun e => s.sharesOf k e.2 && e.2.st != .finishing
  match t.st with
  | .filling =>
    if t.arr == t.exp && !(js.any fun e => e.2.dstTile == some h && e.2.entered) then
      (s.setTile k h { t with st := .ready }).freeSettle core k h
    else s
  | .draining => if js.any fun e => e.2.srcTile == some h then s else s.tileEmpty core k h
  | _ => s

/-- Both tiles of a command that has completed or was cancelled settle. -/
def State.copyTiles (s : State) (core : Nat) (c : Copy) : State :=
  match s.team? c.team with
  | none => s
  | some t =>
    let s := match c.srcTile with
      | some h => s.tileSettle core t.share h
      | none => s
    match c.dstTile with
    | some h => s.tileSettle core t.share h
    | none => s

/-- CANCEL of a STOPPED entry (R223): it completes with STATUS CANCEL, and a destination tile expects n − P bytes less. -/
def State.cancelCopy (s : State) (core j : Nat) : State :=
  match AMap.get? (s.core core).journal j with
  | none => s
  | some c =>
    let C := s.core core
    let s := s.setCore core { C with journal := AMap.put C.journal j { c with st := .finishing, status := 3, waiting := false, stamped := false, stampDue := none } }
    let s := s.dropWaiters (· == .copy core j)
    let s := match c.dstTile, s.team? c.team with
      | some h, some t =>
        let x := s.tile t.share h
        s.setTile t.share h { x with exp := cnt20 (x.exp + 2 ^ 20 - cnt20 (c.total - c.prog)) }
      | _, _ => s
    s.copyTiles core c

/-! ### The end of a thread -/

/-- Exited threads leave the rejoin registers; a register whose lanes have all arrived lets them go (R137). -/
def Group.rejoinCheck (G : Group) (now j : Nat) : Group :=
  match G.rj[j]? with
  | none => G
  | some r =>
    if !r.valid then G
    else if r.mask = 0 then { G with rj := G.rj.set j { target := r.target } }
    else if r.mask = r.arrived then
      let G := { G with rj := G.rj.set j { target := r.target } }
      let G := G.updLanes r.arrived fun _ L => { L.wakeUp now with pc := r.target + 12 }
      G.joinSet r.arrived
    else G

/-- The lanes of `m` end: they leave MASK and ARRIVED of every rejoin register, and their monitors are deregistered
(R52, R137, R183). -/
def Group.endLanes (G : Group) (now : Nat) (m : Word) : Group :=
  let G := G.updLanes m fun _ L => { L with live := false, wait := .none, monitor := none, v := [], p := 0, rs := [], traps := [] }
  let G := { G with rj := G.rj.map fun r => { r with mask := r.mask &&& ~~~m, arrived := r.arrived &&& ~~~m } }
  (List.range 8).foldl (fun G j => G.rejoinCheck now j) G

/-- Journal entries of a team that are STOPPED are cancelled (R109). -/
def State.cancelStopped (s : State) (core t : Nat) : State :=
  ((s.core core).journal.filter fun e => e.2.team == t && e.2.st == .stopped).foldl (fun s e => s.cancelCopy core e.1) s

/-- A group finishes (R98): its helper lanes end, its partial commands are discarded (R214), records due go to the log
(R290), its berths become unowned (R244). -/
def State.finishGroup (s : State) (g : Nat) : State :=
  match s.group? g with
  | none => s
  | some G =>
    let s := s.updGroup g fun G =>
      { G.endLanes (s.now g) G.live with q0 := [], q2 := [], sub0 := none, sub2 := none, recs := [], pend := [], active := false }
    let s := G.recs.foldl (fun s r => s.logRecord G.ctx { r with async := true, mask := 0 }) s
    let s := (s.recsOut.filter fun e => e.1 == g).foldl (fun s e => s.logRecord e.2.1 { e.2.2 with mask := 0 }) s
    let s := { s with recsOut := s.recsOut.filter fun e => e.1 != g }
    let s := s.updTeam G.team fun t =>
      { t with fin := t.fin.set G.idx true
               berths := t.berths.map fun b => if b.owner = some G.idx then { b with owner := none } else b }
    match s.team? G.team with
    | some t => if t.fin.all id then s.cancelStopped t.core G.team else s
    | none => s

/-- Every barrier that counts a team's threads is checked again, since EXP has fallen (R142). -/
def State.recheckBars (s : State) (t : Team) : State :=
  let s := (List.range 16).foldl (fun s n => s.checkBar (.share t.share n)) s
  (List.range 8).foldl (fun s n => s.checkBar (.unit t.unit n)) s

/-- Threads of a group end (R52, R98, R137, R142). -/
def State.endLanes (s : State) (g : Nat) (m : Word) : State :=
  let s := s.updGroup g fun G => G.endLanes (s.now g) m
  match s.group? g with
  | none => s
  | some G =>
    if G.wave.isSome then s
    else
      let s := if G.live &&& ~~~G.helpers = 0 then s.finishGroup g else s
      match s.team? G.team with
      | some t => s.recheckBars t
      | none => s

/-- An outstanding load has still to be performed in a lane of `m`, be it after fault service. -/
def Pend.unread (p : Pend) (m : Word) : Bool :=
  (match p.kind with
    | .load _ _ _ _ | .gath _ | .ldsh => true
    | _ => false) && p.lanes.any fun e => inMask m e.1 && match e.2 with
    | .waiting _ | .half _ _ _ _ | .faulted _ => true
    | _ => false

/-- A thread of `m` has an earlier load that has still to be performed: no release of it goes before (R174). -/
def State.loadsBefore (s : State) (g seq : Nat) (m : Word) : Bool :=
  match s.group? g with
  | some G => G.pend.any fun p => decide (p.seq < seq) && p.unread m
  | none => false

/-- An outstanding write of the group that is earlier in program order holds a release of the threads of `m` back (R172), and
so does an earlier load of theirs (R174). -/
def State.mustHold (s : State) (g seq : Nat) (m : Word) : Bool :=
  (s.lsq.any fun e => e.g == g && e.seq < seq) || s.loadsBefore g seq m ||
    match s.group? g with
    | some G => G.held.any fun h => h.seq < seq
    | none => false

/-- EXIT's release (R52, R173): the threads end once the group's earlier writes are performed. -/
def State.exitLanes (s : State) (g seq : Nat) (m : Word) : State :=
  if m = 0 then s
  else if s.mustHold g seq m then
    s.updGroup g fun G =>
      { G.updLanes m (fun _ L => { L with wait := .held }) with held := G.held ++ [{ seq, lanes := m, act := .exit m }] }
  else s.endLanes g m

/-! ### What the teams of a core take (R111, R145, R265) -/

/-- What some teams need together: groups, register units, scratchpad units, berths, L1 units. -/
structure Need where
  groups : Nat := 0
  rf : Nat := 0
  sp : Nat := 0
  berths : Nat := 0
  l1 : Nat := 0
  deriving DecidableEq, Repr

def Need.add (a b : Need) : Need :=
  { groups := a.groups + b.groups, rf := a.rf + b.rf, sp := a.sp + b.sp, berths := a.berths + b.berths, l1 := Nat.max a.l1 b.l1 }

/-- G of R97. -/
def KDesc.groups (d : KDesc) : Nat := cdiv d.teamt 32

/-- The need of a team of `n` groups. -/
def KDesc.need (d : KDesc) (n : Nat) : Need :=
  { groups := n, rf := cdiv (d.regs * 128 * n) 16384, sp := cdiv d.scratch 16384, berths := d.berths, l1 := d.l1u }

/-- The conditions of R111. -/
def Need.fits (n : Need) : Bool :=
  decide (n.groups ≤ 64) && decide (n.rf ≤ 48) && decide (n.sp ≤ 48) && decide (n.berths ≤ 8)
    && decide (n.rf + n.sp + 4 * n.berths + n.l1 ≤ 96)

/-- The key of a group that had finished before its team was resumed: it has no slot. -/
def noSlot : Nat := 2 ^ 32

/-- The need of a resident team, its scratchpad apart. -/
def Team.need (T : Team) : Need := { T.desc.need (T.groups.filter (· != noSlot)).length with sp := 0 }

/-- The teams that hold units of a core. -/
def State.teamsOn (s : State) (core : Nat) : List (Nat × Team) :=
  s.teams.filter fun e => e.2.core == core && !e.2.retired

/-- What is taken on a core: a shared scratchpad counts once. -/
def State.coreNeed (s : State) (core : Nat) : Need :=
  let ts := s.teamsOn core
  let n := ts.foldl (fun (n : Need) e => n.add e.2.need) {}
  let ks := ts.foldl (fun ks e => setIns e.2.share ks) []
  { n with sp := (ks.map fun k => cdiv (s.share k).size 16384).sum }

/-- The units that are left to a core's L1 (R145). -/
def State.l1Units (s : State) (core : Nat) : Nat :=
  let n := s.coreNeed core
  96 - (n.rf + n.sp + 4 * n.berths)

/-- The teams of some cores have come or gone: each core's L1 has the units that are left as its ways, and the lines of those that it
gives up are gone (R146). -/
def State.repartition (s : State) (cores : List Nat) : State := cores.foldl (fun s c => s.l1Resize c (s.l1Units c)) s

/-! ### The end of a context (R110, R291) -/

/-- The device's fields of a queue descriptor. -/
def State.writeQueue (s : State) (q : Nat) (u : UQueue) : State :=
  let s := { s with queues := AMap.put s.queues q u }
  s.devWrite
    (span (u.desc + 0x10) (leBytes 8 u.rdidx ++ leBytes 8 u.wridx ++ leBytes 4 (u.st + 16 * u.code)))

/-- An array that nothing is left to start on is idle (R237). -/
def Arr.rest (a : Arr) : Arr :=
  if a.active.isNone && !(a.slots.any fun x => match x.queue with
    | o :: _ => !o.waiting
    | [] => false) then { a with run := 0 } else a

/-- A context is terminated: its groups stop, copies and operations in flight are discarded, its queues stop, and a
record with SUB 0xFF goes to the log. -/
def State.terminate (s : State) (ctx : Nat) (r : Rec) : State :=
  let dead := fun t => match s.team? t with
    | some t => t.ctx == ctx
    | none => false
  let gone := fun g => match s.group? g with
    | some G => G.ctx == ctx
    | none => false
  let s := s.logRecord ctx { r with sub := 0xFF, async := false, mask := 0 }
  let s := s.updCtx ctx fun c => { c with dead := true }
  let s := (s.queues.filter fun e => e.2.ctx == ctx).foldl (fun s e => s.writeQueue e.1 { e.2 with st := 2, code := 0 }) s
  let cores := (s.teams.filter fun t => t.2.ctx == ctx).map fun t => t.2.core
  let s : State := { s with
    issueQ := s.issueQ.filter fun b => !gone b.g
    cores := s.cores.map fun e => (e.1, { e.2 with journal := e.2.journal.filter fun j => j.2.ctx != ctx })
    gates := s.gates.map fun e => (e.1, e.2.filter fun c => c.ctx != ctx)
    bstores := s.bstores.filter fun e => e.2.ctx != ctx
    arrays := s.arrays.map fun e => (e.1, Arr.rest
      { e.2 with
        slots := e.2.slots.map fun (x : Slot) => match x.team with
          | some t => if dead t then {} else x
          | none => x
        active := match e.2.active with
          | some (i, op) => if op.parts.any fun p => dead p.team then none else some (i, op)
          | none => none })
    quays := s.quays.map fun e => (e.1,
      { e.2 with reqs := e.2.reqs.filter fun q => q.ctx != ctx || q.cls == 0
                 busy := e.2.busy.filterMap fun b =>
                   let keep := b.2.filter fun q => q.ctx != ctx || q.cls == 0
                   if keep.isEmpty && s.groups.any fun x => x.2.ctx == ctx && match x.2.wave with
                       | some w => w.sb == b.1
                       | none => false then none
                   else some (b.1, keep) })
    qreplies := s.qreplies.filter fun q => q.req.ctx != ctx
    recsOut := s.recsOut.filter fun q => q.2.1 != ctx
    faults := s.faults.map fun q => q.filter fun e => e.ctx != ctx
    lsq := s.lsq.filter fun e => !(e.ctx == ctx && match e.kind with
      | .quay _ _ _ _ _ _ _ => true
      | _ => false)
    launchLists := s.launchLists.map fun l => l.filter fun x => x.1 != ctx
    groups := s.groups.filter fun e => e.2.ctx != ctx
    shares := s.shares.filter fun e => !(s.teams.any fun t => t.2.ctx == ctx && t.2.share == e.1)
    units := s.units.filter fun e => e.2.ctx != ctx
    saved := s.saved.filter fun e => e.2.unit.ctx != ctx
    launches := s.launches.filter fun e => e.2.ctx != ctx
    teams := s.teams.filter fun e => e.2.ctx != ctx }
  s.repartition cores

end Sys2Proof.Machine
end

