-- ==== Sys2Proof/Machine/Ops.lean ====
section
/-! DEFINITION. The operations that every meaning shares: issuing an instruction (R20, R37, R98, R125), taking an
exception (R25, R287, R290) and returning from one (R292), the park of a switch marker (R22, R23, R26, R263, R300), and
the writing of results (R12, R22). -/

namespace Sys2Proof.Machine

/-- An event whose conditions do not hold is passed over: nothing happens (log 3). -/
def State.passOver (s : State) : State := { s with missed := true }

/-- An event's outcome: `none` where its conditions do not hold. -/
def event (s : State) (r : Option State) : Host.Outcome State Fault Refusal := .next (r.getD s.passOver)

/-- One issue: the group, the instruction's address and program-order stamp, the lanes of the bundle, the lanes that take
part and the counted ones (R125). -/
structure At where
  g : Nat
  pc : DWord
  seq : Nat
  B : Word
  T : Word
  N : Word
  h : Hdr
  deriving DecidableEq, Repr

/-- A fresh program-order stamp. -/
def State.bump (s : State) : State := { s with seq := s.seq + 1 }

/-! ### The thread's own writes (R18) -/

/-- The byte that an entry of the store queues, issued before `seq`, has for a lane. -/
def LsOp.forward (e : LsOp) (g l seq pa : Nat) : Option Byte :=
  match e.kind with
  | .store bs _ => if e.g == g && decide (e.seq < seq) then (bs.find? fun b => b.pa == pa && inMask b.lanes l).map (·.val) else none
  | _ => none

/-- The lanes whose write an entry is. -/
def LsOp.mask (e : LsOp) : Word := match e.kind with
  | .store _ m | .puts _ _ _ _ m | .stsh _ _ _ m => m
  | _ => 1 <<< e.lane

/-- An entry that has no value to forward writes a byte of a range for a lane: an atomic, a discard or a PUTS. -/
def LsOp.blocks (e : LsOp) (g l seq pa n : Nat) : Bool :=
  e.g == g && inMask e.mask l && decide (e.seq < seq) && match e.kind with
    | .atomic _ p w _ _ _ _ => decide (p < pa + n) && decide (pa < p + w)
    | .disc line => decide (64 * line < pa + n) && decide (pa < 64 * line + 64)
    | .puts ws sig _ _ _ => (ws.any fun w => decide (w.1 < pa + n) && decide (pa < w.1 + w.2.length)) ||
        (decide (sig < pa + n) && decide (pa < sig + 8))
    | _ => false

/-- The latest store of the lane to a byte that is still on its way. -/
def State.forward (s : State) (g l seq pa : Nat) : Option Byte :=
  s.lsq.foldl (fun b e => match e.forward g l seq pa with
    | some v => some v
    | none => b) none

/-- The bytes of a range as the lane sees them: its own stores in flight over `mem`. -/
def State.laneBytes (s : State) (g l seq pa n : Nat) : List Byte :=
  (List.range n).map fun i => (s.forward g l seq (pa + i)).getD (s.byte (homeOf (pa + i)))

/-- A place in program order before another entry of its group; atomics and requests of one instruction stand in lane order
(R189, R199), and what a replayed lane stores stands after what the others stored (R71). -/
def LsOp.before (e f : LsOp) : Bool :=
  e.g == f.g && (decide (e.seq < f.seq) || (e.seq == f.seq && match e.kind with
    | .store _ _ => false
    | _ => decide (e.lane < f.lane)))

/-- An entry takes its place among those of its group. -/
def insertLs (e : LsOp) : List LsOp → List LsOp
  | [] => [e]
  | f :: r => if e.before f then e :: f :: r else f :: insertLs e r

/-- An LS-path write leaves the lane (R172). -/
def State.push (s : State) (e : LsOp) : State := { s with lsq := insertLs e s.lsq }

/-- The bytes of a store by the units in which it is performed: words, or aligned 8 bytes for the wider ones (R170). -/
def storeUnits (n : Nat) (bs : List StByte) : List (List StByte) :=
  let u := if n ≤ 4 then 4 else 8
  let ks := bs.foldl (fun ks b => if ks.contains (b.pa / u) then ks else ks ++ [b.pa / u]) []
  ks.map fun k => bs.filter fun b => b.pa / u == k

/-- The lanes whose bytes a unit of a store holds. -/
def lanesIn (u : List StByte) : Word := u.foldl (fun m b => m ||| b.lanes) 0

/-- A store of `n` bytes a lane leaves for its homes, one registration for each unit, the write of those lanes that count a byte of it
as theirs; the core's L1 takes a copy of each word's line (R172). -/
def State.pushStore (s : State) (n : Nat) (e : LsOp) (bs : List StByte) : State :=
  let lines := bs.foldl (fun ls b => setIns (b.pa / 64) ls) []
  let s := lines.foldl (fun s k => s.l1Fill (coreOf e.g) (64 * k) []) s
  ((storeUnits n bs).zipIdx).foldl (fun s u => s.push { e with part := u.2, kind := .store u.1 (lanesIn u.1) }) s

/-! ### Translation of a lane's accesses -/

/-- Through which TLB and tables the accesses of a group go; a quay has a TLB of its own. -/
def via (g : Nat) (G : Group) : Via :=
  if isWave g then { tlb := 384 + (g - quayBase) / 4, die := dieOfGroup g, ctx := G.ctx, team := G.team, own := G.wave.map Wave.sb }
  else { tlb := coreOf g, die := dieOfGroup g, ctx := G.ctx, team := G.team }

/-- A range that may cross a 64 KiB page: the physical address of each byte. -/
def State.xlateFor (s : State) (regs : Bool) (v : Via) (va : DWord) (n : Nat) (r : Right) (pkr : Option DWord) :
    State × Except XFault (List Nat) :=
  let k := 65536 - va.toNat % 65536
  match s.translateFor regs v va r pkr with
  | (s, .error x) => (s, .error x)
  | (s, .ok pa) =>
    if n ≤ k then (s, .ok ((List.range n).map (pa + ·)))
    else
      match s.translateFor regs v (va + BitVec.ofNat 64 k) r pkr with
      | (s, .error x) => (s, .error { x with off := k })
      | (s, .ok pb) => (s, .ok ((List.range k).map (pa + ·) ++ (List.range (n - k)).map (pb + ·)))

def State.xlate (s : State) (v : Via) (va : DWord) (n : Nat) (r : Right) (pkr : Option DWord) :
    State × Except XFault (List Nat) := s.xlateFor false v va n r pkr

/-- A lane holds an outstanding fault of a load that it issued before its present instruction (R26, R285). -/
def Group.loadFaulting (G : Group) (l : Nat) : Bool := G.pend.any fun p => p.seq != (G.lane l).wseq && match AMap.get? p.lanes l with
  | some (.faulted _) => true
  | _ => false

/-- A lane's fault goes to service; the lane waits at `pc` (R285, R299, R300). While it holds an outstanding fault of a load, or a wave
holds what its translation needs (R201), it waits with no entry, and its access is performed again after that. -/
def State.laneFault (s : State) (g l : Nat) (pc va : DWord) (x : XFault) (k : Kind) (acc : Acc) (pkr : DWord)
    (rej : Option Rec) : State :=
  match s.group? g with
  | none => s
  | some G =>
    let s := if x.held || G.loadFaulting l then s
      else s.toService (dieOfGroup g) { va := va + BitVec.ofNat 64 x.off, cause := x.cause, sub := x.sub, kind := k, src := .ls, ctx := G.ctx, source := groupSource g .ls, waiters := [.lane g l], l0 := x.l0 }
    s.updLane g l fun L => { L with pc := pc, wait := .fault va acc pkr rej }

/-! ### Taking an exception (R287) -/

/-- Replacement words of a new frame: none supplied yet (R293). -/
def trapCtx (r : Rec) : TrapCtx := { dest := r.dest, rv := [0, 0, 0, 0], rvValid := 0, blocked := r.blocked }

/-- The lane after its frame is written at `f`. -/
def Lane.enter (L : Lane) (f trapva : DWord) (r : Rec) (now : Nat) : Lane :=
  { ((L.setV 0 (loWord f)).setV 1 (hiWord f)) with
    spt := f, traps := trapCtx r :: L.traps, pc := trapva, wait := .none, marker := false, since := now }

/-- A lane takes a trap (R287): the frame is stored at SPT − 128, the depth rises, v0:v1 name the frame, and the lane
continues at TRAPVA. Without a handler, or at depth 4, the context ends (R291). -/
def State.trapEntry (s : State) (g l : Nat) (r : Rec) : State :=
  match s.group? g with
  | none => s
  | some G =>
    let L := G.lane l
    match AMap.get? s.contexts G.ctx with
    | none => s.terminate G.ctx r
    | some c =>
      if c.trapva = 0 || L.traps.length ≥ 4 then s.terminate G.ctx r
      else
        let f := L.spt - 128
        match s.xlate (via g G) f 128 .frameWrite none with
        | (s, .error x) =>
          if x.serviced && !(x.cause == .translation && x.sub == 3) then
            s.laneFault g l L.pc f x .write (.frame r) G.pkr none
          else s.terminate G.ctx r
        | (s, .ok pas) =>
          -- a poisoned half that the frame covers only in part: the write meets uncorrectable data
          if pas.any fun pa => s.poisoned pa && !((List.range 32).all fun i => pas.contains (pa / 32 * 32 + i)) then
            s.terminate G.ctx r
          else
          let s := s.bump
          let bs := (pas.zip (frameBytes r L)).map fun e => { pa := e.1, val := e.2, lanes := 1 <<< l : StByte }
          let s := s.pushStore 8 { g, lane := l, seq := s.seq, pc := L.pc, ctx := G.ctx, rel := false, kind := .store [] 0 } bs
          s.updLane g l fun L => L.enter f c.trapva r (s.now g)

/-- The lanes of one trap enter the handler as one joined set, each with its own frame and the same MASK (R290). -/
def State.trapLanes (s : State) (g : Nat) (m : Word) (r : Rec) : State :=
  if m = 0 then s
  else
    let s := s.updGroup g fun G => (G.joinSet m)
    (lanesOf m).foldl (fun s l => s.trapEntry g l { r with mask := m }) s

/-! ### Returning from one (R292) -/

/-- The destination that a DEST word names (R288). -/
def destOf (w : Word) : Dest :=
  let f := bitsAt w 0 10
  { reg := if f < 0x100 then some (.inl (.v (Fin.ofNat 256 f)))
      else if f < 0x140 then some (.inl (.s (Fin.ofNat 64 f)))
      else if 0x200 ≤ f ∧ f < 0x208 then some (.inr (Fin.ofNat 8 f)) else none
    w := match bitsAt w 10 2 with
      | 0 => 0
      | 1 => 1
      | 2 => 2
      | _ => 4 }

/-- The replacement words that apply to a destination of `w` words: supplied by TRPV and not blocked by a later writer. -/
def TrapCtx.words (t : TrapCtx) (w : Nat) : List (Nat × Word) :=
  (t.rv.zipIdx.filter fun e => t.rvValid.getLsbD e.2 && !t.blocked.getLsbD e.2 && decide (e.2 < w)).map
    fun e => (e.2, e.1)

/-- One replacement word is committed into the destination of the trapped instruction (R292). -/
def Group.replace (G : Group) (l : Nat) (d : Dest) (i : Nat) (x : Word) : Group :=
  match d.reg with
  | some (.inl (.v n)) => G.updLane l fun L => L.setV (n.val + i) x
  | some (.inl (.s n)) => G.setS (n.val + i) x
  | some (.inr p) => G.updLane l fun L => L.setP p (x.getLsbD 0)
  | none => G

/-- The registers that a frame restores: v0 to v7, p1 to p7, and then the replacement words. -/
def Group.restore (G : Group) (l : Nat) (fr : List Byte) : Group :=
  let G := G.updLane l fun L =>
    { (L.setVs 0 (leWords 8 (fr.drop 0x40))) with p := (fr.getD 0x24 0) &&& 0xFE }
  match (G.lane l).traps with
  | [] => G
  | t :: _ =>
    let d := destOf (leWord ((fr.drop 0x30).take 4))
    (t.words d.w).foldl (fun G e => G.replace l d e.1 e.2) G

/-- A lane joins an outstanding result, which is made if this is its first lane. -/
def Group.joinPend (G : Group) (seq : Nat) (pc : DWord) (kind : PKind) (d : Dest) (pkr : DWord) (l : Nat) (x : PLane) : Group :=
  if G.pend.any fun p => p.seq == seq then
    { G with pend := G.pend.map fun p => if p.seq = seq then { p with lanes := AMap.put p.lanes l x } else p }
  else
    let p : Pend := { seq, pc, kind, dest := d, pkr, supplier := some l, lanes := [(l, x)] }
    { G with pend := (G.pend.filter fun q => decide (q.seq < seq)) ++ [p] ++ (G.pend.filter fun q => decide (seq < q.seq)) }

/-- A lane waits at its instruction for a read that this makes: it is performed when VARIABLE_RESULT_RETURN takes it (R54, R216, R292). -/
def State.readLater (s : State) (g l : Nat) (pc : DWord) (kind : PKind) (va pkr : DWord) : State :=
  s.updGroup g fun G =>
    let q := (G.lane l).wseq
    (G.joinPend q pc kind noDest pkr l (.waiting va)).updLane l fun L => { L with pc, wait := .result q }

/-- ERET in one lane (R292), once its park is over: the frame at SPT is read, registers and predicates are restored, the
depth falls, SPT rises and the lane continues at RESUME. -/
def State.eretLane (s : State) (g l : Nat) : State :=
  match s.group? g with
  | none => s
  | some G =>
    let L := G.lane l
    let f := L.spt
    match s.xlate (via g G) f 128 .frameRead none with
    | (s, .error x) =>
      if x.serviced then
        s.laneFault g l L.pc f x .read .eret G.pkr (some { cause := x.cause, sub := x.sub, kind := .read, fpc := L.pc, resume := L.pc, addr := f })
      else s.terminate G.ctx { cause := x.cause, sub := x.sub, kind := .read, fpc := L.pc, resume := L.pc, addr := f }
    | (s, .ok pas) =>
      if (pas.any fun pa => s.lsq.any fun e => e.blocks g l (s.seq + 1) pa 1) || s.holds pas then
        s.readLater g l L.pc .eret f 0
      else if pas.any fun pa => (s.forward g l (s.seq + 1) pa).isNone && (s.poisonIn pa 1).isSome then
        s.terminate G.ctx { cause := .uncorr, kind := .read, fpc := L.pc, resume := L.pc, addr := f }
      else
        let fr := pas.flatMap fun pa => s.laneBytes g l (s.seq + 1) pa 1
        let far := pas.filter fun pa => (s.forward g l (s.seq + 1) pa).isNone
        let s := (far.foldl (fun ls pa => setIns (pa / 64) ls) []).foldl (fun s k => s.l1Fill (coreOf g) (64 * k) far) s
        s.updGroup g fun G =>
          (G.restore l fr).updLane l fun L =>
            { L with traps := L.traps.tail, spt := f + 128, pc := leDWord (fr.take 8), wait := .none, since := s.now g }

/-! ### Committing results (R22) -/

/-- The value of one lane of an outstanding result takes effect: each word that no later writer superseded. -/
def Group.commitLane (G : Group) (p : Pend) (l : Nat) (ws : List Word) : Group :=
  let live := (ws.zipIdx.filter fun e => !p.disc.getLsbD (4 * l + e.2))
  let m : Word := 1 <<< l
  match p.dest.reg with
  | some (.inl (.v n)) =>
    live.foldl (fun G e =>
      { G.updLane l (fun L => L.setV (n.val + e.2) e.1) with
        pend := supersede G.pend p.seq m (.inl (regAt (.v n) e.2)) }) G
  | some (.inl (.s n)) =>
    if p.supplier = some l then
      live.foldl (fun G e => { G.setS (n.val + e.2) e.1 with pend := supersede G.pend p.seq 0xFFFFFFFF (.inl (regAt (.s n) e.2)) }) G
    else G
  | some (.inr q) =>
    live.foldl (fun G e =>
      { G.updLane l (fun L => L.setP q (e.1.getLsbD 0)) with pend := supersede G.pend p.seq m (.inr q) }) G
  | none => G

/-- A lane's outcome is still to come. -/
def PLane.open' : PLane → Bool
  | .waiting _ | .half _ _ _ _ | .faulted _ => true
  | _ => false

/-- An instruction with a variable-latency result, which parks wait for (R21, R23); the reads of RET, KDEF and ERET have none. -/
def Pend.isResult (p : Pend) : Bool := match p.kind with
  | .refill | .kdef _ | .eret => false
  | _ => true

/-- Some lane's result has not returned, fault service apart (R23, R300). -/
def Group.outstanding (G : Group) : Bool := G.pend.any fun p => p.isResult && p.lanes.any fun e => match e.2 with
  | .waiting _ | .half _ _ _ _ => true
  | _ => false

/-- Some parked lane has met a fault or lost its value: the others leave as their own outcomes settle (R300). -/
def Group.troubled (G : Group) : Bool := G.pend.any fun p => p.lanes.any fun e => match e.2, (G.lane e.1).wait with
  | .faulted _, .park _ _ | .lost (some _), .park _ _ => true
  | _, _ => false

/-- A lane has an outcome still to come. -/
def Group.laneOpen (G : Group) (l : Nat) : Bool := G.pend.any fun p => match AMap.get? p.lanes l with
  | some x => x.open'
  | none => false

/-- The lanes that wait at a marker. -/
def Group.parked (G : Group) : Word := maskOf fun l => match (G.lane l).wait with
  | .park _ _ => true
  | _ => false

/-- The lanes whose park ends the thread. -/
def Group.exiting (G : Group) : Word := maskOf fun l => match (G.lane l).wait with
  | .park .exit _ => true
  | _ => false

/-- The values that are back commit in program order, in every lane but those of `hold`; the lanes of `discard` lose
theirs (R22, R23). An acquire of LDACQ, a returning atomic or QCALLA takes effect here (R173): the flag says that one did. -/
def Group.commitAll (G : Group) (hold discard : Word) : Group × Bool :=
  let due := fun (p : Pend) (e : Nat × PLane) => !inMask hold e.1 && (G.lane e.1).wait != .gath p.seq && match e.2 with
    | .back _ => true
    | .lost none => true
    | _ => false
  let acq := G.pend.any fun p => (match p.kind with
    | .load _ _ a _ | .remote a => a
    | _ => false) && p.lanes.any (due p)
  let G := G.pend.foldl (fun G p =>
    match G.pend.find? fun q => q.seq == p.seq with
    | none => G
    | some p =>
      (p.lanes.filter (due p)).foldl (fun G e =>
        match e.2 with
        | .back ws => if inMask discard e.1 then G else G.commitLane p e.1 ws
        | _ => G) G) G
  let rest := G.pend.map fun p => { p with lanes := p.lanes.filter fun e => !due p e }
  ({ G with pend := rest.filter fun p => !p.lanes.isEmpty }, acq)

/-- The first record, in program order, that a lane has to take at its marker (R290, R301). DESIGN CHOICE (log 37): a refused
lane that is not the supplier of a scalar result has the register as its pending destination too. -/
def Group.lostOf (G : Group) (l : Nat) : Option (Nat × Rec) :=
  G.pend.findSome? fun (p : Pend) => match AMap.get? p.lanes l with
    | some (.lost (some r)) =>
      some (p.seq, { r with dest := p.dest, blocked := (p.disc >>> (4 * l)).setWidth 4 })
    | _ => none

/-- A lane's share of an outstanding result is settled. -/
def Group.dropLane (G : Group) (seq l : Nat) : Group :=
  let rest := G.pend.map fun p => if p.seq = seq then { p with lanes := AMap.del p.lanes l } else p
  { G with pend := rest.filter fun p => !p.lanes.isEmpty }

/-! ### The switch marker (R23, R263) -/

/-- Lanes take, as one trap per outstanding instruction, the records that settled at their marker. -/
def State.takeLost (s : State) (g : Nat) : Nat → List Nat → State
  | 0, _ => s
  | _, [] => s
  | fuel + 1, l :: ls =>
    match s.group? g with
    | none => s
    | some G =>
      match G.lostOf l with
      | none => s.takeLost g fuel ls
      | some (seq, r) =>
        let same := (l :: ls).filter fun k => ((G.lostOf k).map (·.1)) = some seq
        let rest := ls.filter fun k => ((G.lostOf k).map (·.1)) != some seq
        let m := maskOf fun k => same.contains k
        let s := s.updGroup g fun G => same.foldl (fun G k => G.dropLane seq k) (G.joinSet m)
        let s := same.foldl (fun s k => match (G.lostOf k) with
          | some (_, r') => s.trapEntry g k { r' with resume := (G.lane k).pc, mask := m }
          | none => s.trapEntry g k { r with resume := (G.lane k).pc, mask := m }) s
        s.takeLost g fuel rest

/-- What the lanes of a park do now that it is over, one lane at a time. -/
def State.resumeLane (s : State) (g l : Nat) (a : After) : State :=
  match a with
  | .go => s.updLane g l fun L => { L with wait := .none, since := s.now g }
  | .exit => s
  | .trap r => s.trapEntry g l r
  | .eret => s.eretLane g l

/-- The asynchronous record that is due at a lane's park, or at the park that follows its wait. -/
def Lane.due? (L : Lane) : Option Rec := match L.wait with
  | .park _ d => d
  | _ => L.due

def Lane.after (L : Lane) : Option After := match L.wait with
  | .park a _ => some a
  | _ => none

/-- A lane waits for its frame: for the store of a trap entry or the read of an ERET (R287, R292). -/
def Lane.atFrame (L : Lane) : Bool := match L.wait with
  | .fault _ (.frame _) _ _ | .fault _ .eret _ _ | .result _ => true
  | _ => false

/-- Lanes that a record is due at: those of one park with the same record. RESUME is the instruction after the marker: the
one that follows an EXIT, and after a trap entry or an ERET the one that it led to; while all of them wait for their frames, it stays due. -/
def State.takeDue (s : State) (g : Nat) (m : Word) (r : Rec) : State :=
  match s.group? g with
  | none => s
  | some G =>
    let ok := maskOf fun l => inMask m l && (G.lane l).live && (G.lane l).wait == .none
    let late := maskOf fun l => inMask m l && (G.lane l).live && (G.lane l).atFrame
    if ok != 0 then
      let s := s.updGroup g fun G => G.joinSet ok
      (lanesOf ok).foldl (fun s l => s.trapEntry g l { r with resume := (s.lane g l).pc, mask := ok }) s
    else if late != 0 then s.updGroup g fun G => G.updLanes late fun _ L => { L with due := some r }
    else s.updGroup g fun G => { G with recs := r :: G.recs }

/-- Lanes that have waited for their frames, with a record due, take it now that some of them go on (R263). -/
def State.takeLate (s : State) (g : Nat) : State :=
  match s.group? g with
  | none => s
  | some G =>
    match (List.range 32).findSome? fun l => if (G.lane l).live && (G.lane l).wait == .none then (G.lane l).due.map fun r => (r, (G.lane l).wseq) else none with
    | none => s
    | some (r, q) =>
      let with' := fun (L : Lane) => L.live && L.due == some r && L.wseq == q
      let m := maskOf fun l => with' (G.lane l)
      let s := s.updGroup g fun G => G.updLanes m fun _ L => { L with due := none }
      s.takeDue g m r

/-- The records due in the lanes of a mask, each with the lanes of the one issue that it is due at. -/
def Group.duesOf (G : Group) (m : Word) : List (Nat × Rec × Word) :=
  (lanesOf m).foldl (fun ds l => match (G.lane l).due? with
    | none => ds
    | some r =>
      let q := (G.lane l).wseq
      if ds.any fun d => d.1 == q && d.2.1 == r then
        ds.map fun d => if d.1 == q && d.2.1 == r then (d.1, d.2.1, d.2.2 ||| (1 <<< l : Word)) else d
      else ds ++ [(q, r, (1 <<< l : Word))]) []

/-- What a lane does once its park is over: an EXIT at which a record is due lets the lane go on behind it. -/
def State.leavePark (s : State) (g l : Nat) (a : After) (due : Bool) : State :=
  match a, due with
  | .exit, true => (s.updLane g l fun L => { L with pc := L.pc + 12 }).resumeLane g l .go
  | a, _ => s.resumeLane g l a

/-- The lanes that take one trap of their instruction with a lane, of those whose parks end (R288). DEDUCED (log 37): lanes of it whose earlier
accesses are still in service take it later, with a MASK of their own. -/
def Group.trapMask (G : Group) (free : Word) (l : Nat) : Word := maskOf fun k =>
  inMask free k && (G.lane k).wseq == (G.lane l).wseq && match (G.lane k).after with
    | some (.trap _) => true
    | _ => false

/-- The lanes of each such trap form one joined set (R290). -/
def Group.joinTraps (G : Group) (free : Word) : Group :=
  (lanesOf free).foldl (fun (G' : Group) l => if lowest (G.trapMask free l) = some l then G'.joinSet (G.trapMask free l) else G') G

/-- The park of some of a group's lanes ends for each whose own outcomes have settled (R23, R300): results commit but in the lanes of
`hold`, lanes with a refused or poisoned access trap, and the others go on, end, trap or return; then the asynchronous records that
are due are taken (R263), but for one whose lanes all trap for an outcome of their own, which stays due. -/
def State.settleIn (s : State) (g : Nat) (sel hold : Word) : State :=
  match s.group? g with
  | none => s
  | some G =>
    let parked := G.parked
    let out := maskOf fun l => inMask parked l && inMask sel l && !G.laneOpen l
    let lost := maskOf fun l => inMask out l && (G.lostOf l).isSome
    let free := out &&& ~~~lost
    let dues := G.duesOf free
    let kept := (G.duesOf lost).filter fun d => !dues.any fun e => e.1 == d.1 && e.2.1 == d.2.1
    let dm := dues.foldl (fun (m : Word) d => m ||| d.2.2) 0
    let (G', acq) := G.commitAll (parked &&& ~~~out ||| hold) (G.exiting &&& out)
    let s := { s with groups := AMap.put s.groups g G' }
    let s := if acq && !isWave g then s.acquire (coreOf g) else s
    let s := s.updGroup g fun G => G.partFrom out
    let s := s.takeLost g 32 (lanesOf lost)
    let s := s.updGroup g fun G => { G.joinTraps free with recs := kept.map (·.2.1) ++ G.recs }
    let s := (lanesOf free).foldl (fun s l => match (G.lane l).after with
      | some (.trap r) => s.leavePark g l (.trap { r with mask := G.trapMask free l }) (inMask dm l)
      | some a => s.leavePark g l a (inMask dm l)
      | none => s) s
    let s := dues.foldl (fun s d => s.takeDue g d.2.2 d.2.1) s
    let s := s.bump
    let x := G.exiting &&& free &&& ~~~dm
    s.exitLanes g s.seq x

/-- The park of a group's lanes ends (R23). -/
def State.settle (s : State) (g : Nat) : State := s.settleIn g 0xFFFFFFFF 0

/-- The parked lanes that end, trap or return: they do so before a save, without the others' values (R309). -/
def Group.leaving (G : Group) : Word := maskOf fun l => match (G.lane l).after with
  | none | some .go => false
  | _ => true

/-- The record that a bundle's park delivers: the first that has arrived and concerns its lanes (R263, R290). -/
def Group.recFor (G : Group) (m : Word) : Option (Nat × Word × Rec) :=
  G.recs.zipIdx.findSome? fun e =>
    let k := if e.1.mask = 0 then m &&& ~~~G.helpers else e.1.mask &&& m
    if k = 0 then none else some (e.2, k, e.1)

/-- The record that the issue of a marker by some lanes takes up, and the lanes that it is due at (R263). -/
def State.claim (s : State) (g : Nat) (m : Word) : State × Word × Option Rec :=
  match s.group? g with
  | none => (s, 0, none)
  | some G =>
    match (if isWave g then none else G.recFor m) with
    | some (i, k, r) => (s.updGroup g fun G => { G with recs := dropAt G.recs i }, k, some r)
    | none => (s, 0, none)

/-- Lanes park, with the record that is due at those of `dm`, or was at the instruction that they waited at; a park with nothing
outstanding ends at once. -/
def State.parkWith (s : State) (g : Nat) (m : Word) (a : Nat → After) (dm : Word) (due : Option Rec) : State :=
  match s.group? g with
  | none => s
  | some G =>
    if m = 0 then s
    else
      let G := G.updLanes m fun l L => { L with wait := .park (a l) (if inMask dm l then due else L.due), marker := false, due := none }
      let s := { s with groups := AMap.put s.groups g G }
      if G.outstanding then s else s.settle g

/-- Lanes of one bundle park as at a switch marker (R23). DEDUCED (log 37): the lanes that issued the marker park; lanes of
the group at other PCs go on. -/
def State.park (s : State) (g : Nat) (m : Word) (a : Nat → After) : State :=
  let (s, dm, due) := s.claim g (maskOf fun l => inMask m l && (s.lane g l).due.isNone)
  s.parkWith g m a dm due

/-! ### Faults of an issue -/

/-- A method fault (R203): the first one taken is kept, and the lanes of the wave make no further issues. -/
def State.methodFault (s : State) (g sub code : Nat) : State :=
  s.updGroup g fun G =>
    { (G.updLanes 0xFFFFFFFF fun _ L => { L with live := false, wait := .none }) with
      wave := G.wave.map fun w => if w.flt.isSome then w else { w with flt := some (sub, code) } }

/-- Lanes take a precise trap at the instruction (R25, R290): they form one joined set, park as at a marker, and enter the
handler with RESUME and FPC at the instruction. Helper lanes never trap, and run on (R98, R301). -/
def State.raise (s : State) (x : At) (m : Word) (r : Nat → Rec) : State :=
  match s.group? x.g with
  | none => s
  | some G =>
    let m := m &&& ~~~G.helpers
    if m = 0 then s
    else
      let s := s.updGroup x.g fun G => (G.updLanes m fun _ L => { L with pc := x.pc, wait := .none }).joinSet m
      s.park x.g m fun l => .trap { r l with resume := x.pc, fpc := x.pc, mask := m }

/-- The helper lanes of a mask end as at EXIT (R98). -/
def State.endHelpers (s : State) (x : At) (m : Word) : State :=
  if m = 0 then s
  else
    let s := s.updGroup x.g fun G => G.updLanes m fun _ L => { L with pc := x.pc }
    s.park x.g m fun _ => .exit

/-- The wave has issued its last bundle: the next is a method fault (R203). -/
def Group.overLimit (G : Group) : Bool := match G.wave with
  | some w => decide (w.bundles > 4096)
  | none => false

/-- A decode check fails (R37, R98, R290): the non-helper lanes of the bundle trap, guard or not, the helper lanes end,
and without a lane to take the trap a log record is written. -/
def State.decodeFault (s : State) (x : At) (r : Rec) : State :=
  match s.group? x.g with
  | none => s
  | some G =>
    if isWave x.g then s.methodFault x.g (if G.overLimit then 4 else 1) 0
    else
      let hs := x.B &&& G.helpers
      let ns := x.B &&& ~~~G.helpers
      let s := if ns = 0 then s.logRecord G.ctx { r with resume := x.pc, fpc := x.pc, mask := 0 }
        else s.raise x ns fun _ => r
      s.endHelpers x hs

/-! ### Issue -/

/-- Where an instruction may run (R203, R204). -/
inductive Site where
  | core | quay | both
  deriving DecidableEq, Repr

/-- A register of `w` words is aligned and within the group's allocation (R9, R11); a method sees v0 to v63 and s0 to
s15 (R203). -/
def regOk (wave : Bool) (regs : Nat) (r : Reg × Nat) : Bool :=
  r.1.aligned r.2 && match r.1 with
    | .v n => decide (n.val + r.2 ≤ if wave then min regs 64 else regs)
    | .s n => decide (n.val + r.2 ≤ if wave then 16 else 64)

/-- The registers of sources; an immediate names none. -/
def srcReg (a : Src) (w : Nat) : List (Reg × Nat) :=
  match a with
  | .v n => [(.v n, w)]
  | .s n => [(.s n, w)]
  | .imm _ => []

def ssrcReg (a : SSrc) (w : Nat) : List (Reg × Nat) :=
  match a with
  | .s n => [(.s n, w)]
  | .imm _ => []

/-- A lane may issue: it runs, and waits for nothing or re-executes what it waits at (R115, R308). -/
def Lane.issuable (L : Lane) : Bool := L.live && match L.wait with
  | .none | .again _ => true
  | _ => false

/-- Two lanes belong to one issue: both new to the instruction, or both waiting from one issue of it (R229, R270). -/
def Lane.together (a b : Lane) : Bool :=
  match a.wait, b.wait with
  | .again _, .again _ => a.wseq == b.wseq
  | .again _, _ | _, .again _ => false
  | _, _ => true

/-- The lanes that take part in an issue: those whose guard holds; a lane that re-executes its instruction took part when
it first issued. -/
def Lane.takes (L : Lane) (h : Hdr) : Bool := match L.wait with
  | .again _ => true
  | _ => L.guard h

/-- The issue of the current bundle: its lanes that may issue, all at the address of the lowest. -/
def State.at? (s : State) (h : Hdr) : Option (Group × At) :=
  match s.group? s.cur.g with
  | none => none
  | some G =>
    let m := maskOf fun l => inMask s.cur.lanes l && (G.lane l).issuable
    match lowest m with
    | none => none
    | some l0 =>
      let pc := (G.lane l0).pc
      let B := maskOf fun l => inMask m l && (G.lane l).pc == pc && (G.lane l).together (G.lane l0)
      let T := maskOf fun l => inMask B l && (G.lane l).takes h
      some (G, { g := s.cur.g, pc, seq := s.seq + 1, B, T, N := T &&& ~~~G.helpers, h })

/-- A lane moves past the instruction, with its DELAY and YLD (R17, R24, R122). -/
def Lane.moveOn (L : Lane) (x : At) (now : Nat) : Lane :=
  { L with
    pc := x.pc + 12, wait := .none, marker := false, due := none, since := now
    wseq := match L.wait with
      | .again _ => L.wseq
      | _ => x.seq
    delayed := now + x.h.delay.toNat, yielded := x.h.yld }

/-- The lanes of an issue move past the instruction. -/
def State.advance (s : State) (x : At) : State :=
  (s.bump).updGroup x.g fun G =>
    { (G.updLanes x.B fun _ L => L.moveOn x (s.now x.g)) with age := 0, stepping := G.stepping &&& ~~~x.B }

/-- A lane waits on something else than a park, which then follows that wait (R23). -/
def Lane.waitsElse (L : Lane) : Bool :=
  L.live && match L.wait with
  | .none | .park _ _ | .again _ | .fault _ (.frame _) _ _ | .fault _ .eret _ _ => false
  | _ => true

/-- After the effect, with the group as it was before the issue: lanes that came to different addresses part (R138), and a switch
marker parks, with the record that has arrived by its issue (R23, R263). -/
def State.close (s : State) (x : At) (G0 : Group) : State :=
  match s.group? x.g with
  | none => s
  | some G =>
    let s := s.updGroup x.g fun G => G.resplit x.B 32
    if !x.h.mark then s
    else
      let m := maskOf fun l => inMask x.B l && (G.lane l).live && (G.lane l).wait == .none &&
        (G.lane l).traps.length == (G0.lane l).traps.length
      let w := maskOf fun l => inMask x.B l && (G.lane l).waitsElse
      let (s, dm, due) := s.claim x.g (m ||| w)
      let s := if w = 0 then s
        else s.updGroup x.g fun G => G.updLanes w fun l L => { L with marker := true, due := if inMask dm l then due else none }
      s.parkWith x.g m (fun _ => .go) dm due

/-- An instruction issues (R20, R37, R125). The decode checks come first, guard or not: where it may run, the registers it
names, then its handles. Then every lane of the bundle moves on, the effect acts, and the marker parks. -/
def issue (s : State) (h : Hdr) (site : Site) (regs : List (Reg × Nat)) (handles : State → Group → List (Nat × Bool))
    (body : State → At → State) : Host.Outcome State Fault Refusal :=
  match s.at? h with
  | none => .fault .noBundle
  | some (G, x) =>
    let wave := isWave x.g
    let s1 := s.advance x
    if G.overLimit then .next (s1.methodFault x.g 4 0)
    else if !(site == .both || (site == .quay) == wave) || !(regs.all (regOk wave G.regs)) then
      .next (s1.decodeFault x { cause := .illegal })
    else
      match (handles s G).find? fun e => !e.2 with
      | some e => .next (s1.decodeFault x { cause := .badHandle, info := BitVec.ofNat 32 e.1 })
      | none => .next ((body s1 x).close x G)

/-- No handle to check. -/
def noHandles : State → Group → List (Nat × Bool) := fun _ _ => []

/-! ### Results -/

/-- The operand of a source in a lane: a class-I source supplies IMM, sign-extended over two words (R31). -/
def Group.src (G : Group) (l : Nat) (a : Src) : Word :=
  match a with
  | .v n => (G.lane l).vreg n.val
  | .s n => G.sreg n.val
  | .imm w => w

def Group.ssrc (G : Group) (a : SSrc) : Word :=
  match a with
  | .s n => G.sreg n.val
  | .imm w => w

/-- A fixed-latency result (R12, R21, R22): the values are computed from the registers as they stand at the issue. -/
def State.result (s : State) (x : At) (d : Reg) (w : Nat) (f : Group → Nat → List Word) : State :=
  s.updGroup x.g fun G => G.write x.seq x.T x.N d w (f G)

/-- A predicate result. -/
def State.resultP (s : State) (x : At) (d : PReg) (f : Group → Nat → Bool) : State :=
  s.updGroup x.g fun G => G.writeP x.seq x.T d (f G)

/-- A lane-wise instruction with a fixed-latency register result. -/
def fixedOp (s : State) (h : Hdr) (d : Reg) (w : Nat) (regs : List (Reg × Nat)) (f : Group → Nat → List Word) :
    Host.Outcome State Fault Refusal :=
  issue s h .both ((d, w) :: regs) noHandles fun s x => s.result x d w f

/-- A lane-wise instruction with a predicate result. -/
def predOp (s : State) (h : Hdr) (d : PReg) (regs : List (Reg × Nat)) (f : Group → Nat → Bool) :
    Host.Outcome State Fault Refusal :=
  issue s h .both regs noHandles fun s x => s.resultP x d f

/-- A variable-latency result becomes outstanding, its accesses under a PKR (R21, R22, R303). -/
def State.addPendKey (s : State) (x : At) (pkr : Group → DWord) (kind : PKind) (d : Dest) (lanes : AMap PLane) : State :=
  if lanes.isEmpty then s
  else
    s.updGroup x.g fun G =>
      { G with pend := G.pend ++ [{ seq := x.seq, pc := x.pc, kind, dest := d, pkr := pkr G, supplier := lowest x.N, lanes, parked := x.h.mark }] }

/-- So under the PKR of now. -/
def State.addPend (s : State) (x : At) (kind : PKind) (d : Dest) (lanes : AMap PLane) : State := s.addPendKey x Group.pkr kind d lanes

/-- A scalar result has a value only if a non-helper lane issued it (R12). -/
def pendLanes (d : Reg) (x : At) (f : Nat → PLane) : AMap PLane :=
  match d with
  | .v _ => (lanesOf x.T).map fun l => (l, f l)
  | .s _ => if x.N = 0 then [] else (lanesOf x.T).map fun l => (l, f l)

/-- Lanes re-execute their instruction once what they wait for has come (R115, R308). -/
def State.again (s : State) (x : At) (m : Word) (r : Reason) : State :=
  s.updGroup x.g fun G => G.updLanes m fun _ L => { L with pc := x.pc, wait := .again r }

/-- What the lanes of an issue wait at the instruction for, when they re-execute it. -/
def At.reason (x : At) (s0 : State) : Option Reason := match (s0.lane x.g ((lowest x.T).getD 0)).wait with
  | .again r => some r
  | _ => none

/-- Lanes of an issue wait where they are now. -/
def State.waitLanes (s : State) (x : At) (m : Word) (w : Nat → Wait) : State :=
  s.updGroup x.g fun G => G.updLanes m fun l L => { L with wait := w l }

/-- Lanes of an issue transfer control (R51). -/
def State.jump (s : State) (x : At) (m : Word) (f : Group → Nat → DWord) : State :=
  s.updGroup x.g fun G => G.updLanes m fun l L => { L with pc := f G l }

end Sys2Proof.Machine
end

