-- ==== Sys2Proof/Machine/Dram.lean ====
section
/-! DEFINITION. The memory below the slices: the packets between the ports and the base dies, the stripe lock, reconstruction,
scrubbing and the loss of a stack (R155 to R168, R351). -/

namespace Sys2Proof.Machine

/-! ### Requests (R155 to R158) -/

/-- A request of a port is well-formed (R155). -/
def requestOk (port tag pa beats : Nat) : Bool :=
  decide (tag < 8) && decide (1 ≤ beats) && decide (beats ≤ 8) && pa % 32 == 0 && decide (pa % 256 + 32 * beats ≤ 256)
    && homeSlice pa == port && match region pa with
      | .hbm | .tier2 => true
      | _ => false

/-- The class and budget of a command of an engine: those of its header and control words (R218, R230). -/
def commandService (ws : List Word) : Nat × Nat := (bitsAt ((ws.getD 0 0).setWidth 64) 14 2, bitsAt ((ws.getD 1 0).setWidth 64) 8 24)

/-- The class and budget of a request, which its source fixes (R157); none for a command that is not there. -/
def State.serviceOf (s : State) : ReqSource → Option (Nat × Nat)
  | .miss | .quay | .cxl => some (1, 0)
  | .copy c j => (AMap.get? (s.core c).journal j).map fun x => commandService x.words
  | .gate u i => ((AMap.getD s.gates u [])[i]?).map fun x => commandService x.words
  | .writeBack | .discard | .migration => some (2, 0)
  | .scrub | .prefetch => some (3, 0)

/-- A port may send a request: with a free tag, or with none free to wait for one (R156). -/
def State.tagOk (s : State) (port tag : Nat) : Bool := !s.tagBusy port tag || (s.freeTag port).isNone

/-- RD (R155, R156): a port's read request. -/
def execRd (port tag pa beats : Nat) (src : ReqSource) (met : Met) (s : State) : Host.Outcome State Fault Refusal :=
  event s <|
  let (target, off) := dramPlace pa
  match s.serviceOf src with
  | some (cls, b) =>
    (if !requestOk port tag pa beats || !s.tagOk port tag then none
      else some (s.request { ty := .rd, target, off, beats, port, tag, cls, budget := budgetCode b, errs := met.errs, late := met.late }))
  | none => none

/-- WR (R151, R155, R156, R159, R163): the write-back of the marked words of dirty lines, which become clean. -/
def execWr (port tag pa beats : Nat) (masks : List Word) (src : ReqSource) (met : Met) (s : State) :
    Host.Outcome State Fault Refusal :=
  event s <|
  let (target, off) := dramPlace pa
  let halves := (List.range beats).map fun i => ((pa + 32 * i) / 64, (pa + 32 * i) / 32 % 2)
  let data := halves.map fun e => s.beatOf e.1 e.2
  let lines := halves.map (·.1)
  let whole := lines.all fun l => [0, 1].all fun h => halves.contains (l, h) || (s.beatOf l h).mask == 0
  match s.serviceOf src with
  | some (cls, b) =>
    (if !requestOk port tag pa beats || !s.tagOk port tag || masks != data.map (·.mask) || !whole then none
      else
        let s := lines.foldl (fun (s : State) l => { s with l2 := AMap.upd s.l2 l fun x => { x with dirty := false } }) s
        some (s.request { ty := .wr, target, off, beats, port, tag, cls, budget := budgetCode b, errs := met.errs, late := met.late, data }))
  | none => none

/-! ### Replies and the ring (R155, R159, R161, R163) -/

/-- A packet of a type. -/
def State.packet? (s : State) (i : Nat) (ty : PType) : Option Packet :=
  match AMap.get? s.packets i with
  | some p => if p.ty == ty then some p else none
  | none => none

/-- A packet's arrival does something. -/
def onPacket (i : Nat) (ty : PType) (f : Packet → State → Option State) (s : State) : Host.Outcome State Fault Refusal :=
  event s ((s.packet? i ty).bind fun p => f p (s.taken i))

/-- The address of the bytes at a place. -/
def addrOf (target off : Nat) : Option Nat :=
  if target < 16 then placePa target off else some (0x010000000000 + (off / 256 * 2 + (target - 16)) * 256 + off % 256)

/-- A word that a port has received: its line holds it, and a poisoned word's half becomes poisoned if memory still has it so and no
store has covered it meanwhile (R151, R163). -/
def State.receive (s : State) (pa : Nat) (bad : Bool) : State :=
  let h := pa / 32
  let words : Half := (0xFF : Half) <<< (8 * (h % 2))
  match AMap.get? s.l2 (pa / 64) with
  | none => s.fill pa
  | some l =>
    let u := { s with l2 := AMap.put s.l2 (pa / 64) { l with mask := l.mask ||| words } }
    if bad && words &&& ~~~l.mask != 0 && (AMap.get? s.pois h).isNone && s.memPoisoned (32 * h) then u.takePoison h l else u

/-- RDR (R155, R163): the reply reaches the lines of its range, and its tag becomes free. -/
def execRdr (i : Nat) (s : State) : Host.Outcome State Fault Refusal :=
  s |> onPacket i .rdr fun p s =>
    match addrOf p.target p.off with
    | none => some (s.tagFreed p.port)
    | some pa => some ((p.words.foldl (fun s w => s.receive (pa + 32 * w.1) (p.beat w.1).pois) s).tagFreed p.port)

/-- WACK (R159): the tag becomes free. -/
def execWack (i : Nat) (s : State) : Host.Outcome State Fault Refusal := s |> onPacket i .wack fun p s => some (s.tagFreed p.port)

/-- A delta reaches the parity words; one that cannot be corrected is left to its reconstruction, which finds the new data. -/
def State.takeDelta (s : State) (p : Packet) : State :=
  p.words.foldl (fun s w =>
    if s.eccGood p.target w.2 then
      s.setDram p.target w.2 ((List.range 32).map fun k => s.dramByte p.target (w.2 + k) ^^^ (p.beat w.1).data.getD k 0)
    else s) s

/-- DELTA (R159, R161): the parity words are read, take the delta, and DACK answers. -/
def execDelta (r : PacketRead) (s : State) : Host.Outcome State Fault Refusal :=
  s |> onPacket r.i .delta fun p s =>
    let s := (s.meetAll p.target p.offs r.errs).takeDelta p
    some ((s.send (ringPacket .dack p.target p.src p.off p.beats 0)).repair p.target p.offs)

/-- A delta of a stack counts as acknowledged: its write is. -/
def State.deltaDone (s : State) (stack off beats : Nat) : State :=
  let k := pendKey (off / 256) stack
  let n := AMap.getD s.pendPar k 0
  let s := { s with pendPar := if n ≤ 1 then AMap.del s.pendPar k else AMap.put s.pendPar k (n - 1) }
  match s.writes.find? fun e => e.2.sent && e.2.p.target == stack && e.2.p.off == off && e.2.p.beats == beats with
  | some e => s.ackWrite e.1 e.2.p
  | none => s

/-- DACK (R159): the write is acknowledged. -/
def execDack (i : Nat) (s : State) : Host.Outcome State Fault Refusal :=
  s |> onPacket i .dack fun p s => some (s.deltaDone p.target p.off p.beats)

/-! ### The stripe lock (R160) -/

/-- LOCK: the stack starts no new write to the stripe from the packet's arrival on; it answers once none of its own is
pending, and until then the packet stays. -/
def execLock (i : Nat) (s : State) : Host.Outcome State Fault Refusal :=
  event s <|
  match s.packet? i .lock with
  | none => none
  | some p =>
    let k := pendKey (p.off / 256) p.target
    let waits := AMap.getD s.pendPar k 0 != 0
    match AMap.get? s.locks k with
    | some j => (if waits || j != p.job then none else some ((s.taken i).send (ringPacket .locked p.target p.src p.off 0 p.job)))
    | none =>
      let s := { s with locks := AMap.put s.locks k p.job }
      if waits then some s else some ((s.taken i).send (ringPacket .locked p.target p.src p.off 0 p.job))

/-- LOCKED: with every answer in, the other chunks are asked for. -/
def execLocked (i : Nat) (s : State) : Host.Outcome State Fault Refusal :=
  s |> onPacket i .locked fun p s =>
    match AMap.get? s.jobs p.job with
    | none => some s
    | some j =>
      let j := { j with locked := setIns p.src j.locked }
      let s := { s with jobs := AMap.put s.jobs p.job j }
      if ((List.range 16).filter fun k => !s.isLost k).all fun k => j.locked.contains k then
        some ((otherStacks j.want).foldl (fun (s : State) k => s.send (ringPacket .chunkrd j.coord k (j.stripe * 256) 0 p.job)) s)
      else some s

/-- CHUNKRD: a stack reads its chunk and sends it. -/
def execChunkrd (r : PacketRead) (s : State) : Host.Outcome State Fault Refusal :=
  s |> onPacket r.i .chunkrd fun p s =>
    let offs := (List.range 8).map fun w => p.off + 32 * w
    let s := s.meetAll p.target offs r.errs
    let bs := offs.map fun off =>
      ({ data := s.dramBytes p.target off 32, mask := 0xFFFFFFFF, pois := !s.eccGood p.target off } : Beat)
    let u := s.send { ringPacket .chunk p.target p.src p.off 8 p.job with data := bs }
    some (u.repair p.target offs)

/-- The chunks are in: words that cannot be corrected are reconstructed or poisoned, the request that waited is served, and
the lock is given up. -/
def State.finishJob (s : State) (k : Nat) (j : StripeJob) : State :=
  let words := (List.range 8).map fun w => j.stripe * 256 + 32 * w
  let lost := s.isLost j.want
  let p := j.req
  let s : State := if lost then s else words.foldl (fun (s : State) off => s.rebuild j.want off) s
  let s : State := match j.entry with
    | some n => (p.words.foldl (fun (s : State) w => s.putWord j.want w.2 (p.beat w.1)) s).ackWrite n p
    | none => if p.beats = 0 then s else s.send (s.readReply p 2)
  let s := { s with jobs := AMap.del s.jobs k }
  (((List.range 16).filter fun q => !s.isLost q).foldl (fun (s : State) q =>
    s.send (ringPacket .unlock j.coord q (j.stripe * 256) 0 k)) s).nextJob j.stripe

/-- CHUNK: a chunk reaches the coordinator. -/
def execChunk (i : Nat) (s : State) : Host.Outcome State Fault Refusal :=
  s |> onPacket i .chunk fun p s =>
    match AMap.get? s.jobs p.job with
    | none => some s
    | some j =>
      let j := { j with chunks := (p.src, p.data.flatMap (·.data), p.data.map (·.pois)) :: j.chunks }
      let s := { s with jobs := AMap.put s.jobs p.job j }
      if (otherStacks j.want).all fun k => j.chunks.any fun c => c.1 == k then some (s.finishJob p.job j) else some s

/-- UNLOCK (R160). -/
def execUnlock (i : Nat) (s : State) : Host.Outcome State Fault Refusal :=
  s |> onPacket i .unlock fun p s =>
    let stripe := p.off / 256
    some ({ s with locks := AMap.del s.locks (pendKey stripe p.target) }.release stripe p.target)

/-! ### Scrubbing (R154, R157, R161, R162) -/

/-- PATROL_SCRUB: the device reads a word by itself; what it meets is corrected and counted, or counted and reconstructed under the
lock. -/
def execPatrolScrub (stack word : Nat) (found : EccState) (s : State) : Host.Outcome State Fault Refusal :=
  event s <|
  let off := 32 * word
  if stack ≥ 18 || word ≥ (if stack < 16 then 2 ^ 31 else 2 ^ 39) || s.isLost stack then none
  else some ((s.meet stack off found).repair stack [off])

/-! ### Losing a stack (R164, R342) -/

/-- The device's event class identifier, EVUUID, as its text orders the bytes (R333). -/
def evUuidBytes : List Byte := [0x3f, 0x9c, 0x1e, 0x27, 0x5a, 0x04, 0x4b, 0x8d, 0x9e, 0x61, 0xc2, 0xd7, 0xa0, 0xb4, 0x8f, 0x53]

/-- A CXL event record: the UUID of its class and its vendor data (R342). -/
def State.cxlEvent (s : State) (code arg0 arg1 : Nat) : State :=
  { s with dev := { s.dev with
      events := s.dev.events ++ [evUuidBytes ++ [BitVec.ofNat 8 code, BitVec.ofNat 8 arg0, BitVec.ofNat 8 arg1] ++ List.replicate 13 0] } }

/-- The health status that the device reports over CXL. -/
inductive CxlHealth where
  | normal | replacementNeeded
  deriving DecidableEq, Repr

/-- It is "replacement needed" while MEMHEALTH.REPLACE is set (R342). -/
def Dev.cxlHealth (v : Dev) : CxlHealth := if v.repl then .replacementNeeded else .normal

/-- NLOST (R166). -/
def State.nLost (s : State) : Nat := s.dev.lost.length

/-- Packets of the ring at the loss (R164, step 2): deltas whose destination survives are applied, those for the lost stack are dropped
and count as acknowledged; the lock's packets start anew. -/
def State.lossPacket (s : State) (stack : Nat) (e : Nat × Packet) : State :=
  let p := e.2
  let u := s.taken e.1
  match p.ty with
  | .delta =>
    if p.target = stack then u.deltaDone p.src p.off p.beats
    else
      let u := u.takeDelta p
      if p.src = stack then u else u.send (ringPacket .dack p.target p.src p.off p.beats 0)
  | .dack => if p.target = stack then u else s
  | .lock | .locked | .chunkrd | .chunk | .unlock => u
  | _ => s

/-- A stack becomes LOST: the ring's deltas are settled, its writes without a reply are served again as parity-only writes and its reads
by reconstruction, the loss is recorded and reported, and what had waited goes on (R164, R165). -/
def State.loseStack (s : State) (stack : Nat) : State :=
  let s : State := s.packets.foldl (fun (s : State) e => s.lossPacket stack e) s
  let jobs := s.jobs
  let n := s.dev.lost.length
  let s : State := { s with
    jobs := [], locks := []
    pendPar := s.pendPar.filter fun e => e.1 % 32 != stack
    writes := s.writes.map fun e => (e.1, if e.2.p.target = stack then { e.2 with sent := false } else e.2)
    dev := { s.dev with
      stkh := modAt s.dev.stkh stack fun h => { h with lost := true }, repl := true
      lost := if n < 2 then s.dev.lost ++ [stack] else s.dev.lost } }
  let s : State := s.cxlEvent 1 stack s.nLost
  let s : State := s.writes.foldl (fun (s : State) e => s.serveWrite e.1) s
  jobs.foldl (fun (s : State) e =>
    if e.2.entry.isSome then s
    else if e.2.req.beats = 0 then
      (if s.isLost e.2.want then s else s.repair e.2.want ((List.range 8).map fun w => e.2.stripe * 256 + 32 * w))
    else s.serveRead { e.2.req with errs := [] }) s

/-- STACK_LOSS (R164): the stack stops answering, or the policy declares it lost. -/
def execStackLoss (stack : Nat) (s : State) : Host.Outcome State Fault Refusal :=
  event s <|
  if stack ≥ 16 || s.isLost stack then none else some (s.loseStack stack)

end Sys2Proof.Machine
end

