-- ==== Sys2Proof/Machine/Packet.lean ====
section
/-! DEFINITION. Launch packets: their headers, descriptors and tables, and the checks that reject them (R99, R100, R104 to
R108, R111, R225, R264, R267, R273, R274, R282). -/

namespace Sys2Proof.Machine

/-! ### Reads by the launch processor -/

/-- The launch processors and die schedulers translate through tables of their own. -/
def lpVia (ctx : Nat) : Via := { tlb := 1000, die := 4, ctx, team := 0 }

/-- A read of any length, page by page: no key is checked; `none` for a fault or poison. -/
def State.lpReads (s : State) (ctx : Nat) (va : DWord) (n : Nat) : Nat → State × Option (List Byte)
  | 0 => (s, if n = 0 then some [] else none)
  | fuel + 1 =>
    if n = 0 then (s, some [])
    else
      let k := min n (65536 - va.toNat % 65536)
      match s.xlate (lpVia ctx) va k .read none with
      | (s, .error _) => (s, none)
      | (s, .ok pas) =>
        if pas.any fun pa => (s.poisonIn pa 1).isSome then (s, none)
        else
          let bs := pas.map s.byte
          match s.lpReads ctx (va + BitVec.ofNat 64 k) (n - k) fuel with
          | (s, some r) => (s, some (bs ++ r))
          | (s, none) => (s, none)

def State.lpRead (s : State) (ctx : Nat) (va : DWord) (n : Nat) : State × Option (List Byte) :=
  s.lpReads ctx va n (n / 65536 + 2)

/-! ### Error codes (R105) -/

/-- Why a packet is rejected. -/
inductive PktErr where
  | badType | rsv | badDesc | unplace | badAddr | overflow
  deriving DecidableEq, Repr

def PktErr.code : PktErr → Nat
  | .badType => 1 | .rsv => 2 | .badDesc => 3 | .unplace => 4 | .badAddr => 5 | .overflow => 6

/-- A little-endian field. -/
def fieldAt (bs : List Byte) (off n : Nat) : Nat := leNat ((bs.drop off).take n)
def field64 (bs : List Byte) (off : Nat) : DWord := BitVec.ofNat 64 (fieldAt bs off 8)
def zeroAt (bs : List Byte) (off n : Nat) : Bool := fieldAt bs off n == 0

/-- The 64-bit entries of a table. -/
def entries64 (bs : List Byte) (n : Nat) : List (BitVec 64) := (List.range n).map fun i => field64 bs (8 * i)

/-- An address field is canonical and aligned. -/
def addrOk (a : DWord) (align : Nat) : Bool := canonical a && a.toNat % align == 0

/-! ### Kernel descriptors (R99) -/

/-- The fields of a descriptor, its tables apart. -/
def descFields (va : DWord) (b : List Byte) : KDesc :=
  { addr := va, entry := field64 b 0, regs := fieldAt b 8 2, teamt := fieldAt b 0xA 2, clt := fieldAt b 0xC 1
    role := fieldAt b 0xD 1, berths := fieldAt b 0xE 1, l1u := fieldAt b 0xF 1, scratch := fieldAt b 0x10 4
    node := fieldAt b 0x14 4 % 2 == 1, teamev := field64 b 0x38, clev := field64 b 0x40, ncount := fieldAt b 0x48 2
    nrec := fieldAt b 0x4A 2, nwait := fieldAt b 0x4C 4 }

/-- The ranges of R99. -/
def descOk (d : KDesc) (b : List Byte) : Bool :=
  d.regs % 8 == 0 && decide (8 ≤ d.regs) && decide (d.regs ≤ 256) && decide (1 ≤ d.teamt) && decide (d.teamt ≤ 512)
    && decide (1 ≤ d.clt) && decide (d.clt ≤ 4) && decide (d.role ≤ 3) && decide (d.berths ≤ 8)
    && decide (4 ≤ d.l1u) && decide (d.l1u ≤ 96) && decide (d.scratch ≤ 786432) && d.scratch % 8 == 0
    && decide (fieldAt b 0x14 4 ≤ 1) && zeroAt b 0x34 4 && (b.drop 0x50).all (· == 0)
    && decide (fieldAt b 0x30 1 ≤ 64) && decide (fieldAt b 0x31 1 ≤ 16) && decide (fieldAt b 0x32 2 ≤ 256)
    && (if d.node then decide (1 ≤ d.ncount) && decide (d.ncount ≤ 1024) && decide (4 ≤ d.nrec) && decide (d.nrec ≤ 256)
        else d.ncount == 0 && d.nrec == 0 && d.nwait == 0)

/-- The places of a tile entry (R225). -/
def tileH (e : BitVec 64) : Nat := bitsAt e 0 6
def tileBase (e : BitVec 64) : Nat := bitsAt e 8 20
def tileSize (e : BitVec 64) : Nat := bitsAt e 28 20
/-- The places of a load-list entry (R282). -/
def tidK (e : BitVec 64) : Nat := bitsAt e 0 8
def tidOff (e : BitVec 64) : Nat := bitsAt e 32 32
/-- The places of a pipe entry (R267). -/
def pipeN (e : BitVec 64) : Nat := bitsAt e 0 4
def pipeDepth (e : BitVec 64) : Nat := bitsAt e 8 8
def pipeBytes (e : BitVec 64) : Nat := bitsAt e 16 16
def pipeOff (e : BitVec 64) : Nat := bitsAt e 32 32

/-- No number stands twice in a list. -/
def distinct : List Nat → Bool
  | [] => true
  | a :: l => !l.contains a && distinct l

def tilesOk (scratch : Nat) (es : List (BitVec 64)) : Bool :=
  (es.all fun e => bitsAt e 6 2 == 0 && bitsAt e 48 16 == 0 && tileSize e % 8 == 0 && decide (8 ≤ tileSize e)
    && decide (tileSize e ≤ 786432) && tileBase e % 8 == 0 && decide (tileBase e + tileSize e ≤ scratch))
    && distinct (es.map tileH)

def tidsOk (es : List (BitVec 64)) : Bool := es.all fun e => bitsAt e 8 24 == 0 && tidOff e % 64 == 0

def pipesOk (scratch : Nat) (es : List (BitVec 64)) : Bool :=
  (es.all fun e => bitsAt e 4 4 == 0 && pipeOff e % 8 == 0 && pipeBytes e % 4 == 0 && decide (4 ≤ pipeBytes e)
    && decide (pipeBytes e ≤ 256) && decide (2 ≤ pipeDepth e) && decide (pipeDepth e ≤ 64)
    && decide (pipeOff e + pipeBytes e * pipeDepth e ≤ scratch)) && distinct (es.map pipeN)

/-- A table of a descriptor, at a multiple of 8 (R105). R225 says of TILES that it is 0 exactly when it has no entry; DESIGN
CHOICE (log 36): the same holds of the load list and of the pipe table. -/
def State.readTable (s : State) (ctx : Nat) (va : DWord) (n : Nat) : State × Except PktErr (List (BitVec 64)) :=
  if (va == 0) != (n == 0) then (s, .error .badDesc)
  else if va.toNat % 8 != 0 then (s, .error .badAddr)
  else match s.lpRead ctx va (8 * n) with
    | (s, some bs) => (s, .ok (entries64 bs n))
    | (s, none) => (s, .error .badAddr)

/-- A kernel descriptor with its tables. -/
def State.readDesc (s : State) (ctx : Nat) (va : DWord) : State × Except PktErr KDesc :=
  if !addrOk va 64 then (s, .error .badAddr)
  else match s.lpRead ctx va 128 with
    | (s, none) => (s, .error .badAddr)
    | (s, some b) =>
      let d := descFields va b
      if !descOk d b then (s, .error .badDesc)
      else match s.readTable ctx (field64 b 0x18) (fieldAt b 0x30 1) with
        | (s, .error e) => (s, .error e)
        | (s, .ok tiles) =>
          match s.readTable ctx (field64 b 0x20) (fieldAt b 0x32 2) with
          | (s, .error e) => (s, .error e)
          | (s, .ok tids) =>
            match s.readTable ctx (field64 b 0x28) (fieldAt b 0x31 1) with
            | (s, .error e) => (s, .error e)
            | (s, .ok pipes) =>
              if !(tilesOk d.scratch tiles && tidsOk tids && pipesOk d.scratch pipes) then (s, .error .badDesc)
              else if !(addrOk d.teamev 8 && addrOk d.clev 8 && addrOk d.entry 4) then (s, .error .badAddr)
              else (s, .ok { d with tiles, tids, pipes })

/-! ### Fitting (R111, R265) -/

/-- The need of a gang: its scratchpad counts once. -/
def gangNeed (ds : List KDesc) : Need :=
  let n := ds.foldl (fun (n : Need) d => n.add (d.need d.groups)) {}
  { n with sp := (ds.head?.map fun d => cdiv d.scratch 16384).getD 0 }

/-! ### Packets -/

/-- The header's type and bits (R104). -/
def pktType (b : List Byte) : Nat := fieldAt b 0 1
def Launch.bar (l : Launch) : Bool := l.hdr.getLsbD 10
def Launch.rel (l : Launch) : Bool := l.hdr.getLsbD 9
def Launch.irq (l : Launch) : Bool := l.hdr.getLsbD 11
def Launch.vec (l : Launch) : Nat := bitsAt l.hdr 16 12

/-- The first of some checks that fails. -/
def firstErr : List (PktErr × Bool) → Option PktErr
  | [] => none
  | (e, ok) :: l => if ok then firstErr l else some e

/-- The fields that GRID, GANG and GRAPH packets share. -/
def baseLaunch (k : LKind) (ctx : Nat) (b : List Byte) : Launch :=
  { kind := k, ctx, queue := none, num := 0, hdr := BitVec.ofNat 32 (fieldAt b 0 4), ncl := fieldAt b 4 4 % 2 ^ 25
    karg := field64 b 0x10, sptbase := field64 b 0x18, stride := fieldAt b 0x20 4, pkr := field64 b 0x28
    caddr := field64 b 0x30, cval := field64 b 0x38 }

/-- NCL, or NG (R106, R264). -/
def countOk (b : List Byte) : Bool := decide (1 ≤ fieldAt b 4 4) && decide (fieldAt b 4 4 ≤ 2 ^ 24)

/-- The address fields of a launch (R105, R106). DESIGN CHOICE (log 36): an SPTSTRIDE that is no multiple of 8 counts as a
misaligned address field. -/
def Launch.addrsOk (l : Launch) : Bool :=
  addrOk l.sptbase 8 && l.stride % 8 == 0 && addrOk l.caddr 8 && canonical l.karg

/-- A GRID packet (R106). DESIGN CHOICE (log 36): where several causes of R105 hold, the code is that of the first of:
reserved fields, the descriptor and its tables, ROLE and pipes, UNPLACE, the address fields. -/
def State.gridPacket (s : State) (ctx : Nat) (b : List Byte) : State × Except PktErr Launch :=
  if !(countOk b && zeroAt b 0x24 4) then (s, .error .rsv)
  else match s.readDesc ctx (field64 b 8) with
    | (s, .error e) => (s, .error e)
    | (s, .ok d) =>
      let l := { baseLaunch .grid ctx b with descs := [d] }
      match firstErr [(.badDesc, d.role == 0 && d.pipes.isEmpty), (.unplace, (d.need d.groups).fits), (.badAddr, l.addrsOk)] with
      | some e => (s, .error e)
      | none => (s, .ok l)

/-- Descriptors read in order. -/
def State.readDescs (s : State) (ctx : Nat) : List DWord → State × Except PktErr (List KDesc)
  | [] => (s, .ok [])
  | va :: vas =>
    match s.readDesc ctx va with
    | (s, .error e) => (s, .error e)
    | (s, .ok d) =>
      match s.readDescs ctx vas with
      | (s, .error e) => (s, .error e)
      | (s, .ok ds) => (s, .ok (d :: ds))

/-- Two descriptors define no tile with different places (R264). -/
def tilesAgree (a b : List (BitVec 64)) : Bool :=
  a.all fun x => b.all fun y => tileH x != tileH y || (tileBase x == tileBase y && tileSize x == tileSize y)

/-- The descriptors of a gang, loader, computer and storer (R264). -/
def gangOk (ds : List KDesc) : Bool :=
  match ds with
  | [l, c, t] =>
    l.role == 1 && c.role == 3 && t.role == 2 && (ds.all fun d => d.clt == 1 && !d.node)
      && (ds.all fun d => d.scratch == l.scratch && d.pipes == l.pipes)
      && tilesAgree l.tiles c.tiles && tilesAgree l.tiles t.tiles && tilesAgree c.tiles t.tiles
  | _ => false

/-- A GANG packet (R264): its teams are numbered loader, computer, storer (R266). DESIGN CHOICE (log 36): a nonzero byte of
the record at 0x24 to 0x27 or from 0x30 on gives RSVD. -/
def State.gangPacket (s : State) (ctx : Nat) (b : List Byte) : State × Except PktErr Launch :=
  if !(countOk b && (List.range 24).all fun i => (b.getD (0x18 + i) 0) == 0) then (s, .error .rsv)
  else if !addrOk (field64 b 8) 64 then (s, .error .badAddr)
  else match s.lpRead ctx (field64 b 8) 64 with
    | (s, none) => (s, .error .badAddr)
    | (s, some r) =>
      if !(zeroAt r 0x24 4 && (r.drop 0x30).all (· == 0)) then (s, .error .rsv)
      else match s.readDescs ctx [field64 r 0, field64 r 8, field64 r 0x10] with
        | (s, .error e) => (s, .error e)
        | (s, .ok ds) =>
          let l := { baseLaunch .gang ctx b with
            descs := ds, sptbase := field64 r 0x18, stride := fieldAt r 0x20 4, pkr := field64 r 0x28 }
          match firstErr [(.badDesc, gangOk ds), (.unplace, (gangNeed ds).fits), (.badAddr, l.addrsOk)] with
          | some e => (s, .error e)
          | none => (s, .ok l)

/-- The bytes that a node's bin takes on a die (R274). -/
def binBytes (d : KDesc) : Nat := 2 * d.ncount * (cdiv d.nrec 64 * 64)

/-- A graph's bins take at most 8 MiB of a die. -/
def binRoom : Nat := 8 * 2 ^ 20

/-- Consecutive records of `n` bytes. -/
def recordsOf (n : Nat) : Nat → List Byte → List (List Byte)
  | 0, _ => []
  | k + 1, bs => bs.take n :: recordsOf n k (bs.drop n)

/-- A node's descriptor (R273). -/
def nodeOk (d : KDesc) : Bool :=
  d.node && d.role == 0 && d.clt == 1 && decide (d.teamt ≤ 32) && d.pipes.isEmpty && decide (8 + d.ncount * d.nrec ≤ d.scratch)

/-- The entries of a node table, with their seeds (R273, R274). DESIGN CHOICE (log 36): nonzero bytes from 0x14 on, and a
SEEDN without SEEDS, give RSVD. -/
def State.readNodes (s : State) (ctx : Nat) (tab : List Byte) : Nat → Nat → State × Except PktErr (List (KDesc × List (List Byte)))
  | 0, _ => (s, .ok [])
  | k + 1, n =>
    let e := (tab.drop (32 * n)).take 32
    let seeds := field64 e 8
    let cnt := fieldAt e 0x10 4
    if !((e.drop 0x14).all (· == 0)) || (seeds == 0 && cnt != 0) then (s, .error .rsv)
    else match s.readDesc ctx (field64 e 0) with
      | (s, .error x) => (s, .error x)
      | (s, .ok d) =>
        if !nodeOk d then (s, .error .badDesc)
        else match s.lpRead ctx seeds (cnt * d.nrec) with
          | (s, none) => (s, .error .badAddr)
          | (s, some bs) =>
            match s.readNodes ctx tab k (n + 1) with
            | (s, .error x) => (s, .error x)
            | (s, .ok r) => (s, .ok ((d, recordsOf d.nrec cnt bs) :: r))

/-- A GRAPH packet (R273, R274). DESIGN CHOICE (log 36): NN outside 1 to 256 is RSVD; R273
gives the range and no code. -/
def State.graphPacket (s : State) (ctx : Nat) (b : List Byte) : State × Except PktErr Launch :=
  let nn := fieldAt b 4 4
  if !(decide (1 ≤ nn) && decide (nn ≤ 256) && zeroAt b 0x24 4) then (s, .error .rsv)
  else if !addrOk (field64 b 8) 64 then (s, .error .badAddr)
  else match s.lpRead ctx (field64 b 8) (32 * nn) with
    | (s, none) => (s, .error .badAddr)
    | (s, some tab) =>
      match s.readNodes ctx tab nn 0 with
      | (s, .error e) => (s, .error e)
      | (s, .ok ns) =>
        let ds := ns.map (·.1)
        let l := { baseLaunch .graph ctx b with
          ncl := nn, descs := ds, bins := List.replicate (4 * nn) {}
          seeds := ns.map fun e => e.2.zipIdx.map fun r => (r.2, r.1) }
        match firstErr [(.unplace, (ds.all fun d => (d.need d.groups).fits) && decide ((ds.map binBytes).sum ≤ binRoom)),
            (.badAddr, l.addrsOk)] with
        | some e => (s, .error e)
        | none => (s, .ok l)

/-- A DEPEND packet (R108). -/
def dependPacket (ctx : Nat) (b : List Byte) : Except PktErr Launch :=
  let l : Launch := {
    kind := .depend, ctx := ctx, queue := none, num := 0, hdr := BitVec.ofNat 32 (fieldAt b 0 4)
    caddr := field64 b 0x30, cval := field64 b 0x38, conds := [(field64 b 8, fieldAt b 4 4, field64 b 0x10)] }
  match firstErr [(.rsv, decide (fieldAt b 4 4 ≤ 2) && (List.range 24).all fun i => b.getD (0x18 + i) 0 == 0),
      (.badAddr, addrOk (field64 b 8) 8 && addrOk l.caddr 8)] with
  | some e => .error e
  | none => .ok l

/-- A BARRIER-AND packet (R108): pairs whose address is 0 are unused. -/
def barrierPacket (ctx : Nat) (b : List Byte) : Except PktErr Launch :=
  let ps := ([0, 1, 2].map fun i => (field64 b (8 + 16 * i), 1, field64 b (16 + 16 * i))).filter fun p => p.1 != 0
  match firstErr [(.rsv, zeroAt b 4 4 && zeroAt b 0x38 8), (.badAddr, ps.all fun p => addrOk p.1 8)] with
  | some e => .error e
  | none => .ok { kind := .barrier, ctx := ctx, queue := none, num := 0, hdr := BitVec.ofNat 32 (fieldAt b 0 4), conds := ps }

/-- A packet of 64 bytes is checked and read (R105). -/
def State.packetOf (s : State) (ctx : Nat) (b : List Byte) : State × Except PktErr Launch :=
  let h : Word := BitVec.ofNat 32 (fieldAt b 0 4)
  if 6 ≤ pktType b || pktType b = 0 then (s, .error .badType)
  else if bitsAt h 28 4 != 0 || bitsAt h 12 4 != 0 then (s, .error .rsv)
  else
    let r := match pktType b with
      | 1 => s.gridPacket ctx b
      | 2 => s.gangPacket ctx b
      | 3 => s.graphPacket ctx b
      | 4 => (s, dependPacket ctx b)
      | _ => (s, barrierPacket ctx b)
    (r.1, r.2.map fun l => { l with packet := b })

/-- A packet of LAUNCH (R280): GRID or GANG without BAR. -/
def State.launchPacket (s : State) (ctx : Nat) (b : List Byte) : State × Except PktErr Launch :=
  if pktType b != 1 && pktType b != 2 then (s, .error .badType)
  else if (BitVec.ofNat 32 (fieldAt b 0 4) : Word).getLsbD 10 then (s, .error .rsv)
  else s.packetOf ctx b

end Sys2Proof.Machine
end

