-- ==== Sys2Proof/Machine/Registers.lean ====
section
/-! DEFINITION. The device registers (R145, R158, R166, R322, R323, R327, R330 to R334, R339, R343, R350): their reads, their
writes by the host, by Snido and by threads, and what a write starts. -/

namespace Sys2Proof.Machine

/-! ### The partition word (R145) -/

/-- The partition word (R145). -/
def State.partWord (s : State) (core : Nat) : Word :=
  let n := s.coreNeed core
  BitVec.ofNat 32 (s.l1Units core * 2 ^ 22 + n.berths * 2 ^ 18 + n.sp * 2 ^ 12 + n.rf * 2 ^ 6)

/-! ### The capability list (R330 to R334) -/

/-- An entry as one number: header and fields, by offset and value. -/
def capEntry (id next len : Nat) (fields : List (Nat × Nat)) : List Byte :=
  leBytes len (next * 2 ^ 32 + len * 2 ^ 20 + 2 ^ 16 + id + (fields.map fun f => f.2 * 2 ^ (8 * f.1)).sum)

/-- The mode word of a managed function (R332). -/
def Managed.word (m : Managed) : Nat := m.vec.toNat % 2 ^ 12 * 2 ^ 20 + 2 + b2n m.host

/-- EVUUID as a little-endian number of its bytes in text order (R333). -/
def evUuid : Nat := leNat evUuidBytes

/-- The feature entries of R333. -/
def capFeatures : List Byte :=
  capEntry 1 0x120 32 [(8, 384), (0xA, 32), (0xB, 4), (0xC, 512), (0xE, 255), (0x10, 4096)] ++
  capEntry 2 0x140 32 [(8, 16), (9, 15), (0xA, 256), (0xC, 1)] ++
  capEntry 3 0x160 32 [(8, 96), (0xA, 256), (0xC, 8), (0xD, 16), (0xE, 0x1E)] ++
  capEntry 4 0x180 32 [(8, 3)] ++
  capEntry 5 0x1A0 32 [(8, 2048)] ++
  capEntry 6 0x1C0 32 [(8, 0x010000000000), (0x10, 0x030000000000), (0x18, 6400)] ++
  capEntry 7 0x1E0 32 [(8, evUuid), (0x18, 12), (0x19, 9), (0x1A, 200), (0x1C, 1024)] ++
  capEntry 8 0x200 32 [(8, 0x800000), (0xC, 256), (0xE, 1024)]

/-- The block of a die in the page-fault entry (R334). -/
def FqCfg.fields (q : FqCfg) (d : Nat) : List (Nat × Nat) :=
  [(16 + 32 * d, q.qbase), (24 + 32 * d, q.qlog2n), (32 + 32 * d, q.head), (40 + 32 * d, q.tail)]

/-- The managed functions: page faults first, then the others (R331 to R334). -/
def Dev.capManaged (v : Dev) : List Byte :=
  let m := fun i => (v.managed.getD i {}).word
  let q := fun d => (v.fq.getD d {}).fields d
  capEntry 0x10 0x290 144 ((8, m 0) :: q 0 ++ q 1 ++ q 2 ++ q 3) ++
  ([1, 2, 3, 4].flatMap fun i => capEntry (0x10 + i) (0x290 + 16 * i) 16 [(8, m i)]) ++
  capEntry 0x15 0 16 [(8, m 5)]

/-! ### Reads -/

/-- STKH (R166). -/
def StackHealth.word (h : StackHealth) : Word :=
  BitVec.ofNat 32 (b2n h.lost * 2 ^ 30 + h.proterr * 2 ^ 16 + h.uecnt * 2 ^ 8 + h.cecnt)

/-- MEMHEALTH (R166). -/
def Dev.memHealth (v : Dev) : Word :=
  BitVec.ofNat 32 (b2n v.repl * 2 ^ 31 + min v.lost.length 2 * 2 ^ 8 + v.lost.getD 1 0 * 2 ^ 4 + v.lost.getD 0 0)

/-- LANEMAP (R339). -/
def DPort.laneMap (p : DPort) : DWord :=
  BitVec.ofNat 64 ((p.lanemap.mapIdx fun i l => (if p.narrowed && 4 ≤ i && i < 8 then 0xF else l) * 2 ^ (4 * i)).sum)

/-- MBCMD (R327). -/
def Dev.mbWord (v : Dev) : Word := BitVec.ofNat 32 (b2n v.mbbusy * 2 ^ 31 + v.mbstatus * 2 ^ 8 + v.mbcmd)

/-- DBGCMD and DBGEVT (R350). -/
def Dev.dbgWord (v : Dev) : Word := BitVec.ofNat 32 (b2n v.dbgbusy * 2 ^ 31 + v.dbgstatus * 2 ^ 8 + v.dbgcmd)
def Dev.dbgEvt (v : Dev) : DWord := match v.halts with
  | h :: _ => BitVec.ofNat 64 (2 ^ 63 + slotOf h.g * 2 ^ 9 + coreOf h.g)
  | [] => 0

/-- One half of a 64-bit register. -/
def half (x : DWord) (off : Nat) : Word := if off % 8 = 0 then loWord x else hiWord x

/-- The debug window (R350). -/
def State.dbgRead (s : State) (off : Nat) : Word :=
  let v := s.dev
  match off / 8 with
  | 0 => half (BitVec.ofNat 64 v.dbgctx) off
  | 1 => half (BitVec.ofNat 64 v.dbgtgt) off
  | 2 => if off % 8 = 0 then v.dbgWord else 0
  | 3 => half v.dbgbuf off
  | 4 => if off % 8 = 0 then s.partWord (v.dbgtgt % 512) else 0
  | 5 => half v.dbgEvt off
  | _ => 0

/-- The mailbox (R327). -/
def Dev.mbRead (v : Dev) (off : Nat) : Word :=
  if off < 0x30 then half (v.mbarg.getD (off / 8) 0) off
  else if off < 0x38 then half v.mbvec off
  else if off = 0x38 then v.mbWord else 0

/-- I/O die 0 (R322). -/
def State.ioRead (s : State) (thread : Bool) (off : Nat) : Word :=
  let v := s.dev
  if 0x1000 ≤ off && off < 0x1040 then v.mbRead (off - 0x1000)
  else if v.recovery then 0
  else if 0x100 ≤ off && off < 0x2E0 then leWord (((capFeatures ++ v.capManaged).drop (off - 0x100)).take 4)
  else if 0x2000 ≤ off && off < 0x2100 then half (v.apertures.getD ((off - 0x2000) / 8) 0) off
  else if off = 0x2100 then BitVec.ofNat 32 v.devnum
  else if off = 0x3000 then BitVec.ofNat 32 (v.power * 2 ^ 29 + v.force * 2 ^ 24 + v.ltol)
  else if 0x4000 ≤ off && off < 0x4030 then (if thread then 0 else s.dbgRead (off - 0x4000))
  else 0

/-- A compute die (R158, R166). -/
def Dev.dieRead (v : Dev) (die off : Nat) : Word :=
  if v.recovery then 0
  else if 0x40000 ≤ off && off < 0x40C00 then
    (if off % 8 = 0 then BitVec.ofNat 32 (AMap.getD v.misses (die * 384 + (off - 0x40000) / 8) 0) else 0)
  else if 0x50000 ≤ off && off < 0x50040 then (v.stkh.getD ((off - 0x50000) / 4) {}).word
  else if off = 0x50040 then v.memHealth else 0

/-- The registers of the Dyell ports (R339). -/
def Dev.portRead (v : Dev) (io off : Nat) : Word :=
  if v.recovery || off % 0x1000 ≥ 8 || off ≥ 0x16000 then 0
  else half (v.ports.getD (6 * io + (off - 0x10000) / 0x1000) {}).laneMap off

/-- The register block and the offset of an address. -/
def regBlock (pa : Nat) : Nat := (pa - 0xE00000000000) / 0x1000000
def regOff (pa : Nat) : Nat := pa % 0x1000000

/-- A word of register space; an address with no register is reserved and reads 0 (R5). -/
def State.regWord (s : State) (thread : Bool) (pa : Nat) : Word :=
  let b := regBlock pa
  let off := regOff pa
  if b < 4 then s.dev.dieRead b off
  else if 0x10000 ≤ off then s.dev.portRead (b - 4) off
  else if b = 4 then s.ioRead thread off else 0

/-- A load of 4 or 8 bytes. -/
def State.regBytes (s : State) (thread : Bool) (pa n : Nat) : List Byte :=
  wordsBytes ((List.range (n / 4)).map fun i => s.regWord thread (pa + 4 * i))

/-! ### Writes -/

def State.setDev (s : State) (f : Dev → Dev) : State := { s with dev := f s.dev }

/-- A wake event (R344). -/
def State.awake (s : State) : State := s.setDev fun v => { v with power := 0 }

/-- One half of a 64-bit register replaced. -/
def setHalf (x : DWord) (off : Nat) (w : Word) : DWord := if off % 8 = 0 then pairOf w (hiWord x) else pairOf (loWord x) w

/-- Faults that found their queue full take their places while there is room (R334). -/
def State.placeWaiting (s : State) (die : Nat) : State :=
  ((s.faults.getD die []).zipIdx).foldl (fun s e =>
    if e.1.queued then s
    else
      let (s, f) := s.placeHost die e.1
      { s with faults := modAt s.faults die fun q => q.set e.2 f }) s

/-- A command of the mailbox has completed (R327). -/
def State.mbDone (s : State) (status : Nat) (res : Option DWord) : State :=
  let v := s.dev
  let s := s.setDev fun v => { v with
    mbbusy := false, mbstatus := status, mbarg := match res with
      | some r => v.mbarg.set 0 r
      | none => v.mbarg }
  if v.mbvec.getLsbD 31 then s.msi (bitsAt v.mbvec 0 12) else s

/-- A write of MBCMD: ignored while a command runs; one that the mailbox does not know, or does not accept in recovery
mode, completes at once (R327, R328, R346). -/
def State.mbStart (s : State) (w : Word) : State :=
  if s.dev.mbbusy then s
  else
    let c := bitsAt w 0 8
    let s := s.awake.setDev fun v => { v with mbcmd := c, mbbusy := true }
    if s.dev.recovery && c != 0xC && c != 0xD then s.mbDone 2 none
    else if c = 0 || c > 0xE then s.mbDone 1 none
    else s

/-- A write of DBGCMD (R350). -/
def State.dbgStart (s : State) (w : Word) : State :=
  if s.dev.dbgbusy then s
  else
    let c := bitsAt w 0 8
    if c = 0 || c > 5 then s.setDev fun v => { v with dbgcmd := c, dbgstatus := 1 }
    else s.setDev fun v => { v with dbgcmd := c, dbgbusy := true, dbgstatus := 0 }

/-- The capability list's fields that software writes: VEC, and the place and TAIL of a fault queue (R332, R334). -/
def State.capWrite (s : State) (off : Nat) (w : Word) : State :=
  if off = 0x208 || (0x290 ≤ off && off % 16 = 8) then
    let i := if off = 0x208 then 0 else (off - 0x290) / 16 + 1
    s.setDev fun v => { v with managed := modAt v.managed i fun m => { m with vec := BitVec.ofNat 16 (bitsAt w 20 12) } }
  else if 0x210 ≤ off && off < 0x290 then
    let d := (off - 0x210) / 32
    let put := fun (x : Nat) => (setHalf (BitVec.ofNat 64 x) off w).toNat
    let s := s.setDev fun v => { v with fq := modAt v.fq d fun q =>
      match (off - 0x210) % 32 / 4 with
      | 0 | 1 => { q with qbase := put q.qbase }
      | 2 => { q with qlog2n := w.toNat }
      | 6 | 7 => { q with tail := put q.tail }
      | _ => q }
    s.placeWaiting d
  else s

/-- The debug window's writable registers. -/
def State.dbgWrite (s : State) (off : Nat) (w : Word) : State :=
  match off with
  | 0 => s.setDev fun v => { v with dbgctx := bitsAt w 0 16 }
  | 8 => s.setDev fun v => { v with dbgtgt := bitsAt w 0 15 }
  | 0x10 => s.dbgStart w
  | 0x18 | 0x1C => s.setDev fun v => { v with dbgbuf := setHalf v.dbgbuf off w }
  | _ => s

/-- The mailbox's writable registers. -/
def State.mbWrite (s : State) (off : Nat) (w : Word) : State :=
  if off < 0x30 then s.setDev fun v => { v with mbarg := modAt v.mbarg (off / 8) fun x => setHalf x off w }
  else if off = 0x30 then s.setDev fun v => { v with mbvec := (w &&& 0x80000FFF).setWidth 64 }
  else if off = 0x38 then s.mbStart w else s

/-- V, DEV and RBASE of an aperture (R323). -/
def apertureMask : DWord := 0x83FF0000000000FF

/-- I/O die 0. -/
def State.ioWrite (s : State) (by' : RegWriter) (off : Nat) (w : Word) : State :=
  if 0x1000 ≤ off && off < 0x1040 then s.mbWrite (off - 0x1000) w
  else if s.dev.recovery then s
  else if 0x100 ≤ off && off < 0x2E0 then s.capWrite off w
  else if 0x2000 ≤ off && off < 0x2100 then
    s.setDev fun v => { v with apertures := modAt v.apertures ((off - 0x2000) / 8) fun x => setHalf x off w &&& apertureMask }
  else if off = 0x2100 then (if by' = .snido then s.setDev fun v => { v with devnum := bitsAt w 0 10 } else s)
  else if off = 0x3000 then s.setDev fun v => { v with force := bitsAt w 24 3, ltol := bitsAt w 0 24 }
  else if 0x4000 ≤ off && off < 0x4030 then (if by' = .thread then s else s.dbgWrite (off - 0x4000) w)
  else s

/-- A compute die: the deadline-miss counters and the error counts of the stacks. -/
def State.dieWrite (s : State) (die off : Nat) (w : Word) : State :=
  if s.dev.recovery then s
  else if 0x40000 ≤ off && off < 0x40C00 && off % 8 = 0 then
    s.setDev fun v => { v with misses := AMap.set 0 v.misses (die * 384 + (off - 0x40000) / 8) w.toNat }
  else if 0x50000 ≤ off && off < 0x50040 then
    s.setStack ((off - 0x50000) / 4) fun h => { h with proterr := bitsAt w 16 8, uecnt := bitsAt w 8 8, cecnt := bitsAt w 0 8 }
  else s

/-- A word of register space written; read-only and reserved places ignore it (R5). -/
def State.setReg (s : State) (by' : RegWriter) (pa : Nat) (w : Word) : State :=
  let b := regBlock pa
  let off := regOff pa
  if b < 4 then s.dieWrite b off w
  else if b = 4 && off < 0x10000 then s.ioWrite by' off w else s

/-- A store of 4 or 8 bytes. -/
def State.regStore (s : State) (by' : RegWriter) (pa : Nat) : List Word → State
  | [] => s
  | w :: ws => (s.setReg by' pa w).regStore by' (pa + 4) ws

/-- REGISTER_WRITE (R322, R325): an aligned write of 4 or 8 bytes by the host through BAR0, whose last 32 MiB ignore it, or by
Snido. A thread's store is performed by STORE_REGISTRATION. -/
def execRegisterWrite (src : RegWriter) (pa size : Nat) (value : DWord) (s : State) : Host.Outcome State Fault Refusal :=
  event s <|
  if src = .thread || !(size == 4 || size == 8) || pa % size != 0 then none
  else if region pa == .regs then some (s.regStore src pa ((words64 value).take (size / 4)))
  else if src = .host && 0xE00006000000 ≤ pa && pa < 0xE00008000000 then some s
  else none

end Sys2Proof.Machine
end

