-- ==== Sys2Proof/Machine/Operands.lean ====
section
/-! DEFINITION. The operand forms (R9, R30, R31, R43): pairs, quads, immediates, addresses, and the lane-wise shapes that
the families share. -/

namespace Sys2Proof.Machine

/-- A 64-bit integer source (R31): a pair, or IMM sign-extended. -/
def Group.src64 (G : Group) (l : Nat) (a : Src) : DWord :=
  match a with
  | .v n => pairOf ((G.lane l).vreg n.val) ((G.lane l).vreg (n.val + 1))
  | .s n => pairOf (G.sreg n.val) (G.sreg (n.val + 1))
  | .imm w => w.signExtend 64

/-- The address of a global access: the pair plus the displacement (R43, R70). -/
def Group.addr (G : Group) (l : Nat) (a : Reg) (disp : Word) : DWord := dispAdd (G.reg64 l a) disp

/-- The scratchpad offset of an access (R43, R66). -/
def Group.off (G : Group) (l : Nat) (a : Reg) (disp : Word) : Word := G.reg l a 0 + disp

/-- The words that `n` loaded bytes fill (R66, R69): one extended, or whole words in order. -/
def loadWords (ext : Ext) (bs : List Byte) : List Word :=
  match bs.length with
  | 1 | 2 =>
    let n := leNat bs
    let k := 8 * bs.length
    [match ext with
     | .zero => BitVec.ofNat 32 n
     | .sign => (BitVec.ofNat k n).signExtend 32]
  | n => leWords (n / 4) bs

/-- The bytes of `w` registers. -/
def Group.data (G : Group) (l : Nat) (b : Reg) (w : Nat) : List Byte := wordsBytes (G.regs' l b w)

/-- One source, one result. -/
def unary (s : State) (h : Hdr) (d : Reg) (a : Src) (f : Word → Word) : Host.Outcome State Fault Refusal :=
  fixedOp s h d 1 (srcReg a 1) fun G l => [f (G.src l a)]

/-- Two sources, one result. -/
def binary (s : State) (h : Hdr) (d : Reg) (a b : Src) (f : Word → Word → Word) : Host.Outcome State Fault Refusal :=
  fixedOp s h d 1 (srcReg a 1 ++ srcReg b 1) fun G l => [f (G.src l a) (G.src l b)]

/-- Three sources, one result. -/
def ternary (s : State) (h : Hdr) (d a b c : Reg) (f : Word → Word → Word → Word) : Host.Outcome State Fault Refusal :=
  fixedOp s h d 1 [(a, 1), (b, 1), (c, 1)] fun G l => [f (G.reg l a 0) (G.reg l b 0) (G.reg l c 0)]

/-- Two 64-bit integer sources and a 64-bit result. -/
def binary64 (s : State) (h : Hdr) (d : Reg) (a b : Src) (f : DWord → DWord → DWord) : Host.Outcome State Fault Refusal :=
  fixedOp s h d 2 (srcReg a 2 ++ srcReg b 2) fun G l => words64 (f (G.src64 l a) (G.src64 l b))

/-- A comparison of two 32-bit sources. -/
def compare32 (s : State) (h : Hdr) (d : PReg) (a b : Src) (f : Word → Word → Bool) : Host.Outcome State Fault Refusal :=
  predOp s h d (srcReg a 1 ++ srcReg b 1) fun G l => f (G.src l a) (G.src l b)

end Sys2Proof.Machine
end

