-- ==== Sys2Proof/Machine/Flags.lean ====
section
/-! DEFINITION. The predicate computations: integer compares and predicate logic (R64, R65). The FP compares stand with
their numbers (R83). -/

namespace Sys2Proof.Machine

/-- The tests of R64 on 32-bit sources. -/
def cmpEq (a b : Word) : Bool := a == b
def cmpNe (a b : Word) : Bool := a != b
def cmpLt (a b : Word) : Bool := a.slt b
def cmpLe (a b : Word) : Bool := a.sle b
def cmpUlt (a b : Word) : Bool := a.ult b
def cmpUle (a b : Word) : Bool := a.ule b

/-- p7 to p0 of a lane as a word; bit 0 is always 1 (R65). -/
def Lane.predWord (L : Lane) : Word := (L.p ||| 1).setWidth 32

/-- V2P: the predicates that the mask names take the bits of a word (R65). The mask's bit i stands for p(i + 1). -/
def Lane.setPreds (L : Lane) (mask : BitVec 7) (a : Word) : Lane :=
  let m : BitVec 8 := (mask.setWidth 8) <<< 1
  { L with p := (L.p &&& ~~~m) ||| (a.setWidth 8 &&& m) }

end Sys2Proof.Machine
end

