-- ==== Sys2Proof/Machine/Integer.lean ====
section
/-! DEFINITION. The integer and predicate instructions: group 0x1 (R56 to R65). -/

namespace Sys2Proof.Machine

/-! ### Values -/

/-- Bits [63:32] of the signed product (R56). -/
def mulHighS (a b : Word) : Word := (a.signExtend 64 * b.signExtend 64).extractLsb' 32 32
/-- Bits [63:32] of the unsigned product (R56). -/
def mulHighU (a b : Word) : Word := (a.setWidth 64 * b.setWidth 64).extractLsb' 32 32
def minS (a b : Word) : Word := if a.slt b then a else b
def maxS (a b : Word) : Word := if a.slt b then b else a
def minU (a b : Word) : Word := if a.ult b then a else b
def maxU (a b : Word) : Word := if a.ult b then b else a

/-- Shifts by the whole 32-bit count (R56). -/
def shiftLeft (a b : Word) : Word := if b.toNat < 32 then a <<< b.toNat else 0
def shiftRight (a b : Word) : Word := if b.toNat < 32 then a >>> b.toNat else 0
def shiftArith (a b : Word) : Word := if b.toNat < 32 then a.sshiftRight b.toNat else if a.msb then 0xFFFFFFFF else 0
def rotLeft (a b : Word) : Word := a.rotateLeft (b.toNat % 32)

/-- |a|; 0x80000000 gives itself (R57). -/
def absWord (a : Word) : Word := if a.msb then -a else a
/-- The count of leading zero bits (R57). -/
def leadingZeros (a : Word) : Nat := ((List.range 32).find? fun i => a.getLsbD (31 - i)).getD 32
/-- Bit i of the result is bit 31 − i (R57). -/
def reverseBits (a : Word) : Word := maskOf fun i => a.getLsbD (31 - i)

/-- Division (R60). -/
def divS (a b : Word) : Word :=
  if b = 0 then 0xFFFFFFFF else if a = 0x80000000 ∧ b = 0xFFFFFFFF then 0x80000000 else a.sdiv b
def divU (a b : Word) : Word := if b = 0 then 0xFFFFFFFF else a / b
def remS (a b : Word) : Word := if b = 0 then a else if a = 0x80000000 ∧ b = 0xFFFFFFFF then 0 else a.srem b
def remU (a b : Word) : Word := if b = 0 then a else a % b

/-- pos and len2 of R61. -/
def fieldPos (b : Word) : Nat := bitsAt b 0 5
def fieldLen (b : Word) : Nat := min (min (bitsAt b 8 6) 32) (32 - fieldPos b)

/-- The mask of the low n bits. -/
def lowMask (n : Nat) : Word := BitVec.ofNat 32 (2 ^ n - 1)

/-- BFXU and BFXS (R61). -/
def extractU (a b : Word) : Word := (a >>> fieldPos b) &&& lowMask (fieldLen b)
def extractS (a b : Word) : Word :=
  let f := extractU a b
  if fieldLen b != 0 && f.getLsbD (fieldLen b - 1) then f ||| ~~~(lowMask (fieldLen b)) else f

/-- BFI (R62). -/
def insertField (a b c : Word) : Word :=
  let m := lowMask (fieldLen b) <<< fieldPos b
  (c &&& ~~~m) ||| ((a <<< fieldPos b) &&& m)

/-- FSHR (R59): concat(b, a) shifted right. -/
def funnel (a b c : Word) : Word := ((b ++ a : DWord) >>> (c.toNat % 32)).setWidth 32

/-- IMADW (R59). -/
def madWide (a b : Word) (c : DWord) : DWord := a.signExtend 64 * b.signExtend 64 + c

/-- LEA64 (R63). -/
def lea64 (a : DWord) (b : Word) (sh : Nat) (zx : Bool) : DWord :=
  a + ((if zx then b.setWidth 64 else b.signExtend 64) <<< sh)

/-! ### Moves and arithmetic -/

/-- MOV (R57). -/
def execMov (h : Hdr) (d a : Reg) (s : State) : Host.Outcome State Fault Refusal :=
  fixedOp s h d 1 [(a, 1)] fun G l => [G.reg l a 0]

/-- MOVI (R57). -/
def execMovi (h : Hdr) (d : Reg) (imm : Word) (s : State) : Host.Outcome State Fault Refusal :=
  fixedOp s h d 1 [] fun _ _ => [imm]

/-- IADD (R56). -/
def execIadd (h : Hdr) (d : Reg) (a b : Src) (s : State) : Host.Outcome State Fault Refusal := binary s h d a b (· + ·)
/-- ISUB (R56). -/
def execIsub (h : Hdr) (d : Reg) (a b : Src) (s : State) : Host.Outcome State Fault Refusal := binary s h d a b (· - ·)
/-- IADD64 (R58). -/
def execIadd64 (h : Hdr) (d : Reg) (a b : Src) (s : State) : Host.Outcome State Fault Refusal := binary64 s h d a b (· + ·)
/-- ISUB64 (R58). -/
def execIsub64 (h : Hdr) (d : Reg) (a b : Src) (s : State) : Host.Outcome State Fault Refusal := binary64 s h d a b (· - ·)
/-- IMUL (R56). -/
def execImul (h : Hdr) (d : Reg) (a b : Src) (s : State) : Host.Outcome State Fault Refusal := binary s h d a b (· * ·)
/-- IMULHS (R56). -/
def execImulhs (h : Hdr) (d : Reg) (a b : Src) (s : State) : Host.Outcome State Fault Refusal := binary s h d a b mulHighS
/-- IMULHU (R56). -/
def execImulhu (h : Hdr) (d : Reg) (a b : Src) (s : State) : Host.Outcome State Fault Refusal := binary s h d a b mulHighU
/-- IMAD (R59). -/
def execImad (h : Hdr) (d a b c : Reg) (s : State) : Host.Outcome State Fault Refusal := ternary s h d a b c fun x y z => x * y + z
/-- IMADW (R59). -/
def execImadw (h : Hdr) (d a b c : Reg) (s : State) : Host.Outcome State Fault Refusal :=
  fixedOp s h d 2 [(a, 1), (b, 1), (c, 2)] fun G l => words64 (madWide (G.reg l a 0) (G.reg l b 0) (G.reg64 l c))
/-- IDIVS (R60). -/
def execIdivs (h : Hdr) (d : Reg) (a b : Src) (s : State) : Host.Outcome State Fault Refusal := binary s h d a b divS
/-- IDIVU (R60). -/
def execIdivu (h : Hdr) (d : Reg) (a b : Src) (s : State) : Host.Outcome State Fault Refusal := binary s h d a b divU
/-- IREMS (R60). -/
def execIrems (h : Hdr) (d : Reg) (a b : Src) (s : State) : Host.Outcome State Fault Refusal := binary s h d a b remS
/-- IREMU (R60). -/
def execIremu (h : Hdr) (d : Reg) (a b : Src) (s : State) : Host.Outcome State Fault Refusal := binary s h d a b remU
/-- IMIN (R56). -/
def execImin (h : Hdr) (d : Reg) (a b : Src) (s : State) : Host.Outcome State Fault Refusal := binary s h d a b minS
/-- IMAX (R56). -/
def execImax (h : Hdr) (d : Reg) (a b : Src) (s : State) : Host.Outcome State Fault Refusal := binary s h d a b maxS
/-- UMIN (R56). -/
def execUmin (h : Hdr) (d : Reg) (a b : Src) (s : State) : Host.Outcome State Fault Refusal := binary s h d a b minU
/-- UMAX (R56). -/
def execUmax (h : Hdr) (d : Reg) (a b : Src) (s : State) : Host.Outcome State Fault Refusal := binary s h d a b maxU
/-- IABS (R57). -/
def execIabs (h : Hdr) (d : Reg) (a : Src) (s : State) : Host.Outcome State Fault Refusal := unary s h d a absWord

/-! ### Bits -/

/-- AND (R56). -/
def execAnd (h : Hdr) (d : Reg) (a b : Src) (s : State) : Host.Outcome State Fault Refusal := binary s h d a b (· &&& ·)
/-- OR (R56). -/
def execOr (h : Hdr) (d : Reg) (a b : Src) (s : State) : Host.Outcome State Fault Refusal := binary s h d a b (· ||| ·)
/-- XOR (R56). -/
def execXor (h : Hdr) (d : Reg) (a b : Src) (s : State) : Host.Outcome State Fault Refusal := binary s h d a b (· ^^^ ·)
/-- ANDN (R56). -/
def execAndn (h : Hdr) (d : Reg) (a b : Src) (s : State) : Host.Outcome State Fault Refusal := binary s h d a b fun x y => x &&& ~~~y
/-- NOT (R57). -/
def execNot (h : Hdr) (d : Reg) (a : Src) (s : State) : Host.Outcome State Fault Refusal := unary s h d a fun x => ~~~x
/-- SHL (R56). -/
def execShl (h : Hdr) (d : Reg) (a b : Src) (s : State) : Host.Outcome State Fault Refusal := binary s h d a b shiftLeft
/-- SHR (R56). -/
def execShr (h : Hdr) (d : Reg) (a b : Src) (s : State) : Host.Outcome State Fault Refusal := binary s h d a b shiftRight
/-- SAR (R56). -/
def execSar (h : Hdr) (d : Reg) (a b : Src) (s : State) : Host.Outcome State Fault Refusal := binary s h d a b shiftArith
/-- ROTL (R56). -/
def execRotl (h : Hdr) (d : Reg) (a b : Src) (s : State) : Host.Outcome State Fault Refusal := binary s h d a b rotLeft
/-- FSHR (R59). -/
def execFshr (h : Hdr) (d a b c : Reg) (s : State) : Host.Outcome State Fault Refusal := ternary s h d a b c funnel
/-- CLZ (R57). -/
def execClz (h : Hdr) (d : Reg) (a : Src) (s : State) : Host.Outcome State Fault Refusal :=
  unary s h d a fun x => BitVec.ofNat 32 (leadingZeros x)
/-- POPC (R57). -/
def execPopc (h : Hdr) (d : Reg) (a : Src) (s : State) : Host.Outcome State Fault Refusal :=
  unary s h d a fun x => BitVec.ofNat 32 (popcount x)
/-- BREV (R57). -/
def execBrev (h : Hdr) (d : Reg) (a : Src) (s : State) : Host.Outcome State Fault Refusal := unary s h d a reverseBits
/-- BFXU (R61). -/
def execBfxu (h : Hdr) (d : Reg) (a b : Src) (s : State) : Host.Outcome State Fault Refusal := binary s h d a b extractU
/-- BFXS (R61). -/
def execBfxs (h : Hdr) (d : Reg) (a b : Src) (s : State) : Host.Outcome State Fault Refusal := binary s h d a b extractS
/-- BFI (R62). -/
def execBfi (h : Hdr) (d a b c : Reg) (s : State) : Host.Outcome State Fault Refusal := ternary s h d a b c insertField
/-- LEA (R63). -/
def execLea (h : Hdr) (d a b : Reg) (sh : Fin 32) (s : State) : Host.Outcome State Fault Refusal :=
  fixedOp s h d 1 [(a, 1), (b, 1)] fun G l => [G.reg l a 0 + (G.reg l b 0 <<< sh.val)]
/-- LEA64 (R63). -/
def execLea64 (h : Hdr) (d a b : Reg) (sh : Fin 32) (zx : Bool) (s : State) : Host.Outcome State Fault Refusal :=
  fixedOp s h d 2 [(a, 2), (b, 1)] fun G l => words64 (lea64 (G.reg64 l a) (G.reg l b 0) sh.val zx)
/-- SEL (R59). -/
def execSel (h : Hdr) (d a b : Reg) (c : PReg) (s : State) : Host.Outcome State Fault Refusal :=
  fixedOp s h d 1 [(a, 1), (b, 1)] fun G l => [if (G.lane l).pred c then G.reg l a 0 else G.reg l b 0]

/-! ### Compares and predicates -/

/-- ICMPEQ (R64). -/
def execIcmpeq (h : Hdr) (d : PReg) (a b : Src) (s : State) : Host.Outcome State Fault Refusal := compare32 s h d a b cmpEq
/-- ICMPNE (R64). -/
def execIcmpne (h : Hdr) (d : PReg) (a b : Src) (s : State) : Host.Outcome State Fault Refusal := compare32 s h d a b cmpNe
/-- ICMPLT (R64). -/
def execIcmplt (h : Hdr) (d : PReg) (a b : Src) (s : State) : Host.Outcome State Fault Refusal := compare32 s h d a b cmpLt
/-- ICMPLE (R64). -/
def execIcmple (h : Hdr) (d : PReg) (a b : Src) (s : State) : Host.Outcome State Fault Refusal := compare32 s h d a b cmpLe
/-- UCMPLT (R64). -/
def execUcmplt (h : Hdr) (d : PReg) (a b : Src) (s : State) : Host.Outcome State Fault Refusal := compare32 s h d a b cmpUlt
/-- UCMPLE (R64). -/
def execUcmple (h : Hdr) (d : PReg) (a b : Src) (s : State) : Host.Outcome State Fault Refusal := compare32 s h d a b cmpUle
/-- ICMPEQ64 (R64). -/
def execIcmpeq64 (h : Hdr) (d : PReg) (a b : Src) (s : State) : Host.Outcome State Fault Refusal :=
  predOp s h d (srcReg a 2 ++ srcReg b 2) fun G l => G.src64 l a == G.src64 l b
/-- UCMPLT64 (R64). -/
def execUcmplt64 (h : Hdr) (d : PReg) (a b : Src) (s : State) : Host.Outcome State Fault Refusal :=
  predOp s h d (srcReg a 2 ++ srcReg b 2) fun G l => (G.src64 l a).ult (G.src64 l b)
/-- PAND (R65). -/
def execPand (h : Hdr) (d a b : PReg) (s : State) : Host.Outcome State Fault Refusal :=
  predOp s h d [] fun G l => (G.lane l).pred a && (G.lane l).pred b
/-- POR (R65). -/
def execPor (h : Hdr) (d a b : PReg) (s : State) : Host.Outcome State Fault Refusal :=
  predOp s h d [] fun G l => (G.lane l).pred a || (G.lane l).pred b
/-- PXOR (R65). -/
def execPxor (h : Hdr) (d a b : PReg) (s : State) : Host.Outcome State Fault Refusal :=
  predOp s h d [] fun G l => (G.lane l).pred a != (G.lane l).pred b
/-- PNOT (R65). -/
def execPnot (h : Hdr) (d a : PReg) (s : State) : Host.Outcome State Fault Refusal :=
  predOp s h d [] fun G l => !(G.lane l).pred a
/-- P2V (R65). -/
def execP2v (h : Hdr) (d : Reg) (s : State) : Host.Outcome State Fault Refusal :=
  fixedOp s h d 1 [] fun G l => [(G.lane l).predWord]
/-- V2P (R65). -/
def execV2p (h : Hdr) (a : Reg) (mask : BitVec 7) (s : State) : Host.Outcome State Fault Refusal :=
  issue s h .both [(a, 1)] noHandles fun s x =>
    s.updGroup x.g fun G =>
      let ps := (List.range 7).foldl (fun ps i =>
        if mask.getLsbD i then supersede ps x.seq x.T (.inr (Fin.ofNat 8 (i + 1))) else ps) G.pend
      { G.updLanes x.T (fun l L => L.setPreds mask (G.reg l a 0)) with pend := ps }

end Sys2Proof.Machine
end

