-- ==== Sys2Proof/Machine/Order.lean ====
section
/-! DEFINITION. The order in which the LS-path accesses of threads are performed: when an entry of the store queues may be performed, what a
thread's loads wait for, and what the threads of one core see of each other's stores on their way (R18, R72, R172, R174, R175, R189, R190,
R199). -/

namespace Sys2Proof.Machine

/-! ### What an entry writes -/

/-- A range that an entry writes, and the lanes whose write it is: space 0 is global memory, above 0 a scratchpad, whose accesses by one
thread keep their order (R176). -/
structure Written where
  space : Nat
  at' : Nat
  len : Nat
  lanes : Word
  deriving DecidableEq, Repr

/-- The ranges that an entry writes. A quay request counts its whole superblock (R197). -/
def LsOp.ranges (e : LsOp) : List Written :=
  match e.kind with
  | .store bs _ => bs.map fun b => ⟨0, b.pa, 1, b.lanes⟩
  | .atomic _ pa w _ _ _ _ => [⟨0, pa, w, e.mask⟩]
  | .disc line => [⟨0, 64 * line, 64, e.mask⟩]
  | .stsh k _ _ _ => [⟨k + 1, 0, 2 ^ 32, e.mask⟩]
  | .quay pa _ _ _ _ _ _ => [⟨0, pa / 256 * 256, 256, e.mask⟩]
  | .puts ws sig _ _ _ => ⟨0, sig, 8, e.mask⟩ :: ws.map fun w => ⟨0, w.1, w.2.length, e.mask⟩

/-- Two ranges share a byte. -/
def Written.meets (a b : Written) : Bool := a.space == b.space && decide (a.at' < b.at' + b.len) && decide (b.at' < a.at' + a.len)

/-- Two entries write a common byte. -/
def LsOp.overlaps (a b : LsOp) : Bool := a.ranges.any fun x => b.ranges.any fun y => x.meets y

/-- Two entries write a common byte for a common lane. -/
def LsOp.ordered (a b : LsOp) : Bool := a.ranges.any fun x => b.ranges.any fun y => x.meets y && x.lanes &&& y.lanes != 0

/-- The key of an entry. -/
def LsOp.key (e : LsOp) : Nat × Nat × Nat := (e.g, e.seq, e.lane + 32 * e.part)

/-- An entry changes. -/
def State.setLs (s : State) (k : Nat × Nat × Nat) (f : LsOp → LsOp) : State :=
  { s with lsq := s.lsq.map fun e => if e.key = k then f e else e }

/-- The core that an entry comes from. -/
def LsOp.core (e : LsOp) : Nat := coreOf e.g

/-- The bytes that a store writes. -/
def LsOp.stores (e : LsOp) : List StByte := match e.kind with
  | .store bs _ => bs
  | _ => []

/-- The word of an address, for no lane in particular. -/
def wordOf (pa : Nat) : Written := ⟨0, pa / 4 * 4, 4, 0⟩

/-- An entry writes bytes of the words of some addresses. -/
def LsOp.inWords (e : LsOp) (pas : List Nat) : Bool := e.ranges.any fun r => pas.any fun pa => r.meets (wordOf pa)

/-! ### Outstanding loads -/

/-- What a lane's outstanding load at `va` reads meets one of some ranges: the bytes themselves where the address translates now, else those
at the same place of a page; for LDSH the same scratchpad (R176). -/
def State.loadHits (s : State) (g : Nat) (G : Group) (p : Pend) (va : DWord) (rs : List Written) : Bool :=
  let at' := fun (n : Nat) => match (s.xlateFor true (via g G) va n .read (some p.pkr)).2 with
    | .ok pas => rs.any fun r => r.meets ⟨0, pas.getD 0 0, n, 0⟩
    | .error _ => rs.any fun r => r.space == 0 && Written.meets { r with at' := r.at' % 65536 } ⟨0, va.toNat % 65536, n, 0⟩
  match p.kind with
  | .ldsh => rs.any fun r => r.space == va.toNat / 2 ^ 32 + 1
  | .load n _ _ _ | .gath n => at' n
  | .refill => at' 8
  | _ => false

/-- A lane has an outstanding load, issued before `seq`, that meets one of some ranges and has still to be performed. -/
def State.loadsAt (s : State) (g l seq : Nat) (rs : List Written) : Bool :=
  match s.group? g with
  | none => false
  | some G => G.pend.any fun p => decide (p.seq < seq) && match AMap.get? p.lanes l with
      | some (.waiting va) | some (.half va _ _ _) | some (.faulted va) => s.loadHits g G p va rs
      | _ => false

/-- A lane of an entry has an earlier load of its bytes that has still to be performed (R18, R72). -/
def State.readsBefore (s : State) (e : LsOp) : Bool :=
  (lanesOf e.mask).any fun l => s.loadsAt e.g l e.seq (e.ranges.filter fun r => inMask r.lanes l)

/-! ### Stores that other threads of the core have seen (R172, R175)

DEDUCED (log 40): the core's L1 copy of a word has a store's value from its issue on, and the store is performed later. A load of another
thread that returns that value is performed at the store's registration: what the thread then does with the word comes after it. -/

/-- A store on its way whose value a lane has read, in a word of some addresses. -/
def State.seenStore (s : State) (g l : Nat) (pas : List Nat) : Option LsOp :=
  s.lsq.find? fun e => e.seen.contains (g, l) && e.inWords pas

/-- The latest entry of a list. -/
def latestOp (es : List LsOp) : Option LsOp :=
  es.foldl (fun m e => match m with
    | some f => if f.seq ≤ e.seq then some e else m
    | none => some e) none

/-- The store on its way whose value the core's L1 has for the bytes of a read that was issued at `seq`: the core's latest into their words,
if it was issued before the read and covers all of them, the copies are there, and the lane has no write of its own to these words on its
way. -/
def State.storeAhead (s : State) (g l seq : Nat) (pas : List Nat) : Option LsOp :=
  match latestOp (s.lsq.filter fun e => e.core == coreOf g && !e.stores.isEmpty && e.inWords pas) with
  | some e =>
    if decide (e.seq < seq) && (pas.all fun pa => (e.stores.any fun b => b.pa == pa) && (s.l1Word (coreOf g) pa).isSome && !isRemote pa) &&
        !(s.lsq.any fun f => f.g == g && inMask f.mask l && f.inWords pas) then some e
    else none
  | none => none

/-- A lane has read the value of a store on its way. -/
def State.markSeen (s : State) (e : LsOp) (g l : Nat) : State :=
  if e.seen.contains (g, l) then s else s.setLs e.key fun x => { x with seen := (g, l) :: x.seen }

/-- An earlier store of the core, whose value a lane of the entry has read in a word that the entry writes for that lane, is still on its
way. -/
def State.behindSeen (s : State) (e : LsOp) : Bool :=
  s.lsq.any fun f => decide (f.seq < e.seq) && f.seen.any fun r => r.1 == e.g && e.ranges.any fun x =>
    inMask x.lanes r.2 && f.ranges.any fun y => y.space == x.space &&
      decide (y.at' / 4 * 4 < x.at' + x.len) && decide (x.at' / 4 * 4 < y.at' + y.len)

/-! ### What a read of a lane gives (R18, R170, R175) -/

/-- Where the bytes of a unit of a read come from, the lane's own stores on their way apart: the home, the core's copies, or a store of
another thread of the core on its way. -/
inductive Served where
  | home | copy | ahead (e : LsOp)

/-- Two bytes are of one word, or their words' copies hold one instant: both owned, or each as it was when the other was filled (R170). -/
def State.oneInstant (s : State) (core a b : Nat) : Bool :=
  match s.l1Word core a, s.l1Word core b with
  | some v, some w => v.owned == w.owned && (v.owned || a / 4 == b / 4 || v.pair == w.val || w.pair == v.val)
  | _, _ => false

/-- What serves the bytes `need` of one unit, the thread's own stores on their way apart: the core's copies only where they are asked for,
are all there, and hold one instant. Bytes in whose words the lane has seen a store on its way come from that store, or wait for it. -/
def State.served (s : State) (g l seq : Nat) (stale : Bool) (need : List Nat) : Option Served :=
  let ahead := if stale && !need.isEmpty then s.storeAhead g l seq need else none
  match s.seenStore g l need, ahead with
  | some e, some f => if e.key = f.key then some (.ahead f) else none
  | some _, none => none
  | none, some f => some (.ahead f)
  | none, none => some (if stale && need.all (fun a => need.all (s.oneInstant (coreOf g) a)) then .copy else .home)

/-- The aligned 8-byte units of a read (R170). -/
def units8 : List Nat → List (List Nat)
  | [] => []
  | pa :: pas => match units8 pas with
    | (q :: u) :: us => if q / 8 = pa / 8 then (pa :: q :: u) :: us else [pa] :: (q :: u) :: us
    | us => [pa] :: us

/-- The units of a read, each with what serves it; `none` while one has to wait. -/
def State.readUnits (s : State) (g l seq : Nat) (stale : Bool) (pas : List Nat) : Option (List (Served × List Nat)) :=
  (units8 pas).mapM fun u => (s.served g l seq stale (u.filter fun pa => (s.forward g l seq pa).isNone)).map fun v => (v, u)

/-- A byte as a lane sees it: its own earlier store on its way, else the store or the copy that serves it, else the home (R18, R175). -/
def State.seenByte (s : State) (g l seq : Nat) (from' : Served) (pa : Nat) : Byte :=
  match s.forward g l seq pa with
  | some b => b
  | none => match from', s.l1Word (coreOf g) pa with
    | .copy, some w => w.val.extractLsb' (8 * (pa % 4)) 8
    | .ahead e, _ => ((e.stores.find? fun b => b.pa == pa).map (·.val)).getD 0
    | _, _ => s.byte (homeOf pa)

/-- The bytes that come from their homes. -/
def State.fromHomes (s : State) (g l seq : Nat) (us : List (Served × List Nat)) : List Nat :=
  us.flatMap fun u => match u.1 with
    | .home => u.2.filter fun pa => (s.forward g l seq pa).isNone
    | _ => []

/-- The lines of some addresses. -/
def linesOf (pas : List Nat) : List Nat := pas.foldl (fun ls pa => setIns (pa / 64) ls) []

/-- What a read of a lane gives: it has to wait, a fault, the place of poison, or its bytes. -/
inductive LaneRead where
  | later
  | fault (x : XFault)
  | poison (i : Nat)
  | bytes (bs : List Byte)

/-- A lane reads memory for an instruction issued at `seq` (R18, R175, R301, R340): after its own earlier loads of these words, and after its
earlier atomics, discards and PUTS there. The core's L1 takes copies of the lines that are read at their homes. -/
def State.readMem (s : State) (g l seq : Nat) (pas : List Nat) (stale : Bool) : State × LaneRead :=
  if isRemote (pas.getD 0 0) && !remoteOk (pas.getD 0 0) then (s, .poison 0)
  else if (pas.any fun pa => s.lsq.any fun e => e.blocks g l seq pa 1) || s.loadsAt g l seq (pas.map wordOf) then (s, .later)
  else match s.readUnits g l seq stale pas with
    | none => (s, .later)
    | some us =>
      let far := s.fromHomes g l seq us
      if s.holds far then (s, .later)
      else match far.find? fun pa => (s.poisonIn pa 1).isSome with
        | some b => (s, .poison (pas.findIdx (· == b)))
        | none =>
          let bs := us.flatMap fun u => u.2.map (s.seenByte g l seq u.1)
          let s := us.foldl (fun s u => match u.1 with
            | .ahead e => s.markSeen e g l
            | _ => s) s
          let s := (linesOf far).foldl (fun s k => if isRemote (64 * k) then s else s.fill (64 * k)) s
          let s := match far.find? isRemote with
            | some pa => s.fabricSend pa
            | none => s
          ((linesOf far).foldl (fun s k => s.l1Fill (coreOf g) (64 * k) far) s, .bytes bs)

/-! ### When an entry may be performed (R18, R172, R174, R175, R189, R199) -/

/-- A lower lane of an atomic's instruction waits in service for the same place of a page (R189). -/
def State.lowerWaits (s : State) (e : LsOp) (pa w : Nat) : Bool :=
  match s.group? e.g with
  | none => false
  | some G => (List.range e.lane).any fun k => (G.lane k).wseq == e.seq && match (G.lane k).wait with
      | .fault va (.atomic _ _ _ _ _) _ _ => decide (va.toNat % 65536 < pa % 65536 + w) && decide (pa % 65536 < va.toNat % 65536 + w)
      | _ => false

/-- Nothing holds an entry back: its release condition holds (R172, R174), no earlier write or load of one of its lanes, to a byte
that it writes for that lane, has still to be performed (R18, R72), lower lanes of its instruction go first (R189), unless atomics have been
merged (R190), and no store that a lane of it has seen is on its way to its words. Entries that `skip` names do not count. -/
def State.lsFree (s : State) (e : LsOp) (alone : Bool) (skip : List (Nat × Nat × Nat)) : Bool :=
  let held := e.rel && ((s.lsq.any fun f => f.g == e.g && decide (f.seq < e.seq)) || s.loadsBefore e.g e.seq e.mask)
  let behind := (s.lsq.takeWhile fun f => f.key != e.key).any fun f =>
    f.g == e.g && !skip.contains f.key &&
      ((decide (f.seq < e.seq) && f.ordered e) || (f.seq == e.seq && alone && !f.away && f.overlaps e))
  let lower := match e.kind with
    | .atomic _ pa w _ _ _ _ => alone && s.lowerWaits e pa w
    | _ => false
  !held && !behind && !lower && !s.readsBefore e && !s.behindSeen e

/-- The entry at an index may be performed. -/
def State.lsReady (s : State) (i : Nat) (skip : List (Nat × Nat × Nat)) : Option LsOp :=
  match s.lsq[i]? with
  | none => none
  | some e => if e.away || !s.lsFree e true skip then none else some e

end Sys2Proof.Machine
end

