-- ==== Sys2Proof/Machine/Fetch.lean ====
section
/-! DEFINITION. Fetching an instruction (R17, R19, R301), and what an instruction that cannot be fetched or is not listed
does (R17, R38). -/

namespace Sys2Proof.Machine

/-- The coherent bytes of an address, also where it leads to another package (R149, R322, R323). -/
def State.bytesAt (s : State) (pa n : Nat) : Option (List Byte) :=
  match region pa with
  | .fabric => if remoteOk pa then some (s.bytes (homeOf pa) n) else none
  | .regs | .reserved => none
  | _ => some (s.bytes pa n)

/-- The instruction store of a group: of its core, or of its quay. -/
def fetchUnit (g : Nat) : Nat := if isWave g then 384 + (g - quayBase) / 4 else coreOf g

/-- One word of an instruction: the line that the core holds, or the word at its home (R19). -/
def State.fetchWord (s : State) (u pa : Nat) (fresh : Bool) : State × Option Word :=
  let key := u * 2 ^ 46 + pa / 4
  match (if fresh || isRemote pa then none else AMap.get? s.icache key) with
  | some w => (s, some w)
  | none =>
    match s.bytesAt pa 4 with
    | none => (s, none)
    | some bs => (if isRemote pa then s else { s with icache := AMap.put s.icache key (leWord bs) }, some (leWord bs))

/-- A fetch has to wait: a wave holds an entry of its walk, or one of its words that no line of the unit serves (R201). -/
def State.fetchHeld (s : State) (g : Nat) (pc : DWord) (fresh : BitVec 3) : Bool :=
  match s.group? g with
  | none => false
  | some G => pc.toNat % 4 == 0 && match (s.xlate (via g G) pc 12 .fetch none).2 with
      | .error x => x.held
      | .ok pas => (List.range 3).any fun i =>
        let pa := pas.getD (4 * i) 0
        (fresh.getLsbD i || isRemote pa || (AMap.get? s.icache (fetchUnit g * 2 ^ 46 + pa / 4)).isNone) && s.heldFor (via g G).own [pa]

/-- What a fetch gives: a 96-bit word, or the reason that it fails. -/
def State.fetch (s : State) (g : Nat) (pc : DWord) (fresh : BitVec 3) : State × Except FetchFail (BitVec 96) :=
  match s.group? g with
  | none => (s, .error .misaligned)
  | some G =>
    if pc.toNat % 4 != 0 then (s, .error .misaligned)
    else
      match s.xlate (via g G) pc 12 .fetch none with
      | (s, .error x) =>
        (s, .error (if x.cause == .permission then .permission else .translation (Fin.ofNat 4 x.sub.toNat)))
      | (s, .ok pas) =>
        let a := fun i => pas.getD (4 * i) 0
        let u := fetchUnit g
        if (pas.any fun pa => (s.poisonIn pa 1).isSome) then (s, .error .uncorr)
        else
          match s.fetchWord u (a 0) (fresh.getLsbD 0) with
          | (s, none) => (s, .error .uncorr)
          | (s, some w0) =>
            match s.fetchWord u (a 1) (fresh.getLsbD 1) with
            | (s, none) => (s, .error .uncorr)
            | (s, some w1) =>
              match s.fetchWord u (a 2) (fresh.getLsbD 2) with
              | (s, none) => (s, .error .uncorr)
              | (s, some w2) => (s, .ok (w2 ++ w1 ++ w0))

/-- The word of an instruction whose fetch fails: the first that cannot be translated or read (R17, R296). -/
def State.fetchAddr (s : State) (g : Nat) (G : Group) (pc : DWord) (f : FetchFail) : DWord :=
  if f = .misaligned then pc
  else ([pc, pc + 4, pc + 8].find? fun a => match (s.xlate (via g G) a 4 .fetch none).2 with
    | .error _ => true
    | .ok pas => (pas.any fun pa => (s.poisonIn pa 1).isSome) || (s.bytesAt (pas.getD 0 0) 4).isNone).getD pc

/-- A header without guard or hints. -/
def plainHdr : Hdr := { g := 0, gn := false, mark := false, delay := 0, yld := false, reuse := 0 }

/-- The cause and subcode of a failed fetch (R17, R25, R301). -/
def fetchFault : FetchFail → XFault
  | .misaligned => { cause := .misaligned }
  | .translation n => { cause := .translation, sub := BitVec.ofNat 8 n.val }
  | .permission => { cause := .permission }
  | .uncorr => { cause := .uncorr }

/-- FETCH_FAULT (R17, R98, R203, R285): helper lanes end; the others wait for service, or trap at once when the cause is
direct. DESIGN CHOICE (log 22): every fetch of a method that fails is subcode FETCH, also one that reads a poisoned word. -/
def execFetchFault (f : FetchFail) (s : State) : Host.Outcome State Fault Refusal :=
  match s.at? plainHdr with
  | none => .fault .noBundle
  | some (G, x) =>
    if isWave x.g then .next (s.bump.methodFault x.g (if G.overLimit then 4 else 5) 0)
    else
      let s := s.bump
      let q := fetchFault f
      let va := s.fetchAddr x.g G x.pc f
      let l0 := match (s.translate (via x.g G) va .fetch none).2 with
        | .error y => y.l0
        | .ok _ => none
      let ns := x.B &&& ~~~G.helpers
      let r : Rec := { cause := q.cause, sub := q.sub, kind := .fetch, addr := va }
      let s := if q.serviced then
          let s := s.updGroup x.g fun G => if ns = 0 then G else G.joinSet ns
          (lanesOf ns).foldl (fun s l => s.laneFault x.g l x.pc va { q with l0 } .fetch .fetch G.pkr (some { r with resume := x.pc, fpc := x.pc })) s
        else s.raise x ns fun _ => r
      .next (s.endHelpers x (x.B &&& G.helpers))

/-- UNLISTED_OPCODE (R37, R38): an illegal-instruction fault. -/
def execUnlistedOpcode (_w : BitVec 96) (s : State) : Host.Outcome State Fault Refusal :=
  match s.at? plainHdr with
  | none => .fault .noBundle
  | some (_, x) => .next ((s.advance x).decodeFault x { cause := .illegal })

end Sys2Proof.Machine
end

