-- ==== Sys2Proof/Machine/Sched.lean ====
section
/-! DEFINITION. Which threads issue next: the active and pending sets (R114 to R117), the PC table and its fallback
points (R119), bundle selection (R120 to R122), and readiness (R115, R138). -/

namespace Sys2Proof.Machine

/-! ### Readiness -/

/-- The groups resident on a core, or a wave (numbered from 384). -/
def State.residents (s : State) (core : Nat) : List (Nat × Group) :=
  s.groups.filter fun e =>
    issueUnit e.1 == core

/-- A journal entry of a team that shares `k` names a tile (R227). -/
def State.tileInJournal (s : State) (core k h : Nat) : Bool :=
  (s.core core).journal.any fun e => s.sharesOf k e.2 && (e.2.srcTile == some h || e.2.dstTile == some h)

/-- The places of a slot that closed operations take until they start (R237). -/
def Slot.places (x : Slot) : Nat := ((x.closed ++ x.queue).filter fun o => !o.begun).length

/-- An operation of a team is closed, queued or active (R236). -/
def State.mxOps (s : State) (t : Nat) : Bool :=
  s.arrays.any fun a =>
    (a.2.slots.any fun x => (x.closed ++ x.queue).any fun o => o.parts.any fun p => p.team == t) ||
    match a.2.active with
    | some (_, o) => o.parts.any fun p => p.team == t
    | none => false

/-- A team still has something on its array: an open set of its own, a part in a set of its cluster, or an operation
closed, queued or active (R236). -/
def State.mxBusy (s : State) (t : Nat) : Bool :=
  match s.team? t with
  | none => false
  | some T =>
    (T.conv.any fun c => c.cnt != 0) ||
    (match AMap.get? s.units T.unit with
      | some u => u.conv.any fun c => c.parts.any fun p => p.2.team == t
      | none => false) || s.mxOps t

/-- Two waits are for the same thing. -/
def Reason.same (a b : Reason) : Bool :=
  match a, b with
  | .pipeFull m _, .pipeFull n _ => m == n
  | a, b => a == b

/-- No thread of a share began to wait for the same thing before (R228, R270). -/
def State.firstWaiter (s : State) (k : Nat) (same : Reason → Bool) (wseq : Nat) : Bool :=
  !(s.groups.any fun e => s.keyOf e.2 == k &&
    e.2.lanes.any fun K => K.live && decide (K.wseq < wseq) && match K.wait with
      | .again r => same r
      | _ => false)

/-- A team of a gang has retired. -/
def State.teamGone (s : State) (u : CUnit) (i : Nat) : Bool :=
  match u.teams[i]? with
  | some t => match s.team? t with
    | some T => T.retired
    | none => true
  | none => true

/-- The pipe is full, or empty (R268). -/
def Pipe.full (p : Pipe) : Bool := (p.tail - p.head).toNat == p.depth
def Pipe.empty (p : Pipe) : Bool := p.tail == p.head

/-- Pipe misuse (R271): `write` for PIPEW; `blocking` for an instruction that waits. -/
def State.pipeMisuse (s : State) (T : Team) (n : Nat) (write blocking : Bool) : Bool :=
  let p := (s.share T.share).pipes.getD n {}
  match AMap.get? s.units T.unit with
  | none => false
  | some u =>
    let (mine, other) := if write then (p.wteam, p.rteam) else (p.rteam, p.wteam)
    let stuck := blocking && if write then p.full else p.empty
    other == some T.idx || (mine.isSome && mine != some T.idx) ||
      (stuck && match other with
        | some i => s.teamGone u i
        | none => (List.range 3).all fun i => i == T.idx || s.teamGone u i)

/-- What a re-executed instruction waits for has come (R115): for the waits that a count or a state decides; the others
look again. -/
def State.reasonHolds (s : State) (g : Nat) (G : Group) (l : Nat) (r : Reason) : Bool :=
  let L := G.lane l
  let h := s.shareOf G
  match r with
  | .qpop q => !(if q = 1 then G.q1 else G.q3).isEmpty
  | .pipeFull n _ => (!(h.pipes.getD n {}).full && s.firstWaiter (s.keyOf G) r.same L.wseq) || match s.team? G.team with
      | some T => s.pipeMisuse T n true true
      | none => false
  | .pipeEmpty n => (!(h.pipes.getD n {}).empty && s.firstWaiter (s.keyOf G) r.same L.wseq) || match s.team? G.team with
      | some T => s.pipeMisuse T n false true
      | none => false
  | .tileReady hs => hs.all fun t => (h.tiles.getD t {}).st == .ready
  | .tdef t => !s.tileInJournal (coreOf g) (s.keyOf G) t && !s.tileInOp (s.keyOf G) t
  | .event c => decide (1 ≤ h.counts.getD c 0) && s.firstWaiter (s.keyOf G) r.same L.wseq
  | .mxrel => !s.mxBusy G.team
  | .place a i => decide (((s.array a).slots.getD i {}).places < 8)
  | .puts _ _ _ _ => !(G.lanes.any fun K => K.live && K.wseq == L.wseq && match K.wait with
      | .fault _ (.putsAddr _ _ _) _ _ => true
      | _ => false)
  | .berth b _ _ => match s.team? G.team with
    | some t => (t.berths.getD b {}).pending == 0
    | none => true
  | .launchRoom _ => decide ((s.launchLists.getD (dieOf (coreOf g)) []).length < 64)
  | .buffer q => !(G.lanes.any fun K => K.live && K.wait == .submit q)
  | .release _ _ => !s.mustHold g L.wseq (1 <<< l)

/-- A thread is ready (R115, R120): it runs, its DELAY has elapsed, and it waits for nothing. -/
def State.laneReady (s : State) (g : Nat) (G : Group) (now l : Nat) : Bool :=
  let L := G.lane l
  L.live && decide (L.delayed ≤ now) && (!G.halted || inMask G.stepping l) && match L.wait with
    | .none => true
    | .again r => s.reasonHolds g G l r
    | _ => false

/-- A thread may issue: it and every member of its joined set at its PC are ready (R123, R138). -/
def State.laneFree (s : State) (g : Nat) (G : Group) (now l : Nat) : Bool :=
  s.laneReady g G now l &&
    ((List.range 32).all fun k =>
      !((G.lane k).live && (G.lane k).jset == (G.lane l).jset && (G.lane k).pc == (G.lane l).pc) || s.laneReady g G now k)

/-- The lanes of a group at an address that issue together (R120, R138): those that come to the instruction, or those that wait at it
from one issue, the ones of the lowest lane first. -/
def State.readyAt (s : State) (g : Nat) (G : Group) (now : Nat) (pc : DWord) : Word :=
  let m := maskOf fun l => (G.lane l).pc == pc && s.laneFree g G now l
  match lowest m with
  | none => 0
  | some l0 => maskOf fun l => inMask m l && (G.lane l).together (G.lane l0)

/-- A thread that has not exited waits for nothing of R115; a DELAY is no wait. -/
def State.laneAwake (s : State) (g : Nat) (G : Group) (l : Nat) : Bool := s.laneReady g G (G.lane l).delayed l

/-- Some thread of the group has stopped waiting (R115). -/
def State.groupReady (s : State) (g : Nat) (G : Group) : Bool := (List.range 32).any fun l => s.laneAwake g G l

/-- The group's unit has been asked to save: it issues no more (R308, R309). -/
def State.saving (s : State) (G : Group) : Bool :=
  match (s.team? G.team).bind fun T => AMap.get? s.units T.unit with
  | some u => u.save.isSome
  | none => false

/-- The group may be resident at all: its team has started and is not being resumed (R113, R319). -/
def State.started (s : State) (G : Group) : Bool :=
  G.wave.isSome || match s.team? G.team with
    | some t => t.started && !t.resuming && match AMap.get? s.units t.unit with
        | some u => u.save.isNone
        | none => true
    | none => false

/-- A thread that is ready becomes so now if it was not in the last cycle. -/
def Lane.stamp (L : Lane) (ready : Bool) (now : Nat) : Lane :=
  if !ready then { L with idle := true } else if L.idle then { L with since := now, idle := false } else L

/-- Threads that may issue in this cycle and could not in the last one have become ready (R120, R123): a member of a joined set with its
set, and no thread before its team has started. -/
def State.stampWaits (s : State) (core : Nat) : State :=
  let now := (s.core core).cycles
  { s with groups := s.groups.map fun e =>
      if issueUnit e.1 == core then
        (e.1, { e.2 with lanes := e.2.lanes.mapIdx fun l L => L.stamp (s.started e.2 && s.laneFree e.1 e.2 now l) now })
      else e }

/-! ### Active and pending sets (R114 to R117) -/

/-- The effective class of a group (R116). -/
def Group.effClass (G : Group) : Nat := if G.age ≥ 1024 then 3 else G.cls

/-- The order of R116: highest effective class, greatest age, lowest slot. -/
def ahead (a b : Nat × Group) : Bool :=
  if a.2.effClass != b.2.effClass then decide (a.2.effClass > b.2.effClass)
  else if a.2.age != b.2.age then decide (a.2.age > b.2.age)
  else decide (a.1 < b.1)

/-- The first of a list under an order. -/
def best {α : Type} (lt : α → α → Bool) : List α → Option α
  | [] => none
  | x :: xs => match best lt xs with
    | none => some x
    | some y => if lt y x then some y else some x

/-- The ready pending group that the next free active slot takes (R116). -/
def State.nextPending (s : State) (core : Nat) : Option (Nat × Group) :=
  best ahead ((s.residents core).filter fun e => !e.2.active && s.started e.2 && s.groupReady e.1 e.2)

/-- A group enters the active set (R114, R116): its threads may issue from the second cycle after the swap. -/
def State.activate (s : State) (g : Nat) : State :=
  s.updGroup g fun G => { G with active := true, age := 0, entered := s.now g, issueFrom := s.now g + 2 }

/-- A group that is active because fewer than eight are resident makes no swap (R114). -/
def State.takeIn (s : State) (g : Nat) : State :=
  s.updGroup g fun G => { G with active := true, entered := s.now g, issueFrom := s.now g }

/-- A group returns to the pending set: with its age (R116). -/
def State.deactivate (s : State) (g : Nat) : State :=
  s.updGroup g fun G => { G with active := false, fallback := none, run := none }

/-- A displaced group returns to the pending set with age 0 (R117). -/
def State.displace (s : State) (g : Nat) : State := (s.deactivate g).updGroup g fun G => { G with age := 0 }

/-- No swap has begun in this core cycle (R114). -/
def State.swapFree (s : State) (core : Nat) : Bool :=
  let now := (s.core core).cycles
  !((s.residents core).any fun e => e.2.active && decide (e.2.issueFrom = now + 2))

/-- With fewer than eight groups resident every one of them is active; else a free active slot takes the ready pending group that comes
first, one swap in a cycle (R114, R116). -/
def State.fillActive (s : State) (core : Nat) : State :=
  let rs := s.residents core
  if rs.length < 8 then
    (rs.filter fun e => !e.2.active && s.started e.2 && e.2.live != 0).foldl (fun s e => s.takeIn e.1) s
  else if (rs.filter fun e => e.2.active).length ≥ 8 || !s.swapFree core then s
  else match s.nextPending core with
    | some e => s.activate e.1
    | none => s

/-- The release that a lane is held by is one of a fence or of a maintenance instruction, and not of an EXIT (R115). -/
def Group.heldAtFence (G : Group) (l : Nat) : Bool := G.held.any fun h => inMask h.lanes l && match h.act with
  | .exit _ => false
  | _ => true

/-- What a thread waits on is in the list of R115; a marker's park has lasted 32 core cycles. A LAUNCH that waits for its release, a PUTS
that waits for other lanes' service, an EXIT's release, the data of a GATH and the frame of an ERET are not in it. -/
def State.listedWait (s : State) (g : Nat) (G : Group) (l : Nat) : Bool :=
  let L := G.lane l
  match L.wait with
  | .none => G.halted && !inMask G.stepping l
  | .park _ _ => G.outstanding && decide (L.since + 32 ≤ s.now g)
  | .again (.release _ _) | .again (.puts _ _ _ _) | .gath _ => false
  | .held => G.heldAtFence l
  | .result q => !(G.pend.any fun p => p.seq == q && p.kind == .eret)
  | _ => true

/-- A thread waits (R115): it is not ready, whatever its DELAY, and what it waits on is in the list. -/
def State.laneWaits (s : State) (g : Nat) (G : Group) (l : Nat) : Bool := !s.laneAwake g G l && s.listedWait g G l

/-- A group waits (R115): every thread of it that has not exited waits. -/
def State.waiting (s : State) (g : Nat) (G : Group) : Bool :=
  (List.range 32).all fun l => !(G.lane l).live || s.laneWaits g G l

/-- GROUP_SWAP (R115, R116): an active group that waits gives its slot to the ready pending group that comes first. -/
def execGroupSwap (core out inn : Nat) (s : State) : Host.Outcome State Fault Refusal :=
  event s <|
  match s.group? out, s.nextPending core with
  | some G, some e =>
    if G.active && coreOf out == core && s.waiting out G && e.1 == inn && s.swapFree core && decide (core < 384) then
      some ((s.deactivate out).activate inn)
    else none
  | _, _ => none

/-- The ready pending group that has been raised by ageing and comes first (R116, R117). -/
def State.agedPending (s : State) (core : Nat) : Option (Nat × Group) :=
  best ahead ((s.residents core).filter fun e =>
    !e.2.active && decide (e.2.age ≥ 1024) && decide (e.2.cls < 3) && s.started e.2 && s.groupReady e.1 e.2)

/-- The active group that entered earliest, of those that have been active for 1,024 core cycles (R117). DESIGN CHOICE (log 37): of two
that entered in one core cycle, the one in the lower slot. -/
def State.oldestActive (s : State) (core : Nat) : Option (Nat × Group) :=
  let now := (s.core core).cycles
  best (fun a b => decide (a.2.entered < b.2.entered)) ((s.residents core).filter fun e =>
    e.2.active && decide (e.2.entered + 1024 ≤ now))

/-- AGED_DISPLACEMENT (R117): a ready pending group raised by ageing displaces the active group that entered earliest,
once that has been active for 1,024 core cycles. -/
def execAgedDisplacement (core : Nat) (s : State) : Host.Outcome State Fault Refusal :=
  event s <|
  match s.agedPending core, s.oldestActive core with
  | some a, some o => if !s.swapFree core then none else some ((s.displace o.1).activate a.1)
  | _, _ => none

/-! ### The PC table (R119) -/

/-- h1 of R119. -/
def pcHash1 (pc : DWord) : Nat := Nat.xor (bitsAt pc 2 6) (bitsAt pc 8 6)

/-- h2 of R119. -/
def pcHash2 (pc : DWord) : Nat :=
  let x := Nat.xor (Nat.xor (bitsAt pc 2 6) (bitsAt pc 10 6)) 0b101101
  (2 * x + x / 32) % 64

/-- The threads of the active groups of a core: group, lane, PC, and wait as key 2 of R120 counts it. -/
def State.threads (s : State) (core : Nat) : List (Nat × Nat × DWord × Nat) :=
  let now := (s.core core).cycles
  ((s.residents core).filter fun e => e.2.active).flatMap fun e =>
    (List.range 32).filterMap fun l =>
      let L := e.2.lane l
      if L.live then some (e.1, l, L.pc, now - L.since) else none

/-- The thread that is offered a free entry first: the oldest, then the lowest PC, group and lane. -/
def older (a b : Nat × Nat × DWord × Nat) : Bool :=
  if a.2.2.2 != b.2.2.2 then decide (a.2.2.2 > b.2.2.2)
  else if a.2.2.1 != b.2.2.1 then decide (a.2.2.1.toNat < b.2.2.1.toNat)
  else if a.1 != b.1 then decide (a.1 < b.1)
  else decide (a.2.1 < b.2.1)

/-- Unfiled threads take free entries one by one; a thread whose PC has an entry is filed. -/
def fileThreads (tab : AMap DWord) : Nat → List (Nat × Nat × DWord × Nat) → AMap DWord
  | 0, _ => tab
  | fuel + 1, ts =>
    let un := ts.filter fun t => !(tab.any fun e => e.2 == t.2.2.1)
    match best older (un.filter fun t =>
      (AMap.get? tab (pcHash1 t.2.2.1)).isNone || (AMap.get? tab (pcHash2 t.2.2.1)).isNone) with
    | none => tab
    | some t =>
      let pc := t.2.2.1
      let h := if (AMap.get? tab (pcHash1 pc)).isNone then pcHash1 pc else pcHash2 pc
      fileThreads (AMap.put tab h pc) fuel un

/-- The table of this cycle: entries whose last thread has left are free, and unfiled threads probe. -/
def State.refile (s : State) (core : Nat) : State :=
  let C := s.core core
  let ts := s.threads core
  let kept := C.pcs.filter fun e => ts.any fun t => t.2.2.1 == e.2
  s.setCore core { C with pcs := fileThreads kept 64 ts }

/-! ### Points -/

/-- An issue point: an entry, or the fallback point of one group (R119). -/
structure Point where
  pc : DWord
  only : Option Nat
  deriving DecidableEq, Repr

/-- The unfiled PCs of a group, ascending. -/
def State.unfiled (s : State) (core : Nat) (G : Group) : List Nat :=
  let tab := (s.core core).pcs
  (List.range 32).foldl (fun ps l =>
    let L := G.lane l
    if L.live && !(tab.any fun e => e.2 == L.pc) then setIns L.pc.toNat ps else ps) []

/-- The PC of a group's fallback point: the one it serves, or the lowest unfiled one. -/
def State.fallbackPc (s : State) (core : Nat) (G : Group) : Option DWord :=
  let ps := s.unfiled core G
  match G.fallback with
  | some (pc, _) => if ps.contains pc.toNat then some pc else ps.head?.map (BitVec.ofNat 64 ·)
  | none => ps.head?.map (BitVec.ofNat 64 ·)

/-- The issue points of a core. -/
def State.points (s : State) (core : Nat) : List Point :=
  ((s.core core).pcs.map fun e => { pc := e.2, only := none }) ++
  ((s.residents core).filter fun e => e.2.active).filterMap fun e =>
    (s.fallbackPc core e.2).map fun pc => { pc, only := some e.1 }

/-- The instruction of a word has a variable-latency result that returns after its issue (R21). -/
def varLatency (w : BitVec 96) : Bool :=
  let op := bitsAt w 0 12
  [0x70C, 0x80C, 0x80D, 0x810, 0x811, 0x815, 0x923, 0x924, 0xA00, 0xD00, 0xE03, 0xE09, 0xE0A].contains op ||
    (decide (0x800 ≤ op) && decide (op ≤ 0x806)) || (decide (0x900 ≤ op) && decide (op ≤ 0x918))

/-- The instructions of a group with some lane's result outstanding (R309). -/
def Group.outCount (G : Group) : Nat := (G.pend.filter fun p => p.isResult && p.lanes.any fun e => e.2.open').length

/-- A group that holds 32 outstanding variable-latency instructions issues no further one (R309). -/
def State.pendFull (s : State) (g : Nat) (G : Group) (pc : DWord) : Bool :=
  decide (32 ≤ G.outCount) && match (s.fetch g pc 7).2 with
    | .ok w => varLatency w
    | .error _ => false

/-- The groups of a point with ready threads: key, group, lanes, longest wait. -/
def State.pointGroups (s : State) (core : Nat) (p : Point) : List (Nat × Group × Word × Nat) :=
  let now := (s.core core).cycles
  (s.residents core).filterMap fun e =>
    if !e.2.active || s.saving e.2 || decide (e.2.issueFrom > now) || !(p.only == none || p.only == some e.1) then none
    else
      let m := s.readyAt e.1 e.2 now p.pc
      if m = 0 || s.pendFull e.1 e.2 p.pc then none
      else some (e.1, e.2, m, (lanesOf m).foldl (fun w l => max w (now - (e.2.lane l).since)) 0)

/-- The keys of R120: effective class, wait, lowest slot, PC. -/
structure Cand where
  point : Point
  groups : List (Nat × Group × Word × Nat)
  cls : Nat
  wait : Nat
  slot : Nat
  deriving DecidableEq, Repr

def candOf (p : Point) (gs : List (Nat × Group × Word × Nat)) : Cand :=
  { point := p, groups := gs
    cls := gs.foldl (fun c e => max c (if e.2.2.2 ≥ 1024 then 3 else e.2.1.effClass)) 0
    wait := gs.foldl (fun w e => max w e.2.2.2) 0
    slot := gs.foldl (fun k e => min k e.1) 1000000 }

def Cand.before (a b : Cand) : Bool :=
  if a.cls != b.cls then decide (a.cls > b.cls)
  else if a.wait != b.wait then decide (a.wait > b.wait)
  else if a.slot != b.slot then decide (a.slot < b.slot)
  else decide (a.point.pc.toNat < b.point.pc.toNat)

/-- A point is ordered behind the other points of one of its groups: its threads have just yielded, or it has issued 256
bundles of the group in a row (R122). -/
def Cand.deferred (c : Cand) (others : List Cand) : Bool :=
  c.groups.any fun e =>
    ((lanesOf e.2.2.1).any (fun l => (e.2.1.lane l).yielded) ||
      match e.2.1.run with
      | some (pc, n) => pc == c.point.pc && decide (n ≥ 256)
      | none => false) &&
    others.any fun d => d.point != c.point && d.groups.any fun f => f.1 == e.1

/-- The candidate that issues first: a deferred one only when no other is left. -/
def pick (cs : List Cand) : Option Cand :=
  match best Cand.before (cs.filter fun c => !c.deferred cs) with
  | some c => some c
  | none => best Cand.before cs

/-- An instruction that acts on several lanes of a group, or once for the group, takes one group only (R120): read from
the operation code and the destination field of the word at the point. -/
def oneGroup (w : BitVec 96) : Bool :=
  let op := bitsAt w 0 12
  let grp := op / 256
  let d := bitsAt w 16 10
  grp == 6 || (10 ≤ grp && grp ≤ 13) || op == 0x006 || op == 0x007 || op == 0x514 || op == 0x515 || op == 0x817 ||
    op == 0xE02 || (0xE06 ≤ op && op ≤ 0xE08) || (0x100 ≤ d && d < 0x140)

/-- The groups of a point in the order of wait, then slot. -/
def inOrder : Nat → List (Nat × Group × Word × Nat) → List (Nat × Group × Word × Nat)
  | 0, _ => []
  | fuel + 1, gs =>
    match best (fun a b => if a.2.2.2 != b.2.2.2 then decide (a.2.2.2 > b.2.2.2) else decide (a.1 < b.1)) gs with
    | none => []
    | some g => g :: inOrder fuel (gs.filter fun e => e.1 != g.1)

/-- The bundle drawn from a point: further groups join only with lanes that are free (R120). -/
def drawBundle (single : Bool) : Word → List (Nat × Group × Word × Nat) → List (Nat × Word)
  | _, [] => []
  | used, e :: gs =>
    if used != 0 && (single || e.2.2.1 &&& used != 0) then drawBundle single used gs
    else (e.1, e.2.2.1) :: drawBundle single (used ||| e.2.2.1) gs

/-- The bundle of a candidate (R120). DESIGN CHOICE (log 37): where contexts hold different instructions at one PC, that of
the first group tells whether the bundle holds one group only. -/
def State.bundle (s : State) (c : Cand) : List (Nat × Word) :=
  let gs := inOrder 64 c.groups
  match gs with
  | [] => []
  | e :: _ =>
    let single := match (s.fetch e.1 c.point.pc 7).2 with
      | .ok w => oneGroup w
      | .error _ => true
    drawBundle single 0 gs

/-- A bundle's groups count it: the run of one point while another point of the group holds ready threads (R122), the fallback
point's bundles (R119), the yields that have had their selection, and a wave's limit (R203). DEDUCED (log 37): a yield's one selection is
the next one that issues a bundle of its group. -/
def Group.counted' (G : Group) (pc : DWord) (fall others : Bool) : Group :=
  { G with
    run := match G.run with
      | some (p, n) => if p = pc then some (p, n + b2n others) else some (pc, b2n others)
      | none => some (pc, b2n others)
    fallback := if fall then match G.fallback with
        | some (p, n) => if p = pc then some (p, n + 1) else some (pc, 1)
        | none => some (pc, 1)
      else G.fallback
    lanes := G.lanes.map fun L => { L with yielded := false }
    wave := G.wave.map fun w => { w with bundles := w.bundles + 1 } }

/-- Ages run for ready groups that do not issue (R116). -/
def State.ageGroups (s : State) (core : Nat) (issued : List Nat) : State :=
  { s with groups := s.groups.map fun e =>
      if issueUnit e.1 == core && !issued.contains e.1 && s.started e.2 && s.groupReady e.1 e.2
      then (e.1, { e.2 with age := e.2.age + 1 }) else e }

/-- The waits, the active set and the PC table at the start of a cycle. -/
def State.prepare (s : State) (core : Nat) : State :=
  let s := s.stampWaits core
  (if core < 384 then s.fillActive core else s).refile core

/-- The cores, and the four wave slots of each of the 384 quays. -/
def issueUnits : Nat := 1920

/-- The turn after a core's: the next number, in the next round if the core's turn in this one has passed. -/
def nextTurn (turn core : Nat) : Nat :=
  (if core < turn % issueUnits then turn / issueUnits + 1 else turn / issueUnits) * issueUnits + core + 1

/-- A core cycle passes. -/
def State.tick (s : State) (core : Nat) : State :=
  let C := s.core core
  { s.setCore core { C with cycles := C.cycles + 1 } with turn := nextTurn s.turn core }

/-- A bundle of the cycle: group, lanes, the point, and whether another point of the group holds ready threads. -/
structure Pick where
  g : Nat
  lanes : Word
  point : Point
  others : Bool
  deriving DecidableEq, Repr

/-- The bundles of a cycle join the issue queue; the cycle passes. -/
def State.launchBundles (s : State) (core : Nat) (fresh : BitVec 3) (bs : List Pick) : State :=
  let count : State → Pick → State := fun s e =>
    s.updGroup e.g fun G => G.counted' e.point.pc e.point.only.isSome e.others
  let s := ((bs.foldl count s).ageGroups core (bs.map fun e => e.g)).tick core
  let new : List Bundle := bs.map fun e => { g := e.g, lanes := e.lanes, fresh := fresh }
  { s with issueQ := s.issueQ ++ new }

/-- The candidates of a cycle: the points with ready threads (R120). -/
def State.candidates (s : State) (core : Nat) : List Cand :=
  (s.points core).filterMap fun p =>
    let gs := s.pointGroups core p
    if gs.isEmpty then none else some (candOf p gs)

/-- The candidates that issue: the first, and on a core the first of the others (R120). -/
def chosen (core : Nat) (cs : List Cand) : List Cand :=
  match pick cs with
  | none => []
  | some c1 => c1 :: (if core < 384 then (pick (cs.filter fun c => c.point != c1.point)).toList else [])

/-- What a chosen candidate issues. -/
def State.picks (s : State) (cs : List Cand) (c : Cand) : List Pick :=
  (s.bundle c).map fun e =>
    { g := e.1, lanes := e.2, point := c.point
      others := cs.any fun d => d.point != c.point && d.groups.any fun f => f.1 == e.1 }

/-- One core cycle of the builder on a prepared core (R120): up to two bundles from two points. -/
def State.select (s : State) (core : Nat) (fresh : BitVec 3) : Option State :=
  let cs := s.candidates core
  match chosen core cs with
  | [] => none
  | ch => some (s.launchBundles core fresh (ch.flatMap (s.picks cs)))

/-- A core, or a quay, that can issue. -/
def State.canIssue (s : State) (core : Nat) : Bool := ((s.prepare core).select core 7).isSome

/-- BUNDLE_SELECT (R120 to R122, R202): a core with nothing ready counts the cycle, unless its clock is gated (R344). -/
def execBundleSelect (core : Nat) (fresh : BitVec 3) (s : State) : Host.Outcome State Fault Refusal :=
  event s <|
  if core ≥ issueUnits || (decide (0 < s.dev.power) && (s.residents core).isEmpty) then none
  else match (s.prepare core).select core fresh with
    | some s => some s
    | none => some (((s.prepare core).ageGroups core []).tick core)

/-- FALLBACK_ADVANCE (R119): after 256 bundles from one PC the fallback point moves to the next higher unfiled PC of the
group, wrapping round. -/
def execFallbackAdvance (g : Nat) (s : State) : Host.Outcome State Fault Refusal :=
  event s <|
  match s.group? g with
  | none => none
  | some G =>
    match G.fallback with
    | some (pc, n) =>
      if n < 256 then none
      else
        let ps := s.unfiled (issueUnit g) G
        let next := match ps.find? fun p => decide (p > pc.toNat) with
          | some p => some p
          | none => ps.head?
        some (s.updGroup g fun G => { G with fallback := next.map fun p => (BitVec.ofNat 64 p, 0) })
    | none => none

/-- The cores and quays that hold groups. -/
def State.units' (s : State) : List Nat := s.groups.foldl (fun us e => setIns (issueUnit e.1) us) []

end Sys2Proof.Machine
end

