-- ==== Sys2Proof/Machine/Access.lean ====
section
/-! DEFINITION. The LS-path accesses of lanes, from the issue to the store queues or to an outstanding result: the checks of
R70, R71, R185 and R189, stores, loads, atomics, discards, monitors, and the spill and the refill of the return stack
(R53, R54). -/

namespace Sys2Proof.Machine

/-- The right that an access needs (R54, R183, R296). -/
def Acc.right : Acc → Right
  | .store .. | .disc | .spill _ | .putsAddr .. => .write
  | .atomic .. | .ldlu .. | .qcall .. => .both
  | .arm | .refill | .kdef _ => .read
  | .frame _ => .frameWrite
  | .eret => .frameRead
  | .fetch => .fetch

/-- KIND of an access (R289). -/
def Acc.kind (a : Acc) : Kind := a.right.kind

/-- A plain store of 4 or 8 bytes, which register space takes (R322). -/
def Acc.plain : Acc → Bool
  | .store n _ rel scat _ => (n == 4 || n == 8) && !rel && !scat
  | _ => false

/-- The record of an access that traps (R288). -/
def accRec (x : XFault) (k : Kind) (va : DWord) : Rec := { cause := x.cause, sub := x.sub, kind := k, addr := va }

/-- The cause with which a call-stack access faults: SPILL, with the underlying cause as subcode (R54, R284). -/
def spillFault (x : XFault) : XFault := { cause := .spill, sub := BitVec.ofNat 8 x.cause.code, l0 := x.l0, held := x.held }

/-- The cause that an access reports for a failed check. -/
def Acc.fault (a : Acc) (x : XFault) : XFault := match a with
  | .spill _ | .refill => spillFault x
  | _ => x

/-! ### Completing an access -/

/-- The bytes that a lane of a store writes. -/
def stBytes (l : Nat) (pas : List Nat) (bs : List Byte) : List StByte :=
  (pas.zip bs).map fun e => { pa := e.1, val := e.2, lanes := 1 <<< l }

/-- The lanes that count a byte as their own store: those that wrote it, whichever supplied it (R18, R71). -/
def sharers (ls : List StByte) (pa : Nat) : Word :=
  ls.foldl (fun m b => if b.pa == pa then m ||| b.lanes else m) 0

/-- Of several lanes the highest supplies a byte (R71): the lists come lowest lane first. -/
def mergeBytes (ls : List (List StByte)) : List StByte :=
  ls.foldl (fun acc bs => (acc.filter fun a => !(bs.any fun b => b.pa == a.pa)) ++
    bs.map fun b => { b with lanes := b.lanes ||| sharers acc b.pa }) []

/-- A pushed return address (R53): on the chip, or after the oldest entry has been spilled. -/
def Lane.pushSpilled (L : Lane) (ra target : DWord) : Lane :=
  { L with rs := L.rs.drop 1 ++ [ra], spt := L.spt - 8, pc := target }

/-- Waiting lanes of the store issued at `seq` learn the bytes that passing lanes have supplied: a lower lane does not write
those (R71). -/
def Group.storeSeen (G : Group) (seq : Nat) (bs : List (Nat × List Nat)) : Group :=
  G.updLanes 0xFFFFFFFF fun k L => match L.wait with
    | .fault va (.store n d rel scat higher) pkr r =>
      if L.wseq = seq then
        { L with wait := .fault va (.store n d rel scat (higher ++ ((bs.filter fun b => decide (k < b.1)).flatMap (·.2)))) pkr r }
      else L
    | _ => L

/-- Some lane of the store issued at `seq` waits in fault service. -/
def Group.storeWaits (G : Group) (seq : Nat) : Bool := G.lanes.any fun L => L.wseq == seq && match L.wait with
  | .fault _ (.store _ _ _ _ _) _ _ => true
  | _ => false

/-- The store of a lane that was served after the others of its instruction (R71, R300): higher lanes have supplied the bytes of
`higher`, which it counts as its own; where a lower lane's byte is still on its way, both count the new one. -/
def State.lateStore (s : State) (e : LsOp) (n l : Nat) (pas : List Nat) (data : List Byte) (higher : List Nat) : State :=
  let same := fun (f : LsOp) => f.g == e.g && f.seq == e.seq
  let earlier := (s.lsq.filter same).flatMap fun f => match f.kind with
    | .store bs _ => bs
    | _ => []
  let mine := ((stBytes l pas data).filter fun b => !higher.contains b.pa).map fun b =>
    { b with lanes := b.lanes ||| sharers earlier b.pa }
  let s := { s with lsq := s.lsq.map fun (f : LsOp) => match f.kind with
    | .store bs m =>
      if same f && bs.any fun b => pas.contains b.pa then
        { f with kind := .store (bs.map fun (b : StByte) => if pas.contains b.pa then { b with lanes := b.lanes ||| (1 <<< l) } else b) (m ||| (1 <<< l)) }
      else f
    | _ => f }
  let s := s.pushStore n e mine
  s.updGroup e.g fun G => G.storeSeen e.seq [(l, pas)]

/-- The physical part of an access: what happens once its checks have passed (R53, R71, R172, R183, R187, R189). -/
def State.perform (s : State) (g l seq : Nat) (pc va : DWord) (pas : List Nat) (a : Acc) : State :=
  match s.group? g with
  | none => s
  | some G =>
    let pa := pas.getD 0 0
    let op := fun (rel : Bool) (k : LsKind) => ({ g, lane := l, seq, pc, ctx := G.ctx, rel, va, kind := k } : LsOp)
    match a with
    | .store n data rel _ higher => s.lateStore (op rel (.store [] 0)) n l pas data higher
    | .atomic aop w b e ret =>
      let s := s.push (op true (.atomic aop pa w b e (ret.map (·.1)) []))
      match ret with
      | some (q, d) => s.updGroup g fun G => G.joinPend q pc (.remote true) d G.pkr l (.waiting va)
      | none => s
    | .ldlu q d =>
      let s := if pa < 0x800000000000 && !(G.lane l).helper then s.push (op false (.disc (pa / 64))) else s
      s.updGroup g fun G => G.joinPend q pc (.load 4 .zero false true) d G.pkr l (.waiting va)
    | .disc => if pa < 0x800000000000 then s.push (op false (.disc (pa / 64))) else s
    | .qcall cls m size gen arg ret acq rel =>
      let s := s.push { op rel (.quay pa va cls m size arg (ret.map (·.1))) with gen }
      match ret with
      | some (q, d) => s.updGroup g fun G => G.joinPend q pc (.remote acq) d G.pkr l (.waiting va)
      | none => s
    | .arm =>
      (s.disown ((List.range 8).map fun i => homeOf (pa + i))).updLane g l fun L => { L with monitor := some { va, pa := homeOf pa } }
    | .spill target =>
      let s := s.pushStore 8 (op false (.store [] 0)) (stBytes l pas (leBytes 8 ((G.lane l).rs.headD 0).toNat))
      s.updLane g l fun L => { L.pushSpilled (pc + 12) target with wait := .spilled seq }
    | _ => s

/-- The helper's spill: nothing is written, SPT moves (R98). -/
def State.helperSpill (s : State) (g l : Nat) (pc target : DWord) : State :=
  s.updLane g l fun L => L.pushSpilled (pc + 12) target

/-- A RET has its return address: SPT rises, and the lane continues there (R53). -/
def Lane.refilled (L : Lane) (v : DWord) : Lane := { L with pc := v, spt := L.spt + 8 }

/-- The refill of a RET (R53, R54): the thread's own stores in flight, else the home; a helper lane gets zero for poison (R98). DESIGN CHOICE
(log 17): poison traps precisely at the RET, as R290 and R301 say of a fetch and not of a refill, and an ERET executes it again. `none`
while the read has to wait. -/
def State.refill (s : State) (x : At) (l : Nat) (pas : List Nat) : Option State :=
  let L := s.lane x.g l
  match s.readMem x.g l x.seq pas false with
  | (_, .later) | (_, .fault _) => none
  | (s, .poison i) =>
    if L.helper then some (s.updLane x.g l fun L => L.refilled 0)
    else some (s.raise x (1 <<< l) fun _ => { cause := .uncorr, kind := .read, addr := L.spt + BitVec.ofNat 64 i })
  | (s, .bytes bs) => some (s.updLane x.g l fun L => L.refilled (leDWord bs))

/-! ### Checks -/

/-- The alignment and canonical checks at issue (R70): a record for a lane that fails. -/
def addrFault (va : DWord) (align : Nat) (k : Kind) : Option Rec :=
  if va.toNat % align != 0 then some (accRec { cause := .misaligned } k va)
  else if !canonical va then some (accRec { cause := .translation, sub := 2 } k va)
  else none

/-- The lanes of a mask that have a record trap together (R290). -/
def State.raiseAll (s : State) (x : At) (m : Word) (f : Nat → Option Rec) : State :=
  s.raise x (maskOf fun l => inMask m l && (f l).isSome) fun l => (f l).getD { cause := .misaligned }

/-- So with the lanes whose translation gave a direct trap. -/
def State.raiseBoth (s : State) (x : At) (m : Word) (f : Nat → Option Rec) (direct : AMap Rec) : State :=
  s.raiseAll x (m ||| maskOf fun l => (AMap.get? direct l).isSome) fun l => (AMap.get? direct l).or (f l)

/-- One lane's access is translated and checked (R71, R296): it goes on, or waits for service at its instruction, or has a direct trap. -/
def State.check (s : State) (x : At) (l n : Nat) (va : DWord) (a : Acc) : State × Except (Option Rec) (List Nat) :=
  match s.group? x.g with
  | none => (s, .error none)
  | some G =>
    match s.xlateFor a.plain (via x.g G) va n a.right (some G.pkr) with
    | (s, .ok pas) => (s, .ok pas)
    | (s, .error e) =>
      let e := a.fault e
      let r : Rec := { accRec e a.kind va with resume := x.pc, fpc := x.pc }
      if e.serviced then (s.laneFault x.g l x.pc va e a.kind a G.pkr (some r), .error none)
      else (s, .error (some r))

/-- A lane's direct trap, if it has one. -/
def State.raiseOpt (s : State) (x : At) (l : Nat) (r : Option Rec) : State := match r with
  | some r => s.raise x (1 <<< l) fun _ => r
  | none => s

/-- The lanes of a mask, one after the other: those that pass perform their access; the direct traps of the others. -/
def State.accessLanes (s : State) (x : At) (n : Nat) (va : Nat → DWord) (a : Nat → Acc) : List Nat → State × AMap Rec
  | [] => (s, [])
  | l :: ls =>
    match s.check x l n (va l) (a l) with
    | (s, .ok pas) => (s.perform x.g l x.seq x.pc (va l) pas (a l)).accessLanes x n va a ls
    | (s, .error r) =>
      let (s, rs) := s.accessLanes x n va a ls
      (s, (r.map fun r => (l, r)).toList ++ rs)

/-- The lanes of a store that pass, with the bytes that each writes, and the direct traps of the others. -/
def State.storeLanes (s : State) (x : At) (n : Nat) (va : Nat → DWord) (a : Nat → Acc) (data : Nat → List Byte) :
    List Nat → State × Word × List (List StByte) × AMap Rec
  | [] => (s, 0, [], [])
  | l :: ls =>
    match s.check x l n (va l) (a l) with
    | (s, .ok pas) =>
      let (s, m, bs, rs) := s.storeLanes x n va a data ls
      (s, m ||| (1 <<< l), stBytes l pas (data l) :: bs, rs)
    | (s, .error r) =>
      let (s, m, bs, rs) := s.storeLanes x n va a data ls
      (s, m, bs, (r.map fun r => (l, r)).toList ++ rs)

/-- The stores of the passing lanes leave (R71, R172): each unit sets out for its home, and the lanes that wait in service learn what has been supplied. -/
def State.sendStore (s : State) (x : At) (n : Nat) (rel : Bool) (va : Nat → DWord) (m : Word) (bs : List (List StByte)) : State :=
  match s.group? x.g, lowest m with
  | some G, some l0 =>
    let all := mergeBytes bs
    let s := s.pushStore n { g := x.g, lane := l0, seq := x.seq, pc := x.pc, ctx := G.ctx, rel, va := va l0, kind := .store [] 0 } all
    if G.storeWaits x.seq then
      s.updGroup x.g fun G => G.storeSeen x.seq ((lanesOf m).zip (bs.map fun b => b.map (·.pa)))
    else s
  | _, _ => s

/-! ### Loads and stores of a bundle -/

/-- R185: a misaligned or non-canonical address of a GATH or SCAT; the instruction takes effect in no lane, the lanes that
failed trap, and the others stay at it as their own joined set. -/
def State.divergentFault (s : State) (x : At) (fail : Word) (bad : Nat → Option Rec) : State :=
  let rest := x.B &&& ~~~fail
  let s := s.updGroup x.g fun G =>
    let G := G.updLanes rest fun _ L => { L with pc := x.pc }
    if rest = 0 then G else G.joinSet rest
  s.raiseAll x fail bad

/-- A global store (R70, R71, R184, R185): the lanes that fail a check trap or wait; the others' bytes leave, of several lanes'
the highest one's. Helper lanes store nothing (R98). The passing lanes of a scatter without a marker go on in cohorts. -/
def State.storeOp (s : State) (x : At) (n : Nat) (rel scat : Bool) (va : Nat → DWord) (data : Nat → List Byte) : State :=
  let bad := fun l => addrFault (va l) n .write
  let fail := maskOf fun l => inMask x.N l && (bad l).isSome
  if scat && fail != 0 then s.divergentFault x fail bad
  else
    let acc := fun l => Acc.store n (data l) rel scat []
    let (s, m, bs, direct) := s.storeLanes x n va acc data (lanesOf (x.N &&& ~~~fail))
    let s := s.sendStore x n rel va m bs
    let go := m ||| (x.T &&& ~~~x.N)
    let s := if scat && !x.h.mark then
        (s.addPend x .scat noDest ((lanesOf go).map fun l => (l, .back []))).waitLanes x go fun _ => .gath x.seq
      else s
    s.raiseBoth x fail bad direct

/-- A global load (R70, R98, R184): a lane that fails a check at issue traps, a helper lane that would gets zero, and the
others wait for their result. -/
def State.loadOp (s : State) (x : At) (d : Reg) (w n : Nat) (kind : PKind) (va : Nat → DWord) : State :=
  let bad := fun l => addrFault (va l) n .read
  let fail := maskOf fun l => inMask x.N l && (bad l).isSome
  let x' := { x with T := x.T &&& ~~~fail, N := x.N &&& ~~~fail }
  let s := s.addPend x' kind { reg := some (.inl d), w }
    (pendLanes d x' fun l => if (bad l).isSome then .back (List.replicate w 0) else .waiting (va l))
  s.raiseAll x fail bad

/-- A returning or no-return atomic (R189): helper lanes change nothing and receive zero. -/
def State.atomicOp (s : State) (x : At) (op : AtOp) (w : Nat) (d : Option (VReg × Nat)) (va : Nat → DWord)
    (b e : Nat → List Byte) : State :=
  let bad := fun l => addrFault (va l) w .readWrite
  let fail := maskOf fun l => inMask x.N l && (bad l).isSome
  let dest := d.map fun r => ({ reg := some (.inl (.v r.1)), w := r.2 } : Dest)
  let s := match d, dest with
    | some r, some dst => (lanesOf (x.T &&& ~~~x.N)).foldl (fun (s : State) l =>
        s.updGroup x.g fun G => G.joinPend x.seq x.pc (.remote true) dst G.pkr l (.back (List.replicate r.2 0))) s
    | _, _ => s
  let (s, direct) := s.accessLanes x w va (fun l => .atomic op w (b l) (e l) (dest.map fun q => (x.seq, q)))
    (lanesOf (x.N &&& ~~~fail))
  s.raiseBoth x fail bad direct

/-- CALL and CALLX in one lane (R51, R53). -/
def State.callLane (s : State) (x : At) (l : Nat) (target : DWord) : State :=
  let L := s.lane x.g l
  if L.rs.length < 4 then s.updLane x.g l fun L => { L with rs := L.rs ++ [x.pc + 12], pc := target }
  else if isWave x.g then s.methodFault x.g 6 0
  else if L.helper then s.helperSpill x.g l x.pc target
  else
    let a := L.spt - 8
    match s.check x l 8 a (.spill target) with
    | (s, .ok pas) => s.perform x.g l x.seq x.pc a pas (.spill target)
    | (s, .error r) => s.raiseOpt x l r

/-- RET in one lane (R53, R55, R98). -/
def State.retLane (s : State) (x : At) (l : Nat) : State :=
  let L := s.lane x.g l
  match L.rs.getLast? with
  | some t => s.updLane x.g l fun L => { L with rs := L.rs.dropLast, pc := t }
  | none =>
    if isWave x.g then s.methodFault x.g 6 0
    else
      match s.group? x.g with
      | none => s
      | some G =>
        if L.helper && (match (s.xlate (via x.g G) L.spt 8 .read (some G.pkr)).2 with
          | .error e => !e.held
          | .ok _ => false) then s.updLane x.g l fun L => L.refilled 0
        else
          match s.check x l 8 L.spt .refill with
          | (s, .ok pas) =>
            match s.refill x l pas with
            | some s => s
            | none => s.readLater x.g l x.pc .refill L.spt G.pkr
          | (s, .error r) => s.raiseOpt x l r

end Sys2Proof.Machine
end

