-- ==== Sys2Proof/Machine/Fp.lean ====
section
/-! DEFINITION. Numbers (R73 to R83, R96): the codes of every format as exact values, the one rounding of fp_op, minima,
compares, conversions to integers, the narrow formats and the Q4N codebook. -/

namespace Sys2Proof.Machine

/-! ### Exact values -/

/-- The value of a code: NaN, an infinity, or (−1)^neg · m · 2^e. -/
inductive Val where
  | nan
  | inf (neg : Bool)
  | fin (neg : Bool) (m : Nat) (e : Int)
  deriving DecidableEq, Repr

/-- A wide format (R73): widths of the exponent and the fraction. -/
structure Fmt where
  ebits : Nat
  fbits : Nat
  deriving DecidableEq, Repr

def f64 : Fmt := { ebits := 11, fbits := 52 }
def f32 : Fmt := { ebits := 8, fbits := 23 }
def f16 : Fmt := { ebits := 5, fbits := 10 }
def bf16 : Fmt := { ebits := 8, fbits := 7 }

def Fmt.bias (f : Fmt) : Nat := 2 ^ (f.ebits - 1) - 1
/-- The exponent of the last place of the smallest normal and of the subnormals. -/
def Fmt.qmin (f : Fmt) : Int := 1 - (f.bias : Int) - f.fbits
/-- The code of +∞. -/
def Fmt.infCode (f : Fmt) : Nat := (2 ^ f.ebits - 1) * 2 ^ f.fbits
def Fmt.signBit (f : Fmt) : Nat := 2 ^ (f.ebits + f.fbits)
/-- The canonical NaN (R73). -/
def Fmt.nanCode (f : Fmt) : Nat := f.infCode + 2 ^ (f.fbits - 1)

/-- The value of a magnitude code with no special codes (R75) or of a finite wide code (R73). -/
def finVal (fbits : Nat) (qmin : Int) (neg : Bool) (c : Nat) : Val :=
  let e := c / 2 ^ fbits
  let f := c % 2 ^ fbits
  if e = 0 then .fin neg f qmin else .fin neg (2 ^ fbits + f) (qmin + e - 1)

/-- The value of a code (R73). -/
def Fmt.val (f : Fmt) (x : Nat) : Val :=
  let neg := x / f.signBit % 2 == 1
  let c := x % f.signBit
  if c > f.infCode then .nan else if c = f.infCode then .inf neg else finVal f.fbits f.qmin neg c

/-! ### Rounding -/

/-- m · 2^e as a count of 2^q, rounded to nearest, ties to even. -/
def roundTo (m : Nat) (e q : Int) : Nat :=
  if e ≥ q then m * 2 ^ (e - q).toNat
  else
    let k := (q - e).toNat
    let t := m / 2 ^ k
    let r := m % 2 ^ k
    let half := 2 ^ (k - 1)
    if r > half || (r == half && t % 2 == 1) then t + 1 else t

/-- The exponent of the last place of a value in a format: that of its binade, not below `qmin`. -/
def lastPlace (fbits : Nat) (qmin : Int) (m : Nat) (e : Int) : Int :=
  let q := (Nat.log2 m : Int) + e - fbits
  if q < qmin then qmin else q

/-- The magnitude code nearest to m · 2^e, the grid extended above the largest finite code (R77, R81). -/
def roundCode (fbits : Nat) (qmin : Int) (m : Nat) (e : Int) : Nat :=
  if m = 0 then 0
  else
    let q := lastPlace fbits qmin m e
    (q - qmin).toNat * 2 ^ fbits + roundTo m e q

/-- The code of a value in a wide format, rounded once; overflow gives an infinity (R81). -/
def Fmt.code (f : Fmt) (v : Val) : Nat :=
  match v with
  | .nan => f.nanCode
  | .inf neg => b2n neg * f.signBit + f.infCode
  | .fin neg m e =>
    let c := roundCode f.fbits f.qmin m e
    b2n neg * f.signBit + (if c > f.infCode then f.infCode else c)

/-! ### Arithmetic on exact values (R81) -/

def Val.isNan : Val → Bool
  | .nan => true
  | _ => false

def Val.neg : Val → Val
  | .nan => .nan
  | .inf n => .inf !n
  | .fin n m e => .fin (!n) m e

/-- The magnitude over a common exponent, signed. -/
def signedAt (neg : Bool) (m : Nat) (e q : Int) : Int :=
  let x : Int := m * 2 ^ (e - q).toNat
  if neg then -x else x

/-- The exact sum, with the sign of an exact zero as R81 gives it. -/
def Val.add (a b : Val) : Val :=
  match a, b with
  | .nan, _ | _, .nan => .nan
  | .inf n, .inf k => if n = k then .inf n else .nan
  | .inf n, _ => .inf n
  | _, .inf n => .inf n
  | .fin n m e, .fin k p f =>
    let q := if e < f then e else f
    let x := signedAt n m e q + signedAt k p f q
    if x = 0 then .fin (if m = 0 && p = 0 then n && k else false) 0 0
    else .fin (decide (x < 0)) x.natAbs q

/-- The exact product. -/
def Val.mul (a b : Val) : Val :=
  match a, b with
  | .nan, _ | _, .nan => .nan
  | .inf n, .inf k => .inf (n != k)
  | .inf n, .fin k m _ | .fin k m _, .inf n => if m = 0 then .nan else .inf (n != k)
  | .fin n m e, .fin k p f => .fin (n != k) (m * p) (e + f)

/-- The quotient to `bits` significant bits more than the operands, with a sticky last bit. -/
def Val.div (a b : Val) : Val :=
  match a, b with
  | .nan, _ | _, .nan => .nan
  | .inf _, .inf _ => .nan
  | .inf n, .fin k _ _ => .inf (n != k)
  | .fin n _ _, .inf k => .fin (n != k) 0 0
  | .fin n m e, .fin k p f =>
    if p = 0 then (if m = 0 then .nan else .inf (n != k))
    else
      let t := m * 2 ^ 128
      .fin (n != k) (2 * (t / p) + (if t % p = 0 then 0 else 1)) (e - f - 129)

/-- The integer square root, bit by bit from the top. -/
def isqrtFrom (x : Nat) : Nat → Nat → Nat
  | 0, r => r
  | k + 1, r => let r' := r + 2 ^ k; isqrtFrom x k (if r' * r' ≤ x then r' else r)

def isqrt (x : Nat) : Nat := isqrtFrom x (Nat.log2 x / 2 + 1) 0

/-- The square root with a sticky last bit (R81); √−0 is −0. -/
def Val.sqrt (a : Val) : Val :=
  match a with
  | .nan => .nan
  | .inf n => if n then .nan else .inf false
  | .fin n m e =>
    if m = 0 then .fin n 0 0
    else if n then .nan
    else
      let (m, e) := if e % 2 = 0 then (m, e) else (2 * m, e - 1)
      let t := m * 2 ^ 160
      let r := isqrt t
      .fin false (2 * r + (if r * r = t then 0 else 1)) (e / 2 - 81)

/-- a < b on numbers; false with a NaN; zeros are equal (R83). -/
def Val.lt (a b : Val) : Bool :=
  match a, b with
  | .nan, _ | _, .nan => false
  | .inf n, .inf k => n && !k
  | .inf n, _ => n
  | _, .inf k => !k
  | .fin n m e, .fin k p f =>
    let q := if e < f then e else f
    decide (signedAt n m e q < signedAt k p f q)

def Val.eq (a b : Val) : Bool := !a.isNan && !b.isNan && !a.lt b && !b.lt a

/-! ### Operations on codes -/

def Fmt.add (f : Fmt) (a b : Nat) : Nat := f.code ((f.val a).add (f.val b))
def Fmt.sub (f : Fmt) (a b : Nat) : Nat := f.code ((f.val a).add (f.val b).neg)
def Fmt.mul (f : Fmt) (a b : Nat) : Nat := f.code ((f.val a).mul (f.val b))
def Fmt.fma (f : Fmt) (a b c : Nat) : Nat := f.code (((f.val a).mul (f.val b)).add (f.val c))
def Fmt.div (f : Fmt) (a b : Nat) : Nat := f.code ((f.val a).div (f.val b))
def Fmt.sqrt (f : Fmt) (a : Nat) : Nat := f.code (f.val a).sqrt
def Fmt.isNan (f : Fmt) (a : Nat) : Bool := (f.val a).isNan

/-- The order of R83 on codes that are no NaN, −0 below +0. -/
def Fmt.below (f : Fmt) (a b : Nat) : Bool :=
  let key := fun x : Nat => if x ≥ f.signBit then -((x % f.signBit : Nat) : Int) - 1 else (x : Int)
  decide (key a < key b)

/-- Minima and maxima (R83). -/
def Fmt.min (f : Fmt) (a b : Nat) : Nat :=
  if f.isNan a then (if f.isNan b then f.nanCode else b)
  else if f.isNan b then a else if f.below b a then b else a
def Fmt.max (f : Fmt) (a b : Nat) : Nat :=
  if f.isNan a then (if f.isNan b then f.nanCode else b)
  else if f.isNan b then a else if f.below a b then b else a

/-- FABS and FNEG (R87). -/
def Fmt.abs (f : Fmt) (a : Nat) : Nat := if f.isNan a then f.nanCode else a % f.signBit
def Fmt.neg (f : Fmt) (a : Nat) : Nat := if f.isNan a then f.nanCode else (a + f.signBit) % (2 * f.signBit)

/-- The compares (R83, R87). -/
def Fmt.ceq (f : Fmt) (a b : Nat) : Bool := (f.val a).eq (f.val b)
def Fmt.clt (f : Fmt) (a b : Nat) : Bool := (f.val a).lt (f.val b)
def Fmt.cle (f : Fmt) (a b : Nat) : Bool := (f.val a).lt (f.val b) || (f.val a).eq (f.val b)
def Fmt.cun (f : Fmt) (a b : Nat) : Bool := f.isNan a || f.isNan b

/-- A code of one format in another, rounded once. -/
def Fmt.convert (f g : Fmt) (a : Nat) : Nat := g.code (f.val a)

/-- An FP32 sum and product as words, for the families that use them. -/
def addF (a b : Word) : Word := BitVec.ofNat 32 (f32.add a.toNat b.toNat)
def mulF (a b : Word) : Word := BitVec.ofNat 32 (f32.mul a.toNat b.toNat)

/-! ### Integers -/

/-- An integer as an exact value. -/
def ofInt (x : Int) : Val := .fin (decide (x < 0)) x.natAbs 0

/-- A magnitude truncated towards zero, or rounded half to even. -/
def truncNat (m : Nat) (e : Int) : Nat := if e ≥ 0 then m * 2 ^ e.toNat else m / 2 ^ (-e).toNat
def roundNat (m : Nat) (e : Int) : Nat := roundTo m e 0

/-- A float as an integer clamped to a range: NaN gives 0 (R91). -/
def Val.toInt (r : Nat → Int → Nat) (lo hi : Int) (v : Val) : Int :=
  match v with
  | .nan => 0
  | .inf n => if n then lo else hi
  | .fin n m e =>
    let x : Int := if n then -(r m e : Int) else r m e
    if x < lo then lo else if x > hi then hi else x

/-! ### The narrow formats (R75 to R78) -/

/-- E4M3K and E5M2K: fraction bits and the exponent of the last place of the subnormals. -/
def e4m3kVal (c : Nat) : Val := finVal 3 (-9) (c / 128 % 2 == 1) (c % 128)
def e5m2kVal (c : Nat) : Val := finVal 2 (-16) (c / 128 % 2 == 1) (c % 128)
/-- INT8 (R76). -/
def int8Val (c : Nat) : Val := ofInt ((BitVec.ofNat 8 c).toInt)

/-- narrow_rne into an 8-bit floating-point format (R77). -/
def narrowF (fbits : Nat) (qmin : Int) (v : Val) : Nat :=
  match v with
  | .nan => 0
  | .inf n => b2n n * 128 + 127
  | .fin n m e =>
    let c := roundCode fbits qmin m e
    b2n n * 128 + (if c > 127 then 127 else c)

def toE4m3k (v : Val) : Nat := narrowF 3 (-9) v
def toE5m2k (v : Val) : Nat := narrowF 2 (-16) v
/-- narrow_rne into INT8 (R76, R77). -/
def toInt8 (v : Val) : Nat := (BitVec.ofInt 8 (v.toInt roundNat (-128) 127)).toNat

/-- k_n of the Q4N codebook (R78). -/
def q4nLevels : List Int := [-64, -46, -34, -25, -18, -12, -6, 0, 5, 10, 16, 22, 29, 37, 47, 64]
def q4nVal (n : Nat) : Val := match q4nLevels.getD (n % 16) 0 with
  | k => .fin (decide (k < 0)) k.natAbs (-6)

/-- The code of the nearest level, a tie to the level nearer zero (R96). The value is clamped to [−1, 1]. -/
def toQ4n (v : Val) : Nat :=
  match v with
  | .nan => 7
  | .inf n => if n then 0 else 15
  | .fin n m e =>
    -- distances on the exact value: |t − k/64| compared as signed numbers over a common exponent
    let q : Int := if e < -6 then e else -6
    let t := signedAt n m e q
    let lv := fun k : Int => k * 2 ^ (-6 - q).toNat
    (((List.range 16).foldl (fun (b : Nat × Int) i =>
      let k := q4nLevels.getD i 0
      let d : Int := ((t - lv k).natAbs : Int)
      let best := q4nLevels.getD b.1 0
      if d < b.2 || (d == b.2 && decide (k.natAbs < best.natAbs)) then (i, d) else b) (7, ((t).natAbs : Int)))).1

end Sys2Proof.Machine
end

