-- ==== Sys2Proof/Machine/Scratch.lean ====
section
/-! DEFINITION. The scratchpad accesses: group 0x7 (R66 to R68, R176, R192). An access to the team's own scratchpad takes
effect there at its issue; one to another team's is an LS-path access. -/

namespace Sys2Proof.Machine

/-! ### Bytes of a scratchpad -/

def Share.bytes (h : Share) (off n : Nat) : List Byte := (List.range n).map fun i => AMap.getD h.scratch (off + i) 0

def Share.setBytes (h : Share) (off : Nat) (bs : List Byte) : Share :=
  { h with scratch := (bs.zipIdx).foldl (fun m e => AMap.set 0 m (off + e.2) e.1) h.scratch }

/-- The number of a group's share. -/
def State.shareKey (s : State) (g : Nat) : Nat :=
  match s.group? g with
  | some G => match s.team? G.team with
    | some t => t.share
    | none => 0
  | none => 0

/-! ### The team's own scratchpad (R67) -/

/-- The checks of R67, in order. -/
def scratchFault (size n : Nat) (off : Word) (k : Kind) : Option Rec :=
  if off.toNat % n != 0 then some { cause := .misaligned, kind := k, addr := off.setWidth 64 }
  else if off.toNat + n > size then some { cause := .translation, sub := 4, kind := k, addr := off.setWidth 64 }
  else none

/-- The offsets of an issue's lanes. -/
def State.offs (s : State) (x : At) (a : Reg) (disp : Word) : Nat → Word :=
  match s.group? x.g with
  | some G => fun l => G.off l a disp
  | none => fun _ => 0

/-- The data registers of an issue's lanes. -/
def State.datas (s : State) (x : At) (b : Reg) (w n : Nat) : Nat → List Byte :=
  match s.group? x.g with
  | some G => fun l => (G.data l b w).take n
  | none => fun _ => []

/-- LDS: an outstanding result whose value was read at the issue; a helper lane that fails a check gets zero (R98). -/
def State.scratchLoad (s : State) (x : At) (d : Reg) (w n : Nat) (ext : Ext) (off : Nat → Word) : State :=
  let h := s.share (s.shareKey x.g)
  let bad := fun l => scratchFault h.size n (off l) .spRead
  let fail := maskOf fun l => inMask x.N l && (bad l).isSome
  let x' := { x with T := x.T &&& ~~~fail, N := x.N &&& ~~~fail }
  let s := s.addPend x' .value { reg := some (.inl d), w } (pendLanes d x' fun l =>
    .back (if (bad l).isSome then List.replicate w 0 else loadWords ext (h.bytes (off l).toNat n)))
  s.raiseAll x fail bad

/-- STS: the highest lane supplies a byte; helper lanes store nothing. -/
def State.scratchStore (s : State) (x : At) (n : Nat) (off : Nat → Word) (data : Nat → List Byte) : State :=
  let k := s.shareKey x.g
  let bad := fun l => scratchFault (s.share k).size n (off l) .spWrite
  let fail := maskOf fun l => inMask x.N l && (bad l).isSome
  let s := (lanesOf (x.N &&& ~~~fail)).foldl (fun s l => s.updShare k fun h => h.setBytes (off l).toNat (data l)) s
  s.raiseAll x fail bad

/-- A scratchpad atomic (R192): lanes in ascending order; a helper lane changes nothing and receives 0. -/
def State.scratchAtomic (s : State) (x : At) (d : VReg) (off : Nat → Word) (f : Nat → Word → Word) : State :=
  let k := s.shareKey x.g
  let bad := fun l => scratchFault (s.share k).size 4 (off l) .spWrite
  let fail := maskOf fun l => inMask x.N l && (bad l).isSome
  let (h, old) := (lanesOf (x.N &&& ~~~fail)).foldl (fun (r : Share × AMap PLane) l =>
    let v := leWord (r.1.bytes (off l).toNat 4)
    (r.1.setBytes (off l).toNat (leBytes 4 (f l v).toNat), AMap.put r.2 l (.back [v]))) (s.share k, [])
  let lanes := (lanesOf (x.T &&& ~~~x.N)).foldl (fun m l => AMap.put m l (.back [0])) old
  let s := s.updShare k fun _ => h
  let s := s.addPend x .value { reg := some (.inl (.v d)), w := 1 } lanes
  s.raiseAll x fail bad

/-! ### Scratchpads of the cluster (R68) -/

/-- The share that a cluster scratchpad address names, with the offset; `none` where no such bytes are. -/
def State.clusterScratch (s : State) (g : Nat) (a : Word) : Option (Nat × Nat) :=
  match s.group? g with
  | none => none
  | some G =>
    match s.team? G.team with
    | none => none
    | some t =>
      let off := bitsAt a 0 20
      match AMap.get? s.units t.unit with
      | none => none
      | some u =>
        match u.teams[bitsAt a 20 2]? with
        | none => none
        | some k =>
          match s.team? k with
          | none => if u.kind == .gang && bitsAt a 22 10 == 0 && off + 4 ≤ (s.share t.share).size then some (t.share, off) else none
          | some o =>
            let gone := u.kind != .gang && o.fin.all id
            if bitsAt a 22 10 != 0 || gone || off + 4 > (s.share o.share).size then none else some (o.share, off)

/-- The checks of R68, in order. -/
def State.clusterFault (s : State) (g : Nat) (a : Word) (k : Kind) : Option Rec :=
  if a.toNat % 4 != 0 then some { cause := .misaligned, kind := k, addr := a.setWidth 64 }
  else if (s.clusterScratch g a).isNone then some { cause := .translation, sub := 4, kind := k, addr := a.setWidth 64 }
  else none

/-- LDSH: the team's own scratchpad as LDS32, another's when its result returns. -/
def State.clusterLoad (s : State) (x : At) (d : Reg) (off : Nat → Word) : State :=
  let own := s.shareKey x.g
  let bad := fun l => s.clusterFault x.g (off l) .spRead
  let fail := maskOf fun l => inMask x.N l && (bad l).isSome
  let x' := { x with T := x.T &&& ~~~fail, N := x.N &&& ~~~fail }
  let s' := s.addPend x' .ldsh { reg := some (.inl d), w := 1 } (pendLanes d x' fun l =>
    match s.clusterScratch x.g (off l) with
    | some (k, o) =>
      if (bad l).isSome then .back [0]
      else if k = own then .back (loadWords .zero ((s.share k).bytes o 4))
      else .waiting (BitVec.ofNat 64 (k * 2 ^ 32 + o))
    | none => .back [0])
  s'.raiseAll x fail bad

/-- Lanes that store to words of other teams' scratchpads: share, offset, lanes and data of each word, to which the highest lane's data
go; the list of lanes comes lowest first. -/
def mergeWords (ws : List (Nat × Nat × Nat × List Byte)) : List (Nat × Nat × Word × List Byte) :=
  ws.foldl (fun acc w =>
    let same := fun (a : Nat × Nat × Word × List Byte) => a.1 == w.2.1 && a.2.1 == w.2.2.1
    let m := (acc.filter same).foldl (fun (m : Word) a => m ||| a.2.2.1) (1 <<< w.1)
    acc.filter (fun a => !same a) ++ [(w.2.1, w.2.2.1, m, w.2.2.2)]) []

/-- STSH: the team's own scratchpad as STS32, another's through the store queues, one entry for a word. -/
def State.clusterStore (s : State) (x : At) (off : Nat → Word) (data : Nat → List Byte) : State :=
  let own := s.shareKey x.g
  let bad := fun l => s.clusterFault x.g (off l) .spWrite
  let fail := maskOf fun l => inMask x.N l && (bad l).isSome
  let ctx := match s.group? x.g with
    | some G => G.ctx
    | none => 0
  let at' := (lanesOf (x.N &&& ~~~fail)).filterMap fun l => (s.clusterScratch x.g (off l)).map fun a => (l, a.1, a.2, data l)
  let here := at'.filter fun a => a.2.1 == own
  let there := mergeWords (at'.filter fun a => a.2.1 != own)
  let s := here.foldl (fun s a => s.updShare own fun h => h.setBytes a.2.2.1 a.2.2.2) s
  let s := there.foldl (fun s w =>
    s.push { g := x.g, lane := (lowest w.2.2.1).getD 0, seq := x.seq, pc := x.pc, ctx, rel := false
             kind := .stsh w.1 w.2.1 w.2.2.2 w.2.2.1 }) s
  s.raiseAll x fail bad

/-! ### The instructions -/

/-- A scratchpad load of `n` bytes into `w` registers. -/
def ldsOp (s : State) (h : Hdr) (d a : Reg) (disp : Word) (w n : Nat) (ext : Ext) : Host.Outcome State Fault Refusal :=
  issue s h .core [(d, w), (a, 1)] noHandles fun s x => s.scratchLoad x d w n ext (s.offs x a disp)

/-- A scratchpad store of the low `n` bytes of `w` registers. -/
def stsOp (s : State) (h : Hdr) (a b : Reg) (disp : Word) (w n : Nat) : Host.Outcome State Fault Refusal :=
  issue s h .core [(a, 1), (b, w)] noHandles fun s x => s.scratchStore x n (s.offs x a disp) (s.datas x b w n)

/-- A scratchpad atomic: the new value from a lane's source, the old value and D's value. -/
def saOp (s : State) (h : Hdr) (d : VReg) (a b : Reg) (disp : Word) (f : Word → Word → Word → Word) :
    Host.Outcome State Fault Refusal :=
  issue s h .core [(.v d, 1), (a, 1), (b, 1)] noHandles fun s x =>
    match s.group? x.g with
    | none => s
    | some G => s.scratchAtomic x d (s.offs x a disp) fun l old => f (G.reg l b 0) old ((G.lane l).vreg d.val)

/-- LDS8U (R66). -/
def execLds8u (h : Hdr) (d a : Reg) (disp : Word) (s : State) : Host.Outcome State Fault Refusal := ldsOp s h d a disp 1 1 .zero
/-- LDS8S (R66). -/
def execLds8s (h : Hdr) (d a : Reg) (disp : Word) (s : State) : Host.Outcome State Fault Refusal := ldsOp s h d a disp 1 1 .sign
/-- LDS16U (R66). -/
def execLds16u (h : Hdr) (d a : Reg) (disp : Word) (s : State) : Host.Outcome State Fault Refusal := ldsOp s h d a disp 1 2 .zero
/-- LDS16S (R66). -/
def execLds16s (h : Hdr) (d a : Reg) (disp : Word) (s : State) : Host.Outcome State Fault Refusal := ldsOp s h d a disp 1 2 .sign
/-- LDS32 (R66). -/
def execLds32 (h : Hdr) (d a : Reg) (disp : Word) (s : State) : Host.Outcome State Fault Refusal := ldsOp s h d a disp 1 4 .zero
/-- LDS64 (R66). -/
def execLds64 (h : Hdr) (d a : Reg) (disp : Word) (s : State) : Host.Outcome State Fault Refusal := ldsOp s h d a disp 2 8 .zero
/-- LDS128 (R66). -/
def execLds128 (h : Hdr) (d a : Reg) (disp : Word) (s : State) : Host.Outcome State Fault Refusal := ldsOp s h d a disp 4 16 .zero
/-- STS8 (R66). -/
def execSts8 (h : Hdr) (a b : Reg) (disp : Word) (s : State) : Host.Outcome State Fault Refusal := stsOp s h a b disp 1 1
/-- STS16 (R66). -/
def execSts16 (h : Hdr) (a b : Reg) (disp : Word) (s : State) : Host.Outcome State Fault Refusal := stsOp s h a b disp 1 2
/-- STS32 (R66). -/
def execSts32 (h : Hdr) (a b : Reg) (disp : Word) (s : State) : Host.Outcome State Fault Refusal := stsOp s h a b disp 1 4
/-- STS64 (R66). -/
def execSts64 (h : Hdr) (a b : Reg) (disp : Word) (s : State) : Host.Outcome State Fault Refusal := stsOp s h a b disp 2 8
/-- STS128 (R66). -/
def execSts128 (h : Hdr) (a b : Reg) (disp : Word) (s : State) : Host.Outcome State Fault Refusal := stsOp s h a b disp 4 16

/-- LDSH (R68). -/
def execLdsh (h : Hdr) (d a : Reg) (disp : Word) (s : State) : Host.Outcome State Fault Refusal :=
  issue s h .core [(d, 1), (a, 1)] noHandles fun s x => s.clusterLoad x d (s.offs x a disp)
/-- STSH (R68). -/
def execStsh (h : Hdr) (a b : Reg) (disp : Word) (s : State) : Host.Outcome State Fault Refusal :=
  issue s h .core [(a, 1), (b, 1)] noHandles fun s x => s.clusterStore x (s.offs x a disp) (s.datas x b 1 4)

/-- SAADD (R192). -/
def execSaadd (h : Hdr) (d : VReg) (a b : Reg) (disp : Word) (s : State) : Host.Outcome State Fault Refusal :=
  saOp s h d a b disp fun b old _ => old + b
/-- SACAS (R192). -/
def execSacas (h : Hdr) (d : VReg) (a b : Reg) (disp : Word) (s : State) : Host.Outcome State Fault Refusal :=
  saOp s h d a b disp fun b old e => if old = e then b else old
/-- SAFADD (R192). -/
def execSafadd (h : Hdr) (d : VReg) (a b : Reg) (disp : Word) (s : State) : Host.Outcome State Fault Refusal :=
  saOp s h d a b disp fun b old _ => addF old b

end Sys2Proof.Machine
end

