-- ==== Sys2Proof/Machine/Global.lean ====
section
/-! DEFINITION. The global loads and stores, gathers and scatters, prefetch and discard, and PUTS: group 0x8 (R69 to R72,
R184 to R187, R341). -/

namespace Sys2Proof.Machine

/-! ### Shapes -/

/-- The addresses of an issue's lanes. -/
def State.addrs (s : State) (x : At) (a : Reg) (disp : Word) : Nat → DWord :=
  match s.group? x.g with
  | some G => fun l => G.addr l a disp
  | none => fun _ => 0

/-- A global load of `n` bytes into `w` registers. -/
def ldOp (s : State) (h : Hdr) (d a : Reg) (disp : Word) (w n : Nat) (kind : PKind) : Host.Outcome State Fault Refusal :=
  issue s h .core [(d, w), (a, 2)] noHandles fun s x => s.loadOp x d w n kind (s.addrs x a disp)

/-- A global store of the low `n` bytes of `w` registers. -/
def stOp (s : State) (h : Hdr) (a b : Reg) (disp : Word) (w n : Nat) (rel scat : Bool) : Host.Outcome State Fault Refusal :=
  issue s h .core [(a, 2), (b, w)] noHandles fun s x => s.storeOp x n rel scat (s.addrs x a disp) (s.datas x b w n)

/-- A gather (R185): every lane waits for its own data and goes on at pc + 12 when it arrives; under a switch marker the
lanes park for all of it. -/
def State.gatherOp (s : State) (x : At) (d : VReg) (w n : Nat) (va : Nat → DWord) : State :=
  let bad := fun l => addrFault (va l) n .read
  let fail := maskOf fun l => inMask x.N l && (bad l).isSome
  if fail != 0 then s.divergentFault x fail bad
  else
    let s := s.addPend x (.gath n) { reg := some (.inl (.v d)), w } ((lanesOf x.T).map fun l =>
      (l, if (bad l).isSome then .back (List.replicate w 0) else .waiting (va l)))
    if x.h.mark then s else s.waitLanes x x.T fun _ => .gath x.seq

/-- LDLU32 (R186): the checks of a lane are made before its next instruction; then the word is read and its line
discarded. A helper lane only reads. DESIGN CHOICE (log 39): the read is served at the home. The result is outstanding from the issue on, also in lanes that wait for service: its
supplier is fixed then (R12). -/
def State.ldluOp (s : State) (x : At) (d : Reg) (va : Nat → DWord) : State :=
  let bad := fun l => addrFault (va l) 4 .readWrite
  let fail := maskOf fun l => inMask x.N l && (bad l).isSome
  let dest : Dest := { reg := some (.inl d), w := 1 }
  let x' := { x with T := x.T &&& ~~~fail, N := x.N &&& ~~~fail }
  let s := s.addPend x' (.load 4 .zero false true) dest (pendLanes d x' fun l =>
    if inMask x.N l then .faulted (va l) else if (bad l).isSome then .back [0] else .waiting (va l))
  let (s, direct) := s.accessLanes x 4 va (fun _ => .ldlu x.seq dest) (lanesOf x'.N)
  let s := s.updGroup x.g fun G => direct.foldl (fun G e => G.dropLane x.seq e.1) G
  s.raiseBoth x fail bad direct

/-- DISC (R186, R187): checked as a store; a helper lane's discard is suppressed. -/
def State.discOp (s : State) (x : At) (va : Nat → DWord) : State :=
  let bad := fun l => addrFault (va l) 64 .write
  let fail := maskOf fun l => inMask x.N l && (bad l).isSome
  let (s, direct) := s.accessLanes x 64 va (fun _ => .disc) (lanesOf (x.N &&& ~~~fail))
  s.raiseBoth x fail bad direct

/-- PREF in one lane (R186): the line is brought into its slice and the core's L1; a prefetch that would fault does
nothing, and so does one that would have to wait (log 17). -/
def State.prefLane (s : State) (x : At) (va : DWord) : State :=
  match s.group? x.g with
  | none => s
  | some G =>
    match s.translate (via x.g G) va .read (some G.pkr) with
    | (_, .error _) => s
    | (s, .ok pa) =>
      let line := pa / 64 * 64
      if region line == .regs || s.holds [line] then s else (s.fill line).l1Fill (coreOf x.g) line []

/-! ### PUTS (R341) -/

/-- The package that a physical address, as its leaf gives it, belongs to: `none` matches nothing. -/
def State.pkg (s : State) (pa : Nat) : Option (Option Nat) :=
  match region pa with
  | .hbm | .tier2 => some none
  | .fabric => (s.aperture pa).map fun d => some d.1
  | _ => none

/-- The checks of one lane: the targets of its payload and its signal, whether they travel over the fabric, or the fault. -/
def State.putsCheck (s : State) (v : Via) (va sig : DWord) (pkr : DWord) :
    State × Except (XFault × DWord) (Nat × Nat × Bool) :=
  match s.translateRaw v va .write (some pkr) with
  | (s, .error e) => (s, .error (e, va))
  | (s, .ok pa) =>
    match s.translateRaw v sig .write (some pkr) with
    | (s, .error e) => (s, .error (e, sig))
    | (s, .ok ps) =>
      let bad : XFault := { cause := .translation, sub := 3 }
      match s.pkg pa, s.pkg ps, s.target pa, s.target ps with
      | some a, some b, some ta, some ts => (s, if a = b then .ok (ta, ts, a.isSome) else .error (bad, va))
      | _, _, _, _ => (s, .error (bad, va))

/-- What a lane of a PUTS sends: its address, its data and the signal, as they were at issue (R22), and the PKR then (R303). -/
structure PutsArg where
  va : DWord
  data : List Byte
  sig : DWord
  pkr : DWord

/-- The lanes of a PUTS that pass, with the places of their payload and signal. -/
def State.putsLanes (s : State) (x : At) (a : Nat → PutsArg) : List Nat → State × List (Nat × Nat × Nat × Bool) × AMap Rec
  | [] => (s, [], [])
  | l :: ls =>
    match s.group? x.g with
    | none => (s, [], [])
    | some G =>
      let q := a l
      match s.putsCheck (via x.g G) q.va q.sig q.pkr with
      | (s, .ok (pa, ps, f)) =>
        let (s, ok, rs) := s.putsLanes x a ls
        (s, (l, pa, ps, f) :: ok, rs)
      | (s, .error (e, at')) =>
        let r : Rec := { accRec e .write at' with resume := x.pc, fpc := x.pc }
        if e.serviced then (s.laneFault x.g l x.pc at' e .write (.putsAddr q.va q.data q.sig) q.pkr (some r)).putsLanes x a ls
        else
          let (s, ok, rs) := s.putsLanes x a ls
          (s, ok, (l, r) :: rs)

/-- PUTS: lanes that fail a check trap or wait for service. Nothing is sent while one waits: the others wait at the
instruction with their data (R285, R308). -/
def State.putsOp (s : State) (x : At) (a : Nat → PutsArg) : State :=
  let bad := fun l =>
    if (a l).va.toNat % 8 != 0 then some (accRec { cause := .misaligned } .write (a l).va)
    else if (a l).sig.toNat % 8 != 0 then some (accRec { cause := .misaligned } .write (a l).sig)
    else none
  let fail := maskOf fun l => inMask x.N l && (bad l).isSome
  let (s, ok, direct) := s.putsLanes x a (lanesOf (x.N &&& ~~~fail))
  let waits := (lanesOf x.N).any fun l => match (s.lane x.g l).wait with
    | .fault _ (.putsAddr _ _ _) _ _ => true
    | _ => false
  let m := maskOf fun l => ok.any fun e => e.1 == l
  let s :=
    if waits then (lanesOf m).foldl (fun s l => s.again x (1 <<< l) (.puts (a l).va (a l).data (a l).sig (a l).pkr)) s
    else match ok with
      | [] => s
      | (l, _, ps, f) :: _ =>
        let ctx := match s.group? x.g with
          | some G => G.ctx
          | none => 0
        s.push { g := x.g, lane := l, seq := x.seq, pc := x.pc, ctx, rel := false, kind := .puts (ok.map fun e => (e.2.1, (a e.1).data)) ps ok.length f m }
  s.raiseBoth x fail bad direct

/-! ### The instructions -/

/-- LD8U (R69, R70). -/
def execLd8u (h : Hdr) (d a : Reg) (disp : Word) (s : State) : Host.Outcome State Fault Refusal :=
  ldOp s h d a disp 1 1 (.load 1 .zero false false)
/-- LD8S (R69, R70). -/
def execLd8s (h : Hdr) (d a : Reg) (disp : Word) (s : State) : Host.Outcome State Fault Refusal :=
  ldOp s h d a disp 1 1 (.load 1 .sign false false)
/-- LD16U (R69, R70). -/
def execLd16u (h : Hdr) (d a : Reg) (disp : Word) (s : State) : Host.Outcome State Fault Refusal :=
  ldOp s h d a disp 1 2 (.load 2 .zero false false)
/-- LD16S (R69, R70). -/
def execLd16s (h : Hdr) (d a : Reg) (disp : Word) (s : State) : Host.Outcome State Fault Refusal :=
  ldOp s h d a disp 1 2 (.load 2 .sign false false)
/-- LD32 (R69, R70). -/
def execLd32 (h : Hdr) (d a : Reg) (disp : Word) (s : State) : Host.Outcome State Fault Refusal :=
  ldOp s h d a disp 1 4 (.load 4 .zero false false)
/-- LD64 (R69, R70). -/
def execLd64 (h : Hdr) (d a : Reg) (disp : Word) (s : State) : Host.Outcome State Fault Refusal :=
  ldOp s h d a disp 2 8 (.load 8 .zero false false)
/-- LD128 (R69, R70). -/
def execLd128 (h : Hdr) (d a : Reg) (disp : Word) (s : State) : Host.Outcome State Fault Refusal :=
  ldOp s h d a disp 4 16 (.load 16 .zero false false)
/-- ST8 (R69, R71). -/
def execSt8 (h : Hdr) (a b : Reg) (disp : Word) (s : State) : Host.Outcome State Fault Refusal := stOp s h a b disp 1 1 false false
/-- ST16 (R69, R71). -/
def execSt16 (h : Hdr) (a b : Reg) (disp : Word) (s : State) : Host.Outcome State Fault Refusal := stOp s h a b disp 1 2 false false
/-- ST32 (R69, R71). -/
def execSt32 (h : Hdr) (a b : Reg) (disp : Word) (s : State) : Host.Outcome State Fault Refusal := stOp s h a b disp 1 4 false false
/-- ST64 (R69, R71). -/
def execSt64 (h : Hdr) (a b : Reg) (disp : Word) (s : State) : Host.Outcome State Fault Refusal := stOp s h a b disp 2 8 false false
/-- ST128 (R69, R71). -/
def execSt128 (h : Hdr) (a b : Reg) (disp : Word) (s : State) : Host.Outcome State Fault Refusal := stOp s h a b disp 4 16 false false
/-- LDACQ32 (R184). -/
def execLdacq32 (h : Hdr) (d a : Reg) (disp : Word) (s : State) : Host.Outcome State Fault Refusal :=
  ldOp s h d a disp 1 4 (.load 4 .zero true true)
/-- LDACQ64 (R184). -/
def execLdacq64 (h : Hdr) (d a : Reg) (disp : Word) (s : State) : Host.Outcome State Fault Refusal :=
  ldOp s h d a disp 2 8 (.load 8 .zero true true)
/-- STREL32 (R184). -/
def execStrel32 (h : Hdr) (a b : Reg) (disp : Word) (s : State) : Host.Outcome State Fault Refusal := stOp s h a b disp 1 4 true false
/-- STREL64 (R184). -/
def execStrel64 (h : Hdr) (a b : Reg) (disp : Word) (s : State) : Host.Outcome State Fault Refusal := stOp s h a b disp 2 8 true false
/-- GATH32 (R185). -/
def execGath32 (h : Hdr) (d : VReg) (a : Reg) (disp : Word) (s : State) : Host.Outcome State Fault Refusal :=
  issue s h .core [(.v d, 1), (a, 2)] noHandles fun s x => s.gatherOp x d 1 4 (s.addrs x a disp)
/-- GATH64 (R185). -/
def execGath64 (h : Hdr) (d : VReg) (a : Reg) (disp : Word) (s : State) : Host.Outcome State Fault Refusal :=
  issue s h .core [(.v d, 2), (a, 2)] noHandles fun s x => s.gatherOp x d 2 8 (s.addrs x a disp)
/-- SCAT32 (R185). -/
def execScat32 (h : Hdr) (a b : Reg) (disp : Word) (s : State) : Host.Outcome State Fault Refusal := stOp s h a b disp 1 4 false true
/-- SCAT64 (R185). -/
def execScat64 (h : Hdr) (a b : Reg) (disp : Word) (s : State) : Host.Outcome State Fault Refusal := stOp s h a b disp 2 8 false true
/-- PREF (R186). -/
def execPref (h : Hdr) (a : Reg) (disp : Word) (s : State) : Host.Outcome State Fault Refusal :=
  issue s h .core [(a, 2)] noHandles fun s x =>
    let va := s.addrs x a disp
    (lanesOf x.T).foldl (fun s l => s.prefLane x (va l)) s
/-- LDLU32 (R186). -/
def execLdlu32 (h : Hdr) (d a : Reg) (disp : Word) (s : State) : Host.Outcome State Fault Refusal :=
  issue s h .core [(d, 1), (a, 2)] noHandles fun s x => s.ldluOp x d (s.addrs x a disp)
/-- DISC (R186, R187). -/
def execDisc (h : Hdr) (a : Reg) (disp : Word) (s : State) : Host.Outcome State Fault Refusal :=
  issue s h .core [(a, 2)] noHandles fun s x => s.discOp x (s.addrs x a disp)
/-- The operands of a lane of a PUTS: those of its issue, also when it waited. -/
def State.putsArg (s s0 : State) (x : At) (a b : Reg) (sc : SReg) (l : Nat) : PutsArg :=
  match (s0.lane x.g l).wait with
  | .again (.puts va data sig pkr) => { va, data, sig, pkr }
  | _ =>
    let (sig, pkr) := match s.group? x.g with
      | some G => (G.sreg64 sc.val, G.pkr)
      | none => (0, 0)
    { va := s.addrs x a 0 l, data := s.datas x b 2 8 l, sig, pkr }

/-- PUTS (R341). -/
def execPuts (h : Hdr) (a b : Reg) (sc : SReg) (s0 : State) : Host.Outcome State Fault Refusal :=
  issue s0 h .core [(a, 2), (b, 2), (.s sc, 2)] noHandles fun s x => s.putsOp x (s.putsArg s0 x a b sc)

end Sys2Proof.Machine
end

