-- ==== Sys2Proof/Machine/Atomics.lean ====
section
/-! DEFINITION. The atomics and the quay requests of the cores, and the instructions of the methods: group 0x9 (R188 to
R191, R197, R204). -/

namespace Sys2Proof.Machine

/-! ### Atomics -/

/-- The width of an atomic in bytes (R188). -/
def AtOp.width : AtOp → Nat
  | .faddb | .fminb | .fmaxb => 2
  | .add64 | .xch64 | .cas64 | .faddd | .fmind | .fmaxd | .faddf2 => 8
  | .cas128 => 16
  | _ => 4

/-- The registers of an operand of that width. -/
def AtOp.regs (o : AtOp) : Nat := max 1 (o.width / 4)

/-- A returning atomic (R188, R189): D supplies the expected value of a compare-and-swap. -/
def atOp (s : State) (h : Hdr) (o : AtOp) (d : VReg) (a b : Reg) (disp : Word) : Host.Outcome State Fault Refusal :=
  issue s h .core [(.v d, o.regs), (a, 2), (b, o.regs)] noHandles fun s x =>
    s.atomicOp x o o.width (some (d, o.regs)) (s.addrs x a disp) (s.datas x b o.regs o.width)
      (s.datas x (.v d) o.regs o.width)

/-- A no-return atomic. -/
def natOp (s : State) (h : Hdr) (o : AtOp) (a b : Reg) (disp : Word) : Host.Outcome State Fault Refusal :=
  issue s h .core [(a, 2), (b, o.regs)] noHandles fun s x =>
    s.atomicOp x o o.width none (s.addrs x a disp) (s.datas x b o.regs o.width) fun _ => []

/-- AADD32 (R188). -/
def execAadd32 (h : Hdr) (d : VReg) (a b : Reg) (disp : Word) (s : State) : Host.Outcome State Fault Refusal :=
  atOp s h .add32 d a b disp
/-- AADD64 (R188). -/
def execAadd64 (h : Hdr) (d : VReg) (a b : Reg) (disp : Word) (s : State) : Host.Outcome State Fault Refusal :=
  atOp s h .add64 d a b disp
/-- AMINS32 (R188). -/
def execAmins32 (h : Hdr) (d : VReg) (a b : Reg) (disp : Word) (s : State) : Host.Outcome State Fault Refusal :=
  atOp s h .mins32 d a b disp
/-- AMAXS32 (R188). -/
def execAmaxs32 (h : Hdr) (d : VReg) (a b : Reg) (disp : Word) (s : State) : Host.Outcome State Fault Refusal :=
  atOp s h .maxs32 d a b disp
/-- AMINU32 (R188). -/
def execAminu32 (h : Hdr) (d : VReg) (a b : Reg) (disp : Word) (s : State) : Host.Outcome State Fault Refusal :=
  atOp s h .minu32 d a b disp
/-- AMAXU32 (R188). -/
def execAmaxu32 (h : Hdr) (d : VReg) (a b : Reg) (disp : Word) (s : State) : Host.Outcome State Fault Refusal :=
  atOp s h .maxu32 d a b disp
/-- AAND32 (R188). -/
def execAand32 (h : Hdr) (d : VReg) (a b : Reg) (disp : Word) (s : State) : Host.Outcome State Fault Refusal :=
  atOp s h .and32 d a b disp
/-- AOR32 (R188). -/
def execAor32 (h : Hdr) (d : VReg) (a b : Reg) (disp : Word) (s : State) : Host.Outcome State Fault Refusal :=
  atOp s h .or32 d a b disp
/-- AXOR32 (R188). -/
def execAxor32 (h : Hdr) (d : VReg) (a b : Reg) (disp : Word) (s : State) : Host.Outcome State Fault Refusal :=
  atOp s h .xor32 d a b disp
/-- AXCH32 (R188). -/
def execAxch32 (h : Hdr) (d : VReg) (a b : Reg) (disp : Word) (s : State) : Host.Outcome State Fault Refusal :=
  atOp s h .xch32 d a b disp
/-- AXCH64 (R188). -/
def execAxch64 (h : Hdr) (d : VReg) (a b : Reg) (disp : Word) (s : State) : Host.Outcome State Fault Refusal :=
  atOp s h .xch64 d a b disp
/-- ACAS32 (R188). -/
def execAcas32 (h : Hdr) (d : VReg) (a b : Reg) (disp : Word) (s : State) : Host.Outcome State Fault Refusal :=
  atOp s h .cas32 d a b disp
/-- ACAS64 (R188). -/
def execAcas64 (h : Hdr) (d : VReg) (a b : Reg) (disp : Word) (s : State) : Host.Outcome State Fault Refusal :=
  atOp s h .cas64 d a b disp
/-- ACAS128 (R188). -/
def execAcas128 (h : Hdr) (d : VReg) (a b : Reg) (disp : Word) (s : State) : Host.Outcome State Fault Refusal :=
  atOp s h .cas128 d a b disp
/-- AFADDB (R188). -/
def execAfaddb (h : Hdr) (d : VReg) (a b : Reg) (disp : Word) (s : State) : Host.Outcome State Fault Refusal :=
  atOp s h .faddb d a b disp
/-- AFADDF (R188). -/
def execAfaddf (h : Hdr) (d : VReg) (a b : Reg) (disp : Word) (s : State) : Host.Outcome State Fault Refusal :=
  atOp s h .faddf d a b disp
/-- AFADDD (R188). -/
def execAfaddd (h : Hdr) (d : VReg) (a b : Reg) (disp : Word) (s : State) : Host.Outcome State Fault Refusal :=
  atOp s h .faddd d a b disp
/-- AFMINB (R188). -/
def execAfminb (h : Hdr) (d : VReg) (a b : Reg) (disp : Word) (s : State) : Host.Outcome State Fault Refusal :=
  atOp s h .fminb d a b disp
/-- AFMAXB (R188). -/
def execAfmaxb (h : Hdr) (d : VReg) (a b : Reg) (disp : Word) (s : State) : Host.Outcome State Fault Refusal :=
  atOp s h .fmaxb d a b disp
/-- AFMINF (R188). -/
def execAfminf (h : Hdr) (d : VReg) (a b : Reg) (disp : Word) (s : State) : Host.Outcome State Fault Refusal :=
  atOp s h .fminf d a b disp
/-- AFMAXF (R188). -/
def execAfmaxf (h : Hdr) (d : VReg) (a b : Reg) (disp : Word) (s : State) : Host.Outcome State Fault Refusal :=
  atOp s h .fmaxf d a b disp
/-- AFMIND (R188). -/
def execAfmind (h : Hdr) (d : VReg) (a b : Reg) (disp : Word) (s : State) : Host.Outcome State Fault Refusal :=
  atOp s h .fmind d a b disp
/-- AFMAXD (R188). -/
def execAfmaxd (h : Hdr) (d : VReg) (a b : Reg) (disp : Word) (s : State) : Host.Outcome State Fault Refusal :=
  atOp s h .fmaxd d a b disp
/-- AFADDB2 (R188). -/
def execAfaddb2 (h : Hdr) (d : VReg) (a b : Reg) (disp : Word) (s : State) : Host.Outcome State Fault Refusal :=
  atOp s h .faddb2 d a b disp
/-- AFADDF2 (R188). -/
def execAfaddf2 (h : Hdr) (d : VReg) (a b : Reg) (disp : Word) (s : State) : Host.Outcome State Fault Refusal :=
  atOp s h .faddf2 d a b disp
/-- NADD32 (R188). -/
def execNadd32 (h : Hdr) (a b : Reg) (disp : Word) (s : State) : Host.Outcome State Fault Refusal := natOp s h .add32 a b disp
/-- NADD64 (R188). -/
def execNadd64 (h : Hdr) (a b : Reg) (disp : Word) (s : State) : Host.Outcome State Fault Refusal := natOp s h .add64 a b disp
/-- NFADDB (R188). -/
def execNfaddb (h : Hdr) (a b : Reg) (disp : Word) (s : State) : Host.Outcome State Fault Refusal := natOp s h .faddb a b disp
/-- NFADDF (R188). -/
def execNfaddf (h : Hdr) (a b : Reg) (disp : Word) (s : State) : Host.Outcome State Fault Refusal := natOp s h .faddf a b disp
/-- NFADDD (R188). -/
def execNfaddd (h : Hdr) (a b : Reg) (disp : Word) (s : State) : Host.Outcome State Fault Refusal := natOp s h .faddd a b disp
/-- NFADDB2 (R188). -/
def execNfaddb2 (h : Hdr) (a b : Reg) (disp : Word) (s : State) : Host.Outcome State Fault Refusal := natOp s h .faddb2 a b disp
/-- NFADDF2 (R188). -/
def execNfaddf2 (h : Hdr) (a b : Reg) (disp : Word) (s : State) : Host.Outcome State Fault Refusal := natOp s h .faddf2 a b disp
/-- NFMINF (R188). -/
def execNfminf (h : Hdr) (a b : Reg) (disp : Word) (s : State) : Host.Outcome State Fault Refusal := natOp s h .fminf a b disp
/-- NFMAXF (R188). -/
def execNfmaxf (h : Hdr) (a b : Reg) (disp : Word) (s : State) : Host.Outcome State Fault Refusal := natOp s h .fmaxf a b disp
/-- NOR32 (R188). -/
def execNor32 (h : Hdr) (a b : Reg) (disp : Word) (s : State) : Host.Outcome State Fault Refusal := natOp s h .or32 a b disp

/-! ### Calling an object (R196, R197) -/

/-- A registered class of the group's context. -/
def State.classOf (s : State) (ctx cls : Nat) : Option QClass :=
  ((AMap.get? s.contexts ctx).bind fun c => AMap.get? c.classes cls)

/-- The class is registered and has the method (R196). -/
def State.classOk (s : State) (ctx cls m : Nat) : Bool :=
  match s.classOf ctx cls with
  | some c => c.entries.getD m 0 != 0
  | none => false

/-- A quay access to fabric or register space is a direct fault, before its rights are looked at (R197). -/
def State.quaySpace (s : State) (g : Nat) (G : Group) (va : DWord) (a : Acc) : Bool :=
  match a with
  | .qcall .. => match (s.probe (via g G) va).2 with
    | some f => match region (f.pa va) with
      | .fabric | .regs => true
      | _ => false
    | none => false
  | _ => false

/-- QCALL, QCALLA and QCALLN: a helper lane sends nothing and receives 0. -/
def State.qcallOp (s : State) (x : At) (d : Option VReg) (va arg : Nat → DWord) (cls m : Nat) (acq rel : Bool) : State :=
  match s.group? x.g with
  | none => s
  | some G =>
    let size := ((s.classOf G.ctx cls).map QClass.size).getD 4
    let gen := ((s.classOf G.ctx cls).map QClass.gen).getD 0
    let dest := d.map fun r => ({ reg := some (.inl (.v r)), w := 2 } : Dest)
    let acc := fun l => Acc.qcall cls m size gen (arg l) (dest.map fun q => (x.seq, q)) acq rel
    let bad := fun l =>
      if (va l).toNat % 4 != 0 || (va l).toNat % 256 + size > 256 then some (accRec { cause := .misaligned } .readWrite (va l))
      else if !canonical (va l) then some (accRec { cause := .translation, sub := 2 } .readWrite (va l))
      else if s.quaySpace x.g G (va l) (acc l) then some (accRec { cause := .translation, sub := 5 } .readWrite (va l))
      else none
    let fail := maskOf fun l => inMask x.N l && (bad l).isSome
    let s := match dest with
      | some dst => (lanesOf (x.T &&& ~~~x.N)).foldl (fun (s : State) l =>
          s.updGroup x.g fun G => G.joinPend x.seq x.pc (.remote acq) dst G.pkr l (.back [0, 0])) s
      | none => s
    let (s, direct) := s.accessLanes x size va acc (lanesOf (x.N &&& ~~~fail))
    s.raiseBoth x fail bad direct

/-- A quay request: class 0 is illegal, an unregistered class or an absent method a bad handle (R196). -/
def quayCall (s : State) (h : Hdr) (d : Option VReg) (a b : Reg) (cls : Fin 256) (m : Fin 4) (acq rel : Bool) :
    Host.Outcome State Fault Refusal :=
  issue s h .core ((match d with
    | some r => [(.v r, 2)]
    | none => []) ++ [(a, 2), (b, 2)]) (fun s G => [(0, s.classOk G.ctx cls.val m.val)]) fun s x =>
      let arg := match s.group? x.g with
        | some G => fun l => G.reg64 l b
        | none => fun _ => 0
      s.qcallOp x d (s.addrs x a 0) arg cls.val m.val acq rel

/-- QCALL (R196 to R198). -/
def execQcall (h : Hdr) (d : VReg) (a b : Reg) (cls : Fin 256) (m : Fin 4) (s : State) : Host.Outcome State Fault Refusal :=
  quayCall s h (some d) a b cls m false false
/-- QCALLA (R173, R196 to R198). -/
def execQcalla (h : Hdr) (d : VReg) (a b : Reg) (cls : Fin 256) (m : Fin 4) (s : State) : Host.Outcome State Fault Refusal :=
  quayCall s h (some d) a b cls m true true
/-- QCALLN (R173, R196 to R198). -/
def execQcalln (h : Hdr) (a b : Reg) (cls : Fin 256) (m : Fin 4) (s : State) : Host.Outcome State Fault Refusal :=
  quayCall s h none a b cls m false true

/-! ### Methods (R204) -/

/-- The poisoned word of a wave's buffer at an offset: its half is poisoned and the wave has not stored it (R203). -/
def Wave.bad (w : Wave) (pa off : Nat) : Bool := w.pois.getLsbD ((pa % 256 + off) / 32) && !w.stored.getLsbD (off / 4)

/-- The address of a wave's object. -/
def Wave.pa (w : Wave) : Nat := match w.reqs with
  | q :: _ => q.pa
  | [] => 256 * w.sb

/-- The bounds of R204. -/
def Wave.outside (w : Wave) (off : Word) : Bool := off.toNat % 4 != 0 || decide (off.toNat + 4 > w.size)

/-- The wave whose method a group runs. -/
def State.waveOf (s : State) (g : Nat) : Option Wave := (s.group? g).bind Group.wave

/-- LDO (R203, R204): fixed-latency on the quay. -/
def execLdo (h : Hdr) (d a : Reg) (disp : Word) (s : State) : Host.Outcome State Fault Refusal :=
  issue s h .quay [(d, 1), (a, 1)] noHandles fun s x =>
    match s.waveOf x.g with
    | none => s
    | some w =>
      let off := s.offs x a disp
      if (lanesOf x.T).any fun l => w.outside (off l) then s.methodFault x.g 2 0
      else if (lanesOf x.T).any fun l => w.bad w.pa (off l).toNat then s.methodFault x.g 9 0
      else s.result x d 1 fun _ l => [leWord ((w.buf.drop (off l).toNat).take 4)]

/-- A word of the buffer stored, and marked. -/
def Wave.put (w : Wave) (off : Nat) (bs : List Byte) : Wave :=
  { w with buf := w.buf.take off ++ bs ++ w.buf.drop (off + 4), stored := w.stored ||| (1 <<< (off / 4)) }

/-- STO (R203, R204): the highest lane wins. -/
def execSto (h : Hdr) (a b : Reg) (disp : Word) (s : State) : Host.Outcome State Fault Refusal :=
  issue s h .quay [(a, 1), (b, 1)] noHandles fun s x =>
    match s.waveOf x.g with
    | none => s
    | some w =>
      let off := s.offs x a disp
      let data := s.datas x b 1 4
      if x.T = 0 then s
      else if (lanesOf x.T).any fun l => w.outside (off l) then s.methodFault x.g 2 0
      else if !w.wr then s.methodFault x.g 3 0
      else
        let w := (lanesOf x.T).foldl (fun w l => w.put (off l).toNat (data l)) w
        s.updGroup x.g fun G => { G with wave := some w }

/-- QRET (R204): the reply of each lane is set, and the lane makes no further issues. -/
def execQret (h : Hdr) (b : VReg) (s : State) : Host.Outcome State Fault Refusal :=
  issue s h .quay [(.v b, 2)] noHandles fun s x =>
    match s.group? x.g with
    | none => s
    | some G =>
      match G.wave with
      | none => s
      | some w =>
        let w := { w with replies := (lanesOf x.T).foldl (fun m l => AMap.put m l (G.reg64 l (.v b))) w.replies }
        (s.updGroup x.g fun G => { G with wave := some w }).endLanes x.g x.T

end Sys2Proof.Machine
end

