-- ==== Sys2Proof/Machine/Replay.lean ====
section
/-! DEFINITION. A lane's access performed again: after fault service, after a resume, and once what held it is over (R201, R285, R300,
R303). -/

namespace Sys2Proof.Machine

/-- The bytes that an access translates. -/
def Acc.size : Acc → Nat
  | .store n _ _ _ _ => n
  | .atomic _ w _ _ _ => w
  | .ldlu _ _ => 4
  | .disc => 64
  | .qcall _ _ size _ _ _ _ _ => size
  | _ => 8

/-- Lanes of a group at an address, to raise a fault there. -/
def atPc (g : Nat) (pc : DWord) (seq : Nat) (m : Word) : At := { g, pc, seq, B := m, T := m, N := m, h := plainHdr }

/-- The lane's instruction is over: it goes on behind it; a spilling CALL has moved the lane, which waits for its write (R54). -/
def Lane.pass (L : Lane) (a : Acc) (now : Nat) : Lane :=
  match a with
  | .spill _ => L
  | _ => { L.wakeUp now with pc := L.pc + 12 }

/-- The access of a lane is translated again, with the PKR of its issue and at its place in program order, and performed (R300,
R303). -/
def State.replay (s : State) (g l : Nat) (va : DWord) (a : Acc) (pkr : DWord) : State :=
  match s.group? g with
  | none => s
  | some G =>
    let pc := (G.lane l).pc
    let seq := (G.lane l).wseq
    let fail := fun (s : State) (e : XFault) =>
      let r : Rec := { accRec e a.kind va with resume := pc, fpc := pc }
      if e.serviced then s.laneFault g l pc va e a.kind a pkr (some r) else s.raise (atPc g pc seq (1 <<< l)) (1 <<< l) fun _ => r
    if s.quaySpace g G va a then fail s { cause := .translation, sub := 5 }
    else match s.xlateFor a.plain (via g G) va a.size a.right (some pkr) with
      | (s, .error e) => fail s (a.fault e)
      | (s, .ok pas) => (s.perform g l seq pc va pas a).updLane g l fun L => L.pass a (s.now g)

/-- A waiting lane whose fault is resolved: only its access is performed again, with the operands and the PKR of its issue (R53, R54, R216,
R285, R287, R292, R300); the read of a RET or KDEF becomes outstanding, a PUTS goes on once none of its lanes waits in service, and a
fetch is made anew. -/
def State.laneResolved (s : State) (g l : Nat) : State :=
  match (s.lane g l).wait with
  | .fault va a pkr _ =>
    match a with
    | .fetch => s.updLane g l fun L => { L with wait := .none, marker := false, since := s.now g }
    | .refill => s.readLater g l (s.lane g l).pc .refill va pkr
    | .kdef k => s.readLater g l (s.lane g l).pc (.kdef k) va pkr
    | .putsAddr a d sig => s.updLane g l fun L => { L with wait := .again (.puts a d sig pkr) }
    | .frame r => s.trapEntry g l r
    | .eret => s.eretLane g l
    | _ => s.replay g l va a pkr
  | _ => s

/-- A lane waits at its instruction for an access that is in no fault queue, and nothing holds it: no outstanding fault of a load of its own,
and no save or resume of its team (R285, R300, R312, R319). -/
def State.toRetry (s : State) (g : Nat) (G : Group) (l : Nat) : Bool :=
  (G.lane l).live && (match (G.lane l).wait with
    | .fault _ _ _ _ => true
    | _ => false) && !G.loadFaulting l && !s.beingSaved G.team && !(s.faults.any fun q => q.any fun e => e.waiters.contains (.lane g l)) &&
    match s.team? G.team with
    | some T => !T.resuming
    | none => true

/-- The lanes of a group whose accesses are to be performed again are served together: those of a store the highest first, so that a lower
one does not write what a higher one supplies (R71); and lanes that wait for a frame with a record due take it (R263). -/
def State.retry (s : State) (g : Nat) : State :=
  match s.group? g with
  | none => s
  | some G =>
    let m := maskOf fun l => s.toRetry g G l
    if m = 0 then s
    else
      let s := (lanesOf m).reverse.foldl (fun s l => s.laneResolved g l) s
      (s.updGroup g fun G => G.partFrom m).takeLate g

/-- So for every group. -/
def State.retryAll (s : State) : State := s.groups.foldl (fun s e => s.retry e.1) s

end Sys2Proof.Machine
end

