-- ==== Sys2Proof/Machine/Sync.lean ====
section
/-! DEFINITION. Barriers, fences and monitors: group 0xA, convergence registers apart (R140 to R144, R173, R178, R182,
R183). -/

namespace Sys2Proof.Machine

/-! ### Releases (R172, R173) -/

/-- A release of the threads of `t` is held while an earlier write of the group is outstanding; `m` are the lanes that wait for it. -/
def State.holdAct (s : State) (g seq : Nat) (t m : Word) (a : HeldAct) : State :=
  s.updGroup g fun G =>
    { G.updLanes m (fun _ L => { L with wait := .held }) with held := G.held ++ [{ seq, lanes := t, act := a }] }

/-- The values of an outstanding result are back in every lane that waited. -/
def Group.pendBack (G : Group) (seq : Nat) (ws : List Word) : Group :=
  { G with pend := G.pend.map fun p =>
      if p.seq = seq then
        { p with lanes := p.lanes.map fun e => match e.2 with
            | .waiting _ => (e.1, .back ws)
            | _ => e }
      else p }

/-! ### Barriers (R142) -/

/-- The barrier that an operand names for a group's team. -/
def State.barFor (s : State) (g : Nat) (b : Bar) : Option BarAt :=
  ((s.group? g).bind fun G => s.team? G.team).map fun t => barOf t b

/-- BARA once its release is complete: the token is PHASE before the arrival. -/
def State.runBarA (s : State) (g : Nat) (b : Bar) (k pend : Nat) : State :=
  match s.barFor g b with
  | none => s
  | some at' =>
    let tok := (s.barrier at').phase
    (s.updGroup g fun G => G.pendBack pend [tok]).arriveBar at' k

/-- BARS once its release is complete: the lanes wait on the token of their own arrival. -/
def State.runBarS (s : State) (g : Nat) (b : Bar) (k : Nat) (m : Word) : State :=
  match s.barFor g b with
  | none => s
  | some at' =>
    let tok := (s.barrier at').phase
    let s := s.updGroup g fun G => G.updLanes m fun _ L => { L with wait := .token b tok }
    s.arriveBar at' k

/-- BARA (R142). -/
def execBara (h : Hdr) (d : Reg) (bar : Bar) (s : State) : Host.Outcome State Fault Refusal :=
  issue s h .core [(d, 1)] noHandles fun s x =>
    if x.T = 0 then s
    else
      let k := popcount x.N
      let s := s.addPend x (.bara bar) { reg := some (.inl d), w := 1 } (pendLanes d x fun _ => .waiting 0)
      if s.mustHold x.g x.seq x.T then s.holdAct x.g x.seq x.T 0 (.barA bar k x.seq) else s.runBarA x.g bar k x.seq

/-- BARS (R142): helper lanes wait with the others and are not counted. -/
def execBars (h : Hdr) (bar : Bar) (s : State) : Host.Outcome State Fault Refusal :=
  issue s h .core [] noHandles fun s x =>
    if x.T = 0 then s
    else
      let k := popcount x.N
      if s.mustHold x.g x.seq x.T then s.holdAct x.g x.seq x.T x.T (.barS bar k x.T)
      else s.runBarS x.g bar k x.T

/-- BARW (R142, R144): a lane whose token has passed goes on at once, with the acquire. -/
def execBarw (h : Hdr) (a : Reg) (bar : Bar) (s : State) : Host.Outcome State Fault Refusal :=
  issue s h .core [(a, 1)] noHandles fun s x =>
    match s.group? x.g, s.barFor x.g bar with
    | some G, some at' =>
      let phase := (s.barrier at').phase
      let go := maskOf fun l => inMask x.T l && passed phase (G.reg l a 0)
      let s := s.waitLanes x (x.T &&& ~~~go) fun l => .token bar (G.reg l a 0)
      if go = 0 then s else s.acquire (coreOf x.g)
    | _, _ => s

/-- BARX (R142): the bytes expected rise by the scalar, once. -/
def execBarx (h : Hdr) (sa : SReg) (bar : Bar) (s : State) : Host.Outcome State Fault Refusal :=
  issue s h .core [(.s sa, 1)] noHandles fun s x =>
    if x.T = 0 then s
    else
      match s.group? x.g, s.barFor x.g bar with
      | some G, some at' =>
        let b := s.barrier at'
        (s.setBarrier at' { b with bal := b.bal + (G.sreg sa.val).setWidth 64 }).checkBar at'
      | _, _ => s

/-! ### Fences (R178, R182) -/

/-- FENCE once its release is complete: an acquire, and the lanes go on. -/
def State.runFence (s : State) (g : Nat) (m : Word) : State := (s.wake g m).acquire (coreOf g)

/-- FENCE (R182). -/
def execFence (h : Hdr) (s : State) : Host.Outcome State Fault Refusal :=
  issue s h .core [] noHandles fun s x =>
    if x.T = 0 then s
    else if s.mustHold x.g x.seq x.T then s.holdAct x.g x.seq x.T x.T (.fence x.T)
    else s.acquire (coreOf x.g)

/-- An entry of the store queues goes to another package (R177). -/
def LsOp.fabric (e : LsOp) : Bool :=
  match e.kind with
  | .store bs _ => bs.any fun b => isRemote b.pa
  | .atomic _ pa _ _ _ _ _ => isRemote pa
  | .puts _ _ _ f _ => f
  | _ => false

/-- A write that arrived over the fabric before a stamp has still to be performed: it waits in a quay, or in a wave. -/
def State.arrivedWrite (s : State) (seq : Nat) : Bool :=
  let early := fun (r : QReq) => r.who.isNone && decide (r.seq < seq)
  (s.quays.any fun q => q.2.reqs.any early || q.2.busy.any fun b => b.2.any early) || s.groups.any fun e => match e.2.wave with
    | some w => w.reqs.any early
    | none => false

/-- A copy has issued writes before a stamp that have still to be performed: of its payload, or the stamp of its stop. -/
def Copy.writing (c : Copy) (seq : Nat) : Bool := decide (c.issuedSeq < seq) && ((c.issued && !c.ahead.isEmpty) || c.stampDue.isSome)

/-- Step 1 of R178 has still to wait: for LS the group's own writes; for FB every fabric write that was issued before or had arrived; for
the engines the writes that they issued before and that have not been performed. -/
def State.fenceWaits (s : State) (g seq : Nat) (m : Word) (p : Path) : Bool :=
  match p with
  | .ls => s.mustHold g seq m
  | .fb => (s.lsq.any fun e => e.fabric && e.seq < seq) || s.arrivedWrite seq
  | .cp => s.cores.any fun c => c.2.journal.any fun j => j.2.writing seq
  | .mx => s.bstores.any fun b => !b.2.out.isEmpty && decide (b.2.outSeq < seq)
  | .gt => s.gates.any fun q => q.2.any fun c => !c.out.isEmpty && decide (c.outSeq < seq)

/-- Step 2 of R178: an acquire for LS; what the engines have fetched up to now serves no command of the core, or operation of the
team, that is issued after it (R222). -/
def State.fenceTo (s : State) (g : Nat) (p : Path) : State :=
  let s := s.bump
  let t := ((s.group? g).map Group.team).getD 0
  match p with
  | .ls => s.acquire (coreOf g)
  | .cp => let c := s.core (coreOf g); s.setCore (coreOf g) { c with cpFences := c.cpFences ++ [s.seq] }
  | .mx => s.updTeam t fun T => { T with mxFences := T.mxFences ++ [s.seq] }
  | .gt => s.updTeam t fun T => { T with gtFences := T.gtFences ++ [s.seq] }
  | .fb => s

/-- FENCEX (R178, R182). -/
def execFencex (h : Hdr) (x y : Path) (s : State) : Host.Outcome State Fault Refusal :=
  issue s h .core [] noHandles fun s i =>
    if i.T = 0 then s
    else
      let s := s.fenceTo i.g y
      if s.fenceWaits i.g i.seq i.T x then s.holdAct i.g i.seq i.T i.T (.fencex x y i.T) else s

/-! ### Monitors (R183) -/

/-- MARM (R183): checked as a store, but for the read right; a helper lane arms nothing. -/
def execMarm (h : Hdr) (a : Reg) (disp : Word) (s : State) : Host.Outcome State Fault Refusal :=
  issue s h .core [(a, 2)] noHandles fun s x =>
    let va := s.addrs x a disp
    let bad := fun l => addrFault (va l) 8 .read
    let fail := maskOf fun l => inMask x.N l && (bad l).isSome
    let (s, direct) := s.accessLanes x 8 va (fun _ => .arm) (lanesOf (x.N &&& ~~~fail))
    s.raiseBoth x fail bad direct

/-- MWAIT (R183): the value at its arrival is examined, then each later write. Without an armed monitor, and in a helper
lane, the result is 0 at once. -/
def execMwait (h : Hdr) (d : PReg) (b : Reg) (cond : Fin 4) (budget : BitVec 24) (s : State) :
    Host.Outcome State Fault Refusal :=
  issue s h .core [(b, 2)] noHandles fun s x =>
    match s.group? x.g with
    | none => s
    | some G =>
      let waits := maskOf fun l => inMask x.N l && (G.lane l).monitor.isSome
      let s := s.resultP { x with T := x.T &&& ~~~waits } d fun _ _ => false
      s.updGroup x.g fun G => G.updLanes waits fun l L =>
        let v := G.reg64 l b
        let hit := match L.monitor with
          | some m => mwaitHolds cond.val (leDWord (s.bytes m.pa 8)) v
          | none => false
        { L with wait := .mwait d v cond.val budget.toNat, monitor := L.monitor.map fun m => { m with hit } }

end Sys2Proof.Machine
end

