-- ==== Sys2Proof/Machine/Tensor.lean ====
section
/-! DEFINITION. Tensor identifiers: their records, and where the elements of a tensor and of a copy box lie (R215, R219,
R220, R234). -/

namespace Sys2Proof.Machine

/-! ### Records (R215) -/

/-- The extents of dimensions from an offset: 1 to 2^31 − 1 below the rank, 0 from it on. -/
def dimsOk (rank : Nat) (ds : List Nat) : Bool :=
  ds.zipIdx.all fun e => if e.2 < rank then decide (1 ≤ e.1) && decide (e.1 < 2 ^ 31) else e.1 == 0

/-- Box extents: at least 1 below the rank, 0 from it on. -/
def boxOk (rank : Nat) (bs : List Nat) : Bool := bs.zipIdx.all fun e => if e.2 < rank then decide (1 ≤ e.1) else e.1 == 0

/-- A tensor-identifier record; `none` if it breaks R215. -/
def tensorOf (r : List Byte) : Option TensorId :=
  let at' := fun off n => leNat ((r.drop off).take n)
  let fmt := at' 0x10 1
  let rb := at' 0x11 1
  let bs := rb ≥ 128
  let rank := rb % 8
  let dims := (List.range 5).map fun i => at' (0x14 + 4 * i) 4
  let strs := (List.range 4).map fun i => at' (0x28 + 4 * i) 4
  let box := [at' 0x38 2, at' 0x3A 2, at' 0x3C 1, at' 0x3D 1, at' 0x3E 1]
  let base := BitVec.ofNat 64 (at' 0 8)
  let sbase := BitVec.ofNat 64 (at' 8 8)
  let ok := canonical base && at' 0 8 % 16 == 0 && decide (fmt ≤ 8) && rb / 8 % 16 == 0 && decide (1 ≤ rank) && decide (rank ≤ 5)
    && at' 0x12 2 == 0 && at' 0x3F 1 == 0 && dimsOk rank dims && boxOk rank box
    && (strs.zipIdx.all fun e => e.2 + 1 < rank || e.1 == 0)
    && (if bs then at' 8 8 % 8 == 0 && decide (fmt ≤ 3) else at' 8 8 == 0 && fmt != 3)
    && (fmt != 3 || (dims.getD 0 0 % 2 == 0 && box.getD 0 0 % 2 == 0))
  if ok then some { base, sbase, fmt, bs := bs, rank, dims, strs, box } else none

/-! ### Elements -/

/-- Coordinates lie within the extents (R219); dimensions at or above the rank are 0. -/
def TensorId.inside (t : TensorId) (is : List Int) : Bool :=
  is.zipIdx.all fun e => if e.2 < t.rank then decide (0 ≤ e.1) && decide (e.1 < (t.dims.getD e.2 0 : Nat)) else e.1 == 0

/-- The byte address of an element (R215). -/
def TensorId.elemAddr (t : TensorId) (is : List Int) : DWord :=
  t.base + BitVec.ofInt 64 (is.getD 0 0 * fmtWidth t.fmt / 8 +
    16 * ((t.strs.getD 0 0 : Nat) * is.getD 1 0 + (t.strs.getD 1 0 : Nat) * is.getD 2 0 +
      (t.strs.getD 2 0 : Nat) * is.getD 3 0 + (t.strs.getD 3 0 : Nat) * is.getD 4 0))

/-- The coordinates within the box of a position in box order (R219). -/
def boxCoords (box : List Nat) (rank : Nat) (p : Nat) : List Nat :=
  ((List.range 5).foldl (fun (r : List Nat × Nat) d =>
    let b := if d < rank then box.getD d 1 else 1
    (r.1 ++ [r.2 % b], r.2 / b)) ([], p)).1

/-- A number of elements of a rank-1 tensor: where element `i` lies. -/
def TensorId.at1 (t : TensorId) (i : Nat) : DWord := t.elemAddr [(i : Int), 0, 0, 0, 0]

/-- Element (i0, i1) of a rank-2 tensor. -/
def TensorId.at2 (t : TensorId) (i0 i1 : Nat) : DWord := t.elemAddr [(i0 : Int), (i1 : Int), 0, 0, 0]

/-- A tensor identifier of a context (R215). -/
def State.tensor? (s : State) (ctx k : Nat) : Option TensorId :=
  (AMap.get? s.contexts ctx).bind fun c => AMap.get? c.tensors k

/-- The name of a tensor identifier among those of every context. -/
def rowKey (ctx k : Nat) : Nat := ctx * 256 + k

/-- The name of a copy's source. -/
def Copy.rowKey (c : Copy) : Nat := Machine.rowKey c.ctx (bitsAt (c.word 2) 0 8)

/-- A tensor identifier is redefined or released: its rows leave the line buffers, and a row of it that is being fetched enters
none (R222). -/
def State.dropRows (s : State) (ctx k : Nat) : State :=
  { s with cores := s.cores.map fun c => (c.1, { c.2 with
      rows := c.2.rows.map fun r => if r.k == rowKey ctx k then { r with bytes := [] } else r
      journal := c.2.journal.map fun j => if j.2.rowKey == rowKey ctx k then (j.1, { j.2 with rowNow := [] }) else j }) }

end Sys2Proof.Machine
end

