-- ==== Sys2Proof/Machine/Matrix.lean ====
section
/-! DEFINITION. Convergence registers and the instructions of the matrix array and its berths: CVSET, SIGN, SIGNW and group
0xB (R236 to R258). -/

namespace Sys2Proof.Machine

/-! ### Convergence registers (R239, R241) -/

/-- Where a convergence register is kept. -/
inductive ConvAt where
  | team (t n : Nat)
  | unit (u n : Nat)
  deriving DecidableEq, Repr

/-- The register that an operand names for a team. -/
def convOf (t : Nat) (T : Team) (c : CReg) : ConvAt := if c.val < 8 then .team t c.val else .unit T.unit (c.val - 8)

def State.conv (s : State) : ConvAt → Conv
  | .team t n => match s.team? t with
    | some T => T.conv.getD n {}
    | none => {}
  | .unit u n => match AMap.get? s.units u with
    | some x => x.conv.getD n {}
    | none => {}

def State.setConv (s : State) (a : ConvAt) (c : Conv) : State :=
  match a with
  | .team t n => s.updTeam t fun T => { T with conv := T.conv.set n c }
  | .unit u n => s.updUnit u fun x => { x with conv := x.conv.set n c }

/-- A part's key in PART: the team's index within the scope. -/
def ConvAt.key (a : ConvAt) (T : Team) : Nat := match a with
  | .team _ _ => 0
  | .unit _ _ => T.idx

/-! ### Berths (R244) -/

def State.berth (s : State) (t b : Nat) : Berth := match s.team? t with
  | some T => T.berths.getD b {}
  | none => {}
def State.updBerth (s : State) (t b : Nat) (f : Berth → Berth) : State :=
  s.updTeam t fun T => { T with berths := modAt T.berths b f }

/-- The berths that an operation names: a pair for MMAF64 (R249). -/
def mmaBerths (op d : Nat) : List Nat := if op = 0xB09 then [d, d + 1] else [d]

/-- PENDING of the berths of an operation changes (R244). -/
def State.pledge (s : State) (t op d : Nat) (f : Nat → Nat) : State :=
  (mmaBerths op d).foldl (fun s b => s.updBerth t b fun x => { x with pending := f x.pending }) s

/-! ### Closing a set (R237, R238, R241) -/

/-- The array of a team (R232). -/
def Team.array (T : Team) : Nat := tetradOf T.core

/-- The slot that the operation of some parts enters: the lowest among their teams (R254). -/
def State.slotFor (s : State) (ts : List Nat) : Option (Nat × Nat) :=
  ts.foldl (fun r t =>
    match s.team? t with
    | none => r
    | some T => match T.slot, r with
      | some i, some (a, j) => some (a, min i j)
      | some i, none => some (T.array, i)
      | none, r => r) none

/-- Some route into a condition is enabled (R228, R238). -/
def Share.routed (h : Share) (g : Nat) : Bool := h.routes.any fun m => m.getLsbD g

/-- The condition on which an operation of a register waits, if it waits. -/
def State.issueCond (s : State) (a : ConvAt) : Option (Nat × Nat) :=
  match a with
  | .team t n => if n < 4 then
      match s.team? t with
      | some T => if (s.share T.share).routed (4 + n) then some (T.share, 4 + n) else none
      | none => none
    else none
  | .unit _ _ => none

/-- The share whose condition an operation waits on. -/
def State.opShare (s : State) (o : MmaOp) : Option Nat := o.parts.head?.bind fun p => (s.team? p.team).map Team.share

/-- An operation that closed before a stamp waits on the same condition of a share, in whichever slot (R228, R238). -/
def State.closedBefore (s : State) (k conv order : Nat) : Bool :=
  s.arrays.any fun a => a.2.slots.any fun x => x.closed.any fun o =>
    decide (o.order < order) && o.conv == conv && s.opShare o == some k

/-- The operation built from the parts of a set: it enters its slot's queue, taking its condition's count if it has one, or waits
there for its condition (R237, R238). -/
def State.enterOp (s : State) (a : ConvAt) (ps : List MmaPart) : State :=
  match s.slotFor (ps.map MmaPart.team) with
  | none => s
  | some (arr, i) =>
    let s := s.bump
    let n := match a with
      | .team _ n => n
      | .unit _ n => 8 + n
    let op : MmaOp := { parts := ps, conv := n, order := s.seq }
    let A := s.array arr
    let queued := s.setArray arr { A with slots := modAt A.slots i fun x => { x with queue := x.queue ++ [op] } }
    match s.issueCond a with
    | none => queued
    | some (k, g) =>
      if 1 ≤ (s.share k).counts.getD g 0 && !s.closedBefore k n op.order then queued.updShare k fun h => h.take g
      else s.setArray arr { A with slots := modAt A.slots i fun x => { x with closed := x.closed ++ [op] } }

/-- The lanes that wait on a set of a register learn how it closed (R241). -/
def State.answerSigners (s : State) (a : ConvAt) (gen : Word) (how : Bool) : List Nat → State
  | [] => s
  | g :: gs =>
    match s.group? g with
    | none => s.answerSigners a gen how gs
    | some G =>
      let named := fun (c : CReg) => match s.team? G.team with
        | some T => convOf G.team T c == a
        | none => false
      let s := s.bump
      let s := (List.range 32).foldl (fun s l =>
        match (G.lane l).wait with
        | .signw c n d =>
          if (G.lane l).live && named c && n == gen then
            (s.updGroup g fun G => G.writeP s.seq (1 <<< l) d fun _ => how).wake g (1 <<< l)
          else s
        | _ => s) s
      s.answerSigners a gen how gs

/-- close(how) of R241: a part takes its group's PKR as it is now (R296). -/
def State.closeConv (s : State) (a : ConvAt) (how : Bool) : State :=
  let c := s.conv a
  let s := s.setConv a { c with parts := [], cnt := 0, gen := c.gen + 1 }
  let ps := c.parts.map fun e => ({ team := e.2.team, g := e.2.g, gi := e.2.gi, img := e.2.img, addr := e.2.addr, pkr := ((s.group? e.2.g).map Group.pkr).getD e.2.pkr, pc := e.2.pc } : MmaPart)
  let s :=
    if how then (if ps.isEmpty then s else s.enterOp a ps)
    else ps.foldl (fun s p => s.pledge p.team p.img.op p.img.d (· - 1)) s
  s.answerSigners a c.gen how (s.groups.map (·.1))

/-- sign(k) of R241. -/
def State.signConv (s : State) (a : ConvAt) (k : Nat) : State :=
  if k = 0 then s
  else
    let c := s.conv a
    if c.exp ≤ c.cnt + k then s.closeConv a true else s.setConv a { c with cnt := c.cnt + k }

/-- Signatures would close a set whose slot has no free place (R237): where they wait. `extra` is a team whose part is
recorded with them. -/
def State.noPlace (s : State) (a : ConvAt) (k : Nat) (extra : List Nat) : Option Reason :=
  let c := s.conv a
  let ts := c.parts.map (fun e => e.2.team) ++ extra
  if k = 0 || c.cnt + k < c.exp || ts.isEmpty then none
  else match s.slotFor ts with
    | some (arr, i) => if ((s.array arr).slots.getD i {}).places < 8 then none else some (.place arr i)
    | none => none

/-- A register operand is declared (R240). -/
def convHandle (c : CReg) (code : BitVec 10) (s : State) (G : Group) : List (Nat × Bool) :=
  match s.team? G.team with
  | some T => [(code.toNat, (s.conv (convOf G.team T c)).exp != 0)]
  | none => []

/-- The register of an issue's group. -/
def State.convAt (s : State) (g : Nat) (c : CReg) : Option ConvAt :=
  (s.group? g).bind fun G => (s.team? G.team).map fun T => convOf G.team T c

/-- CVSET (R241): a partial set is discarded first. -/
def execCvset (h : Hdr) (c : CReg) (a : SSrc) (s : State) : Host.Outcome State Fault Refusal :=
  issue s h .core (ssrcReg a 1) noHandles fun s x =>
    match s.group? x.g, s.convAt x.g c with
    | some G, some at' =>
      if x.T = 0 then s
      else
        let e := (G.ssrc a).toNat
        if e = 0 || e > (if c.val < 8 then 512 else 2048) then
          s.raise x x.T fun _ => { cause := .badHandle, info := (Field.c c).bits.setWidth 32 }
        else
          let s := if (s.conv at').cnt > 0 then s.closeConv at' false else s
          s.setConv at' { s.conv at' with exp := e }
    | _, _ => s

/-- SIGN (R241). -/
def execSign (h : Hdr) (c : CReg) (s : State) : Host.Outcome State Fault Refusal :=
  issue s h .core [] (convHandle c (Field.c c).bits) fun s x =>
    match s.convAt x.g c with
    | none => s
    | some at' =>
      match s.noPlace at' (popcount x.N) [] with
      | some r => s.again x x.T r
      | none => s.signConv at' (popcount x.N)

/-- SIGNW (R241). -/
def execSignw (h : Hdr) (d : PReg) (c : CReg) (s : State) : Host.Outcome State Fault Refusal :=
  issue s h .core [] (convHandle c (Field.c c).bits) fun s x =>
    match s.convAt x.g c with
    | none => s
    | some at' =>
      match s.noPlace at' (popcount x.N) [] with
      | some r => s.again x x.T r
      | none => (s.waitLanes x x.T fun _ => .signw c (s.conv at').gen d).signConv at' (popcount x.N)

/-! ### Reservations (R236) -/

/-- The lowest free slot of an array. -/
def Arr.freeSlot (A : Arr) : Option Nat := (List.range 4).find? fun i => (A.slots.getD i {}).team.isNone

/-- A team takes a free slot, if there is one. -/
def State.takeSlot (s : State) (t : Nat) : State × Bool :=
  match s.team? t with
  | none => (s, false)
  | some T =>
    if T.slot.isSome then (s, true)
    else
      let A := s.array T.array
      match A.freeSlot with
      | none => (s, false)
      | some i =>
        let s := s.setArray T.array { A with slots := modAt A.slots i fun x => { x with team := some t } }
        (s.updTeam t fun T => { T with slot := some i }, true)

/-- A team's slot is freed. -/
def State.freeSlot (s : State) (t : Nat) : State :=
  match s.team? t with
  | none => s
  | some T =>
    match T.slot with
    | none => s
    | some i =>
      let A := s.array T.array
      let s := s.setArray T.array { A with slots := modAt A.slots i fun x => { x with team := none } }
      s.updTeam t fun T => { T with slot := none }

/-- The team of a group. -/
def State.teamOfGroup (s : State) (g : Nat) : Nat := match s.group? g with
  | some G => G.team
  | none => 0

/-- MXACQ (R236). -/
def execMxacq (h : Hdr) (d : PReg) (s : State) : Host.Outcome State Fault Refusal :=
  issue s h .core [] noHandles fun s x =>
    if x.N = 0 then s
    else
      let (s, ok) := s.takeSlot (s.teamOfGroup x.g)
      s.resultP x d fun _ _ => ok

/-- MXREL (R236). -/
def execMxrel (h : Hdr) (s : State) : Host.Outcome State Fault Refusal :=
  issue s h .core [] noHandles fun s x =>
    let t := s.teamOfGroup x.g
    match s.team? t with
    | none => s
    | some T =>
      if x.N = 0 || T.slot.isNone then s
      else if s.mxBusy t then s.again x x.T .mxrel
      else s.freeSlot t

/-! ### The multiplying instructions (R249 to R252) -/

/-- The fields of a multiplying instruction. -/
structure Mma where
  op : Nat
  d : BReg
  a : ASrc
  c : CReg
  hb : Nat
  kq : Nat
  gn : Nat
  hx : Option Nat
  ms : Nat
  ns : Nat
  deriving DecidableEq, Repr

/-- Row bytes of A and quarter bytes of B (R233). -/
def mmaRow (op : Nat) : Nat := if op = 0xB08 then 512 else if op = 0xB09 then 1024 else 256
def mmaQuarter (op : Nat) : Nat :=
  if op = 0xB08 then 9216 else if op = 0xB09 then 32768 else if op = 0xB0A ∨ op = 0xB0B then 16384 else 8192

/-- MMAJ and MMAG (R254, R255). -/
def isJoin (op : Nat) : Bool := op == 0xB0C || op == 0xB0D
def isGrouped (op : Nat) : Bool := op == 0xB0E || op == 0xB0F
def isSparse (op : Nat) : Bool := op == 0xB0A || op == 0xB0B

/-- IMM of R250. -/
def Mma.imm (f : Mma) : Word :=
  BitVec.ofNat 32 (f.gn * 2 ^ 20 + f.hx.getD 0 * 2 ^ 14 + f.ns * 2 ^ 11 + f.ms * 2 ^ 8 + f.kq * 2 ^ 6 + f.hb)

/-- The quarter tiles: consecutive handles from HB (R250). -/
def Mma.quarters (f : Mma) : List Nat :=
  (List.range (if isGrouped f.op then 4 * f.gn + 4 else f.kq + 1)).map (f.hb + ·)

/-- The bytes that HX must hold (R251). -/
def Mma.hxNeed (f : Mma) : Nat :=
  let m := 16 * (f.ms + 1)
  if f.op = 0xB0B then 128 * m else if f.op = 0xB0A then 64 * m else 4 * (f.gn + 1)

/-- Every tile that the form names, with the bytes it needs. -/
def Mma.tiles (f : Mma) : List (Nat × Nat) :=
  (match f.a with
    | .tile t => [(t.val, 16 * (f.ms + 1) * mmaRow f.op)]
    | .glob _ => []) ++
  (f.quarters.map fun q => (q, mmaQuarter f.op)) ++
  (match f.hx with
    | some t => [(t, f.hxNeed)]
    | none => [])

/-- The image of R242: opcode, D, A, B and IMM. -/
def Mma.img (f : Mma) : MmaImg :=
  { op := f.op, d := f.d.val, a := f.a, imm := f.imm
    word := f.imm ++ (Field.c f.c).bits ++ encASrc f.a ++ (Field.b f.d).bits ++ BitVec.ofNat 12 f.op }

/-- The handle checks of R251, each with the operand field that names the handle, 0 where IMM does. -/
def Mma.handles (f : Mma) (s : State) (G : Group) : List (Nat × Bool) :=
  match s.team? G.team with
  | none => []
  | some T =>
    let sh := s.share T.share
    let dc := (Field.b f.d).bits.toNat
    let tileOk := fun (e : Nat × Nat) => (sh.tiles.getD e.1 {}).defined && decide (e.2 ≤ (sh.tiles.getD e.1 {}).size)
    let aTile := match f.a with
      | .tile t => some t.val
      | .glob _ => none
    ((mmaBerths f.op f.d.val).map fun b => (dc, decide (b < T.berths.length))) ++
    (f.tiles.map fun e => (if aTile = some e.1 then (encASrc f.a).toNat else 0, tileOk e)) ++
    convHandle f.c (Field.c f.c).bits s G ++ [(0, T.slot.isSome)]

/-- The address of a global A (R235), and its check (R251). -/
def Mma.addr (f : Mma) (G : Group) : DWord := match f.a with
  | .glob r => G.sreg64 r.val
  | .tile _ => 0
def Mma.addrFault (f : Mma) (G : Group) : Option Rec :=
  match f.a with
  | .tile _ => none
  | .glob _ =>
    let a := f.addr G
    if a.toNat % 256 != 0 then some { accRec { cause := .misaligned } .read a with src := .mx }
    else if !canonical a then some { accRec { cause := .translation, sub := 2 } .read a with src := .mx }
    else none

/-- R242: the part is recorded and its berths pledged, unless the same image is there, and the lanes sign. DESIGN CHOICE (log 44): of
signatures of one image, that which records the part gives the address of row 0. -/
def Mma.record (f : Mma) (s : State) (x : At) (G : Group) (T : Team) (at' : ConvAt) : State :=
  let c := s.conv at'
  let s := match AMap.get? c.parts (at'.key T) with
    | some _ => s
    | none =>
      let p : Part := { img := f.img, g := x.g, gi := G.idx, team := G.team, addr := f.addr G, pkr := G.pkr, pc := x.pc }
      (s.setConv at' { c with parts := AMap.put c.parts (at'.key T) p }).pledge G.team f.op f.d.val (· + 1)
  s.signConv at' (popcount x.N)

/-- The image that is recorded for the team differs, or another team has recorded the other opcode (R242, R254). -/
def Mma.clashes (f : Mma) (c : Conv) (key : Nat) : Bool :=
  (match AMap.get? c.parts key with
    | some p => p.img != f.img
    | none => false) || c.parts.any fun e => e.2.img.op != f.op

/-- A multiplying instruction, after its decode checks: addresses, READY tiles, ownership, then the signature. -/
def Mma.body (f : Mma) (s : State) (x : At) : State :=
  match s.group? x.g with
  | none => s
  | some G =>
    match s.team? G.team with
    | none => s
    | some T =>
      if x.N = 0 then s
      else match f.addrFault G with
        | some r => s.raise x x.N fun _ => r
        | none =>
          let hs := f.tiles.map (·.1)
          let sh := s.share T.share
          let at' := convOf G.team T f.c
          if !(hs.all fun t => (sh.tiles.getD t {}).st == .ready) then s.again x x.T (.tileReady hs)
          else if !((mmaBerths f.op f.d.val).all fun b => (T.berths.getD b {}).owner == some G.idx) then
            s.raise x x.T fun _ => { cause := .berthOwn, info := BitVec.ofNat 32 f.d.val }
          else if f.clashes (s.conv at') (at'.key T) then
            s.raise x x.T fun _ => { cause := .badHandle, info := (Field.c f.c).bits.setWidth 32 }
          else match s.noPlace at' (popcount x.N) [G.team] with
            | some r => s.again x x.T r
            | none => f.record s x G T at'

/-- The registers that A names. -/
def asrcReg : ASrc → List (Reg × Nat)
  | .glob n => [(.s n, 2)]
  | .tile _ => []

def mmaOp (s : State) (h : Hdr) (f : Mma) : Host.Outcome State Fault Refusal :=
  issue s h .core (asrcReg f.a) f.handles f.body

/-- The plain forms. -/
def mmaPlain (s : State) (h : Hdr) (op : Nat) (d : BReg) (a : ASrc) (c : CReg) (hb : HReg) (kq : Fin 4) (ms ns : Fin 8) :
    Host.Outcome State Fault Refusal :=
  mmaOp s h { op, d, a, c, hb := hb.val, kq := kq.val, gn := 0, hx := none, ms := ms.val, ns := ns.val }

/-- The sparse forms. -/
def mmaSparse (s : State) (h : Hdr) (op : Nat) (d : BReg) (a : ASrc) (c : CReg) (hb : HReg) (kq : Fin 4) (ms ns : Fin 8)
    (hx : HReg) : Host.Outcome State Fault Refusal :=
  mmaOp s h { op, d, a, c, hb := hb.val, kq := kq.val, gn := 0, hx := some hx.val, ms := ms.val, ns := ns.val }

/-- The cluster forms. -/
def mmaJoin (s : State) (h : Hdr) (op : Nat) (d : BReg) (a : HReg) (c : CReg) (hb : HReg) (ms ns : Fin 8) :
    Host.Outcome State Fault Refusal :=
  mmaOp s h { op, d, a := .tile a, c, hb := hb.val, kq := 0, gn := 0, hx := none, ms := ms.val, ns := ns.val }

/-- The grouped forms. -/
def mmaGrouped (s : State) (h : Hdr) (op : Nat) (d : BReg) (a : HReg) (c : CReg) (hb : HReg) (gn : Fin 4) (ms ns : Fin 8)
    (hx : HReg) : Host.Outcome State Fault Refusal :=
  mmaOp s h { op, d, a := .tile a, c, hb := hb.val, kq := 0, gn := gn.val, hx := some hx.val, ms := ms.val, ns := ns.val }

/-- MMABF (R249). -/
def execMmabf (h : Hdr) (d : BReg) (a : ASrc) (c : CReg) (hb : HReg) (kq : Fin 4) (ms ns : Fin 8) (s : State) :
    Host.Outcome State Fault Refusal := mmaPlain s h 0xB02 d a c hb kq ms ns
/-- MMAHF (R249). -/
def execMmahf (h : Hdr) (d : BReg) (a : ASrc) (c : CReg) (hb : HReg) (kq : Fin 4) (ms ns : Fin 8) (s : State) :
    Host.Outcome State Fault Refusal := mmaPlain s h 0xB03 d a c hb kq ms ns
/-- MMAE4 (R249). -/
def execMmae4 (h : Hdr) (d : BReg) (a : ASrc) (c : CReg) (hb : HReg) (kq : Fin 4) (ms ns : Fin 8) (s : State) :
    Host.Outcome State Fault Refusal := mmaPlain s h 0xB04 d a c hb kq ms ns
/-- MMAE5 (R249). -/
def execMmae5 (h : Hdr) (d : BReg) (a : ASrc) (c : CReg) (hb : HReg) (kq : Fin 4) (ms ns : Fin 8) (s : State) :
    Host.Outcome State Fault Refusal := mmaPlain s h 0xB05 d a c hb kq ms ns
/-- MMAE45 (R249). -/
def execMmae45 (h : Hdr) (d : BReg) (a : ASrc) (c : CReg) (hb : HReg) (kq : Fin 4) (ms ns : Fin 8) (s : State) :
    Host.Outcome State Fault Refusal := mmaPlain s h 0xB06 d a c hb kq ms ns
/-- MMAI8 (R249). -/
def execMmai8 (h : Hdr) (d : BReg) (a : ASrc) (c : CReg) (hb : HReg) (kq : Fin 4) (ms ns : Fin 8) (s : State) :
    Host.Outcome State Fault Refusal := mmaPlain s h 0xB07 d a c hb kq ms ns
/-- MMAQ4 (R249). -/
def execMmaq4 (h : Hdr) (d : BReg) (a : ASrc) (c : CReg) (hb : HReg) (kq : Fin 4) (ms ns : Fin 8) (s : State) :
    Host.Outcome State Fault Refusal := mmaPlain s h 0xB08 d a c hb kq ms ns
/-- MMAF64 (R249). -/
def execMmaf64 (h : Hdr) (d : BReg) (a : ASrc) (c : CReg) (hb : HReg) (kq : Fin 4) (ms ns : Fin 8) (s : State) :
    Host.Outcome State Fault Refusal := mmaPlain s h 0xB09 d a c hb kq ms ns
/-- MMASE4 (R249, R257). -/
def execMmase4 (h : Hdr) (d : BReg) (a : ASrc) (c : CReg) (hb : HReg) (kq : Fin 4) (ms ns : Fin 8) (hx : HReg)
    (s : State) : Host.Outcome State Fault Refusal := mmaSparse s h 0xB0A d a c hb kq ms ns hx
/-- MMASI8 (R249, R257). -/
def execMmasi8 (h : Hdr) (d : BReg) (a : ASrc) (c : CReg) (hb : HReg) (kq : Fin 4) (ms ns : Fin 8) (hx : HReg)
    (s : State) : Host.Outcome State Fault Refusal := mmaSparse s h 0xB0B d a c hb kq ms ns hx
/-- MMAJBF (R254). -/
def execMmajbf (h : Hdr) (d : BReg) (a : HReg) (c : CReg) (hb : HReg) (ms ns : Fin 8) (s : State) :
    Host.Outcome State Fault Refusal := mmaJoin s h 0xB0C d a c hb ms ns
/-- MMAJE4 (R254). -/
def execMmaje4 (h : Hdr) (d : BReg) (a : HReg) (c : CReg) (hb : HReg) (ms ns : Fin 8) (s : State) :
    Host.Outcome State Fault Refusal := mmaJoin s h 0xB0D d a c hb ms ns
/-- MMAGBF (R255). -/
def execMmagbf (h : Hdr) (d : BReg) (a : HReg) (c : CReg) (hb : HReg) (gn : Fin 4) (ms ns : Fin 8) (hx : HReg)
    (s : State) : Host.Outcome State Fault Refusal := mmaGrouped s h 0xB0E d a c hb gn ms ns hx
/-- MMAGE4 (R255). -/
def execMmage4 (h : Hdr) (d : BReg) (a : HReg) (c : CReg) (hb : HReg) (gn : Fin 4) (ms ns : Fin 8) (hx : HReg)
    (s : State) : Host.Outcome State Fault Refusal := mmaGrouped s h 0xB0F d a c hb gn ms ns hx

/-! ### Berth instructions (R245 to R248) -/

/-- A berth operand is within the team's count (R29). -/
def berthHandle (b : BReg) (s : State) (G : Group) : List (Nat × Bool) :=
  match s.team? G.team with
  | some T => [((Field.b b).bits.toNat, decide (b.val < T.berths.length))]
  | none => []

/-- The group and team of an issue that has counted lanes. -/
def State.acting (s : State) (x : At) : Option (Group × Team) :=
  if x.N = 0 then none
  else (s.group? x.g).bind fun G => (s.team? G.team).map fun T => (G, T)

/-- A berth instruction: an owner-only one issued by another group raises BERTH_OWN in every lane of T. -/
def berthOp (s : State) (h : Hdr) (b : BReg) (regs : List (Reg × Nat)) (owner : Bool)
    (more : State → Group → List (Nat × Bool)) (f : State → At → Group → Berth → State) : Host.Outcome State Fault Refusal :=
  issue s h .core regs (fun s G => berthHandle b s G ++ more s G) fun s x =>
    match s.acting x with
    | none => s
    | some (G, T) =>
      let B := T.berths.getD b.val {}
      if owner && B.owner != some G.idx then
        s.raise x x.T fun _ => { cause := .berthOwn, info := BitVec.ofNat 32 b.val }
      else f s x G B

/-- What a berth instruction read when it first issued, and the PKR of then: that of a wait that has ended, else that of now. -/
def At.keptOr (x : At) (s0 : State) (now : List Word × DWord) : List Word × DWord :=
  match x.reason s0 with
  | some (.berth _ kept pkr) => (kept, pkr)
  | _ => now

/-- As `berthOp`, waiting until the berth is not busy. -/
def berthIdle (b : BReg) (kept : List Word) (f : State → At → Group → Berth → State) (s : State) (x : At) (G : Group) (B : Berth) : State :=
  if B.pending = 0 then f s x G B else s.again x x.T (.berth b.val kept G.pkr)

/-- BZERO (R246). -/
def execBzero (h : Hdr) (b : BReg) (s : State) : Host.Outcome State Fault Refusal :=
  berthOp s h b [] true noHandles (berthIdle b [] fun s _ G _ =>
    s.updBerth G.team b.val fun B => { B with words := [], done := false, lstat := 0, chunk := 0 })

/-- BRD (R246). -/
def execBrd (h : Hdr) (d : VReg) (b : BReg) (v : Src) (s : State) : Host.Outcome State Fault Refusal :=
  berthOp s h b ((.v d, 1) :: srcReg v 1) true noHandles (berthIdle b [] fun s x G B =>
    s.addPend x .value { reg := some (.inl (.v d)), w := 1 }
      ((lanesOf x.T).map fun l => (l, .back [AMap.getD B.words ((G.src l v).toNat % 16384) 0])))

/-- BGIVE (R246). -/
def execBgive (h : Hdr) (b : BReg) (v : SSrc) (s0 : State) : Host.Outcome State Fault Refusal :=
  berthOp s0 h b (ssrcReg v 1) true noHandles fun s x G B =>
    let w := (x.keptOr s0 ([G.ssrc v], G.pkr)).1.headD 0
    let t := w.toNat
    let bad := match s.team? G.team with
      | some T => decide (t ≥ T.groups.length) || T.fin.getD t false
      | none => true
    if bad then s.raise x x.T fun _ => { cause := .badHandle, info := (encSSrc v).setWidth 32 }
    else berthIdle b [w] (fun s _ G _ => s.updBerth G.team b.val fun B => { B with owner := some t }) s x G B

/-- BCLAIM (R246). -/
def execBclaim (h : Hdr) (d : PReg) (b : BReg) (s : State) : Host.Outcome State Fault Refusal :=
  berthOp s h b [] false noHandles fun s x G B =>
    let s := if B.owner.isNone then s.updBerth G.team b.val fun B => { B with owner := some G.idx } else s
    s.resultP x d fun _ _ => B.owner.isNone || B.owner == some G.idx

/-- BFREE (R246). -/
def execBfree (h : Hdr) (b : BReg) (s : State) : Host.Outcome State Fault Refusal :=
  berthOp s h b [] true noHandles (berthIdle b [] fun s _ G _ =>
    s.updBerth G.team b.val fun B => { B with owner := none })

/-- The word of R247. -/
def Berth.stat (B : Berth) : Word :=
  let st := if B.pending > 0 then 1 else if B.done then 2 else 0
  BitVec.ofNat 32 (st * 2 ^ 30 + b2n B.owner.isSome * 2 ^ 29 + B.owner.getD 0 * 2 ^ 24 + B.lstat * 2 ^ 18 +
    min B.pending 511 * 2 ^ 6 + B.chunk)

/-- BSTAT (R246, R247): read at issue. -/
def execBstat (h : Hdr) (d : Reg) (b : BReg) (s : State) : Host.Outcome State Fault Refusal :=
  berthOp s h b [(d, 1)] false noHandles fun s x _ B =>
    s.addPend x .value { reg := some (.inl d), w := 1 } (pendLanes d x fun _ => .back [B.stat])

/-- The tensor checks of R248, with the operand field 0: the identifier stands in IMM. -/
def bwrHandle (b : BReg) (k : KId) (s : State) (G : Group) : List (Nat × Bool) :=
  let ok := match s.tensor? G.ctx k.val with
    | none => false
    | some t => decide (2 ≤ t.rank) && (t.fmt == 6 || t.fmt == 8 || (t.fmt == 7 && b.val % 2 == 0 &&
        (s.berth G.team b.val).owner.isSome && (s.berth G.team (b.val + 1)).owner.isSome))
  [(0, ok)]

/-- The bytes of element (m, n) of a berth, or of a pair (R234). -/
def State.berthElem (s : State) (t b : Nat) (wide : Bool) (m n : Nat) : List Byte :=
  if wide then
    let B := s.berth t (b + m / 64)
    let i := 2 * (m % 64 * 128 + n)
    wordsBytes [AMap.getD B.words i 0, AMap.getD B.words (i + 1) 0]
  else leBytes 4 (AMap.getD (s.berth t b).words (m * 128 + n) 0).toNat

/-- The writes of a BWR, in its order: elements that lie within the first two extents (R248). -/
def State.bwrOut (s : State) (t b : Nat) (k : TensorId) (M N : Nat) (i0 i1 : Int) : List (DWord × Byte) :=
  (List.range M).flatMap fun (m : Nat) => (List.range N).flatMap fun (n : Nat) =>
    let is : List Int := [i0 + n, i1 + m, 0, 0, 0]
    if k.inside is then
      (s.berthElem t b (k.fmt == 7) m n).mapIdx fun i x => (k.elemAddr is + BitVec.ofNat 64 i, x)
    else []

/-- BWR (R248): the store begins once the berth is not busy, with the operands and the PKR of its issue (R303); its bytes land later.
DESIGN CHOICE (log 44): the words of the berth are read as the store begins. -/
def execBwr (h : Hdr) (b : BReg) (sb : SReg) (k : KId) (ms ns : Fin 8) (bar : Option Bar) (s0 : State) :
    Host.Outcome State Fault Refusal :=
  berthOp s0 h b [(.s sb, 2)] true (bwrHandle b k) fun s x G B =>
    match s.tensor? G.ctx k.val with
    | none => s
    | some t =>
      let wide := t.fmt == 7
      let B1 := s.berth G.team (b.val + 1)
      if wide && B1.owner != some G.idx then
        s.raise x x.T fun _ => { cause := .berthOwn, info := BitVec.ofNat 32 (b.val + 1) }
      else
      let (i, pkr) := x.keptOr s0 ([G.sreg sb.val, G.sreg (sb.val + 1)], G.pkr)
      if B.pending != 0 then s.again x x.T (.berth b.val i pkr)
      else if wide && B1.pending != 0 then s.again x x.T (.berth (b.val + 1) i pkr)
      else
        let M := 16 * (ms.val + 1)
        let N := 16 * (ns.val + 1)
        let out := s.bwrOut G.team b.val t M N (i.getD 0 0).toInt (i.getD 1 0).toInt
        let s := s.updBerth G.team b.val fun B => { B with pending := B.pending + 1 }
        let s := if wide then s.updBerth G.team (b.val + 1) fun B => { B with pending := B.pending + 1 } else s
        let e : BStore := { g := x.g, gi := G.idx, team := G.team, ctx := G.ctx, berth := b.val, wide, bar, pc := x.pc, pkr, out, outSeq := s.seq }
        { s with bstores := AMap.put s.bstores (AMap.next s.bstores) e }

/-! ### Pruning (R256) -/

/-- The `k` indices of largest magnitude of a list, ties to the lower index, ascending. -/
def largest (k : Nat) (mags : List Nat) : List Nat :=
  let rank := fun i => ((List.range mags.length).filter fun j =>
    decide (mags.getD j 0 > mags.getD i 0) || (mags.getD j 0 == mags.getD i 0 && decide (j < i))).length
  (List.range mags.length).filter fun i => decide (rank i < k)

/-- The eight bytes of a pair. -/
def pairBytes (G : Group) (l : Nat) (a : VReg) : List Byte := G.data l (.v a) 2

/-- SPRN8 (R256). -/
def prune8 (xs : List Byte) : List Word :=
  let sel := largest 4 (xs.map fun b => b.toInt.natAbs)
  [leWord (sel.map fun i => xs.getD i 0), BitVec.ofNat 32 ((sel.zipIdx.map fun e => e.1 * 8 ^ e.2).sum)]

/-- The order of E4M3K magnitudes is that of their codes. -/
def prune4 (xs : List Byte) : List Word :=
  let sel := fun h => largest 2 ((List.range 4).map fun i => (xs.getD (4 * h + i) 0).toNat % 128)
  let s0 := sel 0
  let s1 := sel 1
  [leWord ((s0.map fun i => xs.getD i 0) ++ (s1.map fun i => xs.getD (4 + i) 0)),
   BitVec.ofNat 32 (((s0 ++ s1).zipIdx.map fun e => e.1 * 4 ^ e.2).sum)]

/-- SPRN8 (R256). -/
def execSprn8 (h : Hdr) (d a : VReg) (s : State) : Host.Outcome State Fault Refusal :=
  issue s h .core [(.v d, 2), (.v a, 2)] noHandles fun s x => s.result x (.v d) 2 fun G l => prune8 (pairBytes G l a)
/-- SPRN4E (R256). -/
def execSprn4e (h : Hdr) (d a : VReg) (s : State) : Host.Outcome State Fault Refusal :=
  issue s h .core [(.v d, 2), (.v a, 2)] noHandles fun s x => s.result x (.v d) 2 fun G l => prune4 (pairBytes G l a)

end Sys2Proof.Machine
end

