-- ==== Sys2Proof/Machine/System.lean ====
section
/-! DEFINITION. Special registers, keys, the return from a trap, and the maintenance of translations and caches: group 0xE,
with the registration of classes (R13 to R16, R195, R292, R293, R302 to R305). -/

namespace Sys2Proof.Machine

/-! ### SRD and SWR (R13 to R16, R302) -/

/-- The value of a special register in a lane. -/
def State.special (s : State) (g : Nat) (G : Group) (T : Team) (r : SpecReg) (l : Nat) : Word :=
  let L := G.lane l
  match r with
  | .thread => threadWord T.idx G.idx l L.helper
  | .place => placeWord (coreOf g)
  | .cluster => BitVec.ofNat 32 T.clIdx
  | .clcount => BitVec.ofNat 32 T.clCount
  | .karglo => loWord T.karg
  | .karghi => hiWord T.karg
  | .cyclo => BitVec.ofNat 32 (s.now g)
  | .cychi => L.cychi
  | .sptlo => loWord L.spt
  | .spthi => hiWord L.spt
  | .rsdepth => BitVec.ofNat 32 L.rs.length
  | .pkrlo => loWord G.pkr
  | .pkrhi => hiWord G.pkr

/-- SRD: a read of CYCLO takes each active lane's snapshot. -/
def execSrd (h : Hdr) (d : Reg) (num : SpecReg) (s : State) : Host.Outcome State Fault Refusal :=
  issue s h .core [(d, 1)] noHandles fun s x =>
    match s.group? x.g with
    | none => s
    | some G =>
      match s.team? G.team with
      | none => s
      | some T =>
        let hi : Word := BitVec.ofNat 32 (s.now x.g / 2 ^ 32)
        let s' := s.result x d 1 fun G l => [s.special x.g G T num l]
        if num = .cyclo then s'.updGroup x.g fun G => G.updLanes x.T fun _ L => { L with cychi := hi } else s'

/-- SPT with one half written; bits [2:0] stay zero (R16). -/
def Lane.writeSpt (L : Lane) (hi : Bool) (w : Word) : Lane :=
  { L with spt := if hi then pairOf (loWord L.spt) w else pairOf (w &&& ~~~(7 : Word)) (hiWord L.spt) }

/-- SWR. -/
def execSwr (h : Hdr) (hi : Bool) (a : Reg) (s : State) : Host.Outcome State Fault Refusal :=
  issue s h .core [(a, 1)] noHandles fun s x =>
    s.updGroup x.g fun G => G.updLanes x.T fun l L => L.writeSpt hi (G.reg l a 0)

/-! ### Keys (R303, R304) -/

/-- KEYW. -/
def execKeyw (h : Hdr) (sa : SReg) (s : State) : Host.Outcome State Fault Refusal :=
  issue s h .core [(.s sa, 2)] noHandles fun s x =>
    if x.N = 0 then s else s.updGroup x.g fun G => { G with pkr := G.sreg64 sa.val }

/-- KEYR: the probe is made when its result returns. -/
def execKeyr (h : Hdr) (d a : Reg) (disp : Word) (s : State) : Host.Outcome State Fault Refusal :=
  issue s h .core [(d, 1), (a, 2)] noHandles fun s x =>
    match s.group? x.g with
    | none => s
    | some G => s.addPend x .keyr { reg := some (.inl d), w := 1 } (pendLanes d x fun l => .waiting (G.addr l a disp))

/-- The word of KEYR. -/
def keyrWord (f : Leaf) (pkr : DWord) : Word :=
  let k := pteKey f.e
  BitVec.ofNat 32 (2 ^ 31 + f.lvl * 2 ^ 22 + b2n (pkr.getLsbD (2 * k + 1)) * 2 ^ 21 + b2n (pkr.getLsbD (2 * k)) * 2 ^ 20 +
    k * 2 ^ 11 + b2n (pteHost f.e) * 2 ^ 7 + b2n (pteTier f.e) * 2 ^ 6 + b2n (pteD f.e) * 2 ^ 5 + b2n (pteA f.e) * 2 ^ 4 +
    b2n (pteX f.e) * 2 ^ 3 + b2n (pteW f.e) * 2 ^ 2 + b2n (pteR f.e) * 2)

/-! ### Handlers (R292, R293) -/

/-- ERET: a switch marker in each active lane; outside a handler it is illegal. -/
def execEret (h : Hdr) (s : State) : Host.Outcome State Fault Refusal :=
  issue s { h with mark := false } .core [] noHandles fun s x =>
    match s.group? x.g with
    | none => s
    | some G =>
      let out := maskOf fun l => inMask x.T l && (G.lane l).traps.isEmpty
      let s := s.raise x (out &&& ~~~G.helpers) fun _ => { cause := .illegal }
      let back := x.T &&& ~~~out
      let s := s.updGroup x.g fun G => G.updLanes back fun _ L => { L with pc := x.pc }
      let by' := if h.mark then x.B &&& ~~~(back ||| (out &&& ~~~G.helpers)) else 0
      s.park x.g (back ||| by') fun l => if inMask back l then .eret else .go

/-- TRPV. -/
def execTrpv (h : Hdr) (a : Reg) (i : Fin 4) (s : State) : Host.Outcome State Fault Refusal :=
  issue s h .core [(a, 1)] noHandles fun s x =>
    match s.group? x.g with
    | none => s
    | some G =>
      let out := maskOf fun l => inMask x.T l && (G.lane l).traps.isEmpty
      let s := s.updGroup x.g fun G => G.updLanes (x.T &&& ~~~out) fun l L =>
        { L with traps := match L.traps with
            | [] => []
            | t :: ts =>
              (if i.val < t.dest.w then
                { t with rv := t.rv.set i.val (G.reg l a 0), rvValid := t.rvValid ||| (1 <<< i.val : BitVec 4) }
              else t) :: ts }
      s.raise x (out &&& ~~~G.helpers) fun _ => { cause := .illegal }

/-! ### Ranges of virtual addresses (R305) -/

/-- The walk of the tables at their homes: the level where it ends, and the leaf if there is one. -/
def State.leafAt (s : State) (va : DWord) (table : Nat) : Nat → Nat × Option Leaf
  | 0 => (0, none)
  | fuel + 1 =>
    let addr := table + 8 * vaIndex va fuel
    let e := leDWord (s.bytes addr 8)
    if !pteV e || pteMalformed e fuel then (fuel, none)
    else if pteLeaf e then (fuel, some { e, lvl := fuel, pte := addr })
    else s.leafAt va (pteNext e) fuel

/-- The pages present between two addresses: the first address of each within the range, its end there, and its leaf. -/
def State.pagesIn (s : State) (root hi : Nat) : Nat → Nat → List (Nat × Nat × Leaf)
  | 0, _ => []
  | fuel + 1, lo =>
    if lo ≥ hi then []
    else
      let va := BitVec.ofNat 64 lo
      if !canonical va then s.pagesIn root hi fuel (2 ^ 64 - 2 ^ 56)
      else
        let (lvl, f) := s.leafAt va root 4
        let next := (lo / 2 ^ pageLog lvl + 1) * 2 ^ pageLog lvl
        let rest := s.pagesIn root hi fuel next
        match f with
        | some f => if region (f.pa va) = .reserved then rest else (lo, min next hi, f) :: rest
        | none => rest

/-- A wave holds an entry of the walk of an address (R201). -/
def State.leafHeld (s : State) (va : DWord) (table : Nat) : Nat → Bool
  | 0 => false
  | fuel + 1 =>
    let addr := table + 8 * vaIndex va fuel
    let e := leDWord (s.bytes addr 8)
    s.waveHolds [addr] || (pteV e && !pteMalformed e fuel && !pteLeaf e && s.leafHeld va (pteNext e) fuel)

/-- A wave holds an entry of one of the walks of `pagesIn`. -/
def State.walksHeld (s : State) (root hi : Nat) : Nat → Nat → Bool
  | 0, _ => false
  | fuel + 1, lo =>
    if lo ≥ hi then false
    else
      let va := BitVec.ofNat 64 lo
      if !canonical va then s.walksHeld root hi fuel (2 ^ 64 - 2 ^ 56)
      else s.leafHeld va root 4 || s.walksHeld root hi fuel ((lo / 2 ^ pageLog (s.leafAt va root 4).1 + 1) * 2 ^ pageLog (s.leafAt va root 4).1)

/-- The pieces of a range of `len` bytes, modulo 2^64. -/
def rangeOf (a len : DWord) : List (Nat × Nat) :=
  let e := a.toNat + len.toNat
  if e ≤ 2 ^ 64 then [(a.toNat, e)] else [(a.toNat, 2 ^ 64), (0, e - 2 ^ 64)]

/-- The pages of a range. -/
def State.rangePages (s : State) (ctx : Nat) (a len : DWord) : List (Nat × Nat × Leaf) :=
  (rangeOf a len).flatMap fun r => s.pagesIn (s.rootOf ctx) r.2 ((r.2 - r.1) / 65536 + 4) r.1

/-- The physical ranges of pages. -/
def physRanges (ps : List (Nat × Nat × Leaf)) : List (Nat × Nat) :=
  ps.map fun p => (p.2.2.pa (BitVec.ofNat 64 p.1), p.2.2.pa (BitVec.ofNat 64 p.1) + (p.2.1 - p.1))

/-- `n` bytes at an address meet one of some ranges. -/
def meets (rs : List (Nat × Nat)) (a n : Nat) : Bool := rs.any fun r => decide (a < r.2) && decide (r.1 < a + n)

/-! ### TLBINV, CACHEWB and CACHEINV (R305) -/

/-- The lines in the slices that a CACHEWB of a range concerns. -/
def State.linesIn (s : State) (ctx : Nat) (a len : DWord) : List Nat :=
  let rs := physRanges ((s.rangePages ctx a len).filter fun p => pteR p.2.2.e)
  (s.l2.filter fun e => meets rs (64 * e.1) 64).map (·.1)

/-- No write of a line of a range is on its way any longer: every WACK has arrived (R159). -/
def State.wbDone (s : State) (ctx : Nat) (a len : DWord) : Bool :=
  let rs := physRanges ((s.rangePages ctx a len).filter fun p => pteR p.2.2.e)
  let out := fun (p : Packet) => match addrOf p.target p.off with
    | some pa => meets rs (pa / 64 * 64) (pa % 64 + 32 * p.beats)
    | none => false
  !(s.writes.any fun e => out e.2.p) && !(s.portQ.any fun p => p.ty == .wr && out p) && !(s.packets.any fun e => e.2.ty == .wack && out e.2)

/-- The work: 0 for TLBINV, 1 for CACHEWB, 2 for CACHEINV. -/
def State.maintain (s : State) (core ctx what : Nat) (a len : DWord) : State :=
  match what with
  | 0 =>
    let rs := rangeOf a len
    s.dropTranslations ctx fun lo n => len == 0 || meets rs lo n
  | 1 => (s.linesIn ctx a len).foldl (fun s l => s.writeBack l) s
  | _ =>
    let rs := physRanges (s.rangePages ctx a len)
    { s with
      icache := s.icache.filter fun e => !meets rs (e.1 % 2 ^ 46 * 4) 4
      l1 := s.l1.filter fun e => e.1 / 2 ^ 46 != core || e.2.owned || !meets rs (e.1 % 2 ^ 46 * 4) 4 }

/-- The work has to look up pages, and a wave holds an entry that the walks read (R201). -/
def State.maintHeld (s : State) (g what : Nat) (a len : DWord) : Bool :=
  what != 0 && match s.group? g with
    | some G => (rangeOf a len).any fun r => s.walksHeld (s.rootOf G.ctx) r.2 ((r.2 - r.1) / 65536 + 4) r.1
    | none => false

/-- The work once the release is complete; the lanes go on, after a CACHEWB only when its writes have been acknowledged. -/
def State.runMaint (s : State) (g seq what : Nat) (a len : DWord) (m : Word) : State :=
  match s.group? g with
  | none => s
  | some G =>
    let s := s.maintain (coreOf g) G.ctx what a len
    if what = 1 && !s.wbDone G.ctx a len then s.updGroup g fun G => { G with held := { seq, lanes := m, act := .maint what a len m true } :: G.held }
    else s.wake g m

/-- A maintenance instruction. -/
def maintOp (s : State) (h : Hdr) (what : Nat) (sa : SReg) (b : SSrc) : Host.Outcome State Fault Refusal :=
  issue s h .core ((.s sa, 2) :: ssrcReg b 1) noHandles fun s x =>
    match s.group? x.g with
    | none => s
    | some G =>
      let a := G.sreg64 sa.val
      let len : DWord := (G.ssrc b).setWidth 64
      if x.N = 0 then s
      else if s.mustHold x.g x.seq x.T || s.maintHeld x.g what a len then s.holdAct x.g x.seq x.T x.T (.maint what a len x.T false)
      else
        let s := s.maintain (coreOf x.g) G.ctx what a len
        if what = 1 && !s.wbDone G.ctx a len then s.holdAct x.g x.seq x.T x.T (.maint what a len x.T true) else s

/-- TLBINV (R305). -/
def execTlbinv (h : Hdr) (sa : SReg) (b : SSrc) (s : State) : Host.Outcome State Fault Refusal := maintOp s h 0 sa b
/-- CACHEWB (R305). -/
def execCachewb (h : Hdr) (sa : SReg) (b : SSrc) (s : State) : Host.Outcome State Fault Refusal := maintOp s h 1 sa b
/-- CACHEINV (R305). -/
def execCacheinv (h : Hdr) (sa : SReg) (b : SSrc) (s : State) : Host.Outcome State Fault Refusal := maintOp s h 2 sa b

/-! ### Classes (R194, R195) -/

/-- A class descriptor; `none` if it breaks R194. -/
def classOfDesc (b : List Byte) : Option QClass :=
  let at' := fun off n => leNat ((b.drop off).take n)
  let es := [0, 1, 2, 3].map fun i => (BitVec.ofNat 64 (at' (8 * i) 8) : DWord)
  let size := at' 0x20 2
  let flags := at' 0x24 4
  if es.getD 0 0 != 0 && (es.all fun e => canonical e && e.toNat % 4 == 0) && decide (4 ≤ size) && decide (size ≤ 256)
      && size % 4 == 0 && at' 0x22 2 == 0 && decide (flags < 16) && (b.drop 0x28).all (· == 0) then
    some { entries := es, size, wr := BitVec.ofNat 4 flags }
  else none

/-- QREG: the descriptor is read once for the group when the result returns. -/
def execQreg (h : Hdr) (d sa : SReg) (cls : Fin 256) (s : State) : Host.Outcome State Fault Refusal :=
  issue s h .core [(.s d, 1), (.s sa, 2)] noHandles fun s x =>
    match s.group? x.g with
    | none => s
    | some G =>
      let a := G.sreg64 sa.val
      if x.T = 0 then s
      else if a.toNat % 64 != 0 then s.raise x x.T fun _ => accRec { cause := .misaligned } .read a
      else
        (s.addPend x (.qreg cls.val) { reg := some (.inl (.s d)), w := 1 } ((lanesOf x.T).map fun l => (l, .waiting a))).waitLanes x x.T
          fun _ => .result x.seq

/-- QDEREG: new requests are refused from now on; the result comes once the class has drained. -/
def execQdereg (h : Hdr) (d : SReg) (cls : Fin 256) (s : State) : Host.Outcome State Fault Refusal :=
  issue s h .core [(.s d, 1)] noHandles fun s x =>
    match s.group? x.g with
    | none => s
    | some G =>
      if x.T = 0 then s
      else
        let known := (s.classOf G.ctx cls.val).isSome
        let s := s.updCtx G.ctx fun c => { c with classes := AMap.upd c.classes cls.val fun q => { q with closing := true } }
        let s := s.addPend x (.qdereg cls.val) { reg := some (.inl (.s d)), w := 1 }
          ((lanesOf x.T).map fun l => (l, if known then .waiting 0 else .back [1]))
        if known then s.waitLanes x x.T fun _ => .result x.seq else s

end Sys2Proof.Machine
end

