-- ==== Sys2Proof/Machine/Engines.lean ====
section
/-! DEFINITION. Queue registers and their commands, tiles, tensor identifiers and the event matrix: group 0xC (R211 to R218,
R220, R224 to R230). -/

namespace Sys2Proof.Machine

/-! ### Copy commands (R214, R218) -/

/-- LEN of a header. -/
def cmdLen (w : Word) : Nat := bitsAt w 0 5

/-- check_header of a copy command (R214, R218). -/
def copyHeaderOk (w : Word) : Bool :=
  match bitsAt w 5 3 with
  | 0 => decide (4 ≤ cmdLen w) && decide (cmdLen w ≤ 24)
  | 1 | 2 => cmdLen w == 2 && bitsAt w 8 24 == 0
  | _ => false

/-- The tensors that a copy command names, read as it stands. -/
def State.copyOf (s : State) (g : Nat) (G : Group) (pc : DWord) (ws : List Word) : Copy :=
  let w := fun i => ws.getD i 0
  let ten := fun (i : Nat) => s.tensor? G.ctx (bitsAt (w i) 0 8)
  let src := if (w 0).getLsbD 8 then none else ten 2
  let idxAt := 2 + operandLen ((w 0).getLsbD 8) src
  let idx := if (w 0).getLsbD 10 then ten idxAt else none
  let dstAt := idxAt + (if (w 0).getLsbD 10 then 2 else 0)
  let dst := if (w 0).getLsbD 9 then none else ten dstAt
  { g, gi := G.idx, team := G.team, ctx := G.ctx, words := ws, src, idx, dst, pkr := G.pkr, order := s.seq, pc }

/-- A tile word (R218): the handle is defined and the range lies within its bytes. -/
def tileWordOk (sh : Share) (w : Word) (n : Nat) : Bool :=
  let t := sh.tiles.getD (bitsAt w 0 6) {}
  bitsAt w 6 2 == 0 && bitsAt w 8 24 % 8 == 0 && t.defined && decide (bitsAt w 8 24 + n ≤ t.size)

/-- A tensor word: a defined identifier, and no other bit. -/
def tensorWordOk (w : Word) (t : Option TensorId) : Bool := bitsAt w 8 24 == 0 && t.isSome

/-- A barrier word (R140, R218). -/
def barWordOk (w : Word) : Bool := bitsAt w 5 27 == 0 && (!w.getLsbD 4 || !w.getLsbD 3)

/-- check_command of a COPY (R214, R218, R220): the index of the first offending word. DESIGN CHOICE (log 14): the order of the checks, and the
word of a check that concerns several: the header for SK with DK and for LEN, the destination for boxes and widths that differ. -/
def Copy.check (c : Copy) (sh : Share) : Option Nat :=
  let w := c.word
  let need := c.stampAt + (if c.hasStamp then 4 else 0)
  let srcRank := (c.src.map TensorId.rank).getD 0
  let boxes := match c.src, c.dst with
    | some a, some b => a.box == b.box && fmtWidth a.fmt == fmtWidth b.fmt
    | _, _ => true
  let idxOk := match c.idx with
    | some t => t.fmt == 8 && t.rank == 1
    | none => false
  let dsel := bitsAt (w c.idxAt) 8 3
  let tests : List (Nat × Bool) :=
    [(0, !(c.sk && c.dk)), (0, !(c.hasIdx && c.sk)), (1, bitsAt (w 1) 0 2 == 0),
     (2, if c.sk then true else tensorWordOk (w 2) c.src),
     (c.dstAt, if c.dk then true else tensorWordOk (w c.dstAt) c.dst),
     (0, cmdLen (w 0) == need),
     (2, !c.sk || tileWordOk sh (w 2) c.total),
     (c.idxAt, !c.hasIdx || (idxOk && bitsAt (w c.idxAt) 11 21 == 0 && decide (1 ≤ dsel) && decide (dsel < srcRank))),
     (c.dstAt, !c.dk || tileWordOk sh (w c.dstAt) c.total),
     (c.dstAt, boxes),
     (c.barAt, !c.hasBar || barWordOk (w c.barAt)),
     (c.stampAt, !c.hasStamp || (canonical c.stampVa && c.stampVa.toNat % 8 == 0)),
     (c.stampAt + 3, !c.hasStamp || bitsAt (w (c.stampAt + 3)) 16 16 == 0)]
  (tests.find? fun e => !e.2).map (·.1)

/-- check_command of a RESUME or a CANCEL: the entry is STOPPED and of this team. -/
def State.stopCheck (s : State) (g : Nat) (G : Group) (ws : List Word) : Option Nat :=
  let w := ws.getD 1 0
  let ok := bitsAt w 6 26 == 0 && match AMap.get? (s.core (coreOf g)).journal (bitsAt w 0 6) with
    | some c => c.st == .stopped && c.team == G.team
    | none => false
  if ok then none else some 1

/-- The lowest FREE entry of a journal (R217). -/
def Core.freeEntry (C : Core) : Option Nat := (List.range 64).find? fun j => (AMap.get? C.journal j).isNone

/-- A unit that is being resumed, and placed, takes the next FREE entries of a core's journal (R319). -/
def State.resumeTakes (s : State) (core : Nat) : Bool :=
  s.saved.any fun e => e.2.resume.isSome && e.2.copies.any fun c => match s.team? c.team with
    | some T => T.core == core
    | none => false

/-- A checked COPY is submitted: it takes the lowest FREE entry, and its destination tile expects its bytes (R214, R217, R226).
`none` while no entry is FREE for it. -/
def State.submitCopy (s : State) (g : Nat) (c : Copy) : Option State :=
  match s.group? g with
  | none => none
  | some G =>
    let core := coreOf g
    if s.resumeTakes core then none
    else match (s.core core).freeEntry with
    | none => none
    | some j =>
      let s := s.bump
      let k := s.keyOf G
      let enters := match c.dstTile with
        | some h => (s.tile k h).st == .empty || (s.tile k h).st == .filling
        | none => false
      let C := s.core core
      let s := s.setCore core { C with journal := AMap.put C.journal j { c with g, order := s.seq, entered := enters } }
      some (match c.dstTile with
        | some h => if enters then
            let t := s.tile k h
            s.setTile k h { t with st := .filling, exp := cnt20 (t.exp + c.total) }
          else s
        | none => s)

/-- RESUME and CANCEL act on their entry at once (R223). -/
def State.resumeCopy (s : State) (core j : Nat) : State :=
  let s := (s.dropWaiters (· == .copy core j)).bump
  let C := s.core core
  s.setCore core { C with journal := AMap.upd C.journal j fun c =>
    { c with st := .queued, order := s.seq, waiting := false, stamped := false, stampDue := none } }

/-! ### Gate commands (R230) -/

def gateHeaderOk (w : Word) : Bool :=
  decide (1 ≤ bitsAt w 8 4) && decide (bitsAt w 8 4 ≤ 4) && bitsAt w 5 3 == 0 && (cmdLen w == 4 || cmdLen w == 8)

def Gate.cmd (c : Gate) (i : Nat) : Word := c.words.getD i 0
def Gate.op (c : Gate) : Nat := bitsAt (c.cmd 0) 8 4
def Gate.cq (c : Gate) : Bool := (c.cmd 0).getLsbD 13
def Gate.hasStamp (c : Gate) : Bool := (c.cmd 0).getLsbD 12
def Gate.tag (c : Gate) : Nat := bitsAt (c.cmd 0) 16 16
def Gate.wt (c : Gate) : Bool := (c.cmd 1).getLsbD 7
def Gate.wg (c : Gate) : Nat := bitsAt (c.cmd 1) 5 2
def Gate.ev (c : Gate) : Bool := (c.cmd 1).getLsbD 4
def Gate.E (c : Gate) : Nat := bitsAt (c.cmd 3) 0 9
def Gate.K (c : Gate) : Nat := bitsAt (c.cmd 3) 9 3 + 1
def Gate.val (c : Gate) : Bool := (c.cmd 3).getLsbD 12
def Gate.kid (c : Gate) (i : Nat) : Nat := bitsAt (c.cmd 2) (8 * i) 8
def Gate.ten (c : Gate) (i : Nat) : Option TensorId := (c.tens.getD i none)
def Gate.stampVa (c : Gate) : DWord := pairOf (c.cmd 4) (c.cmd 5)
def Gate.stampWord (c : Gate) : DWord :=
  BitVec.ofNat 64 (c.status * 2 ^ 48 + bitsAt (c.cmd 7) 0 16 * 2 ^ 32 + (c.cmd 6).toNat)

/-- A tensor has a format, a rank and leading extents. -/
def tensorIs (t : Option TensorId) (fmts : List Nat) (dims : List Nat) : Bool :=
  match t with
  | some t => fmts.contains t.fmt && t.rank == dims.length && t.dims.take t.rank == dims
  | none => false

/-- The tensors of an operation (R230). -/
def Gate.tensorsOk (c : Gate) : Bool :=
  let A := c.ten 0
  let T := (A.map fun t => t.dims.getD 1 0).getD 0
  let fmt := (A.map TensorId.fmt).getD 0
  let tOk := decide (1 ≤ T) && decide (T ≤ 2 ^ 24)
  match c.op with
  | 1 => tensorIs A [4, 6] [c.E, T] && tOk && decide (c.K ≤ c.E) && tensorIs (c.ten 1) [8] [c.K, T]
      && (if c.val then tensorIs (c.ten 2) [fmt] [c.K, T] else c.kid 2 == 0) && c.kid 3 == 0
  | 2 => fmt == 8 && A.isSome && tensorIs (c.ten 1) [8] [c.E] && c.kid 2 == 0 && c.kid 3 == 0
  | 3 => tensorIs A [8] [c.E] && tensorIs (c.ten 1) [8] [c.E + 1] && c.kid 2 == 0 && c.kid 3 == 0
  | _ => tensorIs A [8] [c.K, T] && tOk && tensorIs (c.ten 1) [8] [T * c.K] && tensorIs (c.ten 2) [8] [c.E]
      && tensorIs (c.ten 3) [8] [c.E + 1]

/-- check_command of a gate command: the index of the first offending word. DESIGN CHOICE (log 15): the order of the checks, and word 2 for every
check of the tensors. -/
def Gate.check (c : Gate) : Option Nat :=
  let tests : List (Nat × Bool) :=
    [(0, cmdLen (c.cmd 0) == if c.hasStamp then 8 else 4), (1, bitsAt (c.cmd 1) 0 4 == 0),
     (3, decide (1 ≤ c.E) && decide (c.E ≤ 256) && bitsAt (c.cmd 3) 13 19 == 0 && (c.op == 1 || !c.val)),
     (2, c.tensorsOk),
     (4, !c.hasStamp || (canonical c.stampVa && c.stampVa.toNat % 8 == 0)),
     (7, !c.hasStamp || bitsAt (c.cmd 7) 16 16 == 0)]
  (tests.find? fun e => !e.2).map (·.1)

def State.gateOf (s : State) (g : Nat) (G : Group) (pc : DWord) (ws : List Word) : Gate :=
  let w := ws.getD 2 0
  { g, gi := G.idx, team := G.team, ctx := G.ctx, words := ws, pkr := G.pkr, order := s.seq, pc
    tens := (List.range 4).map fun i => s.tensor? G.ctx (bitsAt w (8 * i) 8) }

/-- A checked gate command is submitted while its unit's input queue has room (R214, R230). -/
def State.submitGate (s : State) (g : Nat) (c : Gate) : Option State :=
  let u := tetradOf (coreOf g)
  let q := s.gateQ u
  if q.length ≥ 16 then none
  else
    let s := s.bump
    some (s.setGate u (q ++ [{ c with g, order := s.seq }]))

/-! ### QPUSH, QPOP and QTRY (R211 to R214) -/

def Group.buf (G : Group) (q : Nat) : List Word := if q = 0 then G.q0 else G.q2
def Group.setBuf (G : Group) (q : Nat) (ws : List Word) : Group := if q = 0 then { G with q0 := ws } else { G with q2 := ws }

/-- A bad word of a command: the buffer is cleared and the lanes trap (R214, R284). -/
def State.cmdFault (s : State) (x : At) (q : QReg) (i : Nat) : State :=
  let s := s.updGroup x.g fun G => G.setBuf q.val []
  s.raise x x.T fun _ => { cause := .badHandle, info := BitVec.ofNat 32 ((Field.q q).bits.toNat + 1024 * (i % 64)) }

/-- The copy command, or the gate command, of a group is kept until it is accepted: it has copied the entries that its check read
(R214, R216). -/
def Group.keep (G : Group) (q : Nat) (pc : DWord) (ws : List Word) (s : State) (g : Nat) : Group :=
  if q = 0 then { G with sub0 := some (s.copyOf g G pc ws) } else { G with sub2 := some (s.gateOf g G pc ws) }

/-- The command that a group has assembled and kept is submitted and its buffer cleared; `none` while the engine has no room. -/
def State.submit (s : State) (g q : Nat) : Option State :=
  match s.group? g with
  | none => none
  | some G =>
    let done := fun (s : State) => s.updGroup g fun G => { G.setBuf q [] with sub0 := if q = 0 then none else G.sub0, sub2 := if q = 0 then G.sub2 else none }
    let ws := G.buf q
    if q = 0 then
      match bitsAt (ws.getD 0 0) 5 3 with
      | 0 => (G.sub0.bind (s.submitCopy g)).map done
      | 1 => some (done (s.resumeCopy (coreOf g) (bitsAt (ws.getD 1 0) 0 6)))
      | _ => some (done (s.cancelCopy (coreOf g) (bitsAt (ws.getD 1 0) 0 6)))
    else (G.sub2.bind (s.submitGate g)).map done

/-- The check of a whole command. -/
def State.commandCheck (s : State) (g : Nat) (G : Group) (q : Nat) (ws : List Word) : Option Nat :=
  if q = 0 then
    if bitsAt (ws.getD 0 0) 5 3 = 0 then (s.copyOf g G 0 ws).check (s.share (s.keyOf G)) else s.stopCheck g G ws
  else (s.gateOf g G 0 ws).check

/-- QPUSH of a word (R213). DESIGN CHOICE (log 19): while the buffer holds a complete command of other lanes that waits for acceptance, the
instruction waits for the buffer, and reads its word when it is executed again. -/
def State.pushWord (s : State) (x : At) (q : QReg) (w : Word) : State :=
  match s.group? x.g with
  | none => s
  | some G =>
    let old := G.buf q.val
    if !old.isEmpty && old.length == cmdLen (old.getD 0 0) then s.again x x.T (.buffer q.val)
    else
      let ws := old ++ [w]
      let ok := if q = 0 then copyHeaderOk w else gateHeaderOk w
      if old.isEmpty && !ok then s.cmdFault x q 0
      else if ws.length < cmdLen (ws.getD 0 0) then s.updGroup x.g fun G => G.setBuf q.val ws
      else match s.commandCheck x.g G q.val ws with
        | some i => s.cmdFault x q i
        | none =>
          let s' := s.updGroup x.g fun G => (G.setBuf q.val ws).keep q.val x.pc ws s x.g
          match s'.submit x.g q.val with
          | some s => s
          | none => s'.waitLanes x x.T fun _ => .submit q.val

/-- A queue operand (R29, R211). -/
def queueHandle (q : QReg) (ok : List Nat) (_ : State) (_ : Group) : List (Nat × Bool) :=
  [((Field.q q).bits.toNat, ok.contains q.val)]

/-- QPUSH (R213). -/
def execQpush (h : Hdr) (q : QReg) (a : SSrc) (s : State) : Host.Outcome State Fault Refusal :=
  issue s h .core (ssrcReg a 1) (queueHandle q [0, 2]) fun s x =>
    match s.group? x.g with
    | none => s
    | some G => if x.N = 0 then s else s.pushWord x q (G.ssrc a)

/-- The result queue of a register. -/
def Group.results (G : Group) (q : Nat) : List Word := if q = 1 then G.q1 else G.q3
def Group.popResult (G : Group) (q : Nat) : Group := if q = 1 then { G with q1 := G.q1.tail } else { G with q3 := G.q3.tail }

/-- QPOP (R213): the word is removed at issue. -/
def execQpop (h : Hdr) (d : Reg) (q : QReg) (s : State) : Host.Outcome State Fault Refusal :=
  issue s h .core [(d, 1)] (queueHandle q [1, 3]) fun s x =>
    match s.group? x.g with
    | none => s
    | some G =>
      if x.N = 0 then s
      else match G.results q.val with
        | [] => s.again x x.T (.qpop q.val)
        | w :: _ => (s.updGroup x.g fun G => G.popResult q.val).addPend x .value { reg := some (.inl d), w := 1 }
            (pendLanes d x fun _ => .back [w])

/-- QTRY (R213). -/
def execQtry (h : Hdr) (d : Reg) (q : QReg) (s : State) : Host.Outcome State Fault Refusal :=
  issue s h .core [(d, 2)] (queueHandle q [1, 3]) fun s x =>
    match s.group? x.g with
    | none => s
    | some G =>
      if x.N = 0 then s
      else
        let (s, v) := match G.results q.val with
          | [] => (s, [0, 0])
          | w :: _ => (s.updGroup x.g fun G => G.popResult q.val, [w, 1])
        s.addPend x .value { reg := some (.inl d), w := 2 } (pendLanes d x fun _ => .back v)

/-! ### Tiles (R224 to R227) -/

/-- A tile operand is defined (R29). -/
def tileHandle (t : HReg) (s : State) (G : Group) : List (Nat × Bool) :=
  [((Field.h t).bits.toNat, ((s.shareOf G).tiles.getD t.val {}).defined)]

/-- TDEF (R227). -/
def execTdef (h : Hdr) (t : HReg) (sa sb : SReg) (ready : Bool) (s : State) : Host.Outcome State Fault Refusal :=
  issue s h .core [(.s sa, 1), (.s sb, 1)] noHandles fun s x =>
    match s.group? x.g with
    | none => s
    | some G =>
      let k := s.keyOf G
      let a := (G.sreg sa.val).toNat
      let b := (G.sreg sb.val).toNat
      if x.N = 0 then s
      else if a % 8 != 0 || b % 8 != 0 || b == 0 || a + b > (s.share k).size then
        s.raise x x.T fun _ => { cause := .badHandle, info := (Field.h t).bits.setWidth 32 }
      else if s.tileInJournal (coreOf x.g) k t.val || s.tileInOp k t.val then s.again x x.T (.tdef t.val)
      else s.setTile k t.val
        { base := a, size := b, defined := true, st := if ready then .ready else .empty
          exp := if ready then b else 0, arr := if ready then b else 0 }

/-- The word of TSTAT (R227). -/
def Tile.stat (t : Tile) : Word :=
  let st := match t.st with
    | .empty => 0
    | .filling => 1
    | .ready => 2
    | .draining => 3
  BitVec.ofNat 32 (st * 2 ^ 30 + t.arr % 2 ^ 20)

/-- TSTAT (R227): fixed-latency. -/
def execTstat (h : Hdr) (d : Reg) (t : HReg) (s : State) : Host.Outcome State Fault Refusal :=
  issue s h .core [(d, 1)] (tileHandle t) fun s x =>
    if x.N = 0 then s
    else
      let w := (s.tile (s.shareKey x.g) t.val).stat
      s.result x d 1 fun _ _ => [w]

/-- TFREE (R226, R227, R252): one that waits takes effect with the row that ends FILLING or DRAINING, or when no operation names its READY
tile any longer. -/
def execTfree (h : Hdr) (t : HReg) (s : State) : Host.Outcome State Fault Refusal :=
  issue s h .core [] (tileHandle t) fun s x =>
    let k := s.shareKey x.g
    let tile := s.tile k t.val
    if x.N = 0 || tile.st == .empty then s
    else if tile.st == .ready && !s.tileInOp k t.val then s.tileEmpty (coreOf x.g) k t.val
    else s.waitLanes x x.T fun _ => .tfree t.val

/-- TWAIT (R227). -/
def execTwait (h : Hdr) (t : HReg) (s : State) : Host.Outcome State Fault Refusal :=
  issue s h .core [] (tileHandle t) fun s x =>
    if x.N = 0 || (s.tile (s.shareKey x.g) t.val).st == .ready then s else s.again x x.T (.tileReady [t.val])

/-! ### Tensor identifiers (R215, R216) -/

/-- A read that the group makes once, by the lowest counted lane (R26, R216): its own stores in flight, else the home. -/
def State.groupRead (s : State) (x : At) (va : DWord) (n : Nat) (pkr : DWord) : State × LaneRead :=
  match s.group? x.g with
  | none => (s, .later)
  | some G =>
    match s.xlate (via x.g G) va n .read (some pkr) with
    | (s, .error e) => (s, .fault e)
    | (s, .ok pas) => s.readMem x.g ((lowest x.N).getD 0) x.seq pas false

/-- A read of the group that fails before the next instruction: every lane of T waits for service, or traps (R25, R285). -/
def State.groupFault (s : State) (x : At) (va pkr : DWord) (a : Acc) (e : XFault) : State :=
  match s.group? x.g with
  | none => s
  | some _ =>
    let r : Rec := { accRec e .read va with resume := x.pc, fpc := x.pc, mask := x.T }
    if e.serviced then (lanesOf x.T).foldl (fun s l => s.laneFault x.g l x.pc va e .read a pkr (some r)) s
    else s.raise x x.T fun _ => r

/-- What KDEF does with what its read gave (R216); `none` while the read has to wait. -/
def State.kdefTake (s : State) (x : At) (k : Nat) (va pkr : DWord) : LaneRead → Option State
  | .later => none
  | .fault e => some (s.groupFault x va pkr (.kdef k) e)
  | .poison i => some (s.raise x x.T fun _ => accRec { cause := .uncorr } .read (va + BitVec.ofNat 64 i))
  | .bytes bs => some (match tensorOf bs, s.group? x.g with
    | some t, some G => (s.dropRows G.ctx k).updCtx G.ctx fun c => { c with tensors := AMap.put c.tensors k t }
    | _, _ => s.raise x x.T fun _ => { cause := .badHandle, info := BitVec.ofNat 32 k })

/-- KDEF (R216): the thread waits for the read and its checks. The address and the PKR are those of the issue, also when the
read waits (R22, R303). -/
def execKdef (h : Hdr) (sa : SReg) (k : KId) (s : State) : Host.Outcome State Fault Refusal :=
  issue s h .core [(.s sa, 2)] noHandles fun s x =>
    match s.group? x.g with
    | none => s
    | some G =>
      let va := G.sreg64 sa.val
      if x.N = 0 then s
      else if va.toNat % 64 != 0 then s.raise x x.T fun _ => accRec { cause := .misaligned } .read va
      else
        let (s, r) := s.groupRead x va 64 G.pkr
        match s.kdefTake x k.val va G.pkr r with
        | some s => s
        | none => (lanesOf x.T).foldl (fun s l => s.readLater x.g l x.pc (.kdef k.val) va G.pkr) s

/-- KREL (R216). -/
def execKrel (h : Hdr) (k : KId) (s : State) : Host.Outcome State Fault Refusal :=
  issue s h .core [] (fun s G => [(k.val, (s.tensor? G.ctx k.val).isSome)]) fun s x =>
    match s.group? x.g with
    | none => s
    | some G => if x.N = 0 then s
      else (s.dropRows G.ctx k.val).updCtx G.ctx fun c => { c with tensors := AMap.del c.tensors k.val }

/-! ### The event matrix (R228, R229) -/

/-- One bit of a mask set or cleared. -/
def setBit (m : Half) (i : Nat) (b : Bool) : Half := if b then m ||| (1 <<< i : Half) else m &&& ~~~(1 <<< i : Half)

/-- EVROUTE (R229). -/
def execEvroute (h : Hdr) (e g : Fin 16) (en : Bool) (s : State) : Host.Outcome State Fault Refusal :=
  issue s h .core [] noHandles fun s x =>
    if x.N = 0 then s
    else s.updShare (s.shareKey x.g) fun sh => { sh with routes := modAt sh.routes e.val fun m => setBit m g.val en }

/-- The stamp since which the lanes of an issue have waited, if they re-execute their instruction, else its own. -/
def At.since (x : At) (s : State) : Nat := (s.lane x.g ((lowest x.T).getD 0)).wseq

/-- EVWAIT (R228, R229): the issue takes one count, the earliest waiter first. -/
def execEvwait (h : Hdr) (g : Fin 4) (s : State) : Host.Outcome State Fault Refusal :=
  issue s h .core [] noHandles fun s x =>
    let c := 12 + g.val
    let k := s.shareKey x.g
    if x.N = 0 then s
    else if decide ((s.share k).counts.getD c 0 = 0) || !s.firstWaiter k (· == .event c) (x.since s) then
      s.again x x.T (.event c)
    else s.updShare k fun sh => sh.take c

/-- EVPOST (R229). -/
def execEvpost (h : Hdr) (e : Fin 6) (s : State) : Host.Outcome State Fault Refusal :=
  issue s h .core [] noHandles fun s x =>
    if x.N = 0 then s else s.updShare (s.shareKey x.g) fun sh => sh.pulse (10 + e.val)

end Sys2Proof.Machine
end

