-- ==== Sys2Proof/Machine/Tasks.lean ====
section
/-! DEFINITION. Device-side launches, work-graph records and pipes: group 0xD (R267 to R280). -/

namespace Sys2Proof.Machine

/-! ### LAUNCH (R280) -/

/-- The status of a packet's checks (R280). -/
def State.checkLaunch (s : State) (ctx : Nat) (bs : List Byte) : State × Word :=
  match s.launchPacket ctx bs with
  | (s, .error e) => (s, BitVec.ofNat 32 e.code)
  | (s, .ok _) => (s, 0)

/-- A packet that has passed its checks takes a place on the die's launch list; `none` while that is full (R280). -/
def State.listLaunch (s : State) (g ctx : Nat) (bs : List Byte) : Option State :=
  let die := dieOf (coreOf g)
  if (s.launchLists.getD die []).length ≥ 64 then none
  else some { s with launchLists := modAt s.launchLists die fun q => q ++ [(ctx, bs)] }

/-- The packet of a LAUNCH takes its place, and its status is 0; without room the lanes wait with it (R280). -/
def State.placeLaunch (s : State) (x : At) (dest : Dest) (d : SReg) (bs : List Byte) : State :=
  match s.group? x.g with
  | none => s
  | some G => match s.listLaunch x.g G.ctx bs with
    | none => s.again x x.T (.launchRoom bs)
    | some s => s.addPend x (.launch none) dest (pendLanes (.s d) x fun _ => .back [0])

/-- LAUNCH, once its release is complete, with the PKR of its issue (R303): a read that has to wait is outstanding, and so is one that waits
for service (R26, R285). -/
def State.launchOp (s : State) (x : At) (d : SReg) (a pkr : DWord) : State :=
  match s.group? x.g with
  | none => s
  | some G =>
    let dest : Dest := { reg := some (.inl (.s d)), w := 1 }
    let pend := fun (s : State) (f : Nat → PLane) => s.addPendKey x (fun _ => pkr) (.launch none) dest (pendLanes (.s d) x f)
    match s.groupRead x a 64 pkr with
    | (s, .later) => pend s fun _ => .waiting a
    | (s, .fault e) =>
      if !e.serviced then s.raise x x.T fun _ => accRec e .read a
      else if e.held || (lanesOf x.T).any G.loadFaulting then pend s fun _ => .waiting a
      else
        (pend s fun _ => .faulted a).toService (dieOfGroup x.g) { va := a, cause := e.cause, sub := e.sub, kind := .read, src := .ls, ctx := G.ctx, source := groupSource x.g .ls, waiters := [.group x.g x.seq], l0 := e.l0 }
    | (s, .poison i) =>
      pend s fun l => .lost (if inMask x.N l then some { cause := .uncorr, kind := .read, addr := a + BitVec.ofNat 64 i, fpc := x.pc } else none)
    | (s, .bytes bs) =>
      match s.checkLaunch G.ctx bs with
      | (s, 0) => s.placeLaunch x dest d bs
      | (s, w) => pend s fun _ => .back [w]

/-- LAUNCH: the address is formed at issue; after the release the packet is read once for the group, checked and listed (R26,
R280). -/
def execLaunch (h : Hdr) (d sa : SReg) (disp : Word) (s0 : State) : Host.Outcome State Fault Refusal :=
  issue s0 h .core [(.s d, 1), (.s sa, 2)] noHandles fun s x =>
    match s.group? x.g with
    | none => s
    | some G =>
      match x.reason s0 with
      | some (.launchRoom bs) => s.placeLaunch x { reg := some (.inl (.s d)), w := 1 } d bs
      | r =>
        let (a, pkr) := match r with
          | some (.release a pkr) => (a, pkr)
          | _ => (dispAdd (G.sreg64 sa.val) disp, G.pkr)
        if x.N = 0 then s
        else if a.toNat % 64 != 0 then s.raise x x.T fun _ => accRec { cause := .misaligned } .read a
        else if s.mustHold x.g (x.since s) x.T then s.again x x.T (.release a pkr)
        else s.launchOp x d a pkr

/-! ### Bins (R274, R275, R279) -/

/-- The place of a node's bin on a die. -/
def binIx (node die : Nat) : Nat := 4 * node + die

def Launch.bin (l : Launch) (i : Nat) : Bin := l.bins.getD i {}
def State.setBin (s : State) (k i : Nat) (b : Bin) : State := s.updLaunch k fun l => { l with bins := l.bins.set i b }

/-- A record joins a bin; the timer starts when the bin was empty. -/
def Bin.push (b : Bin) (r : List Byte) : Bin :=
  { b with recs := b.recs ++ [r], timer := b.timer || b.recs.isEmpty }

/-- Waiting EMITW records are appended first, in the order in which they began to wait; their lanes go on (R279). -/
def State.drainWaiters (s : State) (k i : Nat) : Nat → State
  | 0 => s
  | fuel + 1 =>
    match AMap.get? s.launches k with
    | none => s
    | some l =>
      let b := l.bin i
      let cap := 2 * (l.descs.getD (i / 4) {}).ncount
      match b.waiters with
      | [] => s
      | (g, lane, r) :: ws =>
        if b.recs.length < cap then
          ((s.setBin k i { (b.push r) with waiters := ws }).wake g (1 <<< lane)).drainWaiters k i fuel
        else s

/-- The records of an EMIT are admitted in ascending lane order while there is room after every waiting record. -/
def admitRecs (cap : Nat) (b : Bin) : List (Nat × List Byte) → Bin × List (Nat × Bool)
  | [] => (b, [])
  | (l, r) :: rs =>
    if b.waiters.isEmpty && decide (b.recs.length < cap) then
      let (b, oks) := admitRecs cap (b.push r) rs
      (b, (l, true) :: oks)
    else
      let (b, oks) := admitRecs cap b rs
      (b, (l, false) :: oks)

/-- The graph that a group's team was launched by. -/
def State.graphOf (s : State) (G : Group) : Option (Nat × Launch) :=
  match s.team? G.team with
  | none => none
  | some T => match AMap.get? s.launches T.launch with
    | some l => if l.kind = .graph then some (T.launch, l) else none
    | none => none

/-- EMIT and EMITW once their release is complete: `pend` is the stamp of EMIT's result; without one the lanes wait. -/
def State.runEmit (s : State) (g node : Nat) (recs : List (Nat × List Byte)) (helpers : Word) (pend : Option Nat) : State :=
  match s.group? g with
  | none => s
  | some G =>
    match s.graphOf G with
    | none => s
    | some (k, l) =>
      let i := binIx node (dieOf (coreOf g))
      let cap := 2 * (l.descs.getD node {}).ncount
      match pend with
      | some q =>
        let (b, oks) := admitRecs cap (l.bin i) recs
        (s.setBin k i b).updGroup g fun G =>
          { G with pend := G.pend.map fun p =>
              if p.seq = q then { p with lanes := p.lanes.map fun e =>
                (e.1, match e.2 with
                  | .waiting _ => .back [if oks.any fun o => o.1 == e.1 && o.2 then 1 else 0]
                  | y => y) }
              else p }
      | none =>
        let s := s.wake g helpers
        let m := maskOf fun l => recs.any fun r => r.1 == l
        let s := s.updGroup g fun G => G.updLanes m fun _ L => { L with wait := .record }
        let b := l.bin i
        (s.setBin k i { b with waiters := b.waiters ++ recs.map fun r => (g, r.1, r.2) }).drainWaiters k i (recs.length + b.waiters.length)

/-- The checks of a node operand (R278). -/
def nodeHandle (node : Fin 256) (s : State) (G : Group) : List (Nat × Bool) :=
  [(0, match s.graphOf G with
    | some (_, l) => decide (node.val < l.descs.length)
    | none => false)]

/-- The check of a record's place (R279). -/
def recordFault (size n : Nat) (off : Word) : Option Rec :=
  if off.toNat % 4 != 0 then some { cause := .misaligned, kind := .spRead, addr := off.setWidth 64 }
  else if off.toNat + n > size then some { cause := .translation, sub := 4, kind := .spRead, addr := off.setWidth 64 }
  else none

/-- EMIT and EMITW: records are read at issue, then the group releases. -/
def State.emitOp (s : State) (x : At) (d : Option PReg) (a : Reg) (node : Nat) : State :=
  match s.group? x.g with
  | none => s
  | some G =>
    match s.graphOf G with
    | none => s
    | some (_, l) =>
      let n := (l.descs.getD node {}).nrec
      let h := s.shareOf G
      let off := fun l => G.off l a 0
      let bad := fun l => recordFault h.size n (off l)
      let fail := maskOf fun l => inMask x.N l && (bad l).isSome
      let T := x.T &&& ~~~fail
      let recs := (lanesOf (x.N &&& ~~~fail)).map fun l => (l, h.bytes (off l).toNat n)
      let helpers := x.T &&& ~~~x.N
      let s := match d with
        | some p => s.addPend { x with T, N := x.N &&& ~~~fail } .value { reg := some (.inr p), w := 1 }
            ((lanesOf T).map fun l => (l, .waiting 0))
        | none => s
      let q := d.map fun _ => x.seq
      let s :=
        if T = 0 then s
        else if s.mustHold x.g x.seq T then s.holdAct x.g x.seq T (if d.isSome then 0 else T) (.emit node recs helpers q)
        else s.runEmit x.g node recs helpers q
      s.raiseAll x fail bad

/-- EMIT (R278, R279). -/
def execEmit (h : Hdr) (d : PReg) (a : Reg) (node : Fin 256) (s : State) : Host.Outcome State Fault Refusal :=
  issue s h .core [(a, 1)] (nodeHandle node) fun s x => s.emitOp x (some d) a node.val

/-- EMITW (R278, R279). -/
def execEmitw (h : Hdr) (a : Reg) (node : Fin 256) (s : State) : Host.Outcome State Fault Refusal :=
  issue s h .core [(a, 1)] (nodeHandle node) fun s x => s.emitOp x none a node.val

/-! ### Pipes (R267 to R272) -/

/-- A pipe that the gang declared (R269). -/
def pipeHandle (n : NReg) (s : State) (G : Group) : List (Nat × Bool) :=
  [((Field.pipe n).bits.toNat, ((s.shareOf G).pipes.getD n.val {}).declared)]

def Share.setPipe (h : Share) (n : Nat) (p : Pipe) : Share := { h with pipes := h.pipes.set n p }

/-- The first offset of slot `i` of a pipe. -/
def Pipe.slot (p : Pipe) (i : Word) : Nat := p.off + (i.toNat % p.depth) * p.ebytes

/-- A pipe instruction: misuse, then the binding, then the wait or the effect (R268, R270, R271). -/
def State.pipeOp (s : State) (x : At) (n : NReg) (write blocking : Bool) (f : State → At → Group → Nat → Pipe → State) : State :=
  match s.group? x.g with
  | none => s
  | some G =>
    match s.team? G.team with
    | none => s
    | some T =>
      if x.N = 0 then s
      else if s.pipeMisuse T n.val write blocking then
        s.raise x x.T fun _ => { cause := .pipe, info := BitVec.ofNat 32 n.val }
      else
        let p := (s.share T.share).pipes.getD n.val {}
        let p := if write then { p with wteam := some T.idx } else { p with rteam := some T.idx }
        let s := s.updShare T.share fun h => h.setPipe n.val p
        f s x G T.share p

/-- PIPEW (R270): the entry is formed at issue, from the lanes of N; with the pipe full it waits with its data. -/
def execPipew (h : Hdr) (n : NReg) (a : VReg) (s0 : State) : Host.Outcome State Fault Refusal :=
  issue s0 h .core [(.v a, 2)] (pipeHandle n) fun s x =>
    s.pipeOp x n true true fun s x G k p =>
      let bs := match x.reason s0 with
        | some (.pipeFull _ bs) => bs
        | _ => (List.range 32).flatMap fun l => if inMask x.N l then G.data l (.v a) 2 else List.replicate 8 0
      let r := Reason.pipeFull n.val bs
      if p.full || !s.firstWaiter k r.same (x.since s) then s.again x x.T r
      else
        s.updShare k fun sh => ((sh.setBytes (p.slot p.tail) (bs.take p.ebytes)).setPipe n.val { p with tail := p.tail + 1 })

/-- The entry at the head of a pipe, as each lane's eight bytes. -/
def Share.entry (h : Share) (p : Pipe) (l : Nat) : List Word :=
  let e := h.bytes (p.slot p.head) p.ebytes
  leWords 2 ((List.range 8).map fun i => e.getD (8 * l + i) 0)

/-- PIPER (R270). -/
def execPiper (h : Hdr) (d : VReg) (n : NReg) (s : State) : Host.Outcome State Fault Refusal :=
  issue s h .core [(.v d, 2)] (pipeHandle n) fun s x =>
    s.pipeOp x n false true fun s x _ k p =>
      let r := Reason.pipeEmpty n.val
      if p.empty || !s.firstWaiter k r.same (x.since s) then s.again x x.T r
      else
        let sh := s.share k
        (s.updShare k fun sh => sh.setPipe n.val { p with head := p.head + 1 }).addPend x .value
          { reg := some (.inl (.v d)), w := 2 } ((lanesOf x.T).map fun l => (l, .back (sh.entry p l)))

/-- PIPETRY (R270): an empty pipe gives zeros at once. -/
def execPipetry (h : Hdr) (d : VReg) (n : NReg) (s : State) : Host.Outcome State Fault Refusal :=
  issue s h .core [(.v d, 4)] (pipeHandle n) fun s x =>
    s.pipeOp x n false false fun s x _ k p =>
      let sh := s.share k
      let s := if p.empty then s else s.updShare k fun sh => sh.setPipe n.val { p with head := p.head + 1 }
      s.addPend x .value { reg := some (.inl (.v d)), w := 4 }
        ((lanesOf x.T).map fun l => (l, .back (if p.empty then [0, 0, 0, 0] else sh.entry p l ++ [1, 0])))

end Sys2Proof.Machine
end

