-- ==== Sys2Proof/Machine/Returns.lean ====
section
/-! DEFINITION. Results that return to a group: loads and the other variable-latency reads, the data of a GATH, the end of a
switch marker's park, and asynchronous records (R18, R22, R23, R26, R175, R176, R185, R195, R263, R300, R301, R304). -/

namespace Sys2Proof.Machine

/-! ### What a lane reads -/

/-- A plain load of 4 or 8 bytes, which register space takes (R322). -/
def PKind.plain : PKind → Bool
  | .load n _ _ home => !home && (n == 4 || n == 8)
  | _ => false

/-- An earlier write of the lane to some of these bytes is still on its way. -/
def State.ownWrite (s : State) (g l seq : Nat) (pas : List Nat) : Bool :=
  pas.any fun pa => (s.forward g l seq pa).isSome || s.lsq.any fun e => e.blocks g l seq pa 1

/-- A lane's read of translated bytes for an outstanding result; accesses to one register keep program order (R322). -/
def State.readAt (s : State) (g : Nat) (p : Pend) (l : Nat) (pas : List Nat) (home stale : Bool) : State × LaneRead :=
  if region (pas.getD 0 0) == .regs then
    if s.ownWrite g l p.seq pas || s.loadsAt g l p.seq (pas.map wordOf) then (s, .later)
    else (s, .bytes (s.regBytes true (pas.getD 0 0) pas.length))
  else s.readMem g l p.seq pas (stale && !home)

/-- The translation of a lane's read for an outstanding result, with the PKR of its issue (R303). -/
def State.readXlate (s : State) (g : Nat) (G : Group) (p : Pend) (va : DWord) (n : Nat) : State × Except XFault (List Nat) :=
  s.xlateFor p.kind.plain (via g G) va n .read (some p.pkr)

/-- One lane's read of `n` bytes for an outstanding result (R175, R301, R322, R340). -/
def State.laneRead (s : State) (g : Nat) (G : Group) (p : Pend) (l n : Nat) (va : DWord) (home stale : Bool) : State × LaneRead :=
  match s.readXlate g G p va n with
  | (s, .error x) => (s, .fault x)
  | (s, .ok pas) => s.readAt g p l pas home stale

/-! ### Lanes of an outstanding result -/

/-- The outcome of one lane of a result. -/
def Group.setPLane (G : Group) (seq l : Nat) (x : PLane) : Group :=
  { G with pend := G.pend.map fun p => if p.seq = seq then { p with lanes := AMap.put p.lanes l x } else p }

def State.setPLane (s : State) (g seq l : Nat) (x : PLane) : State := s.updGroup g fun G => G.setPLane seq l x

/-- The record of a result that does not come (R288, R290). -/
def Pend.lostRec (p : Pend) (x : XFault) (va : DWord) : Rec :=
  { cause := x.cause, sub := x.sub, kind := .read, fpc := p.pc, addr := va }

/-- A lane holds an outstanding fault (R285). -/
def Group.faulting (G : Group) (l : Nat) : Bool :=
  (G.pend.any fun p => match AMap.get? p.lanes l with
    | some (.faulted _) => true
    | _ => false) || match (G.lane l).wait with
    | .fault _ _ _ _ => true
    | _ => false

/-- A lane's access faults: it goes to service, or the lane traps at the marker (R26, R300); `none` while the lane holds another
fault (R285), or a wave holds what the translation needs (R201). -/
def State.pendFault (s : State) (g : Nat) (G : Group) (p : Pend) (l : Nat) (va : DWord) (x : XFault) (w : Waiter) : Option State :=
  if x.serviced then
    if x.held || G.faulting l then none
    else
      let s := s.toService (dieOfGroup g) { va, cause := x.cause, sub := x.sub, kind := .read, src := .ls, ctx := G.ctx, source := groupSource g .ls, waiters := [w], l0 := x.l0 }
      some (s.setPLane g p.seq l (.faulted va))
  else some (s.setPLane g p.seq l (.lost (some (p.lostRec x va))))

/-- A lane's read for an outstanding result returns, its words handed on; `none` while it cannot return yet. -/
def State.readReturn (s : State) (g : Nat) (p : Pend) (l w : Nat) (ext : Ext) (va : DWord) (r : State × LaneRead) (f : List Word → PLane) :
    Option State :=
  match s.group? g with
  | none => none
  | some G =>
    let helper := (G.lane l).helper
    let zeros : PLane := .back (List.replicate w 0)
    match r with
    | (_, .later) => none
    | (s, .fault x) => if helper && !x.held then some (s.setPLane g p.seq l zeros) else s.pendFault g G p l va x (.pend g p.seq l)
    | (s, .poison i) =>
      some (s.setPLane g p.seq l (if helper then zeros else .lost (some (p.lostRec { cause := .uncorr } (va + BitVec.ofNat 64 i)))))
    | (s, .bytes bs) => some (s.setPLane g p.seq l (f (loadWords ext bs)))

/-- The result of one lane of a load. -/
def State.loadReturn (s : State) (g : Nat) (p : Pend) (l n w : Nat) (ext : Ext) (home stale : Bool) (va : DWord) : Option State :=
  match s.group? g with
  | none => none
  | some G => s.readReturn g p l w ext va (s.laneRead g G p l n va home stale) .back

/-- One half of a 16-byte load, which is translated whole: the lower for `part` 1, the upper for 2 (R170, R323). -/
def State.halfReturn (s : State) (g : Nat) (p : Pend) (l : Nat) (ext : Ext) (home stale : Bool) (va : DWord) (part : Nat) : Option State :=
  match s.group? g with
  | none => none
  | some G =>
    match s.readXlate g G p va 16 with
    | (s, .error x) => s.readReturn g p l 4 ext va (s, .fault x) .back
    | (s, .ok pas) =>
      let hi := part == 2
      let (now, rest) := if hi then (pas.drop 8, pas.take 8) else (pas.take 8, pas.drop 8)
      s.readReturn g p l 4 ext (if hi then va + 8 else va) (s.readAt g p l now home stale) fun ws => .half va hi ws rest

/-- The other half of a 16-byte load. -/
def State.otherHalf (s : State) (g : Nat) (p : Pend) (l : Nat) (ext : Ext) (home stale : Bool) (va : DWord) (hi : Bool) (ws : List Word)
    (rest : List Nat) : Option State :=
  s.readReturn g p l 4 ext (if hi then va else va + 8) (s.readAt g p l rest home stale) fun us => .back (if hi then us ++ ws else ws ++ us)

/-- LDSH of another team's scratchpad: after the lane's own earlier stores and loads there (R68, R176). -/
def State.ldshReturn (s : State) (g : Nat) (p : Pend) (l : Nat) (at' : DWord) : Option State :=
  let k := at'.toNat / 2 ^ 32
  let off := at'.toNat % 2 ^ 32
  let before := s.lsq.any fun e => e.g == g && inMask e.mask l && decide (e.seq < p.seq) && match e.kind with
    | .stsh k' _ _ _ => k' == k
    | _ => false
  let earlier := match s.group? g with
    | some G => G.pend.any fun q => decide (q.seq < p.seq) && q.kind == .ldsh && match AMap.get? q.lanes l with
        | some (.waiting a) => a.toNat / 2 ^ 32 == k
        | _ => false
    | none => true
  if before || earlier then none
  else some (s.setPLane g p.seq l (.back (loadWords .zero ((s.share k).bytes off 4))))

/-- KEYR: the probe of one lane (R304). -/
def State.keyrReturn (s : State) (g : Nat) (p : Pend) (l : Nat) (va : DWord) : Option State :=
  match s.group? g with
  | none => none
  | some G =>
    if s.probeHeld (via g G) va then none
    else match s.probe (via g G) va with
    | (s, some f) => some (s.setPLane g p.seq l (.back [keyrWord f p.pkr]))
    | (s, none) => some (s.setPLane g p.seq l (.back [0]))

/-- The return address of a RET has been read, or the read faults (R54): the lane goes on there, or waits for service. -/
def State.refillReturn (s : State) (g : Nat) (p : Pend) (l : Nat) (va : DWord) : Option State :=
  match s.group? g with
  | none => none
  | some G =>
    let x := atPc g p.pc p.seq (1 <<< l)
    let drop := fun (s : State) => s.updGroup g fun G => G.dropLane p.seq l
    let go := fun (s : State) => if (s.lane g l).wait == .result p.seq then s.wake g (1 <<< l) else s
    match s.xlate (via g G) va 8 .read (some p.pkr) with
    | (s, .error e) =>
      if e.held then none
      else if (G.lane l).helper then some (go ((drop s).updLane g l fun L => L.refilled 0))
      else
        let e := spillFault e
        some ((drop s).laneFault g l p.pc va e .read .refill p.pkr (some { accRec e .read va with resume := p.pc, fpc := p.pc }))
    | (s, .ok pas) => ((drop s).refill x l pas).map go

/-- The frame of an ERET is read (R292); `none` while that has to wait. -/
def State.eretReturn (s : State) (g : Nat) (p : Pend) (l : Nat) : Option State :=
  let s := (s.updGroup g fun G => G.dropLane p.seq l).eretLane g l
  if (s.lane g l).wait == .result p.seq then none else some s

/-- The record of a KDEF has been read, for all its lanes at once (R26, R216): they go on behind it, wait for service, or trap. -/
def State.kdefReturn (s : State) (g : Nat) (p : Pend) (k : Nat) : Option State :=
  match s.group? g, p.lanes with
  | some G, (l0, .waiting va) :: _ =>
    let m := maskOf fun l => (AMap.get? p.lanes l).isSome
    let x := atPc g p.pc p.seq m
    let (s, r) := s.laneRead g G p (p.supplier.getD l0) 64 va true false
    let s := s.updGroup g fun G => { G with pend := G.pend.filter fun q => q.seq != p.seq }
    let held := match r with
      | .fault e => e.held
      | _ => false
    if held then none
    else (s.kdefTake x k va p.pkr r).map fun (s : State) =>
        let on := maskOf fun l => inMask m l && (s.lane g l).wait == .result p.seq
        (s.updGroup g fun G => G.updLanes on fun _ L => { L with pc := p.pc + 12 }).wake g on
  | _, _ => none

/-- One lane returns; `part` is 0, or the half of a 16-byte load that is performed. -/
def State.laneReturn (s : State) (g : Nat) (p : Pend) (stale : Bool) (part l : Nat) : Option State :=
  match p.kind, AMap.get? p.lanes l with
  | .load n ext _ home, some (.waiting va) =>
    if n = 16 && part != 0 then s.halfReturn g p l ext home stale va part
    else s.loadReturn g p l n (max 1 (n / 4)) ext home stale va
  | .load _ ext _ home, some (.half va hi ws rest) => s.otherHalf g p l ext home stale va hi ws rest
  | .ldsh, some (.waiting va) => s.ldshReturn g p l va
  | .keyr, some (.waiting va) => s.keyrReturn g p l va
  | .refill, some (.waiting va) => s.refillReturn g p l va
  | .eret, some (.waiting _) => s.eretReturn g p l
  | _, _ => none

/-- The lanes of a mask return, lowest first. -/
def State.lanesReturn (s : State) (g : Nat) (p : Pend) (stale : Bool) (part : Nat) : List Nat → Option State
  | [] => some s
  | l :: ls => match s.laneReturn g p stale part l with
    | some s => s.lanesReturn g p stale part ls
    | none => none

/-! ### Results of the group (R26, R195, R280) -/

/-- The lanes of a QREG or QDEREG whose outcome has come wait no longer (R115, R195). -/
def State.resultWake (s : State) (g seq : Nat) : State :=
  match s.group? g with
  | none => s
  | some G =>
    let m := maskOf fun l => (G.lane l).wait == .result seq && !(match (G.pend.find? fun p => p.seq == seq) with
      | some p => match AMap.get? p.lanes l with
        | some x => x.open'
        | none => false
      | none => false)
    if m = 0 then s else s.wake g m

/-- The lanes that wait for the group's one access take its outcome. -/
def State.groupBack (s : State) (g seq : Nat) (f : Nat → PLane) : State :=
  (s.updGroup g fun G =>
    { G with pend := G.pend.map fun p =>
        if p.seq = seq then { p with lanes := p.lanes.map fun e => (e.1, match e.2 with
          | .waiting _ => f e.1
          | x => x) }
        else p }).resultWake g seq

/-- QREG, with its descriptor's bytes (R195). -/
def State.register (s : State) (ctx cls : Nat) (bs : List Byte) : State × Word :=
  if (s.classOf ctx cls).isSome then (s, 1)
  else match classOfDesc bs with
    | none => (s, 2)
    | some q =>
      let s := s.bump
      (s.updCtx ctx fun c => { c with classes := AMap.put c.classes cls { q with gen := s.seq } }, 0)

/-- The packet of a LAUNCH has been read and checked: it takes its place on the list, or waits for one (R280). -/
def State.launchReturn (s : State) (g ctx seq : Nat) (bs : List Byte) : State :=
  match s.checkLaunch ctx bs with
  | (s, 0) => match s.listLaunch g ctx bs with
    | some s => s.groupBack g seq fun _ => .back [0]
    | none => s.updGroup g fun G =>
      { G with pend := G.pend.map fun p => if p.seq = seq then { p with kind := .launch (some bs) } else p }
  | (s, w) => s.groupBack g seq fun _ => .back [w]

/-- The group's one read returns: the descriptor of QREG, or the packet of a LAUNCH whose read had to be served. -/
def State.groupReturn (s : State) (g : Nat) (p : Pend) : Option State :=
  match s.group? g with
  | none => none
  | some G =>
    match p.lanes.findSome? fun e => match e.2 with
      | .waiting va => some va
      | _ => none with
    | none => none
    | some va =>
      let l := p.supplier.getD ((p.lanes.head?.map (·.1)).getD 0)
      let lost := fun (r : Rec) (k : Nat) => PLane.lost (if (G.lane k).helper then none else some r)
      match s.laneRead g G p l 64 va true false with
      | (_, .later) => none
      | (s, .fault x) =>
        if x.serviced then
          if x.held || p.lanes.any fun e => G.faulting e.1 then none
          else
            let s := s.toService (dieOfGroup g) { va, cause := x.cause, sub := x.sub, kind := .read, src := .ls, ctx := G.ctx, source := groupSource g .ls, waiters := [.group g p.seq], l0 := x.l0 }
            some (s.groupBack g p.seq fun _ => .faulted va)
        else some (s.groupBack g p.seq (lost (p.lostRec x va)))
      | (s, .poison i) => some (s.groupBack g p.seq (lost (p.lostRec { cause := .uncorr } (va + BitVec.ofNat 64 i))))
      | (s, .bytes bs) =>
        match p.kind with
        | .qreg cls =>
          let (s, w) := s.register G.ctx cls bs
          some (s.groupBack g p.seq fun _ => .back [w])
        | .launch _ => some (s.launchReturn g G.ctx p.seq bs)
        | _ => none

/-- A LAUNCH whose packet has been read takes a place that has become free. -/
def State.launchAgain (s : State) (g : Nat) (p : Pend) (bs : List Byte) : Option State :=
  match s.group? g with
  | none => none
  | some G => (s.listLaunch g G.ctx bs).map fun s => s.groupBack g p.seq fun _ => .back [0]

/-- A request or a wave of a class of a context remains in some quay. A request that has still to arrive at one will be answered
NOCLASS (R195). -/
def State.classBusy (s : State) (ctx cls : Nat) : Bool :=
  (s.quays.any fun q => (q.2.reqs.any fun r => r.ctx == ctx && r.cls == cls) ||
    q.2.busy.any fun b => b.2.any fun r => r.ctx == ctx && r.cls == cls) ||
  s.groups.any fun e => match e.2.wave with
    | some w => w.reqs.any fun r => r.ctx == ctx && r.cls == cls
    | none => false

/-- QDEREG returns once its class has drained (R195). -/
def State.deregReturn (s : State) (g : Nat) (p : Pend) (cls : Nat) : Option State :=
  match s.group? g with
  | none => none
  | some G =>
    if s.classBusy G.ctx cls then none
    else some ((s.updCtx G.ctx fun c => { c with classes := AMap.del c.classes cls }).groupBack g p.seq fun _ => .back [0])

/-- VARIABLE_RESULT_RETURN (R22): lanes of an outstanding result get their outcome. `far` names halves that other packages answer as
poisoned (R340). -/
def execVariableResultReturn (g idx : Nat) (lanes : Word) (how : ReadHow) (s : State) : Host.Outcome State Fault Refusal :=
  event s <|
  let s := s.farPoison how.far
  match (s.group? g).bind fun G => G.pend[idx]? with
  | none => none
  | some p =>
    (match p.kind with
      | .launch (some bs) => s.launchAgain g p bs
      | .qreg _ | .launch none => s.groupReturn g p
      | .kdef k => s.kdefReturn g p k
      | .qdereg cls => if p.lanes.any fun e => e.2.open' then s.deregReturn g p cls else none
      | .refill | .eret => if lanes = 0 then none else (s.lanesReturn g p how.stale how.part (lanesOf lanes)).map fun s =>
          (s.updGroup g fun G => G.partFrom lanes).takeLate g
      | _ => if lanes = 0 then none else s.lanesReturn g p how.stale how.part (lanesOf lanes))

/-! ### GATH (R185) -/

/-- The data of one lane of a GATH has arrived: its values, or zero words and a record for poison, or a fault. -/
def State.gathLane (s : State) (g : Nat) (p : Pend) (n : Nat) (stale : Bool) (l : Nat) : Option State :=
  match AMap.get? p.lanes l with
  | some (.waiting va) => s.loadReturn g p l n (n / 4) .zero false stale va
  | some (.back _) => if p.parked then none else some s
  | _ => none

def State.gathLanes (s : State) (g : Nat) (p : Pend) (n : Nat) (stale : Bool) : List Nat → Option State
  | [] => some s
  | l :: ls => match s.gathLane g p n stale l with
    | some s => s.gathLanes g p n stale ls
    | none => none

/-- A lane's own result commits as it arrives, and a lost one stays for the lane's next marker. -/
def Group.gathCommit (G : Group) (seq l : Nat) : Group :=
  match G.pend.find? fun p => p.seq == seq with
  | none => G
  | some p =>
    match AMap.get? p.lanes l with
    | some (.back ws) => (G.commitLane p l ws).dropLane seq l
    | _ => G

/-- Lanes of a GATH leave their wait as one joined set. -/
def State.gathGo (s : State) (g seq : Nat) (m : Word) : State :=
  match s.group? g with
  | none => s
  | some G =>
    let done := maskOf fun l => inMask m l && (G.lane l).wait == .gath seq && !(match (G.pend.find? fun p => p.seq == seq) with
      | some p => match AMap.get? p.lanes l with
        | some x => x.open'
        | none => false
      | none => false)
    if done = 0 then s
    else (s.updGroup g fun G => ((lanesOf done).foldl (fun G l => G.gathCommit seq l) G).joinSet done).wake g done

/-- GATH_LANE_ARRIVAL (R185): the data of some lanes of a gather, or the checks of some lanes of a scatter: those lanes go on as one
cohort. -/
def execGathLaneArrival (g idx : Nat) (lanes : Word) (how : ReadHow) (s : State) : Host.Outcome State Fault Refusal :=
  event s <|
  let s := s.farPoison how.far
  match (s.group? g).bind fun G => G.pend[idx]? with
  | none => none
  | some p =>
    match p.kind with
    | .gath n =>
      (if lanes = 0 then none else (s.gathLanes g p n how.stale (lanesOf lanes)).map fun s =>
        if p.parked then s.updGroup g fun G => (lanesOf lanes).foldl (fun G l => G.gathCommit p.seq l) G else s.gathGo g p.seq lanes)
    | .scat => (if lanes = 0 then none else (s.gathLanes g p 4 how.stale (lanesOf lanes)).map fun s => s.gathGo g p.seq lanes)
    | _ => none

/-! ### Parks and records -/

/-- Some parked lane may leave: all its own outcomes are settled, and nothing of the group is outstanding, or a lane of it
waits for service or traps (R23, R300). -/
def Group.canSettle (G : Group) : Bool :=
  ((List.range 32).any fun l => inMask G.parked l && !G.laneOpen l) && (!G.outstanding || G.troubled)

/-- PARK_COMPLETE (R23). Under a save, values that have returned do not commit: only lanes that end, trap or return leave (R309). -/
def execParkComplete (g : Nat) (s : State) : Host.Outcome State Fault Refusal :=
  event s <|
  match s.group? g with
  | some G =>
    (if !G.canSettle then none
      else if !s.saving G then some (s.settle g)
      else if (List.range 32).any fun l => inMask G.leaving l && !G.laneOpen l then some (s.settleIn g G.leaving (~~~G.leaving))
      else none)
  | none => none

/-- ASYNC_RECORD_ARRIVAL (R263, R290): the records for one group arrive in the order in which they were sent. -/
def execAsyncRecordArrival (i : Nat) (s : State) : Host.Outcome State Fault Refusal :=
  event s <|
  match s.recsOut[i]? with
  | none => none
  | some (g, ctx, r) => some ({ s with recsOut := dropAt s.recsOut i }.arriveRec g ctx r)

end Sys2Proof.Machine
end

