-- ==== Sys2Proof/Machine/Coherence.lean ====
section
/-! DEFINITION. Writes that reach their homes: store registrations, atomics with their merging and diversion, discards and
the payloads of PUTS, the releases that wait for them, monitors, and fabric accesses that fail (R171 to R173, R178, R183,
R187 to R191, R340, R341). -/

namespace Sys2Proof.Machine

/-! ### The values of atomics (R188, R190) -/

/-- An element-wise operation on `k` elements of `w` bits. -/
def lanewise (k w : Nat) (f : Nat → Nat → Nat) (a b : Nat) : Nat :=
  ((List.range k).map fun i => f (a / 2 ^ (w * i) % 2 ^ w) (b / 2 ^ (w * i) % 2 ^ w) * 2 ^ (w * i)).sum

/-- The format of an FP add and its number of elements. -/
def AtOp.addFmt : AtOp → Option (Fmt × Nat)
  | .faddb => some (bf16, 1)
  | .faddf => some (f32, 1)
  | .faddd => some (f64, 1)
  | .faddb2 => some (bf16, 2)
  | .faddf2 => some (f32, 2)
  | _ => none

/-- The width of a format in bits. -/
def Fmt.width (f : Fmt) : Nat := 1 + f.ebits + f.fbits

/-- The new value from the old one, b and e. -/
def AtOp.new (o : AtOp) (old b e : Nat) : Nat :=
  let s32 := fun (x : Nat) => (BitVec.ofNat 32 x).toInt
  match o with
  | .add32 => (old + b) % 2 ^ 32
  | .add64 => (old + b) % 2 ^ 64
  | .mins32 => if s32 b < s32 old then b else old
  | .maxs32 => if s32 b > s32 old then b else old
  | .minu32 => min old b
  | .maxu32 => max old b
  | .and32 => Nat.land old b
  | .or32 => Nat.lor old b
  | .xor32 => Nat.xor old b
  | .xch32 | .xch64 => b
  | .cas32 | .cas64 | .cas128 => if old = e then b else old
  | .fminb => bf16.min old b
  | .fmaxb => bf16.max old b
  | .fminf => f32.min old b
  | .fmaxf => f32.max old b
  | .fmind => f64.min old b
  | .fmaxd => f64.max old b
  | .faddb => bf16.add old b
  | .faddf => f32.add old b
  | .faddd => f64.add old b
  | .faddb2 => lanewise 2 16 bf16.add old b
  | .faddf2 => lanewise 2 32 f32.add old b

/-- The words that a returning atomic's D receives: the old value, zero-extended. -/
def AtOp.words (o : AtOp) (old : Nat) : List Word := leWords o.regs (leBytes (4 * o.regs) old)

/-! ### Entries that are performed -/

/-- The spilling CALLs of a stamp whose write is performed go on (R54). -/
def State.spillDone (s : State) (g seq : Nat) : State :=
  match s.group? g with
  | none => s
  | some G =>
    let m := maskOf fun l => (G.lane l).wait == .spilled seq && !(s.lsq.any fun e => e.g == g && e.seq == seq && inMask e.mask l)
    if m = 0 then s else s.wake g m

/-- Entries are performed: they leave the queue, and the acknowledgement count falls (R172). -/
def State.acked (s : State) (ks : List (Nat × Nat × Nat)) : State :=
  ks.foldl (fun s k => s.spillDone k.1 k.2.1) { s with lsq := s.lsq.filter fun e => !ks.contains e.key }

/-- The record of a store or an atomic that the fabric does not take (R340). -/
def State.fabricLost (s : State) (e : LsOp) : State :=
  let k : Kind := match e.kind with
    | .atomic .. => .readWrite
    | _ => .write
  s.logRecord e.ctx { cause := .translation, sub := 3, kind := k, src := .fb, async := true, fpc := e.pc, addr := e.va }

/-! ### Stores (R171, R172, R322, R340) -/

/-- Consecutive bytes as words, each with its address. -/
def wordsAt : List StByte → List (Nat × Word)
  | b0 :: b1 :: b2 :: b3 :: bs => (b0.pa, leWord [b0.val, b1.val, b2.val, b3.val]) :: wordsAt bs
  | _ => []

/-- The bytes of a store are performed: register space, memory of this package and of others; a reserved place of another
package takes none. -/
def State.storeBytes (s : State) (e : LsOp) (bs : List StByte) : State :=
  let regs := bs.filter fun b => region b.pa == .regs
  let lost := bs.filter fun b => isRemote b.pa && !remoteOk b.pa
  let rest := bs.filter fun b => region b.pa != .regs && (!isRemote b.pa || remoteOk b.pa)
  let s := (wordsAt regs).foldl (fun s w => s.setReg .thread w.1 w.2) s
  let s := if lost.isEmpty then s else s.fabricLost e
  if rest.isEmpty then s
  else (s.homeWrite (some e.core) [] (rest.map fun b => (b.pa, b.val))).own e.core (rest.map (·.pa))

/-- A line is in quay mode: an atomic diverted from it is queued, or in a wave (R207). -/
def State.quayMode (s : State) (line : Nat) : Bool :=
  (s.quay (quayOf (64 * line))).reqs.any (fun q => q.cls == 0 && q.pa / 64 == line) ||
  (s.quay (quayOf (64 * line))).busy.any (fun b => b.2.any fun q => q.cls == 0 && q.pa / 64 == line) ||
  s.groups.any fun e => match e.2.wave with
    | some w => w.reqs.any fun q => q.cls == 0 && q.pa / 64 == line
    | none => false

/-- One part of a PUTS: a payload word, or after all of them the signal, which adds the count (R180, R341). -/
def State.putsPart (s : State) (e : LsOp) (ws : List (Nat × List Byte)) (sig count : Nat) (f : Bool) (m : Word) : Option State :=
  match ws with
  | w :: rest =>
    if s.waveHolds [w.1] then none
    else
      let s := if isRemote w.1 && !remoteOk w.1 then s.fabricLost e else s.homeWrite none [e.core] (span w.1 w.2)
      some (s.setLs e.key fun x => { x with kind := .puts rest sig count f m })
  | [] =>
    if s.holds [sig] || s.quayMode (homeOf sig / 64) then none
    else
      let s := s.acked [e.key]
      if isRemote sig && !remoteOk sig then some (s.fabricLost e)
      else if (s.poisonIn sig 8).isSome then
        some (s.logRecord e.ctx { cause := .uncorr, kind := .readWrite, src := .fb, async := true, fpc := e.pc, addr := e.va })
      else some (s.homeWrite none [e.core] (span sig (leBytes 8 (leNat (s.bytes (homeOf sig) 8) + count))))

/-- STORE_REGISTRATION (R172): a store is performed at its home, an STSH in its scratchpad, a PUTS in its parts. -/
def execStoreRegistration (i : Nat) (s : State) : Host.Outcome State Fault Refusal :=
  event s <|
  match s.lsReady i [] with
  | none => none
  | some e =>
    match e.kind with
    | .store bs _ => (if s.waveHolds (bs.map (·.pa)) then none else some ((s.acked [e.key]).storeBytes e bs))
    | .stsh k off d _ => some ((s.acked [e.key]).updShare k fun h => h.setBytes off d)
    | .puts ws sig n f m => (s.putsPart e ws sig n f m)
    | _ => none

/-! ### Atomics (R189 to R191) -/

/-- A returning atomic's lane gets its outcome. -/
def State.atomicReply (s : State) (g l : Nat) (q : Nat) (x : PLane) : State := s.setPLane g q l x

/-- The outcome of a returning atomic that meets poison, or a place that does not answer. -/
def uncorrAt (pc va : DWord) : PLane := .lost (some { cause := .uncorr, kind := .readWrite, fpc := pc, addr := va })

/-- The cores from which some entries come: their copies of a word that those write are superseded (R175). -/
def coresOf (ks : List (Nat × Nat × Nat)) : List Nat := ks.map fun k => coreOf k.1

/-- An atomic is performed at the home (R189, R301): `ks` are the entries that it stands for. -/
def State.doAtomic (s : State) (e : LsOp) (o : AtOp) (pa w : Nat) (b x : List Byte) (ret : Option Nat)
    (ks : List (Nat × Nat × Nat)) : State :=
  let s := s.acked ks
  if isRemote pa && !remoteOk pa then
    match ret with
    | some q => s.atomicReply e.g e.lane q (uncorrAt e.pc e.va)
    | none => s.fabricLost e
  else
    let s := if isRemote (homeOf pa) then s else s.fillRange (homeOf pa) w
    match s.poisonIn pa w with
    | some p =>
      let at' := e.va + BitVec.ofNat 64 (p - pa)
      match ret with
      | some q => s.atomicReply e.g e.lane q (uncorrAt e.pc at')
      | none => s.logRecord e.ctx { cause := .uncorr, kind := .readWrite, async := true, fpc := e.pc, addr := at' }
    | none =>
      let old := leNat (s.bytes (homeOf pa) w)
      let s := s.homeWrite none (coresOf ks) (span pa (leBytes w (o.new old (leNat b) (leNat x))))
      match ret with
      | some q => s.atomicReply e.g e.lane q (.back (o.words old))
      | none => s

/-- Where the atomic of an entry is performed: that of an atomic instruction, or the signal of a PUTS, an NADD64 (R188, R341). -/
def LsOp.target (e : LsOp) : Option Nat := match e.kind with
  | .atomic _ pa _ _ _ _ _ => some (homeOf pa)
  | .puts [] sig _ _ _ => some (homeOf sig)
  | _ => none

/-- The superblock of an atomic or a quay request. -/
def LsOp.superblock (e : LsOp) : Option Nat := match e.kind with
  | .quay pa _ _ _ _ _ _ => some (pa / 256)
  | _ => e.target.map (· / 256)

/-- The entries of one instruction that go to one superblock, in lane order: they enter its queue together (R199). -/
def State.batch (s : State) (e : LsOp) : List LsOp :=
  (s.lsq.filter fun f => f.g == e.g && f.seq == e.seq && !f.away && f.superblock == e.superblock)

/-- A request of the same core to the same superblock was issued before and has not arrived (R199). -/
def State.overtakes (s : State) (e : LsOp) : Bool :=
  s.lsq.any fun f => f.core == e.core && decide (f.seq < e.seq) && !f.away && f.superblock == e.superblock

/-- The request that an entry becomes at the quay. -/
def LsOp.request (e : LsOp) : QReq :=
  let base : QReq :=
    { who := some (e.g, e.lane), seq := e.seq, pc := e.pc, ctx := e.ctx, pa := 0, va := e.va, cls := 0, m := 0, size := 0
      arg := 0, op := none, pend := none, core := e.core, ents := [e.key] }
  match e.kind with
  | .atomic o pa w b x p ks => { base with pa := homeOf pa, size := w, op := some (o, b, x), pend := p, ents := e.key :: ks }
  | .puts _ sig n _ _ => { base with pa := homeOf sig, size := 8, op := some (.add64, leBytes 8 n, []), src := .fb }
  | .quay pa va cls m size arg p => { base with pa, va, cls, gen := e.gen, m, size, arg, pend := p }
  | _ => base

/-- Requests join the queue of their quay (R199, R209); the entries wait there. -/
def State.enqueue (s : State) (es : List LsOp) : Option State :=
  match es with
  | [] => none
  | e :: _ =>
    let k := quayOf (e.superblock.getD 0 * 256)
    let Q := s.quay k
    if Q.reqs.length + es.length > 512 then none
    else
      let s := s.setQuay k { Q with reqs := Q.reqs ++ es.map LsOp.request }
      some (es.foldl (fun s e => s.setLs e.key fun x => { x with away := true }) s)

/-- The keys that a packet stands for: its own, and those of the atomics merged into it (R190). -/
def LsOp.keys (e : LsOp) : List (Nat × Nat × Nat) := match e.kind with
  | .atomic _ _ _ _ _ _ ks => e.key :: ks
  | _ => [e.key]

/-- The release condition of each constituent of a packet holds, and nothing else holds it back, entries of `skip` apart (R190). -/
def State.packetFree (s : State) (e : LsOp) (alone : Bool) (skip : List (Nat × Nat × Nat)) : Bool :=
  !e.away && s.lsq.all fun f => !e.keys.contains f.key || s.lsFree f alone skip

/-- A packet may be performed. -/
def State.packetReady (s : State) (e : LsOp) : Bool := s.packetFree e (decide (e.keys.length = 1)) e.keys

/-- Every entry of a list may be performed: the others of the list do not hold one back. -/
def State.allReady (s : State) (es : List LsOp) : Bool :=
  es.all fun e => s.packetFree e (decide (e.keys.length = 1)) (es.flatMap LsOp.keys)

/-- The atomics that wait for the home of a line. -/
def State.atomicsOn (s : State) (line : Nat) : List LsOp :=
  s.lsq.filter fun e => !e.away && e.target.map (· / 64) == some line

/-- Atomics to a line are diverted: two or more are queued on it, or it is in quay mode (R191, R207). -/
def State.hotLine (s : State) (line : Nat) : Bool := s.quayMode line || decide (2 ≤ (s.atomicsOn line).length)

/-- Two no-return atomics of one operation and address merge on their way: the value of the packet that stands for both (R190). What each
waits for has come, so that the packet waits for nothing of its own. -/
def State.mergeAtomics (s : State) (e f : LsOp) : Option State :=
  match e.kind, f.kind with
  | .atomic o pa w b _ none _, .atomic o' pa' _ b' _ none ks' =>
    let keys := e.keys ++ f.keys
    if e.key = f.key || o != o' || pa != pa' || isRemote (homeOf pa) || !s.packetFree e false keys || !s.packetFree f false keys then none
    else
      let v := leBytes w (o.new (leNat b') (leNat b) 0)
      some ((s.setLs f.key fun y => { y with kind := .atomic o pa w v [] none (ks' ++ e.keys) }).setLs e.key fun y => { y with away := true })
  | _, _ => none

/-- An atomic, and the others of its instruction for its superblock, leave for the quay that its line is diverted to (R191, R199, R207). -/
def State.divert (s : State) (e : LsOp) : Option State :=
  match e.target with
  | none => none
  | some pa =>
    let es := (s.batch e).filter fun f => match f.target with
      | some a => s.hotLine (a / 64)
      | none => false
    if isRemote pa || e.away || !s.allReady es || s.overtakes e || !s.hotLine (pa / 64) then none else s.enqueue es

/-- HOME_ATOMIC_PERFORM (R189 to R191): performed, merged into another no-return atomic of the same operation and
address, or diverted to the quay. -/
def execHomeAtomicPerform (i : Nat) (how : AtomicHow) (s : State) : Host.Outcome State Fault Refusal :=
  event s <|
  match s.lsq[i]? with
  | none => none
  | some e =>
    match how with
    | .divert => (s.divert e)
    | .merge j => (s.lsq[j]?.bind fun f => s.mergeAtomics e f)
    | .perform far =>
      let s := s.farPoison far
      match e.kind with
      | .atomic o pa w b x ret _ =>
        (if !s.packetReady e || s.holds (List.range w |>.map (pa + ·)) || s.quayMode (homeOf pa / 64) then none
          else some (s.doAtomic e o pa w b x ret e.keys))
      | _ => none

/-! ### Discards (R186, R187) -/

/-- DISCARD_PERFORM: an LDLU32's own read comes first; the line's next contents come from memory through its slice's port (R150). -/
def execDiscardPerform (i : Nat) (s : State) : Host.Outcome State Fault Refusal :=
  event s <|
  match s.lsReady i [] with
  | none => none
  | some e =>
    match e.kind with
    | .disc line =>
      let reading := match s.group? e.g with
        | some G => G.pend.any fun p => p.seq == e.seq && match AMap.get? p.lanes e.lane with
            | some x => x.open'
            | none => false
        | none => false
      let noTag := 64 * line < 0x800000000000 && (s.freeTag (homeSlice (64 * line))).isNone
      (if reading || noTag || s.waveHolds [64 * line] then none else some ((s.acked [e.key]).discardLine line))
    | _ => none

/-! ### Releases (R172, R178) -/

/-- A held release takes effect. -/
def State.runHeld (s : State) (g : Nat) (h : Held) : Option State :=
  let s' := s.updGroup g fun G => { G with held := G.held.filter fun x => x.seq != h.seq }
  match h.act with
  | .barA b k p => some (s'.runBarA g b k p)
  | .barS b k m => some (s'.runBarS g b k m)
  | .fence m => some (s'.runFence g m)
  | .fencex x y m => if s.fenceWaits g h.seq h.lanes x then none else some ((s'.wake g m).fenceTo g y)
  | .emit node recs hs p => some (s'.runEmit g node recs hs p)
  | .maint what a len m started =>
    if !started then if s.maintHeld g what a len then none else some (s'.runMaint g h.seq what a len m)
    else match s.group? g with
      | some G => if s.wbDone G.ctx a len && !s.maintHeld g what a len then some (s'.wake g m) else none
      | none => none
  | .exit m => some (s'.endLanes g m)

/-- ACK_COUNT_ZERO (R172): the first release that the group holds takes effect once every earlier write is performed. -/
def execAckCountZero (g : Nat) (s : State) : Host.Outcome State Fault Refusal :=
  event s <|
  match (s.group? g).bind fun G => G.held.head? with
  | none => none
  | some h =>
    let free := match h.act with
      | .fencex _ _ _ | .maint _ _ _ _ true => true
      | _ => !s.mustHold g h.seq h.lanes
    (if free then s.runHeld g h else none)

/-! ### Monitors (R183) -/

/-- The end of an MWAIT: the predicate is written, the monitor disarmed, and the lane goes on. -/
def State.endMwait (s : State) (g l : Nat) (d : PReg) (hit : Bool) : State :=
  let s := s.bump
  let s := s.updGroup g fun G => (G.writeP s.seq (1 <<< l) d fun _ => hit).updLane l fun L => { L with monitor := none }
  s.wake g (1 <<< l)

/-- MONITOR_WRITE_OBSERVED (R183): a value satisfies the wait; the lane performs an acquire. -/
def execMonitorWriteObserved (g lane : Nat) (s : State) : Host.Outcome State Fault Refusal :=
  event s <|
  let L := s.lane g lane
  match L.wait, L.monitor with
  | .mwait d _ _ _, some m => (if L.live && m.hit then some ((s.endMwait g lane d true).acquire (coreOf g)) else none)
  | _, _ => none

/-- MWAIT_BUDGET_EXPIRY (R183). -/
def execMwaitBudgetExpiry (g lane : Nat) (s : State) : Host.Outcome State Fault Refusal :=
  event s <|
  let L := s.lane g lane
  match L.wait, L.monitor with
  | .mwait d _ _ budget, some m =>
    (if L.live && !m.hit && budget != 0 then some (s.endMwait g lane d false) else none)
  | _, _ => none

/-! ### A device that does not answer (R340) -/

/-- The address leads to a device. -/
def leadsTo (dev pa : Nat) : Bool := isRemote pa && (pa - remoteBase) / 2 ^ 48 == dev

/-- What is left of an entry without its accesses to a device; `none` if nothing of it goes there. -/
def LsOp.without (e : LsOp) (dev : Nat) : Option (Option LsOp) :=
  match e.kind with
  | .store bs m =>
    let rest := bs.filter fun b => !leadsTo dev b.pa
    if rest.length = bs.length then none
    else some (if rest.isEmpty then none else some { e with kind := .store rest m })
  | .atomic _ pa _ _ _ _ _ => if leadsTo dev pa then some none else none
  | .puts _ sig _ _ _ => if leadsTo dev sig then some none else none
  | _ => none

/-- The waiting loads of a lane that lead to a device trap UNCORR at their marker. -/
def State.loadsLost (s : State) (g : Nat) (p : Pend) (dev : Nat) : State :=
  match s.group? g with
  | none => s
  | some G =>
    p.lanes.foldl (fun (s : State) e =>
      let lose := fun (s : State) (va : DWord) (n : Nat) (pas : List Nat) =>
        if pas.any (leadsTo dev) then
          s.setPLane g p.seq e.1 (if (G.lane e.1).helper then .back (List.replicate (max 1 (n / 4)) 0)
            else .lost (some (p.lostRec { cause := .uncorr } va)))
        else s
      match e.2, p.kind with
      | .half va _ _ rest, .load n .. => lose s va n rest
      | .waiting va, .load n .. | .waiting va, .gath n =>
        match (s.xlate (via g G) va n .read (some p.pkr)).2 with
        | .ok pas => lose s va n pas
        | .error _ => s
      | _, _ => s) s

/-- DEVICE_DOES_NOT_ANSWER: the accesses of one instruction to a device fail. Stores and no-return atomics are dropped with
a record; loads and returning atomics trap. -/
def execDeviceDoesNotAnswer (g seq dev : Nat) (s : State) : Host.Outcome State Fault Refusal :=
  event s <|
  let hit := s.lsq.filter fun e => e.g == g && e.seq == seq && (e.without dev).isSome
  let ps : List Pend := match s.group? g with
    | some G => G.pend.filter fun p => p.seq == seq
    | none => []
  let s' := hit.foldl (fun (s : State) e =>
    let s := match e.kind with
      | .atomic _ _ _ _ _ (some q) _ => s.atomicReply g e.lane q (uncorrAt e.pc e.va)
      | _ => s.fabricLost e
    match e.without dev with
    | some (some r) => s.setLs e.key fun _ => r
    | _ => s.acked [e.key]) s
  let s' := ps.foldl (fun (s : State) p => s.loadsLost g p dev) s'
  let moved := s'.groups != s.groups
  (if hit.isEmpty && !moved then none else some (ps.foldl (fun (s : State) p => match p.kind with
    | .gath _ => if p.parked then s else s.gathGo g p.seq 0xFFFFFFFF
    | _ => s) s'))

end Sys2Proof.Machine
end

