-- ==== Sys2Proof/Machine/Copies.lean ====
section
/-! DEFINITION. The copy engine at work: starting, the bytes that land, completion, and stopping (R178, R217 to R223, R226,
R284). -/

namespace Sys2Proof.Machine

/-! ### What an engine's access gives (R223, R231, R248, R259) -/

/-- Why an engine's access does not go through. -/
inductive Bar' where
  /-- A wave holds the place: the access waits for its end. -/
  | hold
  | fault (x : XFault) (va : DWord) (k : Kind)
  | poison (va : DWord)
  deriving DecidableEq, Repr

/-- What a translation that fails means for an engine. -/
def XFault.bar (x : XFault) (va : DWord) (k : Kind) : Bar' := if x.held then .hold else .fault x va k

/-- A read by an engine at translated places, at the home; another package's reserved place gives no data. -/
def State.engGet (s : State) (va : DWord) (pas : List Nat) : State × Except Bar' (List Byte) :=
  if s.holds pas then (s, .error .hold)
  else match pas.findIdx? fun pa => (isRemote pa && !remoteOk pa) || (s.poisonIn pa 1).isSome with
    | some i => (s, .error (.poison (va + BitVec.ofNat 64 i)))
    | none =>
      let s := match pas.find? isRemote with
        | some pa => s.fabricSend pa
        | none => s
      (pas.foldl (fun s pa => if isRemote (homeOf pa) then s else s.fill (homeOf pa)) s, .ok (pas.map fun pa => s.byte (homeOf pa)))

/-- A read by an engine. -/
def State.engRead (s : State) (v : Via) (pkr va : DWord) (n : Nat) : State × Except Bar' (List Byte) :=
  match s.xlate v va n .read (some pkr) with
  | (s, .error x) => (s, .error (x.bar va .read))
  | (s, .ok pas) => s.engGet va pas

/-- A write by an engine of the bits of `mask` in each byte, at translated places; it registers no ownership, and another package's
reserved place takes nothing. -/
def State.engPut (s : State) (pas : List Nat) (bs : List (Byte × Byte)) : State × Except Bar' Unit :=
  if s.waveHolds pas then (s, .error .hold)
  else
    let es := (pas.zip bs).filter fun e => !(isRemote e.1 && !remoteOk e.1)
    (s.homeWrite none [] (es.map fun e => (e.1, (s.byte (homeOf e.1) &&& ~~~e.2.1) ||| (e.2.2 &&& e.2.1))), .ok ())

/-- A write by an engine. -/
def State.engWrite (s : State) (v : Via) (pkr va : DWord) (bs : List (Byte × Byte)) : State × Except Bar' Unit :=
  match s.xlate v va bs.length .write (some pkr) with
  | (s, .error x) => (s, .error (x.bar va .write))
  | (s, .ok pas) => s.engPut pas bs

/-- The 64-byte granule of an address (R223, R231, R248). -/
def granuleOf (va : DWord) : Nat := va.toNat / 64

/-- How many of the first writes lie in one aligned block of `w` bytes, one after the other: they are performed together (R170). -/
def alignedRun (w : Nat) : List (DWord × Byte) → Nat
  | [] => 0
  | [_] => 1
  | a :: b :: r => if b.1 == a.1 + 1 && a.1.toNat / w == b.1.toNat / w then alignedRun w (b :: r) + 1 else 1

/-- Where an address lies that an engine writes: its granule is translated once, as its first byte is written; `granule` are those that have
been translated, and where they lie. -/
def State.granuleAt (s : State) (v : Via) (pkr : DWord) (granule : List (Nat × Nat)) (va : DWord) :
    State × Except Bar' (Nat × List (Nat × Nat)) :=
  match granule.find? fun e => e.1 == granuleOf va with
  | some e => (s, .ok (64 * e.2 + va.toNat % 64, granule))
  | none => match s.xlate v va 1 .write (some pkr) with
    | (s, .error x) => (s, .error (x.bar va .write))
    | (s, .ok pas) => (s, .ok (pas.headD 0, [(granuleOf va, pas.headD 0 / 64)]))

/-- Every granule of a list of writes is translated (R221, R231). -/
def State.placeAll (s : State) (v : Via) (pkr : DWord) : List (Nat × Nat) → List DWord → State × Except Bar' (List (Nat × Nat))
  | gs, [] => (s, .ok gs)
  | gs, va :: vas =>
    if gs.any fun e => e.1 == granuleOf va then s.placeAll v pkr gs vas
    else match s.granuleAt v pkr [] va with
      | (s, .error e) => (s, .error e)
      | (s, .ok (_, ns)) => s.placeAll v pkr (ns ++ gs) vas

/-- The first block of a list of writes is performed: how many of them, at which places, and the granules that have been translated. -/
def State.landBlock (s : State) (v : Via) (pkr : DWord) (granule : List (Nat × Nat)) (w : Nat) (out : List (DWord × Byte)) :
    State × Except Bar' (List Nat × List (Nat × Nat)) :=
  match out with
  | [] => (s, .ok ([], granule))
  | (va, _) :: _ =>
    match s.granuleAt v pkr granule va with
    | (s, .error e) => (s, .error e)
    | (s, .ok (pa, gs)) =>
      let pas := (List.range (alignedRun w out)).map (pa + ·)
      match s.engPut pas ((out.take pas.length).map fun e => (0xFF, e.2)) with
      | (s, .ok _) => (s, .ok (pas, gs))
      | (s, .error e) => (s, .error e)

/-- The bytes of one read that an engine's staging may serve: all of them, fetched together at a stamp before the operation's, with no fence
of the team between (R170, R177, R178). -/
def State.stagedBytes (s : State) (pas : List Nat) (order : Nat) (fences : List Nat) (tab : AMap (Byte × Nat)) : Option (List Byte) :=
  match pas.mapM fun pa => AMap.get? tab pa with
  | some ((b, q) :: bs) =>
    if bs.all (fun e => e.2 == q) && Config.staged s.seq (pas.headD 0) && !(fences.any fun x => decide (q < x) && decide (x < order)) then
      some (b :: bs.map (·.1))
    else none
  | _ => none

/-- An element as an engine's own staging or the home has it; what is read at the home is staged (R170, R177, R178). -/
def State.stagedRead (s : State) (v : Via) (pkr va : DWord) (n order : Nat) (fences : List Nat) (tab : AMap (Byte × Nat)) :
    State × Except Bar' (List Byte × AMap (Byte × Nat)) :=
  match s.xlate v va n .read (some pkr) with
  | (s, .error x) => (s, .error (x.bar va .read))
  | (s, .ok pas) =>
    match s.engGet va pas with
    | (s, .error e) => (s, .error e)
    | (s, .ok bs) => match s.stagedBytes pas order fences tab with
      | some old => (s, .ok (old, tab))
      | none => (s, .ok (bs, (pas.zip bs).foldl (fun t e => AMap.put t e.1 (e.2, s.seq)) tab))

/-- Whole bytes. -/
def whole (bs : List Byte) : List (Byte × Byte) := bs.map fun b => (0xFF, b)

/-! ### Elements of a copy (R219, R220) -/

def Copy.via (c : Copy) (core : Nat) : Via := { tlb := core, die := dieOf core, ctx := c.ctx, team := c.team }

/-- The box and its rank. -/
def Copy.box (c : Copy) : List Nat × Nat := match c.boxTensor with
  | some t => (t.box, t.rank)
  | none => ([], 0)

/-- The width of an element in bits. -/
def Copy.width (c : Copy) : Nat := match c.boxTensor with
  | some t => fmtWidth t.fmt
  | none => 8

/-- Coordinates of position `p` of the box, from the coordinate words at `at'`. -/
def Copy.coords (c : Copy) (at' p : Nat) : List Int :=
  (boxCoords c.box.1 c.box.2 p).zipIdx.map fun e =>
    if e.2 < c.box.2 then (c.word (at' + e.2)).toInt + (e.1 : Nat) else 0

/-- The copy in a journal entry. -/
def State.copyAt (s : State) (core j : Nat) : Option Copy := AMap.get? (s.core core).journal j
def State.updCopy (s : State) (core j : Nat) (f : Copy → Copy) : State :=
  let C := s.core core
  s.setCore core { C with journal := AMap.upd C.journal j f }

/-- Where a byte lies that a copy reads, or with `w` writes: each granule is translated once in a run of the copy (R221, R223). -/
def State.copyPlace (s : State) (core j : Nat) (c : Copy) (w : Bool) (va : DWord) : State × Except Bar' Nat :=
  let key := 2 * granuleOf va + b2n w
  match ((s.copyAt core j).map Copy.places).bind fun ps => ps.find? fun e => e.1 == key with
  | some e => (s, .ok (64 * e.2 + va.toNat % 64))
  | none => match s.xlate (c.via core) va 1 (if w then .write else .read) (some c.pkr) with
    | (s, .error x) => (s, .error (x.bar va (if w then .write else .read)))
    | (s, .ok pas) => (s.updCopy core j fun c => { c with places := (key, pas.headD 0 / 64) :: c.places }, .ok (pas.headD 0))

/-- A byte that a copy reads. -/
def State.copyRead (s : State) (core j : Nat) (c : Copy) (va : DWord) : State × Except Bar' Byte :=
  match s.copyPlace core j c false va with
  | (s, .error e) => (s, .error e)
  | (s, .ok pa) => match s.engGet va [pa] with
    | (s, .error e) => (s, .error e)
    | (s, .ok bs) => (s, .ok (bs.headD 0))

/-- The bits of `mask` that a copy writes of a byte. -/
def State.copyWrite (s : State) (core j : Nat) (c : Copy) (va : DWord) (mask x : Byte) : State × Except Bar' Unit :=
  match s.copyPlace core j c true va with
  | (s, .error e) => (s, .error e)
  | (s, .ok pa) => s.engPut [pa] [(mask, x)]

/-- The index position of a box position (R220). -/
def Copy.indexJ (c : Copy) (p : Nat) : Int :=
  (c.word (c.idxAt + 1)).toInt + ((boxCoords c.box.1 c.box.2 p).getD (bitsAt (c.word c.idxAt) 8 3) 0 : Nat)

/-- The source coordinate that an index replaces; each index element is read once in a run of the copy (R220). -/
def State.indexCoord (s : State) (core jn : Nat) (c : Copy) (p : Nat) : State × Except Bar' Int :=
  match c.idx with
  | none => (s, .ok (-1))
  | some t =>
    let j := c.indexJ p
    if 0 ≤ j ∧ j < (t.dims.getD 0 0 : Nat) then
      match c.index.find? fun e => e.1 == j with
      | some e => (s, .ok e.2)
      | none =>
        match s.engRead (c.via core) c.pkr (t.at1 j.toNat) 4 with
        | (s, .ok bs) => (s.updCopy core jn fun c => { c with index := c.index ++ [(j, (leWord bs).toInt)] }, .ok (leWord bs).toInt)
        | (s, .error e) => (s, .error e)
    else (s, .ok (-1))

/-- The coordinates of a source element. -/
def State.srcCoords (s : State) (core jn : Nat) (c : Copy) (p : Nat) : State × Except Bar' (List Int) :=
  let is := c.coords 3 p
  if c.hasIdx then
    match s.indexCoord core jn c p with
    | (s, .ok i) => (s, .ok (is.set (bitsAt (c.word c.idxAt) 8 3) i))
    | (s, .error e) => (s, .error e)
  else (s, .ok is)

/-- The coordinates of a source element as far as they are known without a read. -/
def Copy.knownCoords (c : Copy) (p : Nat) : Option (List Int) :=
  let is := c.coords 3 p
  if c.hasIdx then (c.index.find? fun e => e.1 == c.indexJ p).map fun e => is.set (bitsAt (c.word c.idxAt) 8 3) e.2 else some is

/-- The bytes of an element. -/
def Copy.elemBytes (c : Copy) : Nat := max 1 (c.width / 8)

/-- The index elements of some positions are read, as far as they come. -/
def State.readIndices (s : State) (core jn : Nat) (ps : List Nat) : State :=
  ps.foldl (fun s p => match s.copyAt core jn with
    | some c => match s.indexCoord core jn c p with
      | (s, .ok _) => s
      | (_, .error _) => s
    | none => s) s

/-- The first source byte of the box in a 64-byte granule that is poisoned: all that comes from the granule fails with it (R223), whatever
positions of the box the index names it at. -/
def State.granuleFails (s : State) (core jn : Nat) (c : Copy) (t : TensorId) (a : DWord) : State × Option DWord :=
  let γ := granuleOf a
  match s.copyPlace core jn c false a with
  | (s, .error _) => (s, none)
  | (s, .ok pa) =>
    let g := pa / 64 * 64
    if (s.poisonIn g 64).isNone then (s, none)
    else
      let s := if c.hasIdx then s.readIndices core jn (List.range t.boxElems) else s
      let c := (s.copyAt core jn).getD c
      let bad := fun (va : Nat) => va / 64 == γ && (s.poisonIn (g + va % 64) 1).isSome
      (s, (List.range t.boxElems).findSome? fun p => match c.knownCoords p with
        | some is => if t.inside is then
            ((List.range c.elemBytes).map fun b => (t.elemAddr is + BitVec.ofNat 64 b)).find? fun va => bad va.toNat
          else none
        | none => none)

/-! ### Line buffers (R222) -/

/-- The bytes of a row of the box. -/
def Copy.rowBytes (c : Copy) : Nat := max 1 (c.box.1.getD 0 0 * c.width / 8)

/-- The row of a source element, named by its first coordinates. -/
def Copy.rowAt (c : Copy) (is : List Int) : List Int := is.set 0 ((c.word 3).toInt)

/-- The byte of unit `k` as a held row may serve it: the latest fetch of that row, no fence between it and the command. -/
def State.heldByte (s : State) (core : Nat) (c : Copy) (is : List Int) (k : Nat) : Option Byte :=
  if !c.fromBuf || c.hasIdx then none
  else
    let C := s.core core
    (C.rows.reverse.find? fun r => r.k == c.rowKey && some r.tensor == c.src && r.coords == c.rowAt is && r.bytes.length == c.rowBytes &&
      !(C.cpFences.any fun x => decide (r.order < x) && decide (x < c.order))).map fun r => r.bytes.getD (k % c.rowBytes) 0

/-- The engine keeps the last eight rows that it fetches; one read through an index, or longer than 4,096 bytes, may serve no later
copy. -/
def State.keepRow (s : State) (core : Nat) (c : Copy) (t : TensorId) (is : List Int) (bs : List Byte) : State :=
  let C := s.core core
  let row : BufRow := { tensor := t, k := c.rowKey, coords := c.rowAt is, bytes := if c.hasIdx || bs.length > 4096 then [] else bs, order := c.rowSeq }
  s.setCore core { C with rows := (C.rows ++ [row]).drop ((C.rows.length + 1) - 8) }

/-- The bytes of the present row so far, with one more that has been fetched; the row is kept once it is whole. -/
def State.rowGrows (s : State) (core jn k : Nat) (c : Copy) (t : TensorId) (is : List Int) (x : Byte) : State :=
  let i := k % c.rowBytes
  let s := s.updCopy core jn fun c =>
    if i = 0 then { c with rowNow := [x], rowSeq := s.seq } else if c.rowNow.length = i then { c with rowNow := c.rowNow ++ [x] } else c
  match s.copyAt core jn with
  | some c => if i + 1 = c.rowBytes && c.rowNow.length == c.rowBytes then s.keepRow core c t is c.rowNow else s
  | none => s

/-! ### One unit: a byte of the box in box order -/

/-- The byte of the source tensor that holds element `p`, or its byte `b`: bits above the element are left in place. -/
def State.srcElem (s : State) (core jn : Nat) (c : Copy) (t : TensorId) (p b : Nat) : State × Except Bar' Byte :=
  match s.srcCoords core jn c p with
  | (s, .error e) => (s, .error e)
  | (s, .ok is) =>
    if !t.inside is then (s, .ok 0)
    else
      let a := t.elemAddr is + BitVec.ofNat 64 b
      match s.granuleFails core jn c t a with
      | (s, some va) => (s, .error (.poison va))
      | (s, none) =>
        match s.copyRead core jn c a with
        | (s, .error e) => (s, .error e)
        | (s, .ok x) =>
          (s, .ok (if c.width = 4 then (if (is.getD 0 0) % 2 = 0 then x &&& 0xF else x >>> 4) else x))

/-- Unit `k` of a tensor source: a byte of an element, or two Q4N elements. -/
def State.tensorUnit (s : State) (core jn : Nat) (c : Copy) (t : TensorId) (k : Nat) : State × Except Bar' Byte :=
  if c.width = 4 then
    match s.srcElem core jn c t (2 * k) 0 with
    | (s, .error e) => (s, .error e)
    | (s, .ok x) =>
      match s.srcElem core jn c t (2 * k + 1) 0 with
      | (s, .error e) => (s, .error e)
      | (s, .ok y) => (s, .ok (x ||| y.shiftLeft 4))
  else s.srcElem core jn c t (k / c.elemBytes) (k % c.elemBytes)

/-- The position of the first element of a unit. -/
def Copy.unitPos (c : Copy) (k : Nat) : Nat := if c.width = 4 then 2 * k else k / c.elemBytes

/-- Unit `k` of the source. -/
def State.srcUnit (s : State) (core jn : Nat) (c : Copy) (k : Nat) : State × Except Bar' Byte :=
  match c.srcTile, c.src with
  | some h, _ =>
    let sk := ((s.team? c.team).map Team.share).getD 0
    (s, .ok (((s.share sk).bytes ((s.tile sk h).base + bitsAt (c.word 2) 8 24 + k) 1).getD 0 0))
  | none, some t =>
    match s.heldByte core c (c.coords 3 (c.unitPos k)) k with
    | some x => (s, .ok x)
    | none =>
      match s.tensorUnit core jn c t k with
      | (s, .error e) => (s, .error e)
      | (s, .ok x) => (s.rowGrows core jn k c t (c.coords 3 (c.unitPos k)) x, .ok x)
  | none, none => (s, .ok 0)

/-- Unit `k + 1` of the source lies in the same aligned 8 bytes as unit `k`: they are read together (R170). -/
def Copy.readsWith (c : Copy) (k : Nat) : Bool :=
  match c.src with
  | none => (bitsAt (c.word 2) 8 24 + k + 1) % 8 != 0
  | some t =>
    let is := c.coords 3 (c.unitPos k)
    (k + 1) % c.rowBytes != 0 && ((c.width == 4 && (is.getD 0 0) % 2 != 0) ||
      ((t.elemAddr is).toNat + (if c.width = 4 then 0 else k % c.elemBytes) + 1) % 8 != 0)

/-- Units from `k` on that lie in one aligned 8 bytes of the source are read at one instant; what cannot be read ends the run. -/
def State.readRun (s : State) (core jn : Nat) : Nat → Nat → State × Except Bar' (List Byte)
  | 0, _ => (s, .ok [])
  | fuel + 1, k =>
    match s.copyAt core jn with
    | none => (s, .error .hold)
    | some c =>
      match s.srcUnit core jn c k with
      | (s, .error e) => (s, .error e)
      | (s, .ok x) =>
        if k + 1 < c.total && c.readsWith k then
          match s.readRun core jn fuel (k + 1) with
          | (s', .ok xs) => (s', .ok (x :: xs))
          | (_, .error _) => (s, .ok [x])
        else (s, .ok [x])

/-- What has been read grows to at least `n` bytes from `prog` on, or up to what does not come. -/
def State.readAhead (s : State) (core jn n : Nat) : Nat → State × Except Bar' Unit
  | 0 => (s, .ok ())
  | fuel + 1 =>
    match s.copyAt core jn with
    | none => (s, .error .hold)
    | some c =>
      if n ≤ c.ahead.length || c.total ≤ c.prog + c.ahead.length then (s, .ok ())
      else match s.readRun core jn c.total (c.prog + c.ahead.length) with
        | (s, .error e) => (s, .error e)
        | (s, .ok xs) => (s.updCopy core jn fun c => { c with ahead := c.ahead ++ xs }).readAhead core jn n fuel

/-- The element after another in its row of the box has its place in the destination tensor. -/
def Copy.hasNext (c : Copy) (t : TensorId) (p : Nat) : Bool :=
  let b0 := (boxCoords c.box.1 c.box.2 p).getD 0 0
  decide (b0 + 1 < c.box.1.getD 0 0) && t.inside (c.coords (c.dstAt + 1) (p + 1))

/-- Where unit `k` goes in the destination tensor: address, mask and byte; nothing for a dropped element (R219). -/
def Copy.targets (c : Copy) (t : TensorId) (k : Nat) (x : Byte) : List (DWord × Byte × Byte) :=
  if c.width = 4 then
    let es : List (Nat × Byte) := [(2 * k, x &&& 0xF), (2 * k + 1, x >>> 4)]
    es.filterMap fun e =>
      let is := c.coords (c.dstAt + 1) e.1
      if !t.inside is then none
      else if (is.getD 0 0) % 2 = 0 then some (t.elemAddr is, 0x0F, e.2) else some (t.elemAddr is, 0xF0, e.2.shiftLeft 4)
  else
    let is := c.coords (c.dstAt + 1) (k / c.elemBytes)
    if t.inside is then [(t.elemAddr is + BitVec.ofNat 64 (k % c.elemBytes), 0xFF, x)] else []

/-- Nibbles of one byte are written together. -/
def joinTargets : List (DWord × Byte × Byte) → List (DWord × Byte × Byte)
  | (a, m, x) :: (b, n, y) :: r => if a = b then (a, m ||| n, x ||| y) :: r else (a, m, x) :: (b, n, y) :: r
  | l => l

/-- The low nibble that a Q4N unit leaves for the next unit, whose first element fills the same byte (R219). -/
def Copy.leaves (c : Copy) (t : TensorId) (k : Nat) (x : Byte) : Option (DWord × Byte) :=
  if c.width != 4 then none
  else
    let p := 2 * k + 1
    let is := c.coords (c.dstAt + 1) p
    if t.inside is && (is.getD 0 0) % 2 == 0 && c.hasNext t p then some (t.elemAddr is, x >>> 4) else none

/-- The writes of a unit: those of its targets but for the nibble that it leaves, with the nibble that the unit before left. -/
def Copy.writes (c : Copy) (t : TensorId) (k : Nat) (x : Byte) : List (DWord × Byte × Byte) :=
  let left := c.leaves t k x
  let ts := (c.targets t k x).filter fun e => !(left.isSome && e.2.1 == 0x0F && left.map (·.1) == some e.1)
  joinTargets ((c.carry.map fun e => (e.1, (0x0F : Byte), e.2)).toList ++ ts)

/-- The writes of a unit, in order. -/
def State.writeTargets (s : State) (core j : Nat) (c : Copy) : List (DWord × Byte × Byte) → State × Except Bar' Unit
  | [] => (s, .ok ())
  | (a, m, x) :: r =>
    match s.copyWrite core j c a m x with
    | (s, .error e) => (s, .error e)
    | (s, .ok _) => s.writeTargets core j c r

/-- A write that is left for the next unit would go through. -/
def State.writable (s : State) (core j : Nat) (c : Copy) (a : DWord) : State × Except Bar' Unit :=
  match s.copyPlace core j c true a with
  | (s, .error e) => (s, .error e)
  | (s, .ok pa) => (s, if s.waveHolds [pa] then .error .hold else .ok ())

/-- Unit `k` lands (R219, R221): the number of bytes to credit, and the nibble that is left. A unit with a nibble left is credited
with the one that writes it. -/
def State.landUnit (s : State) (core j : Nat) (c : Copy) (k : Nat) (x : Byte) : State × Except Bar' (Nat × Option (DWord × Byte)) :=
  match c.dstTile, c.dst with
  | some h, _ =>
    match s.team? c.team with
    | none => (s, .ok (0, none))
    | some T =>
      let t := s.tile T.share h
      let off := t.base + bitsAt (c.word c.dstAt) 8 24
      ((s.updShare T.share fun sh => sh.setBytes (off + k) [x]).setTile T.share h { t with arr := cnt20 (t.arr + 1) }, .ok (1, none))
  | none, some t =>
    let left := c.leaves t k x
    let (s, r) := match left with
      | some (a, _) => s.writable core j c a
      | none => (s, .ok ())
    match r with
    | .error e => (s, .error e)
    | .ok _ =>
      match s.writeTargets core j c (c.writes t k x) with
      | (s, .error e) => (s, .error e)
      | (s, .ok _) => (s, .ok ((if left.isSome then 0 else b2n !(c.targets t k x).isEmpty) + b2n c.carry.isSome, left))
  | none, none => (s, .ok (0, none))

/-- One more unit lands, of those that have been read. -/
def State.landNext (s : State) (core j : Nat) : State × Except Bar' Unit :=
  match s.copyAt core j with
  | none => (s, .error .hold)
  | some c =>
    match c.ahead with
    | [] => (s, .error .hold)
    | x :: xs =>
      match s.landUnit core j c c.prog x with
      | (s, .error e) => (s, .error e)
      | (s, .ok (n, left)) =>
        let s := s.updCopy core j fun c => { c with prog := c.prog + 1, credited := c.credited + n, ahead := xs, carry := left }
        match c.barrier, s.team? c.team with
        | some b, some T => (if n = 0 then s else s.creditBar (barOf T b) n, .ok ())
        | _, _ => (s, .ok ())

/-- Units that have been read land, up to `n`. -/
def State.landUnits (s : State) (core j : Nat) : Nat → State × Except Bar' Unit
  | 0 => (s, .ok ())
  | n + 1 => match s.landNext core j with
    | (s, .ok _) => s.landUnits core j n
    | (s, .error e) => (s, .error e)

/-- The aligned 8 bytes of the destination that unit `k` begins to write; `none` for a dropped unit. -/
def State.dstBlock (s : State) (c : Copy) (k : Nat) : Option Nat :=
  match c.dstTile, c.dst with
  | some h, _ => (s.team? c.team).map fun T => ((s.tile T.share h).base + bitsAt (c.word c.dstAt) 8 24 + k) / 8
  | none, some t =>
    let is := c.coords (c.dstAt + 1) (c.unitPos k)
    if t.inside is then some (((t.elemAddr is).toNat + (if c.width = 4 then 0 else k % c.elemBytes)) / 8) else none
  | none, none => none

/-- The units from `k` on that are written together: those of one aligned 8 bytes (R170). -/
def State.blockLen (s : State) (c : Copy) (k : Nat) : Nat → Nat
  | 0 => 1
  | fuel + 1 =>
    if k + 1 < c.total && (s.dstBlock c k).isSome && s.dstBlock c k == s.dstBlock c (k + 1) then s.blockLen c (k + 1) fuel + 1 else 1

/-- A fault of an entry's access goes to service (R223, R299). -/
def State.copyFault (s : State) (core j : Nat) (c : Copy) (x : XFault) (va : DWord) (k : Kind) : State :=
  let s := s.toService (dieOf core) { va, cause := x.cause, sub := x.sub, kind := k, src := .cp, ctx := c.ctx, source := sourceWord core j .cp, waiters := [.copy core j], l0 := x.l0 }
  s.updCopy core j fun c => { c with waiting := true, fva := va }

/-! ### Stamps and stopping (R221, R223) -/

/-- The stamp is written with a status. -/
def State.stampCopy (s : State) (core : Nat) (c : Copy) (status : Nat) : State × Except Bar' Unit :=
  s.engWrite (c.via core) c.pkr c.stampVa (whole (leBytes 8 (c.stampWord status).toNat))

/-- The record of a stopped copy (R223, R284). -/
def Copy.rec' (c : Copy) (j : Nat) (cause : Cause) (sub : BitVec 8) (k : Kind) (va : DWord) : Rec :=
  { cause, sub, kind := k, src := .cp, async := true, fpc := c.pc, addr := va, info := BitVec.ofNat 32 (c.tag * 2 ^ 16 + j)
    aux := BitVec.ofNat 64 c.prog }

/-- The team of a copy has finished: a STOPPED entry is cancelled (R109). -/
def State.teamFinished (s : State) (t : Nat) : Bool := match s.team? t with
  | some T => T.fin.all id
  | none => true

/-- A stopped copy's stamp is written with the status of the stop; `none` while a wave holds its place. A fault goes to service, and
a stamp that service refuses is not written (R221, R223). -/
def State.stampStopped (s : State) (core j : Nat) : Option State :=
  match s.copyAt core j with
  | none => none
  | some c =>
    match c.stampDue with
    | none => none
    | some status =>
      match s.stampCopy core c status with
      | (s, .ok _) => some (s.updCopy core j fun c => { c with stampDue := none })
      | (s, .error (.fault x va k)) =>
        if x.serviced then some (s.copyFault core j c x va k)
        else some ((s.updCopy core j fun c => { c with stampDue := none }).deliver c.g c.ctx (c.rec' j x.cause x.sub k va))
      | _ => none

/-- The nibble that is left is written, and the byte that it is of counts as written (R219, R223); `none` while a wave holds its place. -/
def State.landCarry (s : State) (core j : Nat) (c : Copy) : Option State :=
  match c.carry with
  | none => some s
  | some (a, x) =>
    match s.copyWrite core j c a 0x0F x with
    | (s, .ok _) =>
      let s := s.updCopy core j fun c => { c with credited := c.credited + 1, carry := none }
      some (match c.barrier, s.team? c.team with
        | some b, some T => s.creditBar (barOf T b) 1
        | _, _ => s)
    | _ => none

/-- A copy whose every byte before the failing granule is written is STOPPED (R223): its group gets a record, the stamp is written with its
status unless the stamp is what failed, and the entry waits for RESUME or CANCEL. -/
def State.copyStopped (s : State) (core j : Nat) (c : Copy) (x : CopyStop) : State :=
  let onStamp := c.prog == c.total
  let s := s.updCopy core j fun c => { c with
    st := .stopped, waiting := false, issued := false, issuedSeq := s.seq, ahead := [], stopping := none, places := [], stampOnly := onStamp
    status := x.status, stampDue := if c.hasStamp && !onStamp then some x.status else none }
  let s := s.deliver c.g c.ctx (c.rec' j x.cause x.sub x.kind x.va)
  let s := (s.stampStopped core j).getD s
  if s.teamFinished c.team then s.cancelCopy core j else s

/-- A copy that is to stop lands what it has read before the failing granule, and stops; `none` when nothing of that goes through now. -/
def State.stopRun (s : State) (core j : Nat) : Nat → Option State
  | 0 => none
  | fuel + 1 =>
    match s.copyAt core j with
    | none => none
    | some c => match c.stopping with
      | none => none
      | some x =>
        if c.ahead.isEmpty then
          (s.landCarry core j c).map fun s => match s.copyAt core j with
            | some c => s.copyStopped core j c x
            | none => s
        else match s.landNext core j with
          | (s, .ok _) => some ((s.stopRun core j fuel).getD s)
          | (s, .error (.fault x va k)) => if x.serviced then some (s.copyFault core j c x va k) else
            (s.updCopy core j fun c => { c with ahead := [], stopping := some { status := 2, cause := x.cause, sub := x.sub, kind := k, va } }).stopRun core j fuel
          | _ => none

/-- A copy fails (R223): with a write, nothing that it has read lands any more; with a read, that lands first. -/
def State.stopCopy (s : State) (core j status : Nat) (cause : Cause) (sub : BitVec 8) (k : Kind) (va : DWord) : State :=
  let s := s.updCopy core j fun c => { c with
    waiting := false, ahead := if k = .write then [] else c.ahead, stopping := some { status, cause, sub, kind := k, va } }
  match s.copyAt core j with
  | some c => (s.stopRun core j (c.ahead.length + 2)).getD s
  | none => s

/-- What an access that did not go through means for its copy: it waits for service, stops, or is retried after the wave. -/
def State.copyBar (s : State) (core j : Nat) (b : Bar') : State :=
  match s.copyAt core j with
  | none => s
  | some c =>
    match b with
    | .fault x va k =>
      if x.serviced then s.copyFault core j c x va k else s.stopCopy core j 2 x.cause x.sub k va
    | .hold | .poison _ => s

/-! ### Events -/

/-- COPY, COPY_RESUME and COPY_CANCEL: a command whose final QPUSH waited is accepted (R213, R214, R217, R223). -/
def acceptCopy (ty g : Nat) (s : State) : Host.Outcome State Fault Refusal :=
  event s <|
  match s.group? g with
  | none => none
  | some G =>
    let m := maskOf fun l => (G.lane l).live && (G.lane l).wait == .submit 0
    if m = 0 || bitsAt (G.q0.getD 0 0) 5 3 != ty then none
    else ((s.submit g 0).map fun s => s.wake g m)

/-- COPY (R217, R218). -/
def execCopy (g : Nat) (s : State) : Host.Outcome State Fault Refusal := acceptCopy 0 g s
/-- COPY_RESUME (R223). -/
def execCopyResume (g : Nat) (s : State) : Host.Outcome State Fault Refusal := acceptCopy 1 g s
/-- COPY_CANCEL (R223). -/
def execCopyCancel (g : Nat) (s : State) : Host.Outcome State Fault Refusal := acceptCopy 2 g s

/-- The tiles of a QUEUED copy let it start (R217, R226). -/
def State.tilesLet (s : State) (c : Copy) : Bool :=
  match s.team? c.team with
  | none => false
  | some T =>
    (match c.srcTile with
      | some h => let x := (s.tile T.share h).st; x == .ready || x == .draining
      | none => true) &&
    match c.dstTile with
    | some h => c.entered && !s.tileInOp T.share h
    | none => true

/-- Its event condition lets it start (R228). -/
def State.condLets (s : State) (c : Copy) : Bool :=
  match s.team? c.team with
  | none => false
  | some T => !c.wt || decide (1 ≤ (s.share T.share).counts.getD c.wg 0)

/-- COPY_START (R217): the first QUEUED entry, in the order of submission, that nothing holds. -/
def execCopyStart (core j : Nat) (fromBuf : Bool) (s : State) : Host.Outcome State Fault Refusal :=
  event s <|
  let J := (s.core core).journal
  match s.copyAt core j with
  | none => none
  | some c =>
    let free := fun (c : Copy) => c.st == .queued && !s.beingSaved c.team && s.tilesLet c && s.condLets c
    if !free c || decide (4 ≤ (J.filter fun e => e.2.st == .active).length)
        || J.any (fun e => decide (e.2.order < c.order) && free e.2) then none
    else
      let s := s.updCopy core j fun c => { c with
        st := .active, fromBuf, stamped := false, issued := false, ahead := [], carry := none, index := [], rowNow := [], waiting := false
        places := [], stopping := none }
      match s.team? c.team with
      | none => some s
      | some T =>
        let s := if c.wt then s.updShare T.share fun sh => sh.take c.wg else s
        some (match c.srcTile with
          | some h => s.setTile T.share h { s.tile T.share h with st := .draining }
          | none => s)

/-- At least `n` units land, aligned 8 bytes at a time (R170); `none` when not even the first do and nothing changes. -/
def State.copyRun (s : State) (core j n : Nat) (first : Bool) : Nat → Option State
  | 0 => some s
  | fuel + 1 =>
    match s.copyAt core j with
    | none => none
    | some c =>
      if n ≤ c.prog then some s
      else
        let m := s.blockLen c c.prog c.total
        match s.readAhead core j m m with
        | (s', .error b) =>
          match b with
          | .fault .. => some (s'.copyBar core j b)
          | _ => if first then none else some s
        | (s', .ok _) =>
          match s'.landUnits core j m with
          | (s', .ok _) => s'.copyRun core j n false fuel
          | (s', .error b) =>
            match b with
            | .fault .. => some (s'.copyBar core j b)
            | _ => if first then none else some s

/-- The places that the rest of a copy writes are translated, so that none of its writes can be refused any more (R221, R223). -/
def State.placeRest (s : State) (core j : Nat) (c : Copy) : State × Except Bar' Unit :=
  match c.dstTile, c.dst with
  | none, some t =>
    let as := (List.range (c.total - c.prog)).flatMap fun i => (c.targets t (c.prog + i) 0).map (·.1)
    as.foldl (fun r a => match r with
      | (s, .ok _) => match s.copyPlace core j c true a with
        | (s, .ok _) => (s, .ok ())
        | (s, .error e) => (s, .error e)
      | r => r) (s, .ok ())
  | _, _ => (s, .ok ())

/-- Every payload write of a copy is issued: its source is read, and its places are translated (R221); a fault of these is met when the
bytes before it have landed. -/
def State.issueCopy (s : State) (core j : Nat) (c : Copy) : Option State :=
  match s.readAhead core j (c.total - c.prog) (c.total - c.prog) with
  | (_, .error _) => none
  | (s, .ok _) => match s.placeRest core j c with
    | (s, .ok _) => some (s.updCopy core j fun c => { c with issued := true, issuedSeq := s.seq })
    | (_, .error _) => none

/-- BYTES_LAND of a copy (R219, R221): the next `n` bytes of the box land, or what of them goes through; with n = 0 every payload
write is issued, and after that the stamp may be written before the payload has landed; what a failing copy has read lands, and a stopped
copy's stamp is written (R223). -/
def State.landCopy (s : State) (core j n : Nat) : Option State :=
  match s.copyAt core j with
  | none => none
  | some c =>
    if c.waiting then none
    else if c.st == .stopped then (if n = 0 then s.stampStopped core j else none)
    else if c.st != .active || decide (c.total < c.prog + n) then none
    else if c.stopping.isSome then (if n = 0 then s.stopRun core j (c.ahead.length + 2) else none)
    else if n = 0 then
      if c.issued then
        if !c.hasStamp || c.stamped then none
        else match s.stampCopy core c 0 with
          | (s, .ok _) => some (s.updCopy core j fun c => { c with stamped := true })
          | _ => none
      else if c.prog = c.total then none
      else s.issueCopy core j c
    else match s.copyRun core j (c.prog + n) true n with
      | some s => match s.copyAt core j with
        | some d => if d.waiting || d.st != .active || decide (d.prog ≤ c.prog + n) then some s else none
        | none => some s
      | none => none

/-- The completion word (R221). -/
def Copy.doneWord (c : Copy) (j : Nat) : Word := BitVec.ofNat 32 (c.tag * 2 ^ 16 + c.status * 2 ^ 8 + j)

/-- The issuing group of a copy has exited. -/
def State.groupOver (s : State) (c : Copy) : Bool := match s.group? c.g, s.team? c.team with
  | some G, some T => G.team != c.team || G.idx != c.gi || T.fin.getD c.gi true
  | _, _ => true

/-- The end of a finished copy (R217, R221): its completion word enters q1 when there is room, and the pulse follows at the same
moment. -/
def State.finishCopy (s : State) (core j : Nat) (c : Copy) : Option State :=
  let full := c.cq && !s.groupOver c && decide (64 ≤ ((s.group? c.g).map fun G => G.q1.length).getD 0)
  if full then none
  else
    let C := s.core core
    let s := s.setCore core { C with journal := AMap.del C.journal j }
    let s := if c.cq && !s.groupOver c then s.updGroup c.g fun G => { G with q1 := G.q1 ++ [c.doneWord j] } else s
    some (match c.ev, s.team? c.team with
      | true, some T => s.updShare T.share fun sh => sh.pulse c.es
      | _, _ => s)

/-- COPY_COMPLETE (R221, R223): once every byte is written, or after a CANCEL, the stamp is written and the command completes. A
stamp that a cancelled copy cannot write is left out, with a record. -/
def execCopyComplete (core j : Nat) (s : State) : Host.Outcome State Fault Refusal :=
  event s <|
  match s.copyAt core j with
  | none => none
  | some c =>
    let done := c.st == .active && c.prog == c.total && c.stopping.isNone
    if !(done || c.st == .finishing) || c.waiting then none
    else
      let r : State × Except Bar' Unit := if c.hasStamp && !c.stamped then s.stampCopy core c (if done then 0 else c.status) else (s, .ok ())
      match r with
      | (_, .error .hold) | (_, .error (.poison _)) => none
      | (s, .error (.fault x va k)) =>
        if x.serviced || done then some (s.copyBar core j (.fault x va k))
        else some ((s.updCopy core j fun c => { c with stamped := true }).deliver c.g c.ctx (c.rec' j x.cause x.sub k va))
      | (s, .ok _) =>
        let s := if done then (s.updCopy core j fun c => { c with st := .finishing, status := 0, stamped := true }).copyTiles core c
          else s.updCopy core j fun c => { c with stamped := true }
        match s.copyAt core j with
        | none => some s
        | some c => match s.finishCopy core j c with
          | some s => some s
          | none => if done then some s else none

/-- The service of a copy's fault has ended without success: an ACTIVE copy stops; the stamp of one that has stopped or was cancelled
is not written (R221, R223). -/
def State.copyRefused (s : State) (core j : Nat) (c : Copy) (x : XFault) (k : Kind) : State :=
  match c.st with
  | .stopped => (s.updCopy core j fun c => { c with waiting := false, stampDue := none }).deliver c.g c.ctx (c.rec' j x.cause x.sub k c.fva)
  | .finishing => (s.updCopy core j fun c => { c with waiting := false, stamped := true }).deliver c.g c.ctx (c.rec' j x.cause x.sub k c.fva)
  | _ => s.stopCopy core j 2 x.cause x.sub k c.fva

/-- COPY_STOP (R223): the next source data is poisoned. -/
def execCopyStop (core j : Nat) (s : State) : Host.Outcome State Fault Refusal :=
  event s <|
  match s.copyAt core j with
  | none => none
  | some c =>
    if c.st != .active || c.waiting || c.issued || c.stopping.isSome || c.prog + c.ahead.length ≥ c.total then none
    else match s.srcUnit core j c (c.prog + c.ahead.length) with
      | (s, .error (.poison va)) => some (s.stopCopy core j 1 .uncorr 0 .read va)
      | _ => none

end Sys2Proof.Machine
end

