-- ==== Sys2Proof/Machine/Gates.lean ====
section
/-! DEFINITION. The gate units at work: TOPK, HIST, PSUM and PERM, their outputs, completion and stopping (R223, R230, R231,
R284). -/

namespace Sys2Proof.Machine

/-! ### Inputs -/

def Gate.via (c : Gate) : Via := { tlb := coreOf c.g, die := dieOfGroup c.g, ctx := c.ctx, team := c.team }

/-- The 64 KiB page of an address. -/
def pageOf (va : DWord) : Nat := va.toNat / 65536

/-- The stamps of the FENCEXs of a team that named GT as Y. -/
def State.gtFences (s : State) (t : Nat) : List Nat := ((s.team? t).map Team.gtFences).getD []

/-- An input element's bits, as the unit's staging or the home has them (R177); an access to the page that service has refused fails
again. -/
def State.gateElem (s : State) (u : Nat) (c : Gate) (va : DWord) (n : Nat) : State × Except Bar' Nat :=
  match c.refused.find? fun r => r.1 == pageOf va with
  | some (_, cause, sub) => (s, .error (.fault { cause, sub } va .read))
  | none =>
    match s.stagedRead c.via c.pkr va n c.order (s.gtFences c.team) (AMap.getD s.gateStage u []) with
    | (s, .ok (bs, tab)) => ({ s with gateStage := AMap.put s.gateStage u tab }, .ok (leNat bs))
    | (s, .error e) => (s, .error e)

/-- Elements of an input in order, up to the first that does not come. -/
def State.gateList (s : State) (u : Nat) (c : Gate) (n : Nat) : List DWord → State × List Nat × Option Bar'
  | [] => (s, [], none)
  | a :: as =>
    match s.gateElem u c a n with
    | (s, .error e) => (s, [], some e)
    | (s, .ok x) =>
      let (s, xs, e) := s.gateList u c n as
      (s, x :: xs, e)

/-- Every element of a tensor, dimension 0 fastest. -/
def TensorId.allAddrs (t : TensorId) : List DWord :=
  let ds := t.dims.take t.rank
  (List.range (ds.foldl (· * ·) 1)).map fun p => t.elemAddr ((boxCoords ds t.rank p).map fun (i : Nat) => (i : Int))

/-! ### The operations (R231) -/

/-- The order of TOPK: NaN below every number, −0 equal to +0. -/
def scoreKey (fp32 : Bool) (x : Nat) : Int :=
  let f := if fp32 then f32 else bf16
  let m := x % 2 ^ (f.width - 1)
  if f.isNan x then -(2 ^ 40 : Nat) else if x = m then (m : Int) else -(m : Int)

/-- The indices of one token, best first. -/
def topK (fp32 : Bool) (xs : List Nat) (k : Nat) : List Nat :=
  let key := fun i => scoreKey fp32 (xs.getD i 0)
  let before := fun (i j : Nat) => decide (key i > key j) || (key i == key j && decide (i < j))
  let rank := fun i => ((List.range xs.length).filter fun j => before j i).length
  (List.range k).map fun r => ((List.range xs.length).find? fun i => rank i == r).getD 0

/-- Writes of consecutive elements of a rank-1 tensor. -/
def put1 (t : TensorId) (xs : List Nat) : List (DWord × Byte) :=
  xs.zipIdx.flatMap fun e => (leBytes 4 e.1).mapIdx fun i b => (t.at1 e.2 + BitVec.ofNat 64 i, b)

/-- Writes of column `t0` of a rank-2 tensor with `n` bytes an element. -/
def put2 (t : TensorId) (t0 n : Nat) (xs : List Nat) : List (DWord × Byte) :=
  xs.zipIdx.flatMap fun e => (leBytes n e.1).mapIdx fun i b => (t.at2 e.2 t0 + BitVec.ofNat 64 i, b)

/-- The counts of HIST: elements that name no expert are ignored. -/
def histOf (E : Nat) (xs : List Nat) : List Nat := (List.range E).map fun e => (xs.filter (· == e)).length % 2 ^ 32

/-- Running sums, 32 bits wide, from 0. -/
def psumOf : Nat → List Nat → List Nat
  | a, [] => [a]
  | a, x :: xs => a :: psumOf ((a + x) % 2 ^ 32) xs

/-- PERM's permutation: the positions of each expert in turn, then the entries that name none. -/
def permOf (E : Nat) (xs : List Nat) : List Nat :=
  let at' := fun e => (xs.zipIdx.filter fun x => x.1 == e).map (·.2)
  let p := (List.range E).flatMap at'
  p ++ List.replicate (xs.length - p.length) 0xFFFFFFFF

/-- TOPK of as many tokens as were read whole. -/
def Gate.topkOut (c : Gate) (A : TensorId) (xs : List Nat) : List (DWord × Byte) :=
  let fp32 := A.fmt == 6
  let f := if fp32 then f32 else bf16
  (List.range (xs.length / c.E)).flatMap fun t =>
    let col := (xs.drop (t * c.E)).take c.E
    let is := topK fp32 col c.K
    (match c.ten 1 with
      | some B => put2 B t 4 is
      | none => []) ++
    (match c.val, c.ten 2 with
      | true, some V => put2 V t (if fp32 then 4 else 2) (is.map fun i => let x := col.getD i 0; if f.isNan x then f.nanCode else x)
      | _, _ => [])

/-- The outputs of a command from the input elements that were read: all of them, or those before a failure. The first offset of PERM
has no input. -/
def Gate.outputs (c : Gate) (xs : List Nat) (failed : Bool) : List (DWord × Byte) :=
  let w := fun i (l : List Nat) => match c.ten i with
    | some t => put1 t l
    | none => []
  match c.op, c.ten 0 with
  | 1, some A => c.topkOut A xs
  | 2, _ => if failed then [] else w 1 (histOf c.E xs)
  | 3, _ => w 1 (psumOf 0 xs)
  | 4, _ => if failed then w 3 [0] else w 1 (permOf c.E xs) ++ w 2 (histOf c.E xs) ++ w 3 (psumOf 0 (histOf c.E xs))
  | _, _ => []

/-- The outputs in the order in which they are written: granule by granule. -/
def byGranule (out : List (DWord × Byte)) : List (DWord × Byte) :=
  (out.foldl (fun gs e => setIns (granuleOf e.1) gs) []).flatMap fun γ => out.filter fun e => granuleOf e.1 == γ

/-! ### The queue of a unit (R230) -/

/-- The command that the unit works on: the first that has not finished. -/
def State.gateHead (s : State) (u : Nat) : Option (Nat × Gate) :=
  let q := s.gateQ u
  (q.findIdx? fun c => !c.finished).bind fun i => q[i]?.map fun c => (i, c)

def State.updGate (s : State) (u i : Nat) (f : Gate → Gate) : State := s.setGate u (modAt (s.gateQ u) i f)

/-- The record of a gate command that stops (R223, R284). -/
def Gate.rec' (c : Gate) (cause : Cause) (sub : BitVec 8) (k : Kind) (va : DWord) : Rec :=
  { cause, sub, kind := k, src := .gt, async := true, fpc := c.pc, addr := va, info := BitVec.ofNat 32 (c.tag * 2 ^ 16) }

/-- A command stops: its status is set and its group gets a record. -/
def State.gateStop (s : State) (u i status : Nat) (c : Gate) (cause : Cause) (sub : BitVec 8) (k : Kind) (va : DWord) : State :=
  (s.updGate u i fun c => { c with status, waiting := false, stamped := false }).deliver c.g c.ctx (c.rec' cause sub k va)

/-- A fault goes to service. -/
def State.gateFault (s : State) (u i : Nat) (c : Gate) (x : XFault) (va : DWord) (k : Kind) : State :=
  let s := s.toService (dieOfGroup c.g) { va, cause := x.cause, sub := x.sub, kind := k, src := .gt, ctx := c.ctx, source := groupSource c.g .gt, waiters := [.gate u], l0 := x.l0 }
  s.updGate u i fun c => { c with waiting := true, fva := va }

/-- The operation's element size in its first tensor. -/
def Gate.inBytes (c : Gate) : Nat := match c.ten 0 with
  | some t => if t.fmt == 4 then 2 else 4
  | none => 4

/-- The command reads its input and computes its outputs. -/
def State.gateCompute (s : State) (u i : Nat) (c : Gate) : Option State :=
  let as := match c.ten 0 with
    | some t => t.allAddrs
    | none => []
  match s.gateList u c c.inBytes as with
  | (s, xs, none) => some (s.updGate u i fun g => { g with computed := true, outSeq := s.seq, out := byGranule (c.outputs xs false) })
  | (s, xs, some b) =>
    let stop := fun (s : State) (status : Nat) (cause : Cause) (sub : BitVec 8) (va : DWord) =>
      (s.gateStop u i status c cause sub .read va).updGate u i fun g => { g with computed := true, outSeq := s.seq, out := byGranule (c.outputs xs true) }
    match b with
    | .hold => none
    | .poison va => some (stop s 1 .uncorr 0 va)
    | .fault x va _ =>
      if x.serviced && !(c.refused.any fun r => r.1 == pageOf va) then some (s.gateFault u i c x va .read) else some (stop s 2 x.cause x.sub va)

/-- The lanes of a group whose final QPUSH of a gate command waits. -/
def Group.gateLanes (G : Group) : Word := maskOf fun l => (G.lane l).live && (G.lane l).wait == .submit 2

/-- The group of a tetrad whose submission has waited longest, with its command (R230). -/
def State.gateWaiter (s : State) (u : Nat) : Option (Nat × Group × Gate) :=
  let ws := s.groups.filterMap fun e =>
    if !isWave e.1 && tetradOf (coreOf e.1) == u && e.2.gateLanes != 0 then e.2.sub2.map fun c => (e.1, e.2, c) else none
  let at' := fun (e : Nat × Group × Gate) => (e.2.1.lane ((lowest e.2.1.gateLanes).getD 0)).wseq
  best (fun a b => decide (at' a < at' b)) ws

/-- The submission that has waited longest is accepted, when it is of an operation and there is room (R230). -/
def State.admitGate (s : State) (u op : Nat) : Option State :=
  match s.gateWaiter u with
  | some (g, G, c) => if c.op = op then (s.submit g 2).map fun s => s.wake g G.gateLanes else none
  | none => none

/-- The head command starts, taking its condition's count, when that lets it (R228, R230). -/
def State.gateStart (s : State) (u i : Nat) (c : Gate) : Option State :=
  let s' := s.updGate u i fun c => { c with started := true }
  if c.started then some s'
  else if s.beingSaved c.team then none
  else if !c.wt then some s'
  else match s.team? c.team with
    | some T => if (s.share T.share).counts.getD (8 + c.wg) 0 = 0 then none else some (s'.updShare T.share fun h => h.take (8 + c.wg))
    | none => none

/-- The head command of a unit is of an operation and reads its input, once it has started (R228, R230). -/
def State.gateWork (s : State) (u op : Nat) : Option State :=
  match s.gateHead u with
  | none => none
  | some (i, c) =>
    if c.op != op || c.computed || c.waiting then none
    else (s.bump.gateStart u i c).bind fun s => s.gateCompute u i c

/-- An operation of a unit: a submission that waited is accepted, or the head command is worked on (R228, R230). -/
def runGate (u op : Nat) (s : State) : Host.Outcome State Fault Refusal :=
  event s ((s.admitGate u op).or (s.gateWork u op))

/-- TOPK (R230, R231). -/
def execTopk (unit : Nat) (s : State) : Host.Outcome State Fault Refusal := runGate unit 1 s
/-- HIST (R230, R231). -/
def execHist (unit : Nat) (s : State) : Host.Outcome State Fault Refusal := runGate unit 2 s
/-- PSUM (R230, R231). -/
def execPsum (unit : Nat) (s : State) : Host.Outcome State Fault Refusal := runGate unit 3 s
/-- PERM (R230, R231). -/
def execPerm (unit : Nat) (s : State) : Host.Outcome State Fault Refusal := runGate unit 4 s

/-! ### Outputs that land -/

/-- What an output write that does not go through means: service, or the rest of the outputs keep their old values. -/
def State.gateBar (s : State) (u i : Nat) (c : Gate) (b : Bar') : State :=
  match b with
  | .fault x va k =>
    if x.serviced then s.gateFault u i c x va k
    else (s.gateStop u i 2 c x.cause x.sub k va).updGate u i fun c => { c with out := [] }
  | _ => s

/-- What a unit writes takes the place of what it has staged (R283). -/
def State.unstage (s : State) (u : Nat) (pas : List Nat) : State :=
  { s with gateStage := AMap.put s.gateStage u ((AMap.getD s.gateStage u []).filter fun e => !(pas.any fun pa => homeOf pa == homeOf e.1)) }

/-- At least `n` output bytes land, word by word, until one does not go through; `none` when not even the first does and nothing
changes. -/
def State.gateRun (s : State) (u i n : Nat) (first : Bool) : Nat → Option State
  | 0 => some s
  | fuel + 1 =>
    if n = 0 then some s
    else match (s.gateQ u)[i]? with
      | none => none
      | some c =>
        match c.out with
        | [] => if first then none else some s
        | _ :: _ =>
          match s.landBlock c.via c.pkr c.granule 4 c.out with
          | (s', .ok (pas, granule)) =>
            ((s'.updGate u i fun c => { c with out := c.out.drop pas.length, granule }).unstage u pas).gateRun u i (n - pas.length) false fuel
          | (s', .error e) =>
            match e with
            | .fault .. => some (s'.gateBar u i c e)
            | _ => if first then none else some s

/-- The stamp of the head command is written before its outputs have landed, once their places are translated, so that none of them can be
refused any more (R177, R231). -/
def State.stampGate (s : State) (u i : Nat) (c : Gate) : Option State :=
  match s.placeAll c.via c.pkr c.granule (c.out.map (·.1)) with
  | (_, .error _) => none
  | (s, .ok gs) => match s.engWrite c.via c.pkr c.stampVa (whole (leBytes 8 c.stampWord.toNat)) with
    | (s, .ok _) => some (s.updGate u i fun c => { c with stamped := true, granule := gs })
    | _ => none

/-- BYTES_LAND of a gate command: the next `n` output bytes; with n = 0 its stamp is written before its outputs have landed. -/
def State.landGate (s : State) (u n : Nat) : Option State :=
  match s.gateHead u with
  | none => none
  | some (i, c) =>
    if !c.computed || c.waiting || decide (c.out.length < n) then none
    else if n = 0 then
      if !c.hasStamp || c.stamped || c.out.isEmpty then none else s.stampGate u i c
    else s.gateRun u i n true n

/-! ### Completion -/

/-- The result word. -/
def Gate.doneWord (c : Gate) : Word := BitVec.ofNat 32 (c.tag * 2 ^ 16 + c.status * 2 ^ 8)

/-- The issuing group of a command has finished. -/
def State.gateOver (s : State) (c : Gate) : Bool := match s.group? c.g, s.team? c.team with
  | some G, some T => G.team != c.team || G.idx != c.gi || T.fin.getD c.gi true
  | _, _ => true

/-- A finished command can leave its place: its word is dropped, or q3 has room and no earlier word of its group waits. -/
def State.gateLeaves (s : State) (u i : Nat) (c : Gate) : Bool :=
  c.finished && (!c.cq || s.gateOver c ||
    (decide (((s.group? c.g).map fun G => G.q3.length).getD 0 < 16) &&
      !((s.gateQ u).take i).any fun d => d.finished && d.g == c.g && d.cq))

/-- A finished command leaves: its word enters q3, e5 pulses, and its place is free. -/
def State.gateLeave (s : State) (u i : Nat) (c : Gate) : State :=
  let s := if c.cq && !s.gateOver c then s.updGroup c.g fun G => { G with q3 := G.q3 ++ [c.doneWord] } else s
  let s := match c.ev, s.team? c.team with
    | true, some T => s.updShare T.share fun h => h.pulse 5
    | _, _ => s
  s.setGate u (dropAt (s.gateQ u) i)

/-- GATE_COMMAND_COMPLETE (R230, R231): a word that waited enters its q3, or the head command, its outputs written, writes its
stamp and completes. -/
def execGateCommandComplete (unit : Nat) (s : State) : Host.Outcome State Fault Refusal :=
  event s <|
  match (s.gateQ unit).zipIdx.find? fun e => s.gateLeaves unit e.2 e.1 with
  | some (c, i) => some (s.gateLeave unit i c)
  | none =>
    match s.gateHead unit with
    | none => none
    | some (i, c) =>
      if !c.computed || c.waiting || !c.out.isEmpty then none
      else
        let finish := fun (s : State) =>
          let s := s.updGate unit i fun c => { c with finished := true }
          match (s.gateQ unit)[i]? with
          | some c => if s.gateLeaves unit i c then s.gateLeave unit i c else s
          | none => s
        if !c.hasStamp || c.stamped then some (finish s)
        else match s.engWrite c.via c.pkr c.stampVa (whole (leBytes 8 c.stampWord.toNat)) with
          | (s, .ok _) => some (finish s)
          | (s, .error (.fault x va k)) =>
            if x.serviced then some (s.gateFault unit i c x va k) else some (finish (s.gateStop unit i 2 c x.cause x.sub k va))
          | _ => none

/-- The service of a command's fault has ended without success (R231): on input, the access fails again, and the outputs that were
computable are written; on output, the rest is not; on the stamp, the command completes without it. -/
def State.gateRefused (s : State) (u : Nat) (x : XFault) (k : Kind) : State :=
  match s.gateHead u with
  | none => s
  | some (i, c) =>
    if !c.computed then s.updGate u i fun c => { c with waiting := false, refused := (pageOf c.fva, x.cause, x.sub) :: c.refused }
    else if !c.out.isEmpty then (s.gateStop u i 2 c x.cause x.sub k c.fva).updGate u i fun c => { c with out := [] }
    else
      let s := (s.gateStop u i 2 c x.cause x.sub k c.fva).updGate u i fun c => { c with finished := true }
      match (s.gateQ u)[i]? with
      | some c => if s.gateLeaves u i c then s.gateLeave u i c else s
      | none => s

end Sys2Proof.Machine
end

