-- ==== Sys2Proof/Machine/Arrays.lean ====
section
/-! DEFINITION. The matrix arrays at work: queues and the arbiter, chunks and their sums, sparse metadata, fetch faults, and
berth stores (R233 to R238, R248, R252 to R262, R284). -/

namespace Sys2Proof.Machine

/-! ### Shapes (R233, R250) -/

def MmaImg.f (i : MmaImg) (lo n : Nat) : Nat := bitsAt i.imm lo n
def MmaImg.hb (i : MmaImg) : Nat := i.f 0 6
def MmaImg.kq (i : MmaImg) : Nat := i.f 6 2
def MmaImg.M (i : MmaImg) : Nat := 16 * (i.f 8 3 + 1)
def MmaImg.N (i : MmaImg) : Nat := 16 * (i.f 11 3 + 1)
def MmaImg.hx (i : MmaImg) : Nat := i.f 14 6
def MmaImg.gn (i : MmaImg) : Nat := i.f 20 2

/-- K-elements of a chunk, chunks of a quarter, bytes of a chunk in a row of A, and bits of an element of B. -/
def chunkLen (op : Nat) : Nat :=
  if op = 0xB02 ∨ op = 0xB03 ∨ op = 0xB0C ∨ op = 0xB0E then 16 else if op = 0xB08 then 64 else if op = 0xB09 then 4 else 32
def perQuarter (op : Nat) : Nat := if op = 0xB09 then 8 else if isSparse op then 4 else 2
def chunkBytes (op : Nat) : Nat := if op = 0xB08 then 64 else if isSparse op then 16 else 32
def bBits (op : Nat) : Nat :=
  if op = 0xB02 ∨ op = 0xB03 ∨ op = 0xB0C ∨ op = 0xB0E then 16 else if op = 0xB08 then 4 else if op = 0xB09 then 64 else 8
def isInt8 (op : Nat) : Bool := op == 0xB07 || op == 0xB0B

/-- The value of an element of A, and of B where it is not Q4N. -/
def aVal (op x : Nat) : Val :=
  if op = 0xB02 ∨ op = 0xB0C ∨ op = 0xB0E then bf16.val x else if op = 0xB03 then f16.val x
  else if op = 0xB05 then e5m2kVal x else if op = 0xB09 then f64.val x else if isInt8 op then int8Val x else e4m3kVal x
def bVal (op x : Nat) : Val := if op = 0xB05 ∨ op = 0xB06 then e5m2kVal x else aVal op x

/-! ### Operands -/

/-- The parts of an operation, in ascending team order (R254). -/
def MmaOp.cur (o : MmaOp) : Option MmaPart := o.parts[o.part]?

/-- The share of a part's team. -/
def State.partShare (s : State) (p : MmaPart) : Share := match s.team? p.team with
  | some T => s.share T.share
  | none => {}

/-- Bytes of a tile. -/
def Share.tileBytes (h : Share) (t off n : Nat) : List Byte := h.bytes ((h.tiles.getD t {}).base + off) n

/-- Where quarter `j` of B lies for group `g`: the share and the tile; none where it is absent (R250, R254, R255). -/
def State.quarter (s : State) (o : MmaOp) (p : MmaPart) (g j : Nat) : Option (Share × Nat) :=
  if isJoin p.img.op then
    (o.parts.find? fun q => match s.team? q.team with
      | some T => T.idx == j
      | none => false).map fun q => (s.partShare q, q.img.hb)
  else if isGrouped p.img.op then some (s.partShare p, p.img.hb + 4 * g + j)
  else if j ≤ p.img.kq then some (s.partShare p, p.img.hb + j) else none

/-- The first chunk from `c` on that lies in a present quarter. -/
def State.nextChunk (s : State) (o : MmaOp) (p : MmaPart) (c : Nat) : Option Nat :=
  ((List.range (4 * perQuarter p.img.op)).find? fun k => decide (c ≤ k) && (s.quarter o p 0 (k / perQuarter p.img.op)).isSome)

/-- Global bytes of A as array `a` reads them for an operation of the stamp `order`: its staging serves them, unless the team has fenced
since (R177, R178). -/
def State.fetchA (s : State) (a order : Nat) (p : MmaPart) (va : DWord) (n : Nat) : State × Except Bar' (List Byte) :=
  let T := s.team? p.team
  let core := (T.map Team.core).getD 0
  match s.stagedRead { tlb := core, die := dieOf core, ctx := (T.map Team.ctx).getD 0, team := p.team } p.pkr va n order
      ((T.map Team.mxFences).getD []) (s.array a).staged with
  | (s, .ok (bs, staged)) => (s.setArray a { s.array a with staged }, .ok bs)
  | (s, .error e) => (s, .error e)

/-- The raw bytes of chunk `c` of rows of A: from its tile, or from global memory (R235). -/
def State.chunkA (s : State) (a order : Nat) (p : MmaPart) (c : Nat) : Nat → State × Except Bar' (List (List Byte))
  | 0 => (s, .ok [])
  | m + 1 =>
    match s.chunkA a order p c m with
    | (s, .error e) => (s, .error e)
    | (s, .ok rs) =>
      let off := m * mmaRow p.img.op + c * chunkBytes p.img.op
      let n := chunkBytes p.img.op
      match p.img.a with
      | .tile t => (s, .ok (rs ++ [(s.partShare p).tileBytes t.val off n]))
      | .glob _ =>
        match s.fetchA a order p (p.addr + BitVec.ofNat 64 off) n with
        | (s, .ok bs) => (s, .ok (rs ++ [bs]))
        | (s, .error e) => (s, .error e)

/-- The metadata of a group of a row (R257): the indices of the kept values. -/
def State.metaOf (s : State) (p : MmaPart) (m g : Nat) : Nat :=
  let h := s.partShare p
  if p.img.op = 0xB0B then leNat (h.tileBytes p.img.hx ((m * 64 + g) * 2) 2)
  else leNat (h.tileBytes p.img.hx (m * 64 + g / 2) 1) / 2 ^ (4 * (g % 2)) % 16

/-- The values of a row's chunk, the sparse forms rebuilt (R257). -/
def State.rowVals (s : State) (p : MmaPart) (c m : Nat) (bs : List Byte) : List Val :=
  let op := p.img.op
  let at' := fun i => (bs.getD i 0).toNat
  if op = 0xB0B then
    (List.range 4).flatMap fun g =>
      let w := s.metaOf p m (4 * c + g)
      (List.range 8).map fun k => match (List.range 4).find? fun j => w / 8 ^ j % 8 == k with
        | some j => int8Val (at' (4 * g + j))
        | none => ofInt 0
  else if op = 0xB0A then
    (List.range 8).flatMap fun g =>
      let w := s.metaOf p m (8 * c + g)
      (List.range 4).map fun k => match (List.range 2).find? fun j => w / 4 ^ j % 4 == k with
        | some j => e4m3kVal (at' (2 * g + j))
        | none => ofInt 0
  else
    let n := chunkBytes op / chunkLen op
    (List.range (chunkLen op)).map fun i => aVal op (leNat ((bs.drop (n * i)).take n))

/-- Column `n` of chunk `c` of B, as raw elements. -/
def colBits (q : Share × Nat) (op c n : Nat) : List Nat :=
  let w := bBits op
  (List.range (chunkLen op)).map fun i =>
    let e := (c % perQuarter op * chunkLen op + i) * 128 + n
    if w = 4 then (((q.1.tileBytes q.2 (e / 2) 1).getD 0 0).toNat / 16 ^ (e % 2)) % 16
    else leNat (q.1.tileBytes q.2 (e * w / 8) (w / 8))

/-- The unit and the block code of a Q4N column in a chunk (R234). -/
def q4Scale (q : Share × Nat) (j c n : Nat) : Nat × Nat :=
  let r := leNat (q.1.tileBytes q.2 (8192 + 8 * n) 8)
  (r % 2 ^ 32, r / 2 ^ (32 + 8 * (2 * (j % 2) + c % 2)) % 256)

/-! ### Sums (R253) -/

/-- The exact sum of products. -/
def sumProducts (a b : List Val) : Val :=
  match (a.zip b).map fun e => e.1.mul e.2 with
  | [] => ofInt 0
  | x :: xs => xs.foldl Val.add x

/-- The exact integer of an exact value of an integer product sum. -/
def Val.exactInt : Val → Int
  | .fin n m e => let x : Int := m * 2 ^ e.toNat; if n then -x else x
  | _ => 0

/-- An accumulator after a chunk. -/
def accStep (op acc : Nat) (s : Val) : Nat :=
  if isInt8 op then
    let x := (BitVec.ofNat 32 acc).toInt + s.exactInt
    (BitVec.ofInt 32 (if x < -(2 ^ 31) then -(2 ^ 31) else if x > 2 ^ 31 - 1 then 2 ^ 31 - 1 else x)).toNat
  else if op = 0xB09 then f64.code ((f64.val acc).add s)
  else f32.add acc (f32.code s)

/-- A Q4N accumulator after a block. -/
def accQ4 (acc : Nat) (a : List Val) (b : List Nat) (u code : Nat) : Nat :=
  let t :=
    if code = 0xFF || f32.isNan u then f32.nanCode
    else if code = 0 then 0
    else f32.code (sumProducts a (b.map fun k => ((ofInt code).mul (q4nVal k)).mul (f32.val u)))
  f32.add acc t

/-- An accumulator of a berth, or of a pair (R234). -/
def State.accAt (s : State) (t d m n : Nat) (wide : Bool) : Nat := leNat (s.berthElem t d wide m n)

/-- An accumulator set. -/
def State.setAcc (s : State) (t d m n : Nat) (wide : Bool) (x : Nat) : State :=
  if wide then
    s.updBerth t (d + m / 64) fun B =>
      let i := 2 * (m % 64 * 128 + n)
      { B with words := AMap.set 0 (AMap.set 0 B.words i (BitVec.ofNat 32 x)) (i + 1) (BitVec.ofNat 32 (x / 2 ^ 32)) }
  else s.updBerth t d fun B => { B with words := AMap.set 0 B.words (m * 128 + n) (BitVec.ofNat 32 x) }

/-- The group that row `m` of a grouped operation belongs to, from the sizes (R255). -/
def groupOfRow (sizes : List Nat) (m : Nat) : Option Nat :=
  (List.range sizes.length).find? fun g => decide (m < (sizes.take (g + 1)).sum)

/-- Row `m` takes chunk `c`. -/
def State.chunkRow (s : State) (o : MmaOp) (p : MmaPart) (c m : Nat) (bs : List Byte) : State :=
  let op := p.img.op
  let j := c / perQuarter op
  let g := if isGrouped op then groupOfRow o.sizes m else some 0
  match g.bind fun g => s.quarter o p g j with
  | none => s
  | some q =>
    let a := s.rowVals p c m bs
    let wide := op == 0xB09
    (List.range p.img.N).foldl (fun s n =>
      let acc := s.accAt p.team p.img.d m n wide
      let b := colBits q op c n
      let x := if op = 0xB08 then let (u, code) := q4Scale q j c n; accQ4 acc a b u code
        else accStep op acc (sumProducts a (b.map (bVal op)))
      s.setAcc p.team p.img.d m n wide x) s

/-- Every row takes chunk `c`, and CHUNK follows. -/
def State.chunkAll (s : State) (o : MmaOp) (p : MmaPart) (c : Nat) (rows : List (List Byte)) : State :=
  let s := rows.zipIdx.foldl (fun s e => s.chunkRow o p c e.2 e.1) s
  (mmaBerths p.img.op p.img.d).foldl (fun s b => s.updBerth p.team b fun B => { B with chunk := c + 1 }) s

/-! ### Completion (R238, R244, R261) -/

/-- The TFREEs that wait on tiles of an operation which names them no longer take effect (R226, R252). -/
def State.tilesFreed (s : State) (o : MmaOp) : State :=
  o.parts.foldl (fun s p => match s.team? p.team with
    | some T => p.img.tiles.foldl (fun s h => s.freeSettle T.core T.share h) s
    | none => s) s

/-- An operation that has left its array completes with a status: each berth named loses a pledge and is ready, e4 pulses in each part's
team, and its tiles are free. -/
def State.finishOp (s : State) (o : MmaOp) (status : Nat) : State :=
  let s := o.parts.foldl (fun s p => (mmaBerths p.img.op p.img.d).foldl (fun s b =>
    s.updBerth p.team b fun B => { B with
      pending := B.pending - 1, done := true, lstat := status, chunk := if status = 0 then 0 else B.chunk }) s) s
  ((o.parts.foldl (fun ts p => setIns p.team ts) []).foldl (fun s t => match s.team? t with
    | some T => s.updShare T.share fun h => h.pulse 4
    | none => s) s).tilesFreed o

def State.setActive (s : State) (a : Nat) (x : Option (Nat × MmaOp)) : State :=
  s.setArray a { s.array a with active := x }

/-- The record of a stopped operation (R259, R284). -/
def mxRec (cause : Cause) (sub : BitVec 8) (pc va : DWord) (berth chunk : Nat) : Rec :=
  { cause, sub, kind := .read, src := .mx, async := true, fpc := pc, addr := va, info := BitVec.ofNat 32 berth, aux := BitVec.ofNat 64 chunk }

/-- An operation of a part's group and context gets a record. -/
def State.partRec (s : State) (p : MmaPart) (r : Rec) : State :=
  match s.team? p.team with
  | some T => s.deliver p.g T.ctx r
  | none => s

/-- An operation stops with FAULT or POISON at chunk `c`. -/
def State.stopOp (s : State) (o : MmaOp) (p : MmaPart) (c status : Nat) (cause : Cause) (sub : BitVec 8) (va : DWord) : State :=
  let s := (mmaBerths p.img.op p.img.d).foldl (fun s b => s.updBerth p.team b fun B => { B with chunk := c }) s
  (s.finishOp o status).partRec p (mxRec cause sub p.pc va p.img.d c)

/-! ### Metadata (R258, R262) -/

/-- The groups of a row that lie in a present quarter. -/
def metaGroups (i : MmaImg) : List Nat := List.range ((i.kq + 1) * (if i.op = 0xB0B then 16 else 32))

/-- Metadata is malformed. -/
def badMeta (op w : Nat) : Bool :=
  if op = 0xB0B then
    decide (2 ^ 12 ≤ w) || !((List.range 3).all fun j => decide (w / 8 ^ j % 8 < w / 8 ^ (j + 1) % 8))
  else decide (w / 4 % 4 ≤ w % 4)

/-- The first malformed entry, in row-then-group order. -/
def State.firstBad (s : State) (p : MmaPart) : Option (Nat × Nat) :=
  (List.range p.img.M).findSome? fun m => (metaGroups p.img).findSome? fun g =>
    if badMeta p.img.op (s.metaOf p m g) then some (m, g) else none

/-- The record of malformed metadata: the berth, the row and the group. -/
def metaRec (p : MmaPart) (m g : Nat) : Rec :=
  { cause := .mmeta, src := .mx, async := true, fpc := p.pc, info := BitVec.ofNat 32 p.img.d, aux := BitVec.ofNat 64 (m + 256 * g) }

/-! ### The arbiter (R237) -/

/-- MMA_ENTER_QUEUE (R238): a closed operation takes one count of its condition and enters its queue; among those of one
condition the first that closed, whichever slot it waits in. -/
def execMmaEnterQueue (array slot i : Nat) (s : State) : Host.Outcome State Fault Refusal :=
  event s <|
  let A := s.array array
  match (A.slots.getD slot {}).closed[i]? with
  | none => none
  | some o =>
    match s.opShare o with
    | none => none
    | some k =>
      if o.parts.any (fun p => s.beingSaved p.team) || s.closedBefore k o.conv o.order || (s.share k).counts.getD (4 + o.conv) 0 = 0 then none
      else
        let s := s.updShare k fun h => h.take (4 + o.conv)
        some (s.setArray array { A with
          slots := modAt A.slots slot fun x => { x with closed := dropAt x.closed i, queue := x.queue ++ [o] } })

/-- Every store into a scratchpad of the operation's teams that was issued before its set closed has taken effect (R252): those of its
own threads are earlier than their signatures. And the save of its unit does not hold it. -/
def State.tilesSettled (s : State) (o : MmaOp) : Bool :=
  !(o.parts.any fun p => s.beingSaved p.team) && !(s.lsq.any fun e => match e.kind with
    | .stsh k _ _ _ => decide (e.seq < o.order) && o.parts.any fun p => (s.team? p.team).map Team.share == some k
    | _ => false)

/-- A queue has a front that may start: `settled` says that its tiles may be read. -/
def Slot.ready (x : Slot) (settled : MmaOp → Bool) : Bool := match x.queue with
  | o :: _ => !o.waiting && settled o
  | [] => false

/-- The slot that the arbiter serves next, with `cur` and `run`. -/
def Arr.pick (A : Arr) (settled : MmaOp → Bool) : Option (Nat × Nat) :=
  let ready := fun (i : Nat) => (A.slots.getD i {}).ready settled
  if ready A.cur && decide (A.run < 4) then some (A.cur, A.run + 1)
  else (((List.range 4).map fun i => (A.cur + 1 + i) % 4).find? ready).map fun i => (i, 1)

/-- An operation leaves its queue for the first time: CHUNK is 0 in its berths, and a grouped one reads its sizes (R255,
R261). -/
def State.beginOp (s : State) (o : MmaOp) : State × MmaOp :=
  let s := o.parts.foldl (fun s p => (mmaBerths p.img.op p.img.d).foldl (fun s b =>
    s.updBerth p.team b fun B => { B with chunk := 0 }) s) s
  let sizes := match o.parts.head? with
    | some p => if isGrouped p.img.op then
        (List.range (p.img.gn + 1)).foldl (fun (r : List Nat) g =>
          r ++ [min (leNat ((s.partShare p).tileBytes p.img.hx (4 * g) 4)) (p.img.M - r.sum)]) []
      else []
    | none => []
  (s, { o with begun := true, chunk := 0, part := 0, sizes })

/-- The front of a queue starts; a sparse one with malformed metadata ends at once (R258), and `true` says so. -/
def State.startFront (s : State) (array i run : Nat) : State × Bool :=
  let A := s.array array
  match (A.slots.getD i {}).queue with
  | [] => (s, false)
  | o :: rest =>
    let s := s.setArray array { A with cur := i, run, slots := modAt A.slots i fun x => { x with queue := rest } }
    if o.begun then (s.setActive array (some (i, o)), false)
    else
      let (s, o) := s.beginOp o
      match o.parts.head? with
      | none => (s, true)
      | some p =>
        match (if isSparse p.img.op then s.firstBad p else none) with
        | some (m, g) => ((s.finishOp o 3).partRec p (metaRec p m g), true)
        | none => (s.setActive array (some (i, o)), false)

/-- The arbiter at a boundary of an array (R237); an operation that ends as it starts makes a boundary again. -/
def State.arbitrate (s : State) (array : Nat) : Nat → State
  | 0 => s
  | fuel + 1 =>
    let A := s.array array
    match A.pick s.tilesSettled with
    | none => s.setArray array { A with run := 0 }
    | some (i, run) => match s.startFront array i run with
      | (s, true) => s.arbitrate array fuel
      | (s, false) => s

/-- A boundary: the active operation has left the array, and the arbiter starts another, or the array is idle. -/
def State.boundary (s : State) (array : Nat) : State :=
  s.arbitrate array (((s.array array).slots.map fun x => x.queue.length).sum + 1)

/-- ARRAY_BOUNDARY (R237): the arbiter runs while the array is idle. -/
def execArrayBoundary (array : Nat) (s : State) : Host.Outcome State Fault Refusal :=
  event s <|
  if array ≥ 96 || (s.array array).active.isSome then none else some (s.boundary array)

/-- The active operation has completed. DESIGN CHOICE (log 44): the arbiter runs before an operation that waited for the pulse of this one
enters its queue, by a later MMA_ENTER_QUEUE. -/
def State.opDone (s : State) (array : Nat) (o : MmaOp) : State := ((s.setActive array none).finishOp o 0).boundary array

/-- MMA_COMPLETE (R253): the active operation forms its next chunk; after the last chunk of its last part it completes, and the
arbiter runs (R237). -/
def execMmaComplete (array : Nat) (s : State) : Host.Outcome State Fault Refusal :=
  event s <|
  match (s.array array).active with
  | none => none
  | some (i, o) =>
    match o.cur with
    | none => some (s.opDone array o)
    | some p =>
      let doneAt := fun (s : State) (o : MmaOp) (c : Nat) =>
        if (s.nextChunk o p c).isSome then s.setActive array (some (i, { o with chunk := c }))
        else if decide (o.part + 1 < o.parts.length) then s.setActive array (some (i, { o with chunk := 0, part := o.part + 1 }))
        else s.opDone array o
      if isGrouped p.img.op && o.sizes.sum == 0 then some (doneAt s o (4 * perQuarter p.img.op))
      else match s.nextChunk o p o.chunk with
        | none => some (doneAt s o o.chunk)
        | some c =>
          match s.bump.chunkA array o.order p c p.img.M with
          | (s, .ok rows) => some (doneAt (s.chunkAll o p c rows) o (c + 1))
          | (_, .error _) => none

/-- MMA_FETCH_FAULT (R259): the next fetch of a global A fails; the operation goes back to the front of its queue for service,
or ends; the arbiter serves the other slots. -/
def execMmaFetchFault (array : Nat) (s : State) : Host.Outcome State Fault Refusal :=
  event s <|
  match (s.array array).active with
  | none => none
  | some (i, o) =>
    match o.cur.bind fun p => (s.nextChunk o p o.chunk).map fun c => (p, c) with
    | none => none
    | some (p, c) =>
      let team := s.team? p.team
      let core := (team.map Team.core).getD 0
      let ctx := (team.map Team.ctx).getD 0
      match s.bump.chunkA array o.order p c p.img.M with
      | (s, .error (.fault x va k)) =>
        if x.serviced then
          let A := s.array array
          let s := s.setArray array { A with
            active := none
            slots := modAt A.slots i fun y => { y with queue := { o with chunk := c, waiting := true, fva := va } :: y.queue } }
          let s := (mmaBerths p.img.op p.img.d).foldl (fun s b => s.updBerth p.team b fun B => { B with chunk := c }) s
          let s := s.toService (dieOf core) { va, cause := x.cause, sub := x.sub, kind := k, src := .mx, ctx, source := groupSource p.g .mx, waiters := [.mma array i], l0 := x.l0 }
          some (s.boundary array)
        else some (((s.setActive array none).stopOp o p c 1 x.cause x.sub va).boundary array)
      | (s, .error (.poison va)) => some (((s.setActive array none).stopOp o p c 2 .uncorr 0 va).boundary array)
      | _ => none

/-- The service of an operation's fault has ended: it is eligible again, or ends with FAULT (R259). -/
def State.mmaReply (s : State) (array slot : Nat) (refused : Option (Cause × BitVec 8)) : State :=
  let A := s.array array
  match (A.slots.getD slot {}).queue with
  | [] => s
  | o :: rest =>
    if !o.waiting then s
    else match refused with
      | none => s.setArray array { A with slots := modAt A.slots slot fun x => { x with queue := { o with waiting := false } :: rest } }
      | some (c, sub) =>
        let s := s.setArray array { A with slots := modAt A.slots slot fun x => { x with queue := rest } }
        match o.cur with
        | some p => s.stopOp o p o.chunk 1 c sub o.fva
        | none => s.finishOp o 1

/-! ### Berth stores (R248) -/

def State.updStore (s : State) (i : Nat) (f : BStore → BStore) : State := { s with bstores := AMap.upd s.bstores i f }

def State.storeVia (s : State) (e : BStore) : Via :=
  let core := ((s.team? e.team).map Team.core).getD 0
  { tlb := core, die := dieOf core, ctx := e.ctx, team := e.team }

/-- A store that service could not help: what has not landed is not written, LSTAT becomes FAULT, and the group gets a record. -/
def State.storeFail (s : State) (i : Nat) (e : BStore) (cause : Cause) (sub : BitVec 8) (va : DWord) : State :=
  let s := s.updStore i fun e => { e with out := [], waiting := false, failed := some 1 }
  s.deliver e.g e.ctx { mxRec cause sub e.pc va e.berth (s.berth e.team e.berth).chunk with kind := .write }

/-- At least `n` bytes of a store land in order, aligned 8 bytes at a time (R170), each credited, until what does not go through. -/
def State.storeRun (s : State) (i n : Nat) (first : Bool) : Nat → Option State
  | 0 => some s
  | fuel + 1 =>
    if n = 0 then some s
    else match AMap.get? s.bstores i with
      | none => none
      | some e =>
        if e.out.isEmpty then (if first then none else some s)
        else match s.landBlock (s.storeVia e) e.pkr e.granule 8 e.out with
          | (s', .ok (pas, granule)) =>
            let s' := s'.updStore i fun e => { e with out := e.out.drop pas.length, granule }
            let s' := match e.bar, s'.team? e.team with
              | some bar, some T => s'.creditBar (barOf T bar) pas.length
              | _, _ => s'
            s'.storeRun i (n - pas.length) false fuel
          | (s', .error (.fault x va k)) =>
            if x.serviced then
              let core := ((s'.team? e.team).map Team.core).getD 0
              let s' := s'.toService (dieOf core) { va, cause := x.cause, sub := x.sub, kind := k, src := .mx, ctx := e.ctx, source := groupSource e.g .mx, waiters := [.bwr i], l0 := x.l0 }
              some (s'.updStore i fun e => { e with waiting := true, fva := va })
            else some (s'.storeFail i e x.cause x.sub va)
          | _ => if first then none else some s

/-- BYTES_LAND of a berth store. -/
def State.landStore (s : State) (i n : Nat) : Option State :=
  match AMap.get? s.bstores i with
  | none => none
  | some e => if e.waiting || n = 0 || decide (e.out.length < n) then none else s.storeRun i n true n

/-- BWR_COMPLETE (R248). -/
def execBwrComplete (i : Nat) (s : State) : Host.Outcome State Fault Refusal :=
  event s <|
  match AMap.get? s.bstores i with
  | none => none
  | some e =>
    if e.waiting || !e.out.isEmpty then none
    else
      let drop := fun (s : State) (b : Nat) => s.updBerth e.team b fun B => { B with pending := B.pending - 1, lstat := e.failed.getD B.lstat }
      let s := drop s e.berth
      let s := if e.wide then drop s (e.berth + 1) else s
      some { s with bstores := AMap.del s.bstores i }

/-- BYTES_LAND (R221, R231, R248): writes of an engine land. -/
def execBytesLand (e : EngineRef) (n : Nat) (s : State) : Host.Outcome State Fault Refusal :=
  event s (match e with
    | .copy core j => s.landCopy core j n
    | .gate unit => s.landGate unit n
    | .bwr i => s.landStore i n)

end Sys2Proof.Machine
end

