-- ==== Sys2Proof/Machine/Crypto.lean ====
section
/-! DEFINITION. The digest and the signature that R346 to R349 name: SHA-256, and ECDSA on the curve P-256, after their standards (PRESUMED:
the manual names them and does not restate them). -/

namespace Sys2Proof.Machine

/-- A big-endian number. -/
def beNat (bs : List Byte) : Nat := bs.foldl (fun a b => a * 256 + b.toNat) 0

/-- A number as `n` bytes, big-endian. -/
def beBytes (n x : Nat) : List Byte := (leBytes n x).reverse

/-! ### SHA-256 -/

/-- The greatest `r` below `2 ^ bits` whose power `k` is at most `x`, above a part `r` that is already known. -/
def rootFrom (k x : Nat) : Nat → Nat → Nat
  | 0, r => r
  | b + 1, r => rootFrom k x b (if (r + 2 ^ b) ^ k ≤ x then r + 2 ^ b else r)

/-- The first 32 bits of the fractional part of the `k`-th root of `p`. -/
def rootBits (k p : Nat) : Nat := rootFrom k (p * 2 ^ (32 * k)) 40 0 % 2 ^ 32

/-- The first 64 primes; the last of them is 311. -/
def firstPrimes : List Nat := (List.range 312).filter fun p => decide (1 < p) && (List.range 18).all fun d => d < 2 || p ≤ d || p % d != 0

/-- The round constants: the first 32 bits of the fractional parts of the cube roots of the first 64 primes. -/
def roundConst : List Nat := firstPrimes.map (rootBits 3)

/-- The digest's working words, latest first. A round writes the first and the fifth of the next eight and moves the others on. -/
abbrev Working := List Nat

/-- The words a digest begins with: the first 32 bits of the fractional parts of the square roots of the first eight primes. -/
def Working.start : Working := (firstPrimes.take 8).map (rootBits 2)

/-- A 32-bit number rotated right. -/
def rotr32 (x n : Nat) : Nat := Nat.lor (x / 2 ^ n) (x * 2 ^ (32 - n) % 2 ^ 32)

def shaXor (a b c : Nat) : Nat := Nat.xor (Nat.xor a b) c

/-- The message schedule, latest word first: `ws` starts as the sixteen words of a block. -/
def shaSchedule : Nat → List Nat → List Nat
  | 0, ws => ws
  | n + 1, ws =>
    let x := ws.getD 14 0
    let y := ws.getD 1 0
    let s0 := shaXor (rotr32 x 7) (rotr32 x 18) (x / 2 ^ 3)
    let s1 := shaXor (rotr32 y 17) (rotr32 y 19) (y / 2 ^ 10)
    shaSchedule n ((ws.getD 15 0 + s0 + ws.getD 6 0 + s1) % 2 ^ 32 :: ws)

/-- One round, with the sum of its constant and its word. -/
def Working.round (v : Working) (kw : Nat) : Working :=
  let word := fun i => v.getD i 0
  let mixed := fun i n => shaXor (rotr32 (word i) n.1) (rotr32 (word i) n.2.1) (rotr32 (word i) n.2.2)
  let choice := Nat.xor (Nat.land (word 4) (word 5)) (Nat.land (2 ^ 32 - 1 - word 4) (word 6))
  let major := shaXor (Nat.land (word 0) (word 1)) (Nat.land (word 0) (word 2)) (Nat.land (word 1) (word 2))
  let t := word 7 + mixed 4 (6, 11, 25) + choice + kw
  (t + mixed 0 (2, 13, 22) + major) % 2 ^ 32 :: v.take 3 ++ (word 3 + t) % 2 ^ 32 :: (v.drop 4).take 3

/-- One block of sixteen words. -/
def Working.block (v : Working) (ws : List Nat) : Working :=
  let u := (roundConst.zipWith (· + ·) (shaSchedule 48 ws.reverse).reverse).foldl Working.round v
  v.zipWith (fun x y => (x + y) % 2 ^ 32) u

/-- The blocks of a padded message; `n` of them. -/
def Working.blocks (v : Working) : Nat → List Byte → Working
  | 0, _ => v
  | n + 1, bs => (v.block ((List.range 16).map fun i => beNat ((bs.drop (4 * i)).take 4))).blocks n (bs.drop 64)

/-- The SHA-256 digest of bytes: 32 bytes. -/
def sha256 (m : List Byte) : List Byte :=
  let p := m ++ [0x80] ++ List.replicate ((119 - m.length % 64) % 64) 0 ++ beBytes 8 (8 * m.length)
  let v := Working.start.blocks (p.length / 64) p
  (List.range 8).flatMap fun i => beBytes 4 (v.getD i 0)

/-! ### ECDSA on P-256 -/

/-- The field, the order of the base point, the coefficient b, and the base point; a is -3. -/
def p256 : Nat := 0xffffffff00000001000000000000000000000000ffffffffffffffffffffffff
def n256 : Nat := 0xffffffff00000000ffffffffffffffffbce6faada7179e84f3b9cac2fc632551
def b256 : Nat := 0x5ac635d8aa3a93e7b3ebbd55769886bc651d06b0cc53b0f63bce3c3e27d2604b
def g256 : Nat × Nat := (0x6b17d1f2e12c4247f8bce6e563a440f277037d812deb33a0f4a13945d898c296,
  0x4fe342e2fe1a7f9b8ee7eb4a7c0f9e162bce33576b315ececbb6406837bf51f5)

/-- A power modulo `m`, of the low `bits` bits of the exponent. -/
def powMod (m : Nat) : Nat → Nat → Nat → Nat
  | 0, _, _ => 1 % m
  | bits + 1, b, e => (if e % 2 = 1 then b else 1) * powMod m bits (b * b % m) (e / 2) % m

/-- The inverse modulo a 256-bit prime. -/
def invMod (m x : Nat) : Nat := powMod m 256 (x % m) (m - 2)

/-- The sum of two points; `none` is the point at infinity. -/
def addPoint : Option (Nat × Nat) → Option (Nat × Nat) → Option (Nat × Nat)
  | none, q => q
  | p, none => p
  | some (x, y), some (u, v) =>
    if x = u && (y + v) % p256 = 0 then none
    else
      let l := if x = u then (3 * x * x + p256 - 3) * invMod p256 (2 * y) % p256 else (v + p256 - y) * invMod p256 (u + p256 - x) % p256
      let w := (l * l + 2 * p256 - x - u) % p256
      some (w, (l * (x + p256 - w) + p256 - y) % p256)

/-- A point multiplied by the low `bits` bits of a number. -/
def mulPoint : Nat → Nat → Option (Nat × Nat) → Option (Nat × Nat)
  | 0, _, _ => none
  | bits + 1, k, q => addPoint (if k % 2 = 1 then q else none) (mulPoint bits (k / 2) (addPoint q q))

/-- A public key of 64 bytes as a point of the curve. -/
def pubPoint (key : List Byte) : Option (Nat × Nat) :=
  let x := beNat (key.take 32)
  let y := beNat ((key.drop 32).take 32)
  if key.length = 64 && decide (x < p256) && decide (y < p256) && y * y % p256 == (x * x * x + (p256 - 3) * x + b256) % p256 then some (x, y)
  else none

/-- The public key of a secret number: x then y, 32 bytes each. -/
def publicKey (secret : Nat) : List Byte :=
  match mulPoint 256 (secret % n256) (some g256) with
  | some (x, y) => beBytes 32 x ++ beBytes 32 y
  | none => List.replicate 64 0

/-- A signature of 64 bytes, r then s, over the SHA-256 digest of a message verifies against a public key. -/
def ecdsaOk (key m sig : List Byte) : Bool :=
  let r := beNat (sig.take 32)
  let s := beNat ((sig.drop 32).take 32)
  match pubPoint key with
  | none => false
  | some q =>
    let w := invMod n256 s
    let z := beNat (sha256 m)
    sig.length == 64 && decide (0 < r) && decide (r < n256) && decide (0 < s) && decide (s < n256) &&
      match addPoint (mulPoint 256 (z * w % n256) (some g256)) (mulPoint 256 (r * w % n256) (some q)) with
      | some (x, _) => x % n256 == r
      | none => false

/-- The signature over the SHA-256 digest of a message with a secret number and a per-message number. -/
def ecdsaSign (secret k : Nat) (m : List Byte) : List Byte :=
  let d := secret % n256
  let r := match mulPoint 256 (k % n256) (some g256) with
    | some (x, _) => x % n256
    | none => 0
  beBytes 32 r ++ beBytes 32 (invMod n256 k * (beNat (sha256 m) + r * d) % n256)

end Sys2Proof.Machine
end

