-- ==== Sys2Proof/Machine/QuayWave.lean ====
section
/-! DEFINITION. The quays: requests, waves and their ends, the built-in methods, and replies (R193 to R210). -/

namespace Sys2Proof.Machine

/-! ### The built-in methods (R208) -/

/-- block(lo, 2^k) of R132 in a format. -/
def fpBlock (f : Fmt) (xs : List Nat) : Nat → Nat → Nat
  | 0, lo => xs.getD lo (2 ^ (f.width - 1))
  | k + 1, lo => f.add (fpBlock f xs k lo) (fpBlock f xs k (lo + 2 ^ k))

/-- The prefix of `n` slots (R132): the aligned blocks of the binary decomposition of `n`, from left to right; −0 for none. -/
def fpPrefix (f : Fmt) (xs : List Nat) (n : Nat) : Nat :=
  (([5, 4, 3, 2, 1, 0].foldl (fun (r : Nat × Option Nat) k =>
    if n / 2 ^ k % 2 = 1 then
      let b := fpBlock f xs k r.1
      (r.1 + 2 ^ k, some (match r.2 with
        | none => b
        | some a => f.add a b))
    else r) (0, none)).2).getD (2 ^ (f.width - 1))

/-- The values before and after each lane, applied in sequence. -/
def applySeq (o : AtOp) (old : Nat) : List (Nat × Nat) → List Nat × Nat
  | [] => ([], old)
  | (b, e) :: xs =>
    let r := applySeq o (o.new old b e) xs
    (old :: r.1, r.2)

/-- The replies of a built-in wave, and the new value (R208). -/
def builtin (o : AtOp) (old : Nat) (xs : List (Nat × Nat)) : List Nat × Nat :=
  match o.addFmt with
  | none => applySeq o old xs
  | some (f, k) =>
    let w := f.width
    let el := fun (x i : Nat) => x / 2 ^ (w * i) % 2 ^ w
    let join := fun (h : Nat → Nat) => ((List.range k).map fun i => h i * 2 ^ (w * i)).sum
    let slots := fun i => xs.map fun x => el x.1 i
    ((List.range xs.length).map fun l => join fun i => f.add (el old i) (fpPrefix f (slots i) l),
      join fun i => f.add (el old i) (fpBlock f (slots i) 5 0))

/-! ### Arrival (R199, R209) -/

/-- QUAY_REQUEST_ARRIVAL: the requests of one issue for one superblock enter its queue together, after those that their core
issued before. -/
def execQuayRequestArrival (i : Nat) (s : State) : Host.Outcome State Fault Refusal :=
  event s <|
  match s.lsq[i]? with
  | none => none
  | some e =>
    match e.kind with
    | .quay _ _ _ _ _ _ _ =>
      let es := s.batch e
      (if e.away || !s.allReady es || s.overtakes e then none else s.enqueue es)
    | _ => none

/-! ### Forming a wave (R200 to R202) -/

/-- A wave slot of a quay. -/
def waveKey (k i : Nat) : Nat := quayBase + 4 * k + i

/-- The free slot of a quay. -/
def State.freeWave (s : State) (k : Nat) : Option Nat :=
  (List.range 4).find? fun i => (s.group? (waveKey k i)).isNone

/-- A wave works on a superblock. -/
def State.waveOn (s : State) (sb : Nat) : Bool := s.groups.any fun e => match e.2.wave with
  | some w => w.sb == sb
  | none => false

/-- Two requests may share a wave: the same address and method of one class, or one built-in operation (R200, R207). -/
def QReq.alike (a b : QReq) : Bool :=
  a.pa == b.pa && a.cls == b.cls && a.gen == b.gen && if a.cls = 0 then (a.op.map (·.1)) == (b.op.map (·.1)) else a.ctx == b.ctx && a.m == b.m

/-- The run at the front of a superblock's queue, up to `n` requests, and what stays queued. -/
def takeRun (sb : Nat) (q0 : QReq) : Nat → List QReq → List QReq × List QReq
  | _, [] => ([], [])
  | 0, qs => ([], qs)
  | n + 1, q :: qs =>
    if q.pa / 256 != sb then
      let r := takeRun sb q0 (n + 1) qs
      (r.1, q :: r.2)
    else if q.alike q0 then
      let r := takeRun sb q0 n qs
      (q :: r.1, r.2)
    else ([], q :: qs)

/-- A lane of a method at its entry (R202). -/
def waveLane (entry : DWord) (user : Bool) (qs : List QReq) (l : Nat) : Lane :=
  match qs[l]? with
  | none => {}
  | some q =>
    (({ live := user, pc := entry } : Lane).setVs 0 (words64 q.arg)).setVs 2 [BitVec.ofNat 32 q.core, BitVec.ofNat 32 l]

/-- A wave of some requests starts in a slot: the object is copied into its buffer (R201). -/
def State.startWave (s : State) (k i : Nat) (qs : List QReq) : State :=
  match qs with
  | [] => s
  | q :: _ =>
    let sb := q.pa / 256
    let s := s.fillRange (256 * sb) 256
    let c : QClass := (s.classOf q.ctx q.cls).getD { entries := [], size := q.size, wr := 0 }
    let user := q.cls != 0
    let w : Wave := {
      quay := k, slot := i, sb, reqs := qs, size := q.size, buf := s.bytes q.pa q.size, stored := 0
      pois := BitVec.ofNat 8 (((List.range 8).map fun h => b2n (AMap.get? s.pois (8 * sb + h)).isSome * 2 ^ h).sum)
      replies := [], bundles := 0, wr := c.wr.getLsbD q.m, flt := none }
    let G : Group := {
      ctx := if user then q.ctx else 65536, team := 0, idx := 0, regs := 64, active := true, wave := some w
      lanes := (List.range 32).map (waveLane (c.entries.getD q.m 0) user qs) }
    let G := if user then
        ((G.setS 0 (BitVec.ofNat 32 qs.length)).setSs 2 (words64 q.va)).setS 4 (BitVec.ofNat 32 q.m)
      else G
    { s with groups := AMap.put s.groups (waveKey k i) G }

/-- Requests are answered: their entries leave the store queues, and the replies set out (R198, R205). -/
def State.answer (s : State) (rs : List QReply) : State :=
  let s := rs.foldl (fun s r => s.acked r.req.ents) s
  { s with qreplies := s.qreplies ++ rs.filter fun r =>
      r.req.who.isSome && (r.req.pend.isSome || r.status != 0) }

/-- A request without its class (R195, R198). -/
def noClass (q : QReq) : QReply := { req := q, status := 2, words := [], sub := 0x10, code := 0 }

/-- The class of a request takes requests. -/
def State.classOpen (s : State) (q : QReq) : Bool :=
  q.cls == 0 || match s.classOf q.ctx q.cls with
    | some c => !c.closing && c.gen == q.gen
    | none => false

/-- QUAY_WAVE_FORM (R200, R206): the next rerun of a busy superblock, or a wave of the front requests of the superblock whose
front request arrived first. -/
def execQuayWaveForm (k : Nat) (s : State) : Host.Outcome State Fault Refusal :=
  event s <|
  let Q := s.quay k
  match s.freeWave k with
  | none => none
  | some i =>
    match Q.busy.find? fun b => !b.2.isEmpty && !s.waveOn b.1 with
    | some (sb, q :: qs) => some ((s.setQuay k { Q with busy := AMap.put Q.busy sb qs }).startWave k i [q])
    | _ =>
      match Q.reqs.find? fun q => (AMap.get? Q.busy (q.pa / 256)).isNone with
      | none => none
      | some q =>
        let sb := q.pa / 256
        if !s.classOpen q then
          some ((s.setQuay k { Q with reqs := Q.reqs.filter (· != q) }).answer [noClass q])
        else
          let r := takeRun sb q 32 Q.reqs
          some ((s.setQuay k { Q with reqs := r.2, busy := AMap.put Q.busy sb [] }).startWave k i r.1)

/-! ### The end of a wave (R201, R205 to R207) -/

/-- A superblock is no longer busy unless reruns wait (R200). -/
def State.freeBlock (s : State) (k sb : Nat) : State :=
  let Q := s.quay k
  match AMap.get? Q.busy sb with
  | some [] => s.setQuay k { Q with busy := AMap.del Q.busy sb }
  | _ => s

/-- The words that a wave stored. -/
def Wave.writes (w : Wave) : List (Nat × Byte) :=
  (span w.pa w.buf).filter fun e => w.stored.getLsbD ((e.1 - w.pa) / 4)

/-- The operand values of a built-in request. -/
def QReq.vals (q : QReq) : Nat × Nat := match q.op with
  | some (_, b, e) => (leNat b, leNat e)
  | none => (0, 0)

/-- The end of a built-in wave: the new value is written, and every lane is answered; a poisoned word stays (R189, R207). -/
def State.endBuiltin (s : State) (w : Wave) (o : AtOp) : State :=
  match s.poisonIn w.pa w.size with
  | some p =>
    let s := s.answer (w.reqs.map fun q => { req := q, status := if q.pend.isSome then 3 else 0, words := [], sub := 0, code := p - w.pa })
    w.reqs.foldl (fun s q =>
      if q.pend.isSome || q.who.isNone then s
      else s.logRecord q.ctx { cause := .uncorr, kind := .readWrite, src := q.src, async := true, fpc := q.pc, addr := q.va + BitVec.ofNat 64 (p - w.pa) }) s
  | none =>
    let r := builtin o (leNat w.buf) (w.reqs.map QReq.vals)
    let s := s.homeWrite none (coresOf (w.reqs.flatMap fun q => q.ents)) (span w.pa (leBytes w.size r.2))
    s.answer ((w.reqs.zip r.1).map fun e => { req := e.1, status := 0, words := o.words e.2, sub := 0, code := 0 })

/-- The end of a method's wave: committed, discarded to be rerun, or answered with its fault. -/
def State.endMethod (s : State) (w : Wave) : State :=
  match w.flt with
  | none =>
    let s := if w.stored = 0 then s else s.homeWrite none [] w.writes
    s.answer (w.reqs.zipIdx.map fun e =>
      { req := e.1, status := 0, words := words64 (AMap.getD w.replies e.2 0), sub := 0, code := 0 })
  | some (sub, code) =>
    if 2 ≤ w.reqs.length then
      let Q := s.quay w.quay
      s.setQuay w.quay { Q with busy := AMap.put Q.busy w.sb w.reqs }
    else s.answer (w.reqs.map fun q => { req := q, status := if sub = 9 then 3 else 1, words := [], sub, code })

/-- QUAY_WAVE_END: every lane of the wave has finished, or its built-in method is done; what it held goes on (R201). -/
def execQuayWaveEnd (g : Nat) (s : State) : Host.Outcome State Fault Refusal :=
  event s <|
  match s.group? g with
  | none => none
  | some G =>
    match G.wave with
    | none => none
    | some w =>
      if G.live != 0 then none
      else
        let s := { s with groups := AMap.del s.groups g }
        let s := match (w.reqs.head?.bind fun q => q.op) with
          | some (o, _, _) => s.endBuiltin w o
          | none => s.endMethod w
        some ((s.freeBlock w.quay w.sb).drainLate.drainLog.retryAll)

/-! ### Replies (R198) -/

/-- The record of a request that failed (R284, R288). -/
def QReply.rec' (r : QReply) : Rec :=
  let q := r.req
  if r.status = 3 then { cause := .uncorr, kind := .readWrite, fpc := q.pc, addr := q.va + BitVec.ofNat 64 r.code }
  else
    { cause := .quay, sub := BitVec.ofNat 8 r.sub, fpc := q.pc, aux := q.va
      info := BitVec.ofNat 32 (q.cls + q.m * 2 ^ 8 + r.code % 2 ^ 16 * 2 ^ 16) }

/-- QUAY_REPLY: a lane that waits gets the reply or the failure; the failure of a QCALLN sets out as an asynchronous
record. -/
def execQuayReply (i : Nat) (s : State) : Host.Outcome State Fault Refusal :=
  event s <|
  match s.qreplies[i]? with
  | none => none
  | some r =>
    let s := { s with qreplies := dropAt s.qreplies i }
    match r.req.who, r.req.pend with
    | some (g, l), some q => some (s.setPLane g q l (if r.status = 0 then .back r.words else .lost (some r.rec')))
    | some (g, l), none => some (s.deliver g r.req.ctx { r.rec' with mask := 1 <<< l })
    | none, _ => some s

end Sys2Proof.Machine
end

