-- ==== Sys2Proof/Machine/Launch.lean ====
section
/-! DEFINITION. Launches: user queues, packets, placement, the start and the retirement of teams, completion, and work graphs
(R97 to R113, R264 to R266, R273 to R277, R280, R282, R307, R353, R355). -/

namespace Sys2Proof.Machine

/-! ### Tables of a context (R215, R194, R307) -/

/-- The record of a tensor identifier (R215). -/
def TensorId.record (t : TensorId) : List Byte :=
  leBytes 8 t.base.toNat ++ leBytes 8 t.sbase.toNat ++ leBytes 1 t.fmt ++ leBytes 1 (t.rank + 128 * b2n t.bs) ++ leBytes 2 0 ++
  t.dims.flatMap (leBytes 4) ++ t.strs.flatMap (leBytes 4) ++ leBytes 2 (t.box.getD 0 0) ++ leBytes 2 (t.box.getD 1 0) ++
  leBytes 1 (t.box.getD 2 0) ++ leBytes 1 (t.box.getD 3 0) ++ leBytes 1 (t.box.getD 4 0) ++ leBytes 1 0

/-- The descriptor of a class (R194). -/
def QClass.record (c : QClass) : List Byte :=
  c.entries.flatMap (fun e => leBytes 8 e.toNat) ++ leBytes 2 c.size ++ leBytes 2 0 ++ leBytes 4 c.wr.toNat ++ leBytes 24 0

/-- Both tables of an evicted context are read back from its save area (R307). -/
def State.reload (s : State) (ctx : Nat) : State :=
  match AMap.get? s.contexts ctx with
  | none => s
  | some c =>
    if !c.evicted then s
    else
      let at' := fun k => s.bytes (c.savearea + 64 * k) 64
      s.updCtx ctx fun c =>
        { c with
          evicted := false
          tensors := (List.range 256).filterMap fun k => (tensorOf (at' k)).map fun t => (k, t)
          classes := (List.range 256).filterMap fun k => if k = 0 then none else (classOfDesc (at' (256 + k))).map fun q => (k, q) }

/-! ### User queues (R101 to R105) -/

/-- A queue enters ERROR (R105). -/
def State.queueError (s : State) (q : Nat) (u : UQueue) (e : PktErr) : State :=
  let s := s.writeQueue q { u with st := 1, code := e.code }
  let v : Word := leWord (s.bytes (u.desc + 0x24) 4)
  if v.getLsbD 31 then s.msi (bitsAt v 0 12) else s

/-- NOTIFY (R102, R326). -/
def execNotify (q : Nat) (value : DWord) (s : State) : Host.Outcome State Fault Refusal :=
  event s <|
  let s := s.awake
  if q ≥ 4096 then none
  else match AMap.get? s.queues q with
    | none => some s
    | some u =>
      if value.toNat ≤ u.wridx then some s
      else if value.toNat > u.rdidx + 2 ^ u.log2n then (if u.st = 0 then some (s.queueError q u .overflow) else some s)
      else some (s.writeQueue q { u with wridx := value.toNat })

/-- A number that no launch, unit, team or share has had: 16 of them are free. -/
def State.freshId (s : State) : Nat := s.seq + 16

/-- The place of the packet that the queue reads next. -/
def UQueue.slot (u : UQueue) : Nat := u.ring + 64 * (u.rdidx % 2 ^ u.log2n)

/-- A launch holds back the later packets of its queue (R108, R112, R274). -/
def Launch.blocks (l : Launch) : Bool :=
  !l.started || match l.kind with
    | .grid | .gang => decide (l.placed < l.ncl)
    | .graph => false
    | .depend | .barrier => true

/-- The launches of a queue. -/
def State.launchesOf (s : State) (q : Nat) : List (Nat × Launch) := s.launches.filter fun e => e.2.queue == some q

/-- A context that has not been terminated. -/
def State.alive (s : State) (ctx : Nat) : Bool := match AMap.get? s.contexts ctx with
  | some c => !c.dead
  | none => false

/-- Nothing of a queue before a packet holds its start back: no earlier packet blocks it, and with BAR every one has completed (R104). -/
def State.queueLets (s : State) (q num : Nat) (bar : Bool) : Bool :=
  (s.launchesOf q).all fun e => decide (num ≤ e.2.num) || (!bar && !e.2.blocks)

/-- BAR of a packet's bytes. -/
def pktBar (b : List Byte) : Bool := (BitVec.ofNat 32 (fieldAt b 0 4) : Word).getLsbD 10

/-- The packet at RDIDX has been written, and its queue lets it be read. -/
def State.readable (s : State) (u : UQueue) : Bool :=
  u.st == 0 && decide (u.rdidx < u.wridx) && !u.dying && s.alive u.ctx && !s.waveHolds [u.slot] &&
    ((s.poisonIn u.slot 64).isSome || pktType (s.bytes u.slot 64) != 0)

/-- What a packet names, read again as it starts (R100): a descriptor that can no longer be read as it was checked leaves what the check
found. -/
def State.reread (s : State) (l : Launch) : State × Launch :=
  match s.packetOf l.ctx l.packet with
  | (s, .ok l') => (s, { l' with queue := l.queue, num := l.num })
  | (_, .error _) => (s, l)

/-- Bytes of bins that started graphs withhold on each die (R274). -/
def State.binsTaken (s : State) : Nat :=
  ((s.launches.filter fun e => e.2.kind == .graph && e.2.started).map fun e => (e.2.descs.map binBytes).sum).sum

/-- The bins of a packet fit beside those of the graphs that have started (R274). -/
def State.binsFit (s : State) (l : Launch) : Bool := l.kind != .graph || decide (s.binsTaken + (l.descs.map binBytes).sum ≤ binRoom)

/-- A queue has startable work (R103): its first packet that has not started may start, be it read already or not. A graph that waits for
bins blocks no other queue (R274). -/
def State.startable (s : State) (q : Nat) (u : UQueue) : Bool :=
  match (s.launchesOf q).filter fun e => !e.2.started with
  | [] => s.readable u && s.queueLets q u.rdidx (pktBar (s.bytes u.slot 64)) && match (s.packetOf u.ctx (s.bytes u.slot 64)).2 with
      | .ok l => s.binsFit l
      | .error _ => true
  | e :: _ => s.queueLets q e.2.num e.2.bar && s.binsFit (s.reread e.2).2

/-- It is a queue's turn: no other queue of its launch processor has startable work and has been served less recently (R103). -/
def State.queueTurn (s : State) (q : Nat) : Bool :=
  let at' := fun (k : Nat) => ((AMap.get? s.queues k).map UQueue.served).getD 0
  !(s.queues.any fun e => e.1 != q && decide (e.2.served < at' q) && s.startable e.1 e.2 && Config.launchDie e.1 == Config.launchDie q)

/-- PACKET_READ (R103 to R105): the packet at RDIDX is read and checked, its slot is freed and RDIDX advances; a rejected one stops
the queue. A packet that is held back may be read all the same; one that may start is read in its queue's turn. -/
def execPacketRead (q : Nat) (s : State) : Host.Outcome State Fault Refusal :=
  event s <|
  match AMap.get? s.queues q with
  | none => none
  | some u =>
    if !s.readable u || (s.startable q u && !s.queueTurn q) then none
    else if (s.poisonIn u.slot 64).isSome then some (s.queueError q u .badAddr)
    else match s.packetOf u.ctx (s.bytes u.slot 64) with
      | (s, .error e) => some (s.queueError q u e)
      | (s, .ok l) =>
        let s := s.devWrite [(u.slot, 0)]
        let s := s.writeQueue q { u with rdidx := u.rdidx + 1 }
        some { s with launches := AMap.put s.launches s.freshId { l with queue := some q, num := u.rdidx }, seq := s.seq + 16 }

/-! ### Completion (R109, R353) -/

/-- The record of a write for a launch that is not made (R353). -/
def launchRec (x : XFault) (k : Kind) (va : DWord) : Rec :=
  { cause := x.cause, sub := x.sub, kind := k, async := true, addr := va }

/-- One write for a launch: made, given up with a record, or waiting for service (the flag is then false); `none` while a
wave holds its place. -/
def State.launchWrite (s : State) (ctx : Nat) (va : DWord) (pkr : Option DWord) (add : Bool) (val : DWord) (step : LStep) :
    Option (State × Bool) :=
  if va = 0 then some (s, true)
  else
    let k : Kind := if add then .readWrite else .write
    match s.xlate (lpVia ctx) va 8 (if add then .both else .write) pkr with
    | (s, .error x) =>
      if x.held then none
      else if x.serviced then
        some (s.toService 0 { va, cause := x.cause, sub := x.sub, kind := k, src := .ls, ctx, source := sourceWord 0x1FF 0x3F .ls, waiters := [.launch step], l0 := x.l0 }, false)
      else some (s.logRecord ctx (launchRec x k va), true)
    | (s, .ok pas) =>
      let pa := pas.getD 0 0
      if s.waveHolds [pa] then none
      else if isRemote pa && !remoteOk pa then some (s.logRecord ctx (launchRec { cause := .translation, sub := 3 } k va), true)
      else if add && (s.poisonIn pa 8).isSome then some (s.logRecord ctx (launchRec { cause := .uncorr } k va), true)
      else
        let v := if add then leDWord (s.bytes (homeOf pa) 8) + val else val
        some (s.homeWrite none [] (span pa (leBytes 8 v.toNat)), true)

/-- REL: dirty lines of host memory are written back first (R104). -/
def State.hostClean (s : State) : State :=
  { s with l2 := s.l2.map fun e => if region (64 * e.1) == .host then (e.1, { e.2 with dirty := false }) else e }

/-- A launch completes: its value, its interrupt, and its end (R108, R109). `skip` leaves a refused value out. -/
def State.launchDone (s : State) (k : Nat) (skip : Bool) : Option State :=
  match AMap.get? s.launches k with
  | none => some s
  | some l =>
    let s := if l.rel then s.hostClean else s
    let pkr := match l.kind with
      | .depend | .barrier => none
      | _ => some l.pkr
    match (if skip then some (s, true) else s.launchWrite l.ctx l.caddr pkr false l.cval (.launch k)) with
    | none => none
    | some (s, false) => some s
    | some (s, true) =>
      let s := { s with launches := AMap.del s.launches k }
      some (if l.irq then s.msi l.vec else s)

/-- A graph has nothing left to do (R277). -/
def State.graphIdle (s : State) (k : Nat) (l : Launch) : Bool :=
  l.started && (l.bins.all fun b => b.recs.isEmpty && b.waiters.isEmpty) && (l.seeds.all List.isEmpty) && l.placed == l.retired
    && !s.units.any fun e => e.2.launch == k

/-- The launch completes if its last cluster, gang or node group has retired. -/
def State.launchCheck (s : State) (k : Nat) : Option State :=
  match AMap.get? s.launches k with
  | none => some s
  | some l =>
    let ended := match l.kind with
      | .grid | .gang => l.placed == l.ncl && l.retired == l.ncl
      | .graph => s.graphIdle k l
      | _ => false
    if ended then s.launchDone k false else some s

/-- The descriptor whose CLEV a unit counts at: a gang counts at its computer's (R109, R266). -/
def State.unitDesc (s : State) (u : CUnit) : KDesc :=
  let t := match u.kind with
    | .gang => u.teams.getD 1 0
    | _ => u.teams.getD 0 0
  ((s.team? t).map Team.desc).getD {}

/-- The last team of a unit has retired (R109). -/
def State.unitDone (s : State) (k : Nat) (skip : Bool) : Option State :=
  match AMap.get? s.units k with
  | none => some s
  | some u =>
    let d := s.unitDesc u
    let pkr := ((s.team? (u.teams.getD 0 0)).map Team.pkr).getD 0
    match (if skip then some (s, true) else s.launchWrite u.ctx d.clev (some pkr) true 1 (.unit k)) with
    | none => none
    | some (s, false) => some s
    | some (s, true) =>
      let ks := (s.teams.filter fun e => e.2.unit == k).map fun e => e.2.share
      let s := { s with
        units := AMap.del s.units k
        shares := s.shares.filter fun e => !ks.contains e.1
        teams := s.teams.filter fun e => e.2.unit != k }
      (s.updLaunch u.launch fun l => { l with retired := l.retired + 1 }).launchCheck u.launch

/-- What is still on its way to groups that leave their slots: statuses of QCALLN and other records go to the log (R198, R290). -/
def State.flushRecs (s : State) (gs : List Nat) : State :=
  let mine := fun (r : QReply) => match r.req.who with
    | some (g, _) => gs.contains g
    | none => false
  let late := (s.qreplies.filter fun r => mine r && r.req.pend.isNone).map fun r => (r.req.ctx, r.rec')
  let out := (s.recsOut.filter fun e => gs.contains e.1).map fun e => (e.2.1, e.2.2)
  (out ++ late).foldl (fun s e => s.logRecord e.1 { e.2 with async := true, mask := 0 })
    { s with qreplies := s.qreplies.filter fun r => !mine r, recsOut := s.recsOut.filter fun e => !gs.contains e.1 }

/-- A team has retired: its units and its reservation are returned (R109, R236). -/
def State.teamDone (s : State) (k : Nat) (skip : Bool) : Option State :=
  match s.team? k with
  | none => some s
  | some T =>
    match (if skip then some (s, true) else s.launchWrite T.ctx T.desc.teamev (some T.pkr) true 1 (.team k)) with
    | none => none
    | some (s, false) => some s
    | some (s, true) =>
      let s := s.flushRecs T.groups
      let s := { s with
        groups := s.groups.filter fun e => !T.groups.contains e.1
        arrays := s.arrays.map fun (a : Nat × Arr) =>
          (a.1, { a.2 with slots := a.2.slots.map fun (x : Slot) => if x.team = some k then {} else x }) }
      let s := (s.updTeam k fun T => { T with retired := true, slot := none }).repartition [T.core]
      match AMap.get? s.units T.unit with
      | none => some s
      | some u =>
        if u.teams.all fun t => match s.team? t with
          | some T => T.retired
          | none => true
        then s.unitDone T.unit false else some s

/-- A step of the tree after its reply (R353). -/
def State.launchStep (s : State) (w : LStep) (skip : Bool) : Option State :=
  match w with
  | .team t => s.teamDone t skip
  | .unit u => s.unitDone u skip
  | .launch l => s.launchDone l skip

/-- A fault-queue entry holds a waiter. -/
def State.waits (s : State) (w : Waiter) : Bool := s.faults.any fun q => q.any fun e => e.waiters.contains w

/-- Nothing of a team is left to do (R109). -/
def State.teamOver (s : State) (k : Nat) (T : Team) : Bool :=
  T.started && !T.retired && !T.resuming && T.fin.all id && !(s.lsq.any fun e => T.groups.contains e.g)
    && !((s.core T.core).journal.any fun e => e.2.team == k)
    && !(s.gates.any fun e => e.2.any fun c => c.team == k)
    && !s.mxOps k && !(s.bstores.any fun e => e.2.team == k)

/-- TEAM_RETIRE (R109). -/
def execTeamRetire (t : Nat) (s : State) : Host.Outcome State Fault Refusal :=
  event s <|
  match s.team? t with
  | none => none
  | some T => (if s.teamOver t T && !s.waits (.launch (.team t)) then s.teamDone t false else none)

/-! ### The start of packets -/

/-- A packet of one kind that has been read starts, in its queue's turn, once the packets before it let it (R103, R104, R108, R112). -/
def startPacket (k : LKind) (i : Nat) (s : State) : Option State :=
  match AMap.get? s.launches i with
  | none => none
  | some l =>
    let ok := match l.queue with
      | some q => s.queueLets q l.num l.bar && s.queueTurn q
      | none => true
    if l.kind != k || l.started || !ok then none
    else
      let (s, l) := s.bump.reread l
      let s := match l.queue with
        | some q => { s with queues := AMap.upd s.queues q fun u => { u with served := s.seq } }
        | none => s
      some { s with launches := AMap.put s.launches i { l with started := true } }

/-- GRID (R106). -/
def execGrid (i : Nat) (s : State) : Host.Outcome State Fault Refusal := event s (startPacket .grid i s)

/-- GANG (R264). -/
def execGang (i : Nat) (s : State) : Host.Outcome State Fault Refusal := event s (startPacket .gang i s)

/-- GRAPH (R273, R274): it starts once its bins fit; a graph without work completes. -/
def execGraph (i : Nat) (s : State) : Host.Outcome State Fault Refusal :=
  event s ((startPacket .graph i s).bind fun s => if s.binsTaken > binRoom then none else s.launchCheck i)

/-- DEPEND (R108): it begins to watch. -/
def execDepend (i : Nat) (s : State) : Host.Outcome State Fault Refusal := event s (startPacket .depend i s)

/-- BARRIER_AND (R108): without a used pair it completes at once. -/
def execBarrierAnd (i : Nat) (s : State) : Host.Outcome State Fault Refusal :=
  event s <|
  match AMap.get? s.launches i with
  | none => none
  | some l => ((startPacket .barrier i s).bind fun s => if l.conds.isEmpty then s.launchDone i false else some s)

/-- One watched value satisfies its condition. -/
def State.condHolds (s : State) (ctx : Nat) (c : DWord × Nat × DWord) : State × Bool :=
  match s.xlate (lpVia ctx) c.1 8 .read none with
  | (s, .ok pas) =>
    let pa := pas.getD 0 0
    (s, !s.waveHolds [pa] && (s.poisonIn pa 8).isNone && mwaitHolds c.2.1 (leDWord (s.bytes (homeOf pa) 8)) c.2.2)
  | (s, .error _) => (s, false)

/-- Every condition of a packet holds. -/
def State.condsHold (s : State) (ctx : Nat) : List (DWord × Nat × DWord) → State × Bool
  | [] => (s, true)
  | c :: cs =>
    match s.condHolds ctx c with
    | (s, true) => s.condsHold ctx cs
    | (s, false) => (s, false)

/-- DEPEND_CONDITION_HOLDS (R108). -/
def execDependConditionHolds (i : Nat) (s : State) : Host.Outcome State Fault Refusal :=
  event s <|
  match AMap.get? s.launches i with
  | none => none
  | some l =>
    let watches := match l.kind with
      | .depend | .barrier => l.started
      | _ => false
    (if !watches || s.waits (.launch (.launch i)) then none
      else match s.condsHold l.ctx l.conds with
        | (s, true) => s.launchDone i false
        | (_, false) => none)

/-- LAUNCH_LIST_START (R280): the first accepted packet of a die starts; its descriptor is read after the acquire. -/
def execLaunchListStart (die : Nat) (s : State) : Host.Outcome State Fault Refusal :=
  event s <|
  match s.launchLists.getD die [] with
  | [] => none
  | (ctx, b) :: rest =>
    let s := { s with launchLists := s.launchLists.set die rest }
    match s.launchPacket ctx b with
    | (s, .error _) => some s
    | (s, .ok l) => some { s with launches := AMap.put s.launches s.freshId { l with started := true }, seq := s.seq + 16 }

/-! ### Placement (R111 to R113, R265, R276) -/

/-- The lowest free group slots of a core (R114). -/
def State.freeSlots (s : State) (core n : Nat) : List Nat :=
  (((List.range 64).map fun i => 64 * core + i).filter fun g => (s.group? g).isNone).take n

/-- The issue class of a role (R116). -/
def roleClass (role : Nat) : Nat := if role = 1 then 3 else if role = 2 then 2 else 1

/-- A lane at its start (R10, R98): `n` threads of the group, then helpers up to a whole quad. -/
def startLane (d : KDesc) (n now : Nat) (spt : Nat → DWord) (l : Nat) : Lane :=
  if l < 4 * cdiv n 4 then { live := true, helper := decide (n ≤ l), pc := d.entry, spt := spt l, since := now } else {}

/-- A group at its start. -/
def startGroup (l : Launch) (t : Nat) (d : KDesc) (gi now : Nat) (spt : Nat → DWord) : Group :=
  { ctx := l.ctx, team := t, idx := gi, regs := d.regs, pkr := l.pkr, cls := roleClass d.role
    lanes := (List.range 32).map (startLane d (min 32 (d.teamt - 32 * gi)) now spt) }

/-- A tile entry of a descriptor defines its tile (R225). -/
def Share.loadTile (h : Share) (e : BitVec 64) : Share :=
  { h with tiles := h.tiles.set (tileH e) { base := tileBase e, size := tileSize e, defined := true } }

/-- A pipe entry of a descriptor declares its pipe (R267). -/
def Share.loadPipe (h : Share) (e : BitVec 64) : Share :=
  { h with pipes := h.pipes.set (pipeN e) { off := pipeOff e, ebytes := pipeBytes e, depth := pipeDepth e, declared := true } }

/-- A zeroed scratchpad with the tables of some descriptors (R113, R265). -/
def startShare (ds : List KDesc) : Share :=
  let h : Share := { size := (ds.head?.map KDesc.scratch).getD 0 }
  let h := (ds.flatMap KDesc.tiles).foldl Share.loadTile h
  (ds.flatMap KDesc.pipes).foldl Share.loadPipe h

/-- The spill slot of a thread (R107, R266, R276): unit index, team index, and where it stands. -/
def spillSlot (k : UKind) (d : KDesc) (cl ti core slot gi l : Nat) : Nat :=
  match k with
  | .cluster => (cl * d.clt + ti) * (32 * d.groups) + gi * 32 + l
  | .gang => (cl * 3 + ti) * 512 + gi * 32 + l
  | .node => (core * 64 + slot) * 32 + l

/-- One team of a unit takes its place. -/
def State.placeTeam (s : State) (lk : Nat) (l : Launch) (k : UKind) (cl clCount u share t ti core : Nat) (d : KDesc) : State :=
  let gs := s.freeSlots core d.groups
  let now := (s.core core).cycles
  let spt := fun (g gi ln : Nat) =>
    l.sptbase + BitVec.ofNat 64 ((spillSlot k d cl ti core (slotOf g) gi ln + 1) * l.stride)
  let T : Team := {
    ctx := l.ctx, unit := u, share, core, idx := ti, desc := d, groups := gs, fin := List.replicate d.groups false
    berths := List.replicate d.berths {}, karg := l.karg, clIdx := cl, clCount := clCount, pkr := l.pkr, spt := l.sptbase
    stride := l.stride, launch := lk, loads := d.tids }
  let s := { s with teams := AMap.put s.teams t T }
  gs.zipIdx.foldl (fun (s : State) e =>
    { s with groups := AMap.put s.groups e.1 (startGroup l t d e.2 now (spt e.1 e.2)) }) s

/-- A unit takes its place on some cores, one for each of its teams. -/
def State.placeUnit (s : State) (lk : Nat) (l : Launch) (k : UKind) (cl clCount : Nat) (ps : List (KDesc × Nat)) : State :=
  let s := s.reload l.ctx
  let u := s.freshId
  let h := u
  let t := u
  let ks := fun i => if k = .gang then h else h + i
  let s := { s with units := AMap.put s.units u {
    kind := k, ctx := l.ctx, launch := lk, clIdx := cl, clCount := clCount, teams := (List.range ps.length).map (t + ·) } }
  let s := if k = .gang then { s with shares := AMap.put s.shares h (startShare (ps.map (·.1))) }
    else ps.zipIdx.foldl (fun (s : State) e => { s with shares := AMap.put s.shares (ks e.2) (startShare [e.1.1]) }) s
  let s := ps.zipIdx.foldl (fun (s : State) e => s.placeTeam lk l k cl clCount u (ks e.2) (t + e.2) e.2 e.1.2 e.1.1) s
  let s := s.repartition (ps.map (·.2))
  { s with seq := s.seq + 16 }.updLaunch lk fun l => { l with placed := l.placed + 1 }

/-- Teams of some need fit on a core beside the resident ones (R111, R265). -/
def State.fitsOn (s : State) (core : Nat) (n : Need) : Bool := decide (core < 384) && ((s.coreNeed core).add n).fits

/-- CLUSTER_PLACEMENT (R112, R265): the next cluster, its teams on distinct cores of one tetrad, or the next gang on one
core. -/
def execClusterPlacement (k : Nat) (cores : List Nat) (s : State) : Host.Outcome State Fault Refusal :=
  event s <|
  match AMap.get? s.launches k with
  | none => none
  | some l =>
    if !l.started || decide (l.ncl ≤ l.placed) then none
    else match l.kind, l.descs, cores with
      | .grid, [d], c :: _ =>
        (if cores.length == d.clt && distinct cores && (cores.all fun c' => tetradOf c' == tetradOf c && s.fitsOn c' (d.need d.groups))
          then some (s.placeUnit k l .cluster l.placed l.ncl (cores.map fun c => (d, c))) else none)
      | .gang, ds, [c] =>
        (if s.fitsOn c (gangNeed ds) then some (s.placeUnit k l .gang l.placed l.ncl (ds.map fun d => (d, c))) else none)
      | _, _, _ => none

/-! ### The start of a team (R113, R282, R355) -/

/-- The result of one KDEF of a load list. -/
inductive LoadRes where
  | held
  | service (x : XFault)
  | failed (r : Rec)
  | done

/-- The address of a load-list entry's record. -/
def Team.loadVa (T : Team) (e : BitVec 64) : DWord := T.karg + BitVec.ofNat 64 (tidOff e)

/-- The record of a failed entry (R355). -/
def Team.loadRec (T : Team) (e : BitVec 64) (x : XFault) : Rec :=
  { cause := x.cause, sub := x.sub, kind := .read, resume := T.desc.entry, fpc := T.desc.entry, addr := T.loadVa e
    info := BitVec.ofNat 32 (tidK e) }

/-- How a team's group 0 translates before it runs. -/
def Team.via (T : Team) : Via := { tlb := T.core, die := dieOf T.core, ctx := T.ctx, team := 0 }

/-- One KDEF of a load list, in the name of group 0 (R355). -/
def State.loadEntry (s : State) (T : Team) (e : BitVec 64) : State × LoadRes :=
  let va := T.loadVa e
  if va.toNat % 64 != 0 then (s, .failed (T.loadRec e { cause := .misaligned }))
  else match s.xlate T.via va 64 .read (some T.pkr) with
    | (s, .error x) => (s, if x.held then .held else if x.serviced then .service x else .failed (T.loadRec e x))
    | (s, .ok pas) =>
      if s.holds pas then (s, .held)
      else if pas.any fun pa => (isRemote pa && !remoteOk pa) || (s.poisonIn pa 1).isSome then (s, .failed (T.loadRec e { cause := .uncorr }))
      else match tensorOf (pas.map fun pa => s.byte (homeOf pa)) with
        | none => (s, .failed (T.loadRec e { cause := .badHandle }))
        | some d => ((s.dropRows T.ctx (tidK e)).updCtx T.ctx fun c => { c with tensors := AMap.put c.tensors (tidK e) d }, .done)

/-- An entry fails: the first failure is kept for group 0's trap, the others go to the log (R355). -/
def State.loadFails (s : State) (t : Nat) (r : Rec) : State :=
  match s.team? t with
  | none => s
  | some T =>
    if T.loadFail.isSome then s.logRecord T.ctx { r with async := true }
    else s.updTeam t fun T => { T with loadFail := some r }

/-- The load list runs, up to an entry that waits for service; the flag says that it is done. `none` while a wave holds a
record. -/
def State.runLoads (s : State) (t : Nat) : List (BitVec 64) → Option (State × Bool)
  | [] => some (s.updTeam t fun T => { T with loads := [] }, true)
  | e :: es =>
    match s.team? t with
    | none => none
    | some T =>
      match s.loadEntry T e with
      | (_, .held) => none
      | (s, .done) => s.runLoads t es
      | (s, .failed r) => (s.loadFails t r).runLoads t es
      | (s, .service x) =>
        let s := s.updTeam t fun T => { T with loads := e :: es }
        some (s.toService (dieOf T.core) { va := T.loadVa e, cause := x.cause, sub := x.sub, kind := .read, src := .ls, ctx := T.ctx, source := groupSource (T.groups.getD 0 0) .ls, waiters := [.load t (tidK e)], l0 := x.l0 }, false)

/-- The pages of a declared operand range (R282): first page and number. -/
def TensorId.pages (d : TensorId) : Nat × Nat :=
  let len := cdiv (d.dims.getD 0 0 * fmtWidth d.fmt) 8 +
    16 * (((List.range 4).map fun i => d.strs.getD i 0 * (d.dims.getD (i + 1) 0 - 1)).sum)
  let p0 := d.base.toNat / 65536
  (p0, (d.base.toNat + len - 1) / 65536 + 1 - p0)

/-- A page joins the run at the end of a table, or begins a new one (R282). -/
def addPage (xs : List Extent) (fresh : Bool) (va : DWord) (pa : Nat) (leaf : DWord) : List Extent :=
  match xs.getLast?, fresh with
  | some x, false =>
    if x.pa + 65536 * x.pages = pa && x.va.toNat + 65536 * x.pages = va.toNat && x.leaf &&& 0xF9C == leaf &&& 0xF9C then
      xs.dropLast ++ [{ x with pages := x.pages + 1, dirty := x.dirty ++ [pteD leaf] }]
    else xs ++ [{ va, pa, pages := 1, leaf, dirty := [pteD leaf] }]
  | _, _ => xs ++ [{ va, pa, pages := 1, leaf, dirty := [pteD leaf] }]

/-- The valid pages of one range enter the table, each with its accessed bit set; beyond 32 runs nothing more. A page whose entry a wave
holds is left to the walks (R201). -/
def State.rangeExtents (s : State) (v : Via) (p : Nat) (fresh : Bool) (xs : List Extent) : Nat → State × List Extent
  | 0 => (s, xs)
  | n + 1 =>
    let va : DWord := BitVec.ofNat 64 (p * 65536)
    match s.probe v va with
    | (s, none) => s.rangeExtents v (p + 1) true xs n
    | (s, some f) =>
      let ys := addPage xs fresh va (f.pa va) f.e
      if !pteA f.e && s.pteHeld v f.pte then s.rangeExtents v (p + 1) true xs n
      else if ys.length > 32 then (s, xs)
      else
        let s := if pteA f.e then s else s.homeWrite none [] (span f.pte (leBytes 8 (f.e ||| 0x20).toNat))
        s.rangeExtents v (p + 1) false ys n

/-- The extent table of a team (R282). -/
def State.buildExtents (s : State) (t : Nat) : State :=
  match s.team? t with
  | none => s
  | some T =>
    let r := (T.desc.tids.take 8).foldl (fun (r : State × List Extent) e =>
      match r.1.tensor? T.ctx (tidK e) with
      | some d => r.1.rangeExtents T.via d.pages.1 true r.2 d.pages.2
      | none => r) (s, [])
    r.1.updTeam t fun T => { T with extents := r.2 }

/-- The team's groups begin: an acquire, the pending set, and group 0's trap when its load list failed (R113, R355). -/
def State.beginTeam (s : State) (t : Nat) : State :=
  let s := s.buildExtents t
  match s.team? t with
  | none => s
  | some T =>
    let s := (s.acquire T.core).updTeam t fun T => { T with started := true }
    match T.loadFail, T.groups with
    | some r, g :: _ =>
      match s.group? g with
      | some G => s.trapLanes g (G.live &&& ~~~G.helpers) r
      | none => s
    | _, _ => s

/-- TEAM_START (R113): the load list, the extent table, and the start. -/
def execTeamStart (t : Nat) (s : State) : Host.Outcome State Fault Refusal :=
  event s <|
  match s.team? t with
  | none => none
  | some T =>
    let waiting := s.faults.any fun q => q.any fun e => e.waiters.any fun w => match w with
      | .load t' _ => t' == t
      | _ => false
    (if T.started || waiting then none
      else match s.runLoads t T.loads with
        | none => none
        | some (s, false) => some s
        | some (s, true) => some (s.beginTeam t))

/-! ### Work graphs (R274 to R276) -/

/-- A trigger of a bin holds (R275). -/
def Bin.triggered (b : Bin) (d : KDesc) : Bool :=
  decide (d.ncount ≤ b.recs.length) || (b.expired && !b.recs.isEmpty)

/-- BIN_COUNT_TRIGGER (R275, R276): while a trigger holds, a group of the node is placed and takes the oldest records. -/
def execBinCountTrigger (k die node core : Nat) (s : State) : Host.Outcome State Fault Refusal :=
  event s <|
  match AMap.get? s.launches k with
  | none => none
  | some l =>
    let i := binIx node die
    let b := l.bin i
    match l.descs[node]? with
    | none => none
    | some d =>
      if l.kind != .graph || !l.started || decide (die ≥ 4) || dieOf core != die || !b.triggered d || !s.fitsOn core (d.need d.groups) then
        none
      else
        let recs := b.recs.take d.ncount
        let rest := b.recs.drop d.ncount
        let h := s.freshId
        let s := s.placeUnit k l .node 0 1 [(d, core)]
        let s := s.setBin k i { b with recs := rest, timer := !rest.isEmpty, expired := false }
        let s := s.updShare h fun sh =>
          sh.setBytes 0 (leBytes 4 recs.length ++ leBytes 4 (node + die * 2 ^ 16) ++ recs.flatten)
        some (s.drainWaiters k i b.waiters.length)

/-- BIN_TIMER_EXPIRY (R275): the budget of a running timer has passed. -/
def execBinTimerExpiry (k die node : Nat) (s : State) : Host.Outcome State Fault Refusal :=
  event s <|
  match AMap.get? s.launches k with
  | none => none
  | some l =>
    let i := binIx node die
    let b := l.bin i
    (if l.kind == .graph && decide (die < 4) && b.timer && !b.recs.isEmpty then
      some (s.awake.setBin k i { b with timer := false, expired := true }) else none)

/-- SEED_ENTRY (R274): the first seed of a node whose bin has room enters it. -/
def execSeedEntry (k node : Nat) (s : State) : Host.Outcome State Fault Refusal :=
  event s <|
  match AMap.get? s.launches k with
  | none => none
  | some l =>
    let cap := 2 * (l.descs.getD node {}).ncount
    let seeds := l.seeds.getD node []
    match seeds.findIdx? fun e => decide ((l.bin (binIx node (e.1 % 4))).recs.length < cap) with
    | none => none
    | some j =>
      match seeds[j]? with
      | none => none
      | some e =>
        let i := binIx node (e.1 % 4)
        if l.kind != .graph || !l.started then none
        else
          let s := s.updLaunch k fun l => { l with seeds := l.seeds.set node (dropAt seeds j) }
          some (s.setBin k i ((l.bin i).push e.2))

end Sys2Proof.Machine
end

