-- ==== Sys2Proof/Machine/Contexts.lean ====
section
/-! DEFINITION. Contexts and the mailbox: contexts and queues, tokens and attestation, the modes of the managed functions,
lost stacks, and the migration of pages between the tiers (R101, R110, R164, R169, R291, R307, R324, R327, R328, R332, R335,
R346 to R349). -/

namespace Sys2Proof.Machine

/-! ### The mailbox -/

/-- A command of the mailbox that is running acts (R327). -/
def mailbox (code : Nat) (f : State → Option State) (s : State) : Host.Outcome State Fault Refusal :=
  event s (if s.dev.mbbusy && s.dev.mbcmd == code then f s else none)

/-- MBARG n. -/
def State.arg (s : State) (n : Nat) : DWord := s.dev.mbarg.getD n 0

/-- Bytes that lie wholly in device memory: local HBM or the second tier (R149). -/
def inDevice (pa n : Nat) : Bool :=
  match region pa, region (pa + n - 1) with
  | .hbm, .hbm | .tier2, .tier2 => true
  | _, _ => false

/-- Bytes that lie wholly in device memory or in host memory. -/
def inLocal (pa n : Nat) : Bool := inDevice pa n || match region pa, region (pa + n - 1) with
  | .host, .host => true
  | _, _ => false

/-- The commands of a function that act only in its host-assisted mode (R328). -/
def State.assisted (s : State) (fn : Nat) (f : State → State) : State := if s.hostMode fn then f s else s.mbDone 2 none

/-! ### Contexts (R291, R307, R324) -/

/-- A context record; `none` if a field is out of range or its memory is poisoned (R324). -/
def State.readContext (s : State) (pa : Nat) : Option Context :=
  let b := s.bytes pa 64
  let root := fieldAt b 0 8
  let logn := fieldAt b 0x18 1
  if (s.poisonIn pa 64).isNone && decide (4 ≤ logn) && decide (logn ≤ 16) && zeroAt b 0x19 3 && zeroAt b 0x38 8 && root % 2 ^ 14 == 0
      && inLocal root (2 ^ 14) then
    some { recPa := pa, root, trapva := field64 b 8, logbase := fieldAt b 0x10 8, logn, savearea := fieldAt b 0x30 8 }
  else none

/-- CREATE_CONTEXT (R324, R328). -/
def execCreateContext (s : State) : Host.Outcome State Fault Refusal :=
  s |> mailbox 1 fun s =>
    let pa := (s.arg 0).toNat
    if pa % 64 != 0 || !inDevice pa 64 then some (s.mbDone 1 none)
    else match s.readContext pa with
      | none => some (s.mbDone 1 none)
      | some c =>
        let n := AMap.fresh s.contexts 65536 0
        if n ≥ 65536 then some (s.mbDone 3 none)
        else some ({ s with contexts := AMap.put s.contexts n c }.mbDone 0 (some (BitVec.ofNat 64 n)))

/-- A context may be evicted (R307): none of its teams is resident, and nothing of it is under way. -/
def State.idle (s : State) (ctx : Nat) : Bool :=
  !(s.teams.any fun e => e.2.ctx == ctx && !e.2.retired) && !(s.launches.any fun e => e.2.ctx == ctx && e.2.queue.isSome && e.2.started && e.2.blocks)
    && !(s.cores.any fun c => c.2.journal.any fun j => j.2.ctx == ctx) && !(s.gates.any fun e => e.2.any fun c => c.ctx == ctx)
    && !(s.bstores.any fun e => e.2.ctx == ctx)
    && !(s.quays.any fun q => (q.2.reqs.any fun r => r.ctx == ctx && r.cls != 0) ||
      q.2.busy.any fun b => b.2.any fun r => r.ctx == ctx && r.cls != 0)
    && !(s.groups.any fun e => e.2.ctx == ctx)

/-- Both tables go to the save area, and every translation of the context is dropped (R307). -/
def State.evict (s : State) (ctx : Nat) : State :=
  match AMap.get? s.contexts ctx with
  | none => s
  | some c =>
    let tab := (List.range 256).flatMap fun k => match AMap.get? c.tensors k with
      | some t => fixLen 64 t.record
      | none => List.replicate 64 0
    let cls := (List.range 256).flatMap fun k => match AMap.get? c.classes k with
      | some q => fixLen 64 q.record
      | none => List.replicate 64 0
    let s := s.devWrite (span c.savearea (tab ++ cls))
    (s.updCtx ctx fun c => { c with tensors := [], classes := [], evicted := true }).dropTranslations ctx fun _ _ => true

/-- CONTEXT_EVICT (R307): the choice of Snido. -/
def execContextEvict (ctx : Nat) (s : State) : Host.Outcome State Fault Refusal :=
  event s <|
  match AMap.get? s.contexts ctx with
  | some c => (if !c.evicted && s.idle ctx then some (s.evict ctx) else none)
  | none => none

/-- DESTROY_CONTEXT (R291, R307, R328): the context is terminated; once its writes in flight are performed it is evicted,
and its number, its queues and its halts go. -/
def execDestroyContext (s : State) : Host.Outcome State Fault Refusal :=
  s |> mailbox 2 fun s =>
    let n := (s.arg 0).toNat
    match AMap.get? s.contexts n with
    | none => some (s.mbDone 1 none)
    | some c =>
      if !c.dead then some (s.terminate n { cause := .halt })
      else if s.lsq.any fun e => e.ctx == n then none
      else
        let s := s.evict n
        let s := { s with
          contexts := AMap.del s.contexts n
          queues := s.queues.filter fun e => e.2.ctx != n
          dev := { s.dev with halts := s.dev.halts.filter fun h => h.ctx != n } }
        some (s.mbDone 0 none)

/-! ### Queues (R101, R102, R328) -/

/-- A queue descriptor of a context; `none` if it breaks R101. -/
def State.readQueueDesc (s : State) (ctx pa : Nat) : Option UQueue :=
  let b := s.bytes pa 64
  let ring := fieldAt b 0 8
  let n := fieldAt b 8 1
  if (s.poisonIn pa 64).isNone && decide (1 ≤ n) && decide (n ≤ 16) && zeroAt b 9 7 && zeroAt b 0x28 24
      && fieldAt b 0x24 4 / 2 ^ 12 % 2 ^ 19 == 0 && ring % 64 == 0 && inLocal ring (64 * 2 ^ n) then
    some { ctx, desc := pa, ring, log2n := n }
  else none

/-- CREATE_QUEUE (R101, R328). -/
def execCreateQueue (s : State) : Host.Outcome State Fault Refusal :=
  s |> mailbox 3 fun s =>
    let ctx := (s.arg 0).toNat
    let pa := (s.arg 1).toNat
    if (AMap.get? s.contexts ctx).isNone || pa % 64 != 0 || !inDevice pa 64 then some (s.mbDone 1 none)
    else match s.readQueueDesc ctx pa with
      | none => some (s.mbDone 1 none)
      | some u =>
        let q := AMap.fresh s.queues 4096 0
        if q ≥ 4096 then some (s.mbDone 3 none)
        else
          let s := s.devWrite ((List.range (2 ^ u.log2n)).map fun i => (u.ring + 64 * i, 0))
          some ((s.writeQueue q u).mbDone 0 (some (BitVec.ofNat 64 q)))

/-- A stopped queue waits for nothing: its packets that have not started, and those that watch a value, are dropped
(R110). -/
def State.dropWatchers (s : State) (q : Nat) : State :=
  { s with launches := s.launches.filter fun e =>
      !(e.2.queue == some q && (!e.2.started || match e.2.kind with
        | .depend | .barrier => !s.waits (.launch (.launch e.1))
        | _ => false)) }

/-- DESTROY_QUEUE (R328): the queue is stopped, and freed once its started packets have completed. -/
def execDestroyQueue (s : State) : Host.Outcome State Fault Refusal :=
  s |> mailbox 4 fun s =>
    let q := (s.arg 0).toNat
    match AMap.get? s.queues q with
    | none => some (s.mbDone 1 none)
    | some u =>
      if !u.dying then some ((s.writeQueue q { u with st := 2, code := 0, dying := true }).dropWatchers q)
      else if !(s.launchesOf q).isEmpty then none
      else some ({ s with queues := AMap.del s.queues q }.mbDone 0 none)

/-- RESET_QUEUE (R328). -/
def execResetQueue (s : State) : Host.Outcome State Fault Refusal :=
  s |> mailbox 5 fun s =>
    let q := (s.arg 0).toNat
    let skip := s.arg 1
    match AMap.get? s.queues q with
    | none => some (s.mbDone 1 none)
    | some u =>
      if u.st = 0 || u.dying || 2 ≤ skip.toNat then some (s.mbDone 1 none)
      else
        let s := if skip = 1 then s.devWrite [(u.slot, 0)] else s
        some ((s.writeQueue q { u with st := 0, code := 0, rdidx := u.rdidx + skip.toNat }).mbDone 0 none)

/-! ### Modes, lost stacks (R164, R332, R335) -/

/-- SET_MODE (R332). -/
def execSetMode (s : State) : Host.Outcome State Fault Refusal :=
  s |> mailbox 0xB fun s =>
    let id := (s.arg 0).toNat
    let m := (s.arg 1).toNat
    if decide (id < 0x10) || decide (0x15 < id) || decide (1 < m) then some (s.mbDone 1 none)
    else
      let s := s.setDev fun v => { v with managed := modAt v.managed (id - 0x10) fun x => { x with host := m == 1 } }
      some (s.mbDone 0 none)

/-- DECLARE_LOST (R164, R328). -/
def execDeclareLost (s : State) : Host.Outcome State Fault Refusal :=
  s |> mailbox 9 fun s => some (s.assisted 2 fun s =>
    let k := (s.arg 0).toNat
    if k ≥ 16 then s.mbDone 1 none
    else (if s.isLost k then s else s.loseStack k).mbDone 0 none)

/-! ### Tokens and attestation (R346 to R349) -/

/-- NONCE (R328, R346). -/
def execNonce (s : State) : Host.Outcome State Fault Refusal :=
  s |> mailbox 0xC fun s =>
    let n := s.dev.nonces + 1
    some ((s.setDev fun v => { v with nonces := n, nonceLive := true }).mbDone 0 (some (Config.nonce n)))

/-- A length rounded up to a multiple of 8. -/
def pad8 (n : Nat) : Nat := cdiv n 8 * 8

/-- The fused counter as it stands (R346). -/
def Dev.fused (v : Dev) : Nat := Nat.max Config.fusedRollback v.rollback

/-- The Snido image in place, with its rollback number (R346). -/
def Dev.image (v : Dev) : Nat × List Byte := v.fw.getD (Config.factoryRollback, Config.factoryImage)

/-- The signature that a Snido image carries verifies against the vendor key (R346). -/
def imageOk (img : List Byte) : Bool := ecdsaOk Config.vendorKey (Config.imageParts img).1 (Config.imageParts img).2

/-- The identity public key, IDPUB, and its digest, DEVID (R347 to R349). -/
def identityKey : List Byte := publicKey Config.identitySecret
def deviceId : List Byte := sha256 identityKey

/-- The form of a token: its type and its body; `none` for what step 1 of R347 refuses. -/
def tokenForm (b : List Byte) : Option (Nat × List Byte) :=
  let ty := fieldAt b 4 2
  let len := fieldAt b 8 4
  let body := (b.drop 0x38).take (len - 120)
  let n := if ty = 1 then fieldAt body 4 4 else 2 * fieldAt body 0 4
  let ok := fieldAt b 0 4 == 1 && (ty == 1 || ty == 2) && zeroAt b 6 2 && zeroAt b 0xC 4 && len == b.length
    && len - 120 == 8 + pad8 n && (body.drop (8 + n)).all (· == 0)
    && (ty == 1 || (decide (1 ≤ fieldAt body 0 4) && decide (fieldAt body 0 4 ≤ 16) && zeroAt body 4 4))
  if ok then some (ty, body) else none

/-- The nonce, the device and the signature of a token are good (step 2 of R347). -/
def State.tokenGood (s : State) (b : List Byte) : Bool :=
  s.dev.nonceLive && field64 b 0x10 == Config.nonce s.dev.nonces && (b.drop 0x18).take 32 == deviceId
    && ecdsaOk Config.vendorKey (b.take (b.length - 64)) (b.drop (b.length - 64))

/-- A good token acts (steps 3 and 4 of R347). -/
def State.applyToken (s : State) (ty : Nat) (body : List Byte) : State × Nat :=
  if ty = 1 then
    let rb := fieldAt body 0 4
    let img := (body.drop 8).take (fieldAt body 4 4)
    if rb < s.dev.fused || !imageOk img then (s, 2)
    else (s.setDev fun v => { v with pendingFw := some (rb, img) }, 0)
  else
    let cs := (List.range (fieldAt body 0 4)).map fun i => fieldAt body (8 + 2 * i) 2
    if cs.all fun c => (AMap.get? s.contexts c).isSome then
      (cs.foldl (fun s c => s.updCtx c fun x => { x with debug := true }) s, 0)
    else (s, 1)

/-- TOKEN (R346, R347): every command consumes the latest nonce. -/
def execToken (s : State) : Host.Outcome State Fault Refusal :=
  s |> mailbox 0xD fun s =>
    let pa := (s.arg 0).toNat
    let len := if inDevice pa 16 then leNat (s.bytes (pa + 8) 4) else 0
    let used := fun (s : State) => s.setDev fun v => { v with nonceLive := false }
    if pa % 8 != 0 || len % 8 != 0 || decide (len < 128) || decide (2 ^ 26 < len) || !inDevice pa len || (s.poisonIn pa len).isSome then
      some ((used s).mbDone 1 none)
    else
      let b := s.bytes pa len
      match tokenForm b with
      | none => some ((used s).mbDone 1 none)
      | some (ty, body) =>
        if !s.tokenGood b then some ((used s).mbDone 2 none)
        else match s.applyToken ty body with
          | (s, st) => some ((used s).mbDone st none)

/-- The report of ATTEST (R349); LEN, a word, holds its length. -/
def State.report (s : State) (nonce : DWord) : List Byte :=
  let cert := Config.certificate.take (2 ^ 32 - 0xE9)
  let head := leBytes 4 1 ++ leBytes 4 (0xE8 + cert.length) ++ leBytes 8 nonce.toNat ++ sha256 Config.romImage ++
    sha256 s.dev.image.2 ++ leBytes 4 s.dev.fused ++ leBytes 2 s.dev.devnum ++ leBytes 2 0 ++
    leBytes 4 s.dev.memHealth.toNat ++ leBytes 4 0 ++ identityKey
  head ++ ecdsaSign Config.identitySecret (Config.signNumber head) head ++ leBytes 4 cert.length ++ leBytes 4 0 ++ cert

/-- ATTEST (R348, R349). -/
def execAttest (s : State) : Host.Outcome State Fault Refusal :=
  s |> mailbox 0xE fun s =>
    let pa := (s.arg 1).toNat
    let r := s.report (s.arg 0)
    if pa % 8 != 0 || decide ((s.arg 2).toNat < r.length) || !inLocal pa r.length then some (s.mbDone 1 none)
    else some ((s.devWrite (span pa r)).mbDone 0 none)

/-! ### Migration (R169, R335) -/

/-- A 32-byte half becomes poisoned, with the bytes it holds (R163). -/
def State.poisonHalf (s : State) (h : Nat) : State :=
  { s with pois := AMap.put s.pois h 0
           l2 := AMap.upd s.l2 (h / 2) fun l => { l with pois := l.pois ||| (1 <<< (h % 2) : BitVec 2) } }

/-- No translation of the package leads to the frames of a range or comes from the leaf at an address any longer, in whatever context
(R169, step 1). -/
def State.dropFrames (s : State) (pte pa n : Nat) : State :=
  let hit := fun (a k : Nat) => decide (a < pa + n) && decide (pa < a + k)
  { s with
    tlb := s.tlb.filter fun t => t.pte != pte && !(hit (pteFrame t.leaf) (2 ^ pageLog t.lvl))
    tcache := s.tcache.filter fun e => e.1 % 2 ^ 46 != pte / 8
    teams := s.teams.map fun e => (e.1, { e.2 with extents := e.2.extents.filter fun x => !hit x.pa (x.pages * 65536) }) }

/-- What caches, instruction stores and engines hold of the bytes that a range of frames held goes (R169): the page's bytes come to lie
there. -/
def State.dropCopies (s : State) (pa n : Nat) : State :=
  let out := fun (a : Nat) => !(decide (pa < homeOf a + 4) && decide (homeOf a < pa + n))
  { s with
    l1 := s.l1.filter fun e => out (e.1 % 2 ^ 46 * 4)
    icache := s.icache.filter fun e => out (e.1 % 2 ^ 46 * 4)
    gateStage := s.gateStage.map fun e => (e.1, e.2.filter fun b => out b.1)
    arrays := s.arrays.map fun a => (a.1, { a.2 with staged := a.2.staged.filter fun b => out b.1 }) }

/-- Something that has translated already still goes to a range of physical addresses: stores and atomics, halves of loads, requests and
waves, and granules of the engines. -/
def State.inFlight (s : State) (pa n : Nat) : Bool :=
  let hits := fun (a k : Nat) => decide (homeOf a < pa + n) && decide (pa < homeOf a + k)
  (s.lsq.any fun e => e.ranges.any fun r => r.space == 0 && hits r.at' r.len) ||
  (s.groups.any fun e => e.2.pend.any fun p => p.lanes.any fun x => match x.2 with
    | .half _ _ _ rest => rest.any fun a => hits a 1
    | _ => false) ||
  (s.quays.any fun q => (q.2.reqs ++ q.2.busy.flatMap (·.2)).any fun r => hits r.pa 1) ||
  (s.groups.any fun e => match e.2.wave with
    | some w => hits w.pa 1
    | none => false) ||
  (s.cores.any fun c => c.2.journal.any fun j => j.2.st == .active && j.2.places.any fun g => hits (64 * g.2) 64) ||
  (s.gates.any fun q => q.2.any fun c => !c.out.isEmpty && c.granule.any fun g => hits (64 * g.2) 64) ||
  s.bstores.any fun b => !b.2.out.isEmpty && b.2.granule.any fun g => hits (64 * g.2) 64

/-- The leaf after a migration: the frame and the tier bit are new (R169, R294). -/
def movedLeaf (e : DWord) (frame : Nat) (tier : Bool) : DWord :=
  (e &&& ~~~0xFFFFFFFFF1000) ||| BitVec.ofNat 64 frame ||| (if tier then 0x1000 else 0)

/-- Monitors armed in the old frame follow the page. -/
def Lane.moveMonitor (L : Lane) (old n new : Nat) : Lane :=
  match L.monitor with
  | some m => if old ≤ m.pa && m.pa < old + n then { L with monitor := some { m with pa := new + (m.pa - old) } } else L
  | none => L

/-- A page moves: translations go, the bytes are copied with their poison, and the leaf takes the new frame (R169). -/
def State.movePage (s : State) (ctx : Nat) (va : DWord) (f : Leaf) (frame : Nat) (tier : Bool) : State :=
  let n := 2 ^ pageLog f.lvl
  let old := pteFrame f.e
  let base := va.toNat / n * n
  let s := (s.dropTranslations ctx fun a k => decide (a < base + n) && decide (base < a + k)).dropFrames f.pte old n
  let bad := (List.range (n / 32)).filter fun h => (s.poisonIn (old + 32 * h) 1).isSome
  let s := s.fillRange old n
  let s := (s.homeWrite none [] (span frame (s.bytes old n))).dropCopies frame n
  let s := bad.foldl (fun s h => s.poisonHalf (frame / 32 + h)) s
  let s := s.homeWrite none [] (span f.pte (leBytes 8 (movedLeaf f.e frame tier).toNat))
  { s with groups := s.groups.map fun g => (g.1, { g.2 with lanes := g.2.lanes.map fun L => L.moveMonitor old n frame }) }

/-- The leaf of a page that can move to a tier (R169). -/
def State.movable (s : State) (ctx : Nat) (va : DWord) (tier : Bool) : Option Leaf :=
  match (s.probe (lpVia ctx) va).2 with
  | some f => if !pteHost f.e && pteTier f.e != tier && region (pteFrame f.e) == (if tier then .hbm else .tier2) then some f else none
  | none => none

/-- The move of a page to a frame has to wait: for what goes to either frame, for a wave that holds its leaf, or for a tag of a port that the
copy goes through (R150, R169, R201). -/
def State.moveWaits (s : State) (f : Leaf) (frame n : Nat) : Bool :=
  let old := pteFrame f.e
  s.inFlight old n || s.inFlight frame n || s.waveHolds [f.pte] || s.portHolds ((List.range (n / 64)).map (old + 64 * ·))

/-- A frame of a tier for a page of `n` bytes. -/
def frameOk (frame n : Nat) (tier : Bool) : Bool :=
  frame % n == 0 && region frame == (if tier then .tier2 else .hbm) && region (frame + n - 1) == (if tier then .tier2 else .hbm)

/-- TIER_MIGRATION (R169, R335): Snido moves a 64 KiB page to a free frame, in hardware mode. -/
def execTierMigration (ctx : Nat) (va : DWord) (tier : Bool) (frame : Nat) (s : State) : Host.Outcome State Fault Refusal :=
  event s <|
  match s.movable ctx va tier with
  | none => none
  | some f =>
    (if s.hostMode 1 || f.lvl != 0 || !frameOk frame 65536 tier || s.moveWaits f frame 65536 then none
      else some (s.movePage ctx va f frame tier))

/-- MIGRATE (R169, R328): the host moves the page of an address, of any size, to a free frame; without one it completes with
NORES. -/
def execMigrate (frame : Nat) (s : State) : Host.Outcome State Fault Refusal :=
  s |> mailbox 8 fun s =>
    let ctx := (s.arg 0).toNat
    let va := s.arg 1
    let tier := s.arg 2 == 1
    if !s.hostMode 1 then some (s.mbDone 2 none)
    else if (AMap.get? s.contexts ctx).isNone || decide (1 < (s.arg 2).toNat) then some (s.mbDone 1 none)
    else if s.probeHeld (lpVia ctx) va then none
    else match s.movable ctx va tier with
      | none => some (s.mbDone 1 none)
      | some f =>
        let n := 2 ^ pageLog f.lvl
        if !frameOk frame n tier then some (s.mbDone 3 none)
        else if s.moveWaits f frame n then none
        else some ((s.movePage ctx va f frame tier).mbDone 0 none)

end Sys2Proof.Machine
end

