-- ==== Sys2Proof/Machine/Control.lean ====
section
/-! DEFINITION. The control instructions: group 0x0 (R50 to R55, R134 to R139). -/

namespace Sys2Proof.Machine

/-- The target of a relative transfer (R44, R51). -/
def relTarget (pc : DWord) (disp : Word) : DWord := dispAdd (pc + 12) disp

/-- NOP (R51): no change. -/
def execNop (h : Hdr) (s : State) : Host.Outcome State Fault Refusal :=
  issue s h .both [] noHandles fun s _ => s

/-- BRA (R51). -/
def execBra (h : Hdr) (disp : Word) (s : State) : Host.Outcome State Fault Refusal :=
  issue s h .both [] noHandles fun s x => s.jump x x.T fun _ _ => relTarget x.pc disp

/-- JMPX (R51, R139): each lane its own target. -/
def execJmpx (h : Hdr) (a : Reg) (s : State) : Host.Outcome State Fault Refusal :=
  issue s h .both [(a, 2)] noHandles fun s x => s.jump x x.T fun G l => G.reg64 l a

/-- CALL (R51, R53). -/
def execCall (h : Hdr) (disp : Word) (s : State) : Host.Outcome State Fault Refusal :=
  issue s h .both [] noHandles fun s x =>
    (lanesOf x.T).foldl (fun s l => s.callLane x l (relTarget x.pc disp)) s

/-- CALLX (R51, R53, R139): the targets are read before the pushes. -/
def execCallx (h : Hdr) (a : Reg) (s : State) : Host.Outcome State Fault Refusal :=
  issue s h .both [(a, 2)] noHandles fun s x =>
    let target := fun l => match s.group? x.g with
      | some G => G.reg64 l a
      | none => 0
    (lanesOf x.T).foldl (fun s l => s.callLane x l (target l)) s

/-- RET (R51, R53, R55). -/
def execRet (h : Hdr) (s : State) : Host.Outcome State Fault Refusal :=
  issue s h .both [] noHandles fun s x => (lanesOf x.T).foldl (fun s l => s.retLane x l) s

/-- A rejoin register is set (R136): lanes that had arrived at the old record go on first. -/
def Group.rvset (G : Group) (now : Nat) (j : JReg) (m : Word) (target : DWord) : Group :=
  let r := G.rj.getD j.val {}
  let G := if r.valid && r.arrived != 0 then
      (G.updLanes r.arrived fun _ L => { L.wakeUp now with pc := r.target + 12 }).joinSet r.arrived
    else G
  let mask := (m ||| G.helpers) &&& G.live
  { G with rj := G.rj.set j.val { valid := mask != 0, mask, target, arrived := 0 } }

/-- RVSET (R136). -/
def execRvset (h : Hdr) (j : JReg) (sa : SReg) (disp : Word) (s : State) : Host.Outcome State Fault Refusal :=
  issue s h .both [(.s sa, 1)] noHandles fun s x =>
    if x.T = 0 then s
    else s.updGroup x.g fun G => G.rvset (s.now x.g) j (G.sreg sa.val) (relTarget x.pc disp)

/-- Lanes arrive at a rejoin register (R137): those that the record names at this address wait. -/
def Group.rvwait (G : Group) (x : At) (now : Nat) (j : JReg) : Group :=
  let r := G.rj.getD j.val {}
  if r.valid && r.target == x.pc then
    let m := x.T &&& r.mask
    let G := G.updLanes m fun _ L => { L with pc := x.pc, wait := .rejoin j }
    { G with rj := G.rj.set j.val { r with arrived := r.arrived ||| m } }.rejoinCheck now j.val
  else G

/-- RVWAIT (R137). -/
def execRvwait (h : Hdr) (j : JReg) (s : State) : Host.Outcome State Fault Refusal :=
  issue s h .both [] noHandles fun s x => s.updGroup x.g fun G => G.rvwait x (s.now x.g) j

/-- EXIT (R52, R23): a switch marker after which the threads end; a method fault on a quay (R203). -/
def execExit (h : Hdr) (s : State) : Host.Outcome State Fault Refusal :=
  issue s h .both [] noHandles fun s x =>
    if x.T = 0 then s
    else if isWave x.g then s.methodFault x.g 8 0
    else
      let s := s.jump x x.T fun _ _ => x.pc
      s.park x.g x.T fun _ => .exit

/-- YIELD (R51, R122): the lanes are ordered behind the others of their group for one selection. -/
def execYield (h : Hdr) (s : State) : Host.Outcome State Fault Refusal :=
  issue s h .both [] noHandles fun s x => s.updGroup x.g fun G => G.updLanes x.B fun l L => { L with yielded := L.yielded || inMask x.T l }

/-- TRAP (R52, R290): a software trap that resumes at pc + 12; helper lanes take none (R98), and a method faults (R203). -/
def execTrap (h : Hdr) (code : BitVec 16) (s : State) : Host.Outcome State Fault Refusal :=
  issue s h .both [] noHandles fun s x =>
    if isWave x.g then (if x.T = 0 then s else s.methodFault x.g 7 code.toNat)
    else if x.N = 0 then s
    else
      let s := s.updGroup x.g fun G => (G.updLanes x.N fun _ L => { L with pc := x.pc }).joinSet x.N
      s.park x.g x.N fun _ =>
        .trap { cause := .swtrap, info := code.setWidth 32, resume := x.pc + 12, fpc := x.pc, mask := x.N }

/-- A group halts for the debugger (R350): its halt joins DBGEVT. -/
def State.haltGroup (s : State) (g : Nat) (r : Rec) : State :=
  match s.group? g with
  | none => s
  | some G =>
    let s := s.updGroup g fun G => { G with halted := true, stepping := 0, haltRec := some r }
    { s with dev := { s.dev with halts := s.dev.halts ++ [{ ctx := G.ctx, g, team := G.team, gi := G.idx, r }] } }

/-- BKPT (R52, R350): halts the group where a debug token enables breakpoints for the context; else a NOP. -/
def execBkpt (h : Hdr) (code : BitVec 16) (s : State) : Host.Outcome State Fault Refusal :=
  issue s h .both [] noHandles fun s x =>
    match s.group? x.g with
    | none => s
    | some G =>
      match AMap.get? s.contexts G.ctx with
      | some c =>
        if c.debug && x.N != 0 && !isWave x.g then
          s.haltGroup x.g { cause := .brk, info := code.setWidth 32, resume := x.pc + 12, fpc := x.pc, mask := x.N }
        else s
      | none => s

end Sys2Proof.Machine
end

