-- ==== Sys2Proof/Machine/Preempt.lean ====
section
/-! DEFINITION. Pre-emption: units, save records, the save and the resume of a unit (R306 to R321, R329). -/

namespace Sys2Proof.Machine

/-! ### Parts of a save record (R314 to R318) -/

/-- A length rounded up to 4,096. -/
def round4k (n : Nat) : Nat := cdiv n 4096 * 4096

/-- A part of a convergence register, or nothing. -/
def partBytes : Option Part → List Byte
  | some p => fixLen 16 (leBytes 10 p.img.word.toNat ++ leBytes 1 (p.gi + 128))
  | none => List.replicate 16 0

/-- A convergence register with `n` parts in `len` bytes. -/
def Conv.bytes (c : Conv) (n len : Nat) : List Byte :=
  fixLen len (leBytes 2 c.exp ++ leBytes 2 c.cnt ++ leBytes 4 c.gen.toNat ++ (List.range n).flatMap fun t => partBytes (AMap.get? c.parts t))

def Barrier.bytes (b : Barrier) : List Byte := leBytes 4 b.phase.toNat ++ leBytes 2 b.arr ++ leBytes 2 0 ++ leBytes 8 b.bal.toNat

def Tile.bytes (t : Tile) : List Byte :=
  let st := match t.st with
    | .empty => 0
    | .filling => 1
    | .ready => 2
    | .draining => 3
  leBytes 4 (t.base + st * 2 ^ 28 + b2n t.defined * 2 ^ 31) ++ leBytes 4 t.size ++ leBytes 4 t.exp ++ leBytes 4 t.arr

/-- WTEAM or RTEAM. -/
def teamByte : Option Nat → Nat
  | some i => i + 128
  | none => 0

def Pipe.bytes (p : Pipe) : List Byte :=
  fixLen 16 (leBytes 4 p.head.toNat ++ leBytes 4 p.tail.toNat ++ leBytes 1 (teamByte p.wteam) ++ leBytes 1 (teamByte p.rteam))

/-- The event matrix. -/
def Share.eventBytes (h : Share) : List Byte := (h.routes.flatMap fun r => leBytes 2 r.toNat) ++ h.counts.flatMap (leBytes 2)

/-- A slot-queue operation: the part of one team. -/
def MmaOp.bytes (o : MmaOp) (t : Nat) : List Byte :=
  let p := (o.parts.find? fun p => p.team == t).or o.parts.head?
  match p with
  | some p => fixLen 32 (leBytes 10 p.img.word.toNat ++ leBytes 1 p.gi ++ leBytes 1 o.conv)
  | none => List.replicate 32 0

def tensorRec : Option TensorId → List Byte
  | some t => t.record
  | none => List.replicate 64 0

/-- A journal entry: QUEUED or STOPPED. -/
def Copy.bytes (c : Copy) (rank : Nat) : List Byte :=
  fixLen 384 (leBytes 1 (if c.st = .stopped then 3 else 1) ++ leBytes 1 c.gi ++ leBytes 2 0 ++ leBytes 4 rank ++ leBytes 8 c.prog ++
    leBytes 8 c.pkr.toNat ++ leBytes 8 0 ++ fixLen 96 (wordsBytes c.words) ++ tensorRec c.src ++ tensorRec c.idx ++ tensorRec c.dst)

def Gate.bytes (c : Gate) (rank : Nat) : List Byte :=
  fixLen 320 (leBytes 1 c.gi ++ leBytes 3 0 ++ leBytes 4 rank ++ leBytes 8 c.pkr.toNat ++ fixLen 32 (wordsBytes c.words) ++
    (List.range 4).flatMap fun i => tensorRec (c.tens.getD i none))

def Berth.fields (b : Berth) : List Byte :=
  let o := match b.owner with
    | some g => g + 128
    | none => 0
  let st := if b.pending > 0 then 1 else if b.done then 2 else 0
  fixLen 16 (leBytes 1 o ++ leBytes 1 0 ++ leBytes 2 b.pending ++ leBytes 1 st ++ leBytes 1 b.lstat ++ leBytes 1 b.chunk)

def Berth.data (b : Berth) : List Byte := wordsBytes ((List.range 16384).map fun i => AMap.getD b.words i 0)

/-! ### Group records (R316, R317) -/

/-- Where a lane continues: MWAIT, a waiting EMITW and a waiting TFREE are executed again (R308). -/
def Lane.savedPc (L : Lane) : DWord := match L.wait with
  | .mwait _ _ _ _ | .record | .tfree _ => L.pc - 12
  | _ => L.pc

/-- The instruction whose access of a lane waits for service at its marker. -/
def Group.faultPc (G : Group) (l : Nat) : Option DWord :=
  G.pend.findSome? fun (p : Pend) => match AMap.get? p.lanes l with
    | some (.faulted _) => some p.pc
    | _ => none

/-- WAITK, WAIT and FPC. -/
def Group.waitFields (G : Group) (l : Nat) : Nat × Word × DWord :=
  let L := G.lane l
  match L.wait with
  | .token _ t => (1, t, 0)
  | .signw _ gen _ => (2, gen, 0)
  | .rejoin _ => (3, 0, 0)
  | .fault _ _ _ _ => (5, 0, L.pc)
  | _ => match G.faultPc l with
    | some pc => (5, 0, pc)
    | none => (0, 0, 0)

/-- The joined set of a lane, named by its lowest lane. -/
def Group.setOf (G : Group) (l : Nat) : Nat :=
  ((List.range 32).find? fun k => (G.lane k).live && (G.lane k).jset == (G.lane l).jset).getD 0

/-- A lane record. -/
def Group.laneBytes (G : Group) (l : Nat) : List Byte :=
  let L := G.lane l
  if !L.live then List.replicate 80 0
  else
    let (k, w, f) := G.waitFields l
    let (rv, valid) := match L.traps with
      | t :: _ => (t.rv, t.rvValid.toNat)
      | [] => ([], 0)
    let st := 2 ^ 31 + b2n L.helper * 2 ^ 30 + L.rs.length * 2 ^ 27 + L.traps.length * 2 ^ 24 + valid * 2 ^ 20 + k * 2 ^ 16 +
      G.setOf l * 2 ^ 8 + (L.p &&& 0xFE).toNat
    leBytes 8 L.savedPc.toNat ++ leBytes 8 L.spt.toNat ++ fixLen 32 (L.rs.flatMap fun r => leBytes 8 r.toNat) ++ leBytes 4 st ++
      leBytes 4 w.toNat ++ leBytes 8 f.toNat ++ fixLen 16 (wordsBytes rv)

/-- The value of one lane of a pending entry. -/
def Pend.laneVal (p : Pend) (l : Nat) : Option (List Word) := match AMap.get? p.lanes l with
  | some (.back ws) => some ws
  | _ => none

/-- A pending entry. -/
def Pend.bytes (p : Pend) (rank : Nat) : List Byte :=
  leBytes 4 p.dest.word.toNat ++ leBytes 4 rank ++ leBytes 4 (maskOf fun l => (p.laneVal l).isSome).toNat ++ leBytes 4 0 ++
    leBytes 16 p.disc.toNat ++ (List.range 32).flatMap fun l => fixLen 16 (wordsBytes ((p.laneVal l).getD []))

/-- A queue register: the number of words, and the words. -/
def queueBytes (len : Nat) (ws : List Word) : List Byte := fixLen len (leBytes 4 ws.length ++ wordsBytes ws)

def Rejoin.bytes (r : Rejoin) : List Byte :=
  leBytes 4 r.mask.toNat ++ leBytes 4 r.arrived.toNat ++ leBytes 8 r.target.toNat ++ leBytes 8 (b2n r.valid)

/-- Some lane of the group waits in one way. -/
def Group.anyWait (G : Group) (f : Wait → Bool) : Bool := G.lanes.any fun L => L.live && f L.wait

/-- GFLAGS. -/
def Group.flags (G : Group) : Nat :=
  b2n (G.anyWait fun w => match w with
    | .park _ _ => true
    | _ => false) + 2 * b2n (G.anyWait (· == .submit 0)) + 4 * b2n (G.anyWait (· == .submit 2))

/-- A group record, with the records that are due at a park in front of the others. -/
def Group.bytes (G : Group) : List Byte :=
  let recs := G.recs.take 8
  wordsBytes ((List.range 64).map G.sreg) ++ leBytes 8 G.pkr.toNat ++ leBytes 4 G.flags ++ leBytes 4 (min 32 G.pend.length) ++
    leBytes 4 recs.length ++ leBytes 12 0 ++ G.rj.flatMap Rejoin.bytes ++ leBytes 32 0 ++ queueBytes 128 G.q0 ++ queueBytes 320 G.q1 ++
    queueBytes 64 G.q2 ++ queueBytes 128 G.q3 ++ fixLen 512 (recs.flatMap fun r => r.head 0 0) ++
    (List.range 32).flatMap G.laneBytes ++ fixLen 17408 ((G.pend.take 32).zipIdx.flatMap fun e => e.1.bytes e.2) ++
    wordsBytes ((List.range G.regs).flatMap fun n => (List.range 32).map fun l => (G.lane l).vreg n)

/-- GR of R315. -/
def groupRoom (regs : Nat) : Nat := round4k (0x5480 + 128 * regs)

/-! ### Team sections and the whole record (R314, R315) -/

/-- A section carries the scratchpad and what is shared: in a gang only the loader's does. -/
def carries (u : CUnit) (T : Team) : Bool := u.kind != .gang || T.idx == 0

/-- SC of R315. -/
def sectionScratch (u : CUnit) (T : Team) : Nat := if carries u T then round4k T.desc.scratch else 0

/-- The bytes of a team section (R329). -/
def sectionSize (u : CUnit) (T : Team) : Nat :=
  0x9000 + sectionScratch u T + 65536 * T.desc.berths + groupRoom T.desc.regs * T.groups.length

/-- The saved groups of a team. -/
def SavedUnit.group (U : SavedUnit) (t gi : Nat) : Option Group :=
  (U.groups.find? fun e => e.1 == t && e.2.1 == gi).map fun e => e.2.2

/-- Entries of one team, in order. -/
def SavedUnit.copiesOf (U : SavedUnit) (t : Nat) : List Copy := U.copies.filter fun c => c.team == t
def SavedUnit.gatesOf (U : SavedUnit) (t : Nat) : List Gate := U.gates.filter fun c => c.team == t
def SavedUnit.slotOf (U : SavedUnit) (t : Nat) : Slot := ((U.slots.find? fun e => e.1 == t).map (·.2)).getD {}
def Slot.ops (x : Slot) : List MmaOp := x.queue ++ x.closed

/-- The team header (R315). -/
def SavedUnit.header (U : SavedUnit) (t : Nat) (T : Team) : List Byte :=
  let ops := (U.slotOf t).ops
  let part := match ops with
    | o :: _ => o.part
    | [] => 0
  let fin := (T.fin.zipIdx.map fun e => b2n e.1 * 2 ^ e.2).sum
  fixLen 1024 (leBytes 8 T.desc.addr.toNat ++ leBytes 2 T.groups.length ++ leBytes 2 T.desc.regs ++ leBytes 4 T.desc.scratch ++
    leBytes 1 T.desc.berths ++ leBytes 1 (b2n T.slot.isSome + 2 * b2n (T.fin.all id) + 4 * T.idx) ++ leBytes 1 (U.copiesOf t).length ++
    leBytes 1 (U.gatesOf t).length ++ leBytes 1 (min 8 ops.length) ++ leBytes 1 part ++ leBytes 2 fin)

/-- A team section. -/
def SavedUnit.sect (U : SavedUnit) (t : Nat) (T : Team) : List Byte :=
  let h : Share := if carries U.unit T then ((U.shares.find? fun e => e.1 == T.share).map (·.2)).getD {}
    else { tiles := [], bars := [], pipes := [], routes := [], counts := [] }
  let fixed := fixLen 0x9000 (U.header t T ++ fixLen 1024 (h.tiles.flatMap Tile.bytes) ++ fixLen 256 (h.bars.flatMap Barrier.bytes) ++
    fixLen 256 (h.pipes.flatMap Pipe.bytes) ++ fixLen 256 (T.conv.flatMap fun c => c.bytes 1 32) ++
    fixLen 256 (((U.slotOf t).ops.take 8).flatMap fun o => o.bytes t) ++ fixLen 1024 h.eventBytes ++
    fixLen 24576 ((U.copiesOf t).zipIdx.flatMap fun e => e.1.bytes e.2) ++
    fixLen 5120 ((U.gatesOf t).zipIdx.flatMap fun e => e.1.bytes e.2) ++ T.berths.flatMap Berth.fields)
  let groups := (List.range T.groups.length).flatMap fun gi => match U.group t gi with
    | some G => fixLen (groupRoom T.desc.regs) G.bytes
    | none => List.replicate (groupRoom T.desc.regs) 0
  fixed ++ h.bytes 0 (sectionScratch U.unit T) ++ T.berths.flatMap Berth.data ++ groups

/-- The sections with their offsets. -/
def sections (u : CUnit) : Nat → List (Nat × Team) → List (Nat × Nat × Team)
  | _, [] => []
  | off, (t, T) :: ts => (off, t, T) :: sections u (off + sectionSize u T) ts

/-- SIZE of a record. -/
def unitSize (u : CUnit) (ts : List (Nat × Team)) : Nat := 0x1000 + (ts.map fun e => sectionSize u e.2).sum

/-- The record with a STATE (R314). -/
def SavedUnit.bytes (U : SavedUnit) (key state : Nat) : List Byte :=
  let u := U.unit
  let kind := match u.kind with
    | .cluster => 0
    | .gang => 1
    | .node => 2
  let T0 := U.teams.head?.map (·.2)
  let karg := (T0.map Team.karg).getD 0
  let core := (T0.map Team.core).getD 0
  let offs := (sections u 0x1000 U.teams).flatMap fun e => leBytes 8 e.1
  let head := leBytes 4 1 ++ leBytes 4 state ++ leBytes 8 (unitSize u U.teams) ++ leBytes 2 u.ctx ++ leBytes 1 kind ++
    leBytes 1 U.teams.length ++ leBytes 4 u.clIdx ++ leBytes 4 u.clCount ++ leBytes 4 0 ++ leBytes 8 karg.toNat ++ leBytes 8 key ++
    leBytes 2 core ++ leBytes 14 0 ++ fixLen 32 offs ++ leBytes 160 0 ++ u.conv.flatMap (fun c => c.bytes 4 96) ++
    u.bars.flatMap Barrier.bytes
  fixLen 0x1000 head ++ U.teams.flatMap fun e => U.sect e.1 e.2

/-! ### Requests (R306, R329) -/

/-- The teams of a unit that a save carries: in a cluster those that have not retired. -/
def State.teamsOf (s : State) (u : CUnit) : List (Nat × Team) :=
  u.teams.filterMap fun t => match s.team? t with
    | some T => if u.kind != .gang && T.retired then none else some (t, T)
    | none => none

/-- SAVEPA of R306 for a record of `n` bytes. -/
def savePaOk (pa n : Nat) : Bool := pa % 4096 == 0 && inDevice pa n

/-- A unit that can be asked to save: some team has not retired, and it is not saving. One that is resuming is saved once that is over
(R321). -/
def State.savable (s : State) (u : CUnit) : Bool := u.save.isNone && (s.teamsOf u).any fun e => !e.2.retired

/-- The saved units whose resume has begun and that have still to be placed, as they can be asked to save (R319, R321). -/
def State.returning (s : State) : List (Nat × CUnit) :=
  s.saved.filterMap fun e =>
    if e.2.resume.isSome && (AMap.get? s.units e.1).isNone && e.2.unit.save.isNone then some (e.1, e.2.unit) else none

/-- The teams that a save of a unit would carry; of one that has still to be placed, those that it has been saved with. -/
def State.unitTeams (s : State) (e : Nat × CUnit) : List (Nat × Team) :=
  if (AMap.get? s.units e.1).isSome then s.teamsOf e.2 else ((AMap.get? s.saved e.1).map SavedUnit.teams).getD []

/-- The order of R329: the global core of team 0, then its lowest group slot; of a unit that has still to be placed, those that it was
saved with. -/
def State.unitOrder (s : State) (e : Nat × CUnit) : Nat :=
  match (s.team? (e.2.teams.getD 0 0)).or ((s.unitTeams e).head?.map (·.2)) with
  | some T => T.core * 64 + (T.groups.foldl (fun m g => min m (if g = noSlot then 63 else slotOf g)) 63)
  | none => 0

/-- Units in that order. -/
def insertUnit (s : State) (x : Nat × CUnit) : List (Nat × CUnit) → List (Nat × CUnit)
  | [] => [x]
  | y :: ys => if s.unitOrder x < s.unitOrder y then x :: y :: ys else y :: insertUnit s x ys

/-- A unit is asked to save its record at an address. -/
def State.askSave (s : State) (k pa : Nat) : State :=
  if (AMap.get? s.units k).isSome then s.updUnit k fun u => { u with save := some pa }
  else { s with saved := AMap.upd s.saved k fun U => { U with unit := { U.unit with save := some pa } } }

/-- A unit has been asked to save and is not saved yet. -/
def State.asked (s : State) (k : Nat) : Bool :=
  match AMap.get? s.units k, AMap.get? s.saved k with
  | some u, _ => u.save.isSome
  | none, some U => U.unit.save.isSome
  | none, none => false

/-- The units that a selector names; `none` if it names no group of the context. -/
def State.selectUnits (s : State) (ctx : Nat) (sel : DWord) : Option (List (Nat × CUnit)) :=
  if sel = 0xFFFFFFFFFFFFFFFF then
    some (((s.units.filter fun e => s.savable e.2) ++ s.returning).filter (fun e => e.2.ctx == ctx) |>.foldr (insertUnit s) [])
  else
    match s.group? (bitsAt sel 0 9 * 64 + bitsAt sel 9 6) with
    | none => none
    | some G =>
      if bitsAt sel 15 49 != 0 || G.ctx != ctx || 384 ≤ bitsAt sel 0 9 then none
      else match (s.team? G.team).bind fun T => (AMap.get? s.units T.unit).map fun u => (T.unit, u) with
        | some e => some (if s.savable e.2 then [e] else [])
        | none => none

/-- Two ranges of addresses share a byte. -/
def rangesMeet (a b : Nat × Nat) : Bool := decide (a.1 < b.1 + b.2) && decide (b.1 < a.1 + a.2)

/-- No two ranges of a list share a byte. -/
def apart : List (Nat × Nat) → Bool
  | [] => true
  | a :: l => !(l.any (rangesMeet a)) && apart l

/-- The assignment of R329: each unit's record; `none` for NORES. -/
def State.assign (s : State) (us : List (Nat × CUnit)) (list n : Nat) : Option (List (Nat × Nat)) :=
  let as := us.zipIdx.map fun e =>
    (e.1.1, leNat (s.bytes (list + 16 * e.2) 8), leNat (s.bytes (list + 16 * e.2 + 8) 8), unitSize e.1.2 (s.unitTeams e.1))
  if decide (us.length ≤ n) && (as.all fun a => decide (a.2.2.2 ≤ a.2.2.1) && savePaOk a.2.1 a.2.2.2) && apart (as.map fun a => (a.2.1, a.2.2.1))
  then some (as.map fun a => (a.1, a.2.1)) else none

/-- PREEMPT (R329): the selected units are asked to save; the command completes once each is saved or has retired. -/
def execPreempt (s : State) : Host.Outcome State Fault Refusal :=
  s |> mailbox 6 fun s =>
    match s.dev.selected with
    | some us =>
      if us.any s.asked then none
      else
        let n := (us.filter fun u => match AMap.get? s.saved u with
          | some U => U.resume.isNone
          | none => false).length
        some ((s.setDev fun v => { v with selected := none }).mbDone 0 (some (BitVec.ofNat 64 n)))
    | none =>
      let ctx := (s.arg 0).toNat
      let list := (s.arg 2).toNat
      let n := (s.arg 3).toNat
      if !s.hostMode 4 then some (s.mbDone 2 none)
      else if (AMap.get? s.contexts ctx).isNone || list % 16 != 0 || decide (n < 1) || decide (1024 < n) || !inLocal list (16 * n) then
        some (s.mbDone 1 none)
      else match s.selectUnits ctx (s.arg 1) with
        | none => some (s.mbDone 1 none)
        | some us =>
          match s.assign us list n with
          | none => some (s.mbDone 3 none)
          | some as =>
            let s := as.foldl (fun s a => s.askSave a.1 a.2) s
            some (s.setDev fun v => { v with selected := some (as.map (·.1)) })

/-! ### Saving (R308 to R313) -/

/-- A lane's wait lets its unit be saved (R308): accesses of the call stack, trap entries, releases and the data of a GATH are
waited for. -/
def Wait.savable : Wait → Bool
  | .park .go _ => true
  | .park _ _ | .held | .gath _ | .spilled _ | .result _ => false
  | .fault _ (.spill _) _ _ | .fault _ .refill _ _ | .fault _ (.frame _) _ _ | .fault _ .eret _ _ => false
  | _ => true

/-- Everything of a group has returned and drained (R309, R310). -/
def State.groupDrained (s : State) (g : Nat) : Bool :=
  match s.group? g with
  | none => true
  | some G =>
    (G.lanes.all fun L => !L.live || L.wait.savable) && !G.outstanding && G.held.isEmpty && !(s.lsq.any fun e => e.g == g)
      && !(s.issueQ.any fun b => b.g == g) && !(s.qreplies.any fun r => (r.req.who.map (·.1)) == some g)

/-- A team with nothing left but to retire. -/
def State.teamSettled (s : State) (u : CUnit) (t : Nat) (T : Team) : Bool :=
  if T.retired then true
  else T.started && !T.resuming && !(T.fin.all id && (u.kind != .gang || s.teamOver t T))

/-- Engine work of a team that a save waits for (R311): copies whose last payload write has been issued, or that are completing or
have a stamp to write, running gate commands, berth stores. -/
def State.engineWaits (s : State) (t core : Nat) : Bool :=
  ((s.core core).journal.any fun e => e.2.team == t && (e.2.st == .finishing ||
      (e.2.st == .active && (e.2.issued || e.2.prog == e.2.total)) || (e.2.st == .stopped && e.2.stampDue.isSome))) ||
  ((s.gateQ (tetradOf core)).any fun c => c.team == t && c.started) || s.bstores.any fun e => e.2.team == t

/-- The unit can be saved now. -/
def State.saveReady (s : State) (u : CUnit) : Bool :=
  u.resume.isNone && (s.teamsOf u).all fun e => s.teamSettled u e.1 e.2 && !s.engineWaits e.1 e.2.core && e.2.groups.all s.groupDrained

/-- The records that are due at parks of a group and have not been taken come back, and records on their way arrive; those beyond the
eighth go to the log (R312). -/
def State.settleRecs (s : State) (g : Nat) : State :=
  match s.group? g with
  | none => s
  | some G =>
    let rs := (G.duesOf 0xFFFFFFFF).map (·.2.1) ++ G.recs ++ (s.recsOut.filter fun e => e.1 == g).map fun e => e.2.2
    let s := (rs.drop 8).foldl (fun s r => s.logRecord G.ctx { r with async := true, mask := 0 }) s
    let s := { s with recsOut := s.recsOut.filter fun e => e.1 != g }
    s.updGroup g fun G => { G with
      recs := rs.take 8
      lanes := G.lanes.map fun L => { L with due := none, wait := match L.wait with
        | .park a _ => .park a none
        | w => w } }

/-- A copy in a save: one that has started is discarded, its credits withdrawn (R311). DESIGN CHOICE (log 27): the event that a WT copy took
at its start is neither given back nor remembered, so that its replay takes another. -/
def State.withdraw (s : State) (core j : Nat) : State :=
  match AMap.get? (s.core core).journal j with
  | none => s
  | some c =>
    if c.st != .active then s
    else match s.team? c.team with
      | none => s
      | some T =>
        let C := s.core core
        let s := s.setCore core { C with
          journal := AMap.put C.journal j { c with
            st := .queued, prog := 0, credited := 0, waiting := false, fromBuf := false, stamped := false, issued := false, issuedSeq := 0
            ahead := [], carry := none, index := [], rowNow := [], places := [], stopping := none } }
        let s := match c.dstTile with
          | some h => let x := s.tile T.share h; s.setTile T.share h { x with arr := cnt20 (x.arr + 2 ^ 20 - cnt20 c.credited) }
          | none => s
        match c.barrier with
        | some b => let x := s.barrier (barOf T b); s.setBarrier (barOf T b) { x with bal := x.bal + BitVec.ofNat 64 c.credited }
        | none => s

/-- Commands in submission order. -/
def insertCopy (c : Copy) : List Copy → List Copy
  | [] => [c]
  | d :: ds => if c.order < d.order then c :: d :: ds else d :: insertCopy c ds

/-- The operation of a unit that an array has in progress goes back to the front of its slot's queue, and one that waits for service is
eligible again (R260, R311). -/
def State.stopArray (s : State) (keys : List Nat) (a : Nat) : State :=
  let A := s.array a
  let mine := fun (x : Slot) => match x.team with
    | some t => keys.contains t
    | none => false
  let back := fun (i : Nat) (x : Slot) => match A.active with
    | some (j, o) => if i = j && mine x then { x with queue := o :: x.queue } else x
    | none => x
  s.setArray a (Arr.rest { A with
    slots := A.slots.mapIdx fun i x =>
      let x := back i x
      if mine x then { x with queue := x.queue.map fun o => { o with waiting := false } } else x
    active := match A.active with
      | some (j, o) => if mine (A.slots.getD j {}) then none else some (j, o)
      | none => none })

/-- A slot of a team. -/
def State.savedSlot (s : State) (T : Team) : Slot :=
  match T.slot with
  | none => {}
  | some i => (s.array (tetradOf T.core)).slots.getD i {}

/-- The image of a unit that is ready to be saved. -/
def State.capture (s : State) (u : CUnit) : SavedUnit :=
  let ts := s.teamsOf u
  let keys := ts.map (·.1)
  let cores := ts.foldl (fun cs e => setIns e.2.core cs) []
  { unit := { u with save := none, writing := false }, teams := ts
    groups := ts.flatMap fun e => e.2.groups.zipIdx.filterMap fun g =>
      if e.2.fin.getD g.2 false then none else (s.group? g.1).map fun G => (e.1, g.2, G)
    shares := (ts.foldl (fun ks e => setIns e.2.share ks) []).map fun k => (k, s.share k)
    copies := (cores.flatMap fun c => ((s.core c).journal.filter fun e => keys.contains e.2.team).map (·.2)).foldr insertCopy []
    gates := ((cores.map tetradOf).foldl (fun us x => setIns x us) []).flatMap fun x => (s.gateQ x).filter fun c => keys.contains c.team
    slots := ts.map fun e => (e.1, s.savedSlot e.2) }

/-- A waiter that belongs to a unit. -/
def State.ownWaiter (s : State) (keys gs : List Nat) : Waiter → Bool
  | .lane g _ | .pend g _ _ | .group g _ => gs.contains g
  | .copy core j => match AMap.get? (s.core core).journal j with
    | some c => keys.contains c.team
    | none => false
  | .mma a i => match ((s.array a).slots.getD i {}).team with
    | some t => keys.contains t
    | none => false
  | _ => false

/-- The unit leaves the machine: its slots, entries and units are freed (R312). Teams of a cluster that have retired stay as they are,
and a halt of one of its groups names the group in its record (R350). -/
def State.removeUnit (s : State) (k : Nat) (U : SavedUnit) : State :=
  let keys := U.unit.teams
  let gs := U.teams.flatMap fun e => e.2.groups
  let s := s.dropWaiters (s.ownWaiter keys gs)
  let shares := U.shares.map (·.1)
  let s : State := { s with
    groups := s.groups.filter fun e => !gs.contains e.1
    cores := s.cores.map fun e => (e.1, { e.2 with journal := e.2.journal.filter fun j => !keys.contains j.2.team })
    gates := s.gates.map fun e => (e.1, e.2.filter fun c => !keys.contains c.team)
    arrays := s.arrays.map fun (a : Nat × Arr) => (a.1, Arr.rest
      { a.2 with
        slots := a.2.slots.map fun (x : Slot) => match x.team with
          | some t => if keys.contains t then {} else x
          | none => x
        active := match a.2.active with
          | some (i, o) => if o.parts.any fun p => keys.contains p.team then none else some (i, o)
          | none => none })
    launches := s.launches.map fun e => (e.1,
      { e.2 with bins := e.2.bins.map fun b => { b with waiters := b.waiters.filter fun w => !gs.contains w.1 } })
    teams := s.teams.filter fun e => e.2.unit != k || !(U.teams.any fun t => t.1 == e.1)
    dev := { s.dev with halts := s.dev.halts.map fun h =>
      if h.saved.isNone && U.groups.any (fun e => e.1 == h.team && e.2.1 == h.gi) then { h with saved := some k } else h }
    shares := s.shares.filter fun e => !shares.contains e.1
    units := AMap.del s.units k }
  s.repartition (U.teams.map fun e => e.2.core)

/-- Step 4 of R312, for a unit with nothing left to wait for: the records that are due are gathered, the copies that have started are
discarded, the operations in progress go back to their slots, and no service of the unit is waited for any longer. -/
def State.stopUnit (s : State) (u : CUnit) : State :=
  let ts := s.teamsOf u
  let keys := ts.map (·.1)
  let gs := ts.flatMap fun e => e.2.groups
  let s := gs.foldl State.settleRecs s
  let s := ts.foldl (fun s e =>
    ((s.core e.2.core).journal.filter fun j => j.2.team == e.1).foldl (fun s j => s.withdraw e.2.core j.1) s) s
  let s := s.dropWaiters (s.ownWaiter keys gs)
  (ts.foldl (fun as e => setIns (tetradOf e.2.core) as) []).foldl (fun s a => s.stopArray keys a) s

/-- The record is written, its STATE last, and the unit removed. -/
def State.saveUnit (s : State) (k : Nat) (u : CUnit) (pa : Nat) : State :=
  let s := ((s.teamsOf u).flatMap fun e => e.2.groups).foldl State.settleRecs s
  let U := s.capture u
  let s := s.devWrite (span pa (U.bytes k 1))
  let s := s.devWrite (span (pa + 4) (leBytes 4 2))
  let s := s.removeUnit k U
  { s with saved := AMap.put s.saved k U }

/-- The save of a unit that is ready: its engine work is settled, and STATE = 1 is written; then the rest of the record (R312). -/
def State.saveStep (s : State) (k : Nat) (u : CUnit) (pa : Nat) : State :=
  if u.writing then s.saveUnit k u pa
  else ((s.stopUnit u).devWrite (span (pa + 4) (leBytes 4 1))).updUnit k fun u => { u with writing := true }

/-- Snido asks a unit to save, in hardware mode (R306, R321). -/
def State.snidoAsks (s : State) (k pa : Nat) : Option State :=
  match ((s.units.filter fun e => s.savable e.2) ++ s.returning).find? fun e => e.1 == k with
  | some e => if !s.hostMode 4 && savePaOk pa (unitSize e.2 (s.unitTeams e)) then some (s.askSave k pa) else none
  | none => none

/-- SAVE (R306, R312): in hardware mode Snido asks a unit to save; a unit that has been asked is saved once it is ready. -/
def execSave (k pa : Nat) (s : State) : Host.Outcome State Fault Refusal :=
  event s (match AMap.get? s.units k with
    | some u => match u.save with
      | some pa' => if s.saveReady u then some (s.saveStep k u pa') else none
      | none => s.snidoAsks k pa
    | none => s.snidoAsks k pa)

/-! ### Resuming (R319, R320) -/

/-- A byte of a record that software may rewrite (R320): s, v and p registers, pending values and the scratchpad. -/
def freeInGroup (regs i : Nat) : Bool :=
  decide (i < 0x100) || (decide (0x1080 ≤ i) && decide (i < 0x5480) && decide (0x20 ≤ (i - 0x1080) % 544)) ||
    (decide (0x5480 ≤ i) && decide (i < 0x5480 + 128 * regs))

/-- The byte of a lane record that holds p1 to p7. -/
def predByte (i : Nat) : Bool := decide (0x680 ≤ i) && decide (i < 0x1080) && (i - 0x680) % 80 == 0x30

/-- A byte of a section as it must be found: as saved, or free. -/
def freeInSection (u : CUnit) (T : Team) (i : Nat) (b : Byte) : Bool :=
  let sc := sectionScratch u T
  let g0 := 0x9000 + sc + 65536 * T.desc.berths
  let gi := (i - g0) % groupRoom T.desc.regs
  (decide (0x9000 ≤ i) && decide (i < 0x9000 + T.desc.scratch) && decide (0 < sc)) ||
    (decide (g0 ≤ i) && (freeInGroup T.desc.regs gi || (predByte gi && !b.getLsbD 0)))

/-- The record is as it was saved, but for what software may rewrite and for STATE. -/
def SavedUnit.intact (U : SavedUnit) (key : Nat) (bs : List Byte) : Bool :=
  let secs := sections U.unit 0x1000 U.teams
  (bs.zip (U.bytes key 2)).zipIdx.all fun e =>
    e.1.1 == e.1.2 || (decide (4 ≤ e.2) && decide (e.2 < 8)) ||
      secs.any fun x => decide (x.1 ≤ e.2) && decide (e.2 < x.1 + sectionSize U.unit x.2.2) && freeInSection U.unit x.2.2 (e.2 - x.1) e.1.1

/-- A 32-bit word of the record. -/
def wordAt (bs : List Byte) (i : Nat) : Word := leWord ((bs.drop i).take 4)

/-- The registers, predicates and pending values of a group as its record now holds them. -/
def Group.reread (G : Group) (bs : List Byte) : Group :=
  let G := G.setSs 0 (leWords 64 (bs.take 256))
  { G with
    lanes := G.lanes.zipIdx.map fun e =>
      if !e.1.live then e.1
      else
        let L := e.1.setVs 0 ((List.range G.regs).map fun n => wordAt bs (0x5480 + 128 * n + 4 * e.2))
        { L with p := (bs.getD (0x680 + 80 * e.2 + 0x30) 0) &&& 0xFE }
    pend := G.pend.zipIdx.map fun e => { e.1 with lanes := e.1.lanes.map fun x => (x.1, match x.2 with
      | .back ws => if e.2 < 32 then .back ((List.range ws.length).map fun w => wordAt bs (0x1080 + 544 * e.2 + 0x20 + 16 * x.1 + 4 * w))
          else x.2
      | y => y) } }

/-- What a lane does when its unit comes back (R308): an access that waited for service, and a PUTS that waits for other lanes' service, are
made again as they were issued (R300, R303); other waits without an effect taken are executed again. -/
def Lane.back (L : Lane) (now : Nat) : Lane :=
  let again := match L.wait with
    | .again (.puts _ _ _ _) => false
    | .mwait _ _ _ _ | .record | .tfree _ | .again _ => true
    | _ => false
  { L with
    pc := L.savedPc
    wait := if again then .none else L.wait
    marker := L.marker && !again
    monitor := none, cychi := 0, delayed := 0, since := now, yielded := false }

/-- A group as it enters the pending set again (R319). -/
def Group.back (G : Group) (now : Nat) : Group :=
  { G with
    lanes := G.lanes.map fun L => L.back now
    active := false, age := 0, entered := 0, fallback := none, run := none }

/-- Loads that waited for service are performed again (R300, R319); the lane of an LDLU32 makes its own access again. -/
def Group.reopen (G : Group) : Group :=
  let own := fun (l q : Nat) => match (G.lane l).wait with
    | .fault _ (.ldlu q' _) _ _ => q' == q
    | _ => false
  { G with pend := G.pend.map fun p => { p with lanes := p.lanes.map fun x => (x.1, match x.2 with
      | .faulted va => if own x.1 p.seq then .faulted va else .waiting va
      | y => y) } }

/-- The bytes of a saved group's record within the whole record. -/
def SavedUnit.groupBytes (U : SavedUnit) (bs : List Byte) (t gi : Nat) : List Byte :=
  match (sections U.unit 0x1000 U.teams).find? fun x => x.2.1 == t with
  | some (off, _, T) =>
    (bs.drop (off + 0x9000 + sectionScratch U.unit T + 65536 * T.desc.berths + groupRoom T.desc.regs * gi)).take (groupRoom T.desc.regs)
  | none => []

/-- What a saved team needs on its core: its unfinished groups. -/
def SavedUnit.need (U : SavedUnit) (e : Nat × Team) : Need :=
  if e.2.retired then {} else e.2.desc.need (U.groups.filter fun g => g.1 == e.1).length

/-- A saved unit fits on some cores (R111, R112, R265). -/
def State.fitsBack (s : State) (U : SavedUnit) (cores : List Nat) : Bool :=
  match U.unit.kind, cores with
  | .cluster, c :: _ =>
    cores.length == U.teams.length && distinct cores && (cores.zip U.teams).all fun e => tetradOf e.1 == tetradOf c && s.fitsOn e.1 (U.need e.2)
  | _, [c] =>
    let n := U.teams.foldl (fun (n : Need) e => n.add (U.need e)) {}
    s.fitsOn c { n with sp := (U.teams.head?.map fun e => cdiv e.2.desc.scratch 16384).getD 0 }
  | _, _ => false

/-- One team comes back on a core; its groups take free slots. -/
def State.teamBack (s : State) (U : SavedUnit) (bs : List Byte) (t : Nat) (T : Team) (core : Nat) : State :=
  let gs := (List.range T.groups.length).filterMap fun gi => (U.group t gi).map fun G => (gi, G)
  let slots := s.freeSlots core gs.length
  let keys := (List.range T.groups.length).map fun gi => match gs.findIdx? fun e => e.1 == gi with
    | some i => slots.getD i noSlot
    | none => noSlot
  let now := (s.core core).cycles
  let s := { s with teams := AMap.put s.teams t { T with core, groups := keys, slot := none, resuming := !T.retired } }
  (gs.zip slots).foldl (fun (s : State) e =>
    { s with groups := AMap.put s.groups e.2 ((e.1.2.reread (U.groupBytes bs t e.1.1)).back now) }) s

/-- The new key of a group. -/
def State.keyNow (s : State) (t gi : Nat) : Nat := match s.team? t with
  | some T => T.groups.getD gi noSlot
  | none => noSlot

def State.partBack (s : State) (c : Conv) : Conv :=
  { c with parts := c.parts.map fun p => (p.1, { p.2 with g := s.keyNow p.2.team p.2.gi }) }

def State.opBack (s : State) (o : MmaOp) : MmaOp :=
  { o with parts := o.parts.map fun p => { p with g := s.keyNow p.team p.gi } }

/-- The scratchpad as the record holds it. -/
def SavedUnit.shareBack (U : SavedUnit) (bs : List Byte) (e : Nat × Share) : Share :=
  match (sections U.unit 0x1000 U.teams).find? fun x => x.2.2.share == e.1 && carries U.unit x.2.2 with
  | some (off, _, T) => { e.2 with scratch := [] }.setBytes 0 ((bs.drop (off + 0x9000)).take T.desc.scratch)
  | none => e.2

/-- The unit is placed and loaded (steps 2 to 4 of R319); its halts name the groups in their new slots (R350). -/
def State.placeBack (s : State) (k : Nat) (U : SavedUnit) (bs : List Byte) (cores : List Nat) (pa : Nat) : State :=
  let s := s.bump.reload U.unit.ctx
  let s := U.shares.foldl (fun (s : State) e => { s with shares := AMap.put s.shares e.1 (U.shareBack bs e) }) s
  let s := U.teams.zipIdx.foldl (fun (s : State) e =>
    s.teamBack U bs e.1.1 e.1.2 (if U.unit.kind = .cluster then cores.getD e.2 0 else cores.getD 0 0)) s
  let s := { s with units := AMap.put s.units k { U.unit with conv := U.unit.conv.map s.partBack, resume := some pa } }
  let s := U.teams.foldl (fun (s : State) e => s.updTeam e.1 fun T => { T with conv := T.conv.map s.partBack }) s
  let home := fun (h : HaltEvt) => if h.saved == some k then { h with g := s.keyNow h.team h.gi, saved := none } else h
  let s := s.setDev fun v => { v with halts := v.halts.map home }
  let s := s.repartition (U.teams.map fun e => ((s.team? e.1).map Team.core).getD 0)
  U.teams.foldl (fun s e => if e.2.retired then s else s.buildExtents e.1) s

/-- The free reservation slots of an array. -/
def Arr.free (a : Arr) : List Nat := (List.range 4).filter fun i => (a.slots.getD i {}).team.isNone

/-- The free entries of a journal. -/
def Core.freeEntries (C : Core) : List Nat := (List.range 64).filter fun j => (AMap.get? C.journal j).isNone

/-- A team takes its slot again, with its operations in saved order. -/
def State.slotBack (s : State) (U : SavedUnit) (t : Nat) : Option State :=
  match s.team? t with
  | none => none
  | some T =>
    let a := s.array (tetradOf T.core)
    match a.free with
    | [] => none
    | i :: _ =>
      let x := U.slotOf t
      let x : Slot := { team := some t, closed := x.closed.map s.opBack, queue := x.queue.map s.opBack }
      some ((s.setArray (tetradOf T.core) { a with slots := a.slots.set i x }).updTeam t fun T => { T with slot := some i })

/-- A command enters the journal of its team's new core, in the lowest FREE entry, ahead of every command that follows. -/
def State.copyBack (s : State) (c : Copy) : Option State :=
  match s.team? c.team with
  | none => none
  | some T =>
    let s := s.bump
    let C := s.core T.core
    match C.freeEntries with
    | j :: _ => some (s.setCore T.core { C with journal := AMap.put C.journal j { c with g := s.keyNow c.team c.gi, order := s.seq } })
    | [] => none

def State.gateBack (s : State) (c : Gate) : State :=
  match s.team? c.team with
  | none => s
  | some T => s.setGate (tetradOf T.core) (s.gateQ (tetradOf T.core) ++ [{ c with g := s.keyNow c.team c.gi }])

/-- A group's lanes whose final QPUSH waits on a queue register. -/
def Group.submitLanes (G : Group) (q : Nat) : Word := maskOf fun l => (G.lane l).live && (G.lane l).wait == .submit q

/-- A command of a group that was saved with SUBMIT0 or SUBMIT2, of those among the groups `gs` (step 9 of R319). -/
def State.heldSubmit (s : State) (gs : List Nat) : Option (Nat × Nat × Word) :=
  gs.findSome? fun g => (s.group? g).bind fun G =>
    [0, 2].findSome? fun q => if G.submitLanes q = 0 then none else some (g, q, G.submitLanes q)

/-- Step 8 of R319: an acquire for every group of a unit. -/
def State.acquireUnit (s : State) (U : SavedUnit) : State :=
  U.teams.foldl (fun (s : State) e => s.acquire (((s.team? e.1).map Team.core).getD 0)) s

/-- Step 10 of R319 for a group: its loads in service are performed again; with PARK = 1 its entries commit first and its parks end, but in
the lanes whose accesses are performed again (R309). -/
def State.groupReturns (s : State) (g : Nat) : State :=
  match s.group? g with
  | none => s
  | some G =>
    if G.parked = 0 then s.updGroup g Group.reopen
    else
      let (G', acq) := G.commitAll 0 (G.exiting)
      let s := { s with groups := AMap.put s.groups g G'.reopen }
      (if acq then s.acquire (coreOf g) else s).settle g

/-- Steps 8, 10 and 11 of R319: the acquires, the groups' return, and STATE = 4; then the accesses that waited for service are made again. -/
def State.finishResume (s : State) (k : Nat) (U : SavedUnit) (pa : Nat) : State :=
  let gs := U.teams.flatMap fun e => ((s.team? e.1).map Team.groups).getD []
  let s := gs.foldl State.groupReturns (s.acquireUnit U)
  let s := U.teams.foldl (fun (s : State) e => s.updTeam e.1 fun T => { T with resuming := false }) s
  let s := s.updUnit k fun u => { u with resume := none }
  let s := s.devWrite (span (pa + 4) (leBytes 4 4))
  gs.foldl State.retry { s with saved := AMap.del s.saved k }

/-- What comes next in a resume that has begun (R319): the placement; the slots, each with its operations; the journal entries; the gate
commands; the commands that waited for acceptance, after the acquires; the end, and `true` says so. `none` while it has to wait. -/
def State.resumeStep (s : State) (k : Nat) (U : SavedUnit) (cores : List Nat) (pa : Nat) (bs : List Byte) : Option (State × Bool) :=
  let keep := fun (s : State) (f : SavedUnit → SavedUnit) => { s with saved := AMap.upd s.saved k f }
  let on := fun (s : State) => (s, false)
  if (AMap.get? s.units k).isNone then (if s.fitsBack U cores then some (on (s.placeBack k U bs cores pa)) else none)
  else match U.teams.find? fun e => e.2.slot.isSome && ((s.team? e.1).bind Team.slot).isNone with
    | some e => (s.slotBack U e.1).map on
    | none =>
      match U.copies, U.gates with
      | c :: cs, _ => (s.copyBack c).map fun s => on (keep s fun U => { U with copies := cs })
      | [], g :: gs => some (on (keep (s.gateBack g) fun U => { U with gates := gs }))
      | [], [] =>
        match s.heldSubmit (U.teams.flatMap fun e => ((s.team? e.1).map Team.groups).getD []) with
        | some (g, q, m) => ((s.acquireUnit U).submit g q).map fun s => on (s.wake g m)
        | none => some (s.finishResume k U pa, true)

/-- A resume that is asked for (R319, R320): its STATE becomes 3 and its record is read, and it has begun; else the status with which it
ends. -/
def State.beginResume (s : State) (pa : Nat) : State × (Nat ⊕ Nat) :=
  if !savePaOk pa 0x1000 || leNat (s.bytes (pa + 4) 4) != 2 then (s, .inr 1)
  else
    let size := leNat (s.bytes (pa + 8) 8)
    let key := leNat (s.bytes (pa + 0x28) 8)
    let s := s.devWrite (span (pa + 4) (leBytes 4 3))
    let bad := fun (ctx : Nat) => (if s.alive ctx then s.terminate ctx { cause := .badHandle } else s, (Sum.inr 2 : Nat ⊕ Nat))
    match AMap.get? s.saved key with
    | none => bad (leNat (s.bytes (pa + 0x10) 2))
    | some U =>
      if U.resume.isSome || size != unitSize U.unit U.teams || !inDevice pa size || (s.poisonIn pa size).isSome || !U.intact key (s.bytes pa size) then
        bad U.unit.ctx
      else ({ s with saved := AMap.upd s.saved key fun U => { U with resume := some (pa, s.bytes pa size) } }, .inl key)

/-- The host's RESUME (R319, R328). -/
def State.hostResume (s : State) (cores : List Nat) : Option State :=
  match s.dev.resuming with
  | some k =>
    let ended := fun (s : State) (st : Nat) => (s.setDev fun v => { v with resuming := none }).mbDone st none
    match AMap.get? s.saved k with
    | none => some (ended s 2)
    | some U => match U.resume with
      | none => some (ended s 2)
      | some (pa, bs) => (s.resumeStep k U cores pa bs).map fun r => if r.2 then ended r.1 0 else r.1
  | none =>
    if !s.hostMode 4 then some (s.mbDone 2 none)
    else match s.beginResume (s.arg 0).toNat with
      | (s, .inl k) => some (s.setDev fun v => { v with resuming := some k })
      | (s, .inr st) => some (s.mbDone st none)

/-- Snido's own resume of a record: one that it has begun goes on in whatever mode, and in hardware mode it begins one (R319, R332). -/
def State.snidoResume (s : State) (cores : List Nat) (pa : Nat) : Option State :=
  match s.saved.find? fun e => e.2.resume.map (·.1) == some pa && s.dev.resuming != some e.1 with
  | some (k, U) => (U.resume.bind fun r => s.resumeStep k U cores pa r.2).map (·.1)
  | none => if s.hostMode 4 then none else some (s.beginResume pa).1

/-- RESUME (R319, R328, R332): Snido's resume of the record at an address, if it goes on with one that it has begun or no host's command
is there; else the host's command. -/
def execResume (cores : List Nat) (pa : Nat) (s : State) : Host.Outcome State Fault Refusal :=
  event s <|
  if s.dev.mbbusy && s.dev.mbcmd == 7 && !(s.saved.any fun e => e.2.resume.map (·.1) == some pa && s.dev.resuming != some e.1) then
    (s.hostResume cores)
  else (s.snidoResume cores pa)

end Sys2Proof.Machine
end

