-- ==== Sys2Proof/Machine/Debug.lean ====
section
/-! DEFINITION. The debug window's commands (R350). -/

namespace Sys2Proof.Machine

/-- A debug command that is running acts. -/
def debug (code : Nat) (f : State → Option State) (s : State) : Host.Outcome State Fault Refusal :=
  event s (if s.dev.dbgbusy && s.dev.dbgcmd == code then f s else none)

/-- The command has completed: 0 OK, 1 BADARG, 2 DENIED. -/
def State.dbgDone (s : State) (status : Nat) : State := s.setDev fun v => { v with dbgbusy := false, dbgstatus := status }

/-- The target of the command, or the status that it completes with. -/
def State.dbgTarget (s : State) : Except Nat (Nat × Group) :=
  match AMap.get? s.contexts s.dev.dbgctx with
  | none => .error 2
  | some c =>
    if !c.debug then .error 2
    else
      let g := s.dev.dbgtgt % 512 * 64 + s.dev.dbgtgt / 512
      match s.group? g with
      | some G => if s.dev.dbgtgt % 512 < 384 && G.ctx == s.dev.dbgctx && G.wave.isNone then .ok (g, G) else .error 1
      | none => .error 1

/-- A debug command on its target. -/
def onTarget (code : Nat) (f : State → Nat → Group → Option State) (s : State) : Host.Outcome State Fault Refusal :=
  s |> debug code fun s =>
    match s.dbgTarget with
    | .error e => some (s.dbgDone e)
    | .ok (g, G) => f s g G

/-- HALT (R350): every lane stops at its next instruction boundary; a group that is halted stays so. -/
def execHalt (s : State) : Host.Outcome State Fault Refusal :=
  s |> onTarget 1 fun s g G =>
    some ((if G.halted then s else s.haltGroup g { cause := .halt, mask := G.live }).dbgDone 0)

/-- RUN (R350). -/
def execRun (s : State) : Host.Outcome State Fault Refusal :=
  s |> onTarget 2 fun s g _ =>
    some ((s.updGroup g fun G => { G with halted := false, stepping := 0, haltRec := none }).dbgDone 0)

/-- STEP (R350): the lanes that are ready issue once more; a running group is not stepped. -/
def execStep (s : State) : Host.Outcome State Fault Refusal :=
  s |> onTarget 3 fun s g G =>
    if !G.halted then some (s.dbgDone 1)
    else
      let m := maskOf fun l => s.laneReady g { G with halted := false } (s.now g) l
      some ((s.updGroup g fun G => { G with stepping := m }).dbgDone 0)

/-- What SNAP writes at DBGBUF: the group record, the partition word, the halt record. -/
def State.snapshot (s : State) (g : Nat) (G : Group) : List (Nat × Byte) :=
  let b := s.dev.dbgbuf.toNat
  span b (G.bytes.take 0xE000) ++ span (b + 0xE000) (leBytes 4 (s.partWord (coreOf g)).toNat) ++
    span (b + 0xE040) ((G.haltRec.getD { cause := .halt }).head 0 0)

/-- SNAP (R350): the halted group's state, once its results have returned. -/
def execSnap (s : State) : Host.Outcome State Fault Refusal :=
  s |> onTarget 4 fun s g G =>
    let b := s.dev.dbgbuf.toNat
    if !G.halted || b % 4096 != 0 || !inDevice b 65536 then some (s.dbgDone 1)
    else if G.outstanding then none
    else some ((s.devWrite (s.snapshot g G)).dbgDone 0)

/-- NEXTEVT (R350). -/
def execNextevt (s : State) : Host.Outcome State Fault Refusal :=
  s |> onTarget 5 fun s _ _ => some ((s.setDev fun v => { v with halts := v.halts.tail }).dbgDone 0)

end Sys2Proof.Machine
end

