-- ==== Sys2Proof/Machine/Approx.lean ====
section
/-! DEFINITION. The approximate instructions (R84, R85). The exact value is enclosed in fixed point; the part's choice
(`Config.approx32`, `Config.approx64`) counts where it lies in the allowed set, and the correctly rounded result does
elsewhere. -/

namespace Sys2Proof.Machine

/-! ### Fixed point

A real is held as a count of 2^−640. Every value below is within 2^−490 of the real it stands for; the nearest that one comes to the
boundary of an allowed set, sin and tanh of 2^−149 and the logistic function of it, is above 2^−460. -/

def fxBits : Nat := 640
def fxOne : Int := 2 ^ fxBits
/-- The bound of the computation's own error. -/
def fxErr : Int := 2 ^ 150

def fxMul (a b : Int) : Int := (a * b) / fxOne
def fxDiv (a b : Int) : Int := (a * fxOne) / b

/-- m · 2^e in fixed point. -/
def fxOf (neg : Bool) (m : Nat) (e : Int) : Int :=
  let k := e + fxBits
  let x : Int := if k ≥ 0 then (m : Int) * 2 ^ k.toNat else (m : Int) / 2 ^ (-k).toNat
  if neg then -x else x

/-- The sum of the first `n` terms of a series: each term is the one before it, changed by `f`, and counts divided by
`w i`. -/
def series (f : Nat → Int → Int) (w : Nat → Int) : Nat → Nat → Int → Int
  | 0, _, _ => 0
  | n + 1, i, t => t / w i + series f w n (i + 1) (f i t)

/-- arctan(1/n). -/
def fxAtanInv (n : Int) : Int := series (fun _ t => -(t / (n * n))) (fun i => 2 * i + 1) 290 0 (fxOne / n)
/-- π, by Machin's sum. -/
def fxPi : Int := 16 * fxAtanInv 5 - 4 * fxAtanInv 239
/-- The natural logarithm of a value in [1, 2], by 2·artanh((x − 1)/(x + 1)). -/
def fxLn (x : Int) : Int :=
  let z := fxDiv (x - fxOne) (x + fxOne)
  let z2 := fxMul z z
  2 * series (fun _ t => fxMul t z2) (fun i => 2 * i + 1) 220 0 z
def fxLn2 : Int := fxLn (2 * fxOne)

/-- e^t for t in [0, 1). -/
def fxExpSmall (t : Int) : Int := series (fun i a => fxMul a t / (i + 1)) (fun _ => 1) 140 0 fxOne
/-- e^t for |t| below 2^10. -/
def fxExp (t : Int) : Int :=
  let k := t / fxLn2
  let y := fxExpSmall (t - k * fxLn2)
  if k ≥ 0 then y * 2 ^ k.toNat else y / 2 ^ (-k).toNat

/-- sin t and cos t for |t| at most 1. -/
def fxSinSmall (t : Int) : Int :=
  series (fun i a => -(fxMul (fxMul a t) t / ((2 * i + 2) * (2 * i + 3)))) (fun _ => 1) 80 0 t
def fxCosSmall (t : Int) : Int :=
  series (fun i a => -(fxMul (fxMul a t) t / ((2 * i + 1) * (2 * i + 2)))) (fun _ => 1) 80 0 fxOne

/-- sin(t + q·π/2), the argument reduced to the quarter turn nearest to it. -/
def fxSinQ (t : Int) (q : Int) : Int :=
  let h := fxPi / 2
  let k := (t + h / 2) / h
  let r := t - k * h
  match (k + q) % 4 with
  | 0 => fxSinSmall r
  | 1 => fxCosSmall r
  | 2 => -fxSinSmall r
  | _ => -fxCosSmall r

/-- tanh t and 1/(1 + e^−t), for |t| below 2^9. -/
def fxTanh (t : Int) : Int :=
  let u := fxExp (2 * (t.natAbs : Int))
  let y := fxOne - fxDiv (2 * fxOne) (u + fxOne)
  if t < 0 then -y else y
def fxSig (t : Int) : Int := if t < -(1000 * fxOne) then 0 else fxDiv fxOne (fxOne + fxExp (-t))

/-! ### The instructions -/

/-- The approximate FP32 functions. -/
inductive ApproxOp where
  | rcp | rsq | exp2 | log2 | sin | cos | tanh | sig
  deriving DecidableEq, Repr

/-- The bound in ulp (R84). -/
def ApproxOp.ulps : ApproxOp → Int
  | .rcp | .rsq => 1
  | _ => 2

/-- The index of the opcode in its group (R86). -/
def ApproxOp.index : ApproxOp → Nat
  | .rcp => 0x0C
  | .rsq => 0x0D
  | .exp2 => 0x0F
  | .log2 => 0x10
  | .sin => 0x11
  | .cos => 0x12
  | .tanh => 0x13
  | .sig => 0x14

/-- m · 2^e with m odd, or zero. -/
def oddPart : Nat → Nat → Int → Nat × Int
  | 0, m, e => (m, e)
  | k + 1, m, e => if m % 2 = 0 && m != 0 then oddPart k (m / 2) (e + 1) else (m, e)

/-- An FP32 value. -/
def f32Fin (neg : Bool) (m : Nat) (e : Int) : Nat := f32.code (.fin neg m e)

/-- What a value is compared with: x ≥ n/10 for a positive magnitude. -/
def atLeastTenths (m : Nat) (e : Int) (n : Nat) : Bool := decide (fxOf false (10 * m) e ≥ (n : Int) * fxOne)

/-- The exact and special results of R84: codes. -/
def ApproxOp.special (op : ApproxOp) (x : Nat) : Option Nat :=
  match op, f32.val x with
  | _, .nan => some f32.nanCode
  | .rcp, .inf n => some (b2n n * f32.signBit)
  | .rsq, .inf n => some (if n then f32.nanCode else 0)
  | .exp2, .inf n => some (if n then 0 else f32.infCode)
  | .log2, .inf n => some (if n then f32.nanCode else f32.infCode)
  | .sin, .inf _ | .cos, .inf _ => some f32.nanCode
  | .tanh, .inf n => some (f32Fin n 1 0)
  | .sig, .inf n => some (if n then 0 else f32Fin false 1 0)
  | op, .fin n m e =>
    let (o, k) := oddPart 32 m e
    match op with
    | .rcp =>
      if m = 0 then some (b2n n * f32.signBit + f32.infCode)
      else if o = 1 then some (f32Fin n 1 (-k))
      -- a magnitude of at most 2^−128 has a reciprocal above the largest finite value
      else if decide (fxOf false m e ≤ fxOf false 1 (-128)) then some (b2n n * f32.signBit + f32.infCode)
      else none
    | .rsq =>
      if m = 0 then some (b2n n * f32.signBit + f32.infCode)
      else if n then some f32.nanCode
      else if o = 1 && k % 2 == 0 then some (f32Fin false 1 (-(k / 2)))
      else none
    | .exp2 =>
      if m = 0 then some (f32Fin false 1 0)
      else if !n && atLeastTenths m e 1280 then some f32.infCode
      else if n && atLeastTenths m e 1500 then some 0
      else if k ≥ 0 then some (f32Fin false 1 ((if n then -1 else 1) * ((o : Int) * 2 ^ k.toNat)))
      else none
    | .log2 =>
      if m = 0 then some (f32.signBit + f32.infCode)
      else if n then some f32.nanCode
      else if o = 1 then some (if k = 0 then 0 else f32.code (ofInt k))
      else none
    | .sin => if m = 0 then some x else none
    | .cos => if m = 0 then some (f32Fin false 1 0) else none
    | .tanh => if m = 0 then some x else if atLeastTenths m e 91 then some (f32Fin n 1 0) else none
    | .sig =>
      if m = 0 then some (f32Fin false 1 (-1))
      else if !n && atLeastTenths m e 174 then some (f32Fin false 1 0) else none

/-- The exact value in fixed point, for an operand with no special result. -/
def ApproxOp.exact (op : ApproxOp) (neg : Bool) (m : Nat) (e : Int) : Int :=
  match op with
  | .rcp => (if neg then -1 else 1) * ((2 : Int) ^ (fxBits - e).toNat / m)
  | .rsq => (isqrt (2 ^ (2 * fxBits - e).toNat / m) : Nat)
  | .exp2 => fxExp (fxMul (fxOf neg m e) fxLn2)
  | .log2 =>
    let k : Int := (Nat.log2 m : Int) + e
    k * fxOne + fxDiv (fxLn (fxOf false m (e - k))) fxLn2
  | .sin => fxSinQ (fxOf neg m e) 0
  | .cos => fxSinQ (fxOf neg m e) 1
  | .tanh => fxTanh (fxOf neg m e)
  | .sig => fxSig (fxOf neg m e)

/-- A value in fixed point as an exact value. -/
def fxVal (y : Int) : Val := .fin (decide (y < 0)) y.natAbs (-(fxBits : Int))

/-- What is below the exact value that the fixed point stands for; the logistic function is above 0, however small. -/
def ApproxOp.below (op : ApproxOp) (y : Int) : Int := match op with
  | .sig => max 0 (y - fxErr)
  | _ => y - fxErr

/-- A code lies within the bound and the range of R84 around the exact value. -/
def ApproxOp.allows (op : ApproxOp) (y : Int) (c : Nat) : Bool :=
  match f32.val c with
  | .fin n m e =>
    let x := fxOf n m e
    let ulp := fxOf false 1 (lastPlace 23 (-149) y.natAbs (-(fxBits : Int)))
    decide (x - op.ulps * ulp ≤ op.below y) && decide (y + fxErr ≤ x + op.ulps * ulp) && match op with
      | .tanh => decide (x.natAbs ≤ fxOne.natAbs)
      | .sig => decide (0 ≤ x) && decide (x ≤ fxOne)
      | _ => true
  | _ => false

/-- approx(op, a) of R87: a special result, the part's choice where it is allowed, or the correctly rounded value. -/
def ApproxOp.eval (op : ApproxOp) (a : Word) : Word :=
  match op.special a.toNat with
  | some c => BitVec.ofNat 32 c
  | none =>
    match f32.val a.toNat with
    | .fin n m e =>
      let y := op.exact n m e
      let c := Config.approx32 op.index a
      if op.allows y c.toNat then c else BitVec.ofNat 32 (f32.code (fxVal y))
    | _ => 0

/-! ### DRCPA -/

/-- A code is within the bound of R84 around 1/x, for x = ±m·2^e: on exact rationals. -/
def rcp64Allows (neg : Bool) (m : Nat) (e : Int) (c : Nat) : Bool :=
  match f64.val c with
  | .fin n p f =>
    -- |c·x − 1| as a count of 2^q
    let q : Int := if e + f < 0 then e + f else 0
    let d := (signedAt (n != neg) (p * m) (e + f) q - signedAt false 1 0 q).natAbs
    -- 1/x is normal exactly where |x| ≤ 2^1022
    let normal := decide ((2 : Int) ^ (1022 + 1074) ≥ (m : Int) * 2 ^ (e + 1074).toNat)
    if normal then decide ((d : Int) * 2 ^ 26 ≤ 2 ^ (-q).toNat)
    -- |c − 1/x| ≤ 2^−1074, multiplied by |x|
    else decide ((d : Int) * 2 ^ 1074 ≤ (m : Int) * 2 ^ (e - q).toNat)
  | _ => false

/-- DRCPA (R84, R89). -/
def rcp64 (a : DWord) : DWord :=
  match f64.val a.toNat with
  | .nan => BitVec.ofNat 64 f64.nanCode
  | .inf n => BitVec.ofNat 64 (b2n n * f64.signBit)
  | .fin n m e =>
    if m = 0 then BitVec.ofNat 64 (b2n n * f64.signBit + f64.infCode)
    else
      let (o, k) := oddPart 64 m e
      if o = 1 then BitVec.ofNat 64 (f64.code (.fin n 1 (-k)))
      else
        let r := f64.code ((Val.fin false 1 0).div (.fin n m e))
        let c := Config.approx64 a
        -- a magnitude of at most 2^−1024 has a reciprocal above the largest finite value
        let tooBig := decide ((m : Int) * 2 ^ (e + 1074).toNat ≤ 2 ^ 50)
        if tooBig then BitVec.ofNat 64 (b2n n * f64.signBit + f64.infCode)
        else if rcp64Allows n m e c.toNat then c else BitVec.ofNat 64 r

end Sys2Proof.Machine
end

