-- ==== Sys2Proof/Machine/Float.lean ====
section
/-! DEFINITION. The floating-point, packed and conversion instructions: groups 0x2 to 0x5 (R86 to R96). -/

namespace Sys2Proof.Machine

/-! ### Shapes -/

/-- A code as a word. -/
def codeWord (c : Nat) : Word := BitVec.ofNat 32 c

/-- FP32 operations of one, two and three sources. -/
def unaryF (s : State) (h : Hdr) (d : Reg) (a : Src) (f : Nat → Nat) : Host.Outcome State Fault Refusal :=
  unary s h d a fun x => codeWord (f x.toNat)
def binaryF (s : State) (h : Hdr) (d : Reg) (a b : Src) (f : Nat → Nat → Nat) : Host.Outcome State Fault Refusal :=
  binary s h d a b fun x y => codeWord (f x.toNat y.toNat)
def compareF (s : State) (h : Hdr) (d : PReg) (a b : Src) (f : Nat → Nat → Bool) : Host.Outcome State Fault Refusal :=
  compare32 s h d a b fun x y => f x.toNat y.toNat

/-- An FP64 source (R31, R89): a pair, or the binary32 value of IMM widened. -/
def Group.srcD (G : Group) (l : Nat) (a : Src) : Nat :=
  match a with
  | .imm w => f32.convert f64 w.toNat
  | _ => (G.src64 l a).toNat

/-- The words of an FP64 code. -/
def codeWords (c : Nat) : List Word := words64 (BitVec.ofNat 64 c)

def unaryD (s : State) (h : Hdr) (d : Reg) (a : Src) (f : Nat → Nat) : Host.Outcome State Fault Refusal :=
  fixedOp s h d 2 (srcReg a 2) fun G l => codeWords (f (G.srcD l a))
def binaryD (s : State) (h : Hdr) (d : Reg) (a b : Src) (f : Nat → Nat → Nat) : Host.Outcome State Fault Refusal :=
  fixedOp s h d 2 (srcReg a 2 ++ srcReg b 2) fun G l => codeWords (f (G.srcD l a) (G.srcD l b))
def compareD (s : State) (h : Hdr) (d : PReg) (a b : Src) (f : Nat → Nat → Bool) : Host.Outcome State Fault Refusal :=
  predOp s h d (srcReg a 2 ++ srcReg b 2) fun G l => f (G.srcD l a) (G.srcD l b)

/-- The two elements of a packed word (R74, R90). -/
def lo16 (x : Word) : Nat := x.toNat % 65536
def hi16 (x : Word) : Nat := x.toNat / 65536
def packHalves (lo hi : Nat) : Word := BitVec.ofNat 32 (lo % 65536 + 65536 * (hi % 65536))

/-- An operation on each half by itself (R90). -/
def halves2 (f : Nat → Nat → Nat) (a b : Word) : Word := packHalves (f (lo16 a) (lo16 b)) (f (hi16 a) (hi16 b))
def halves3 (f : Nat → Nat → Nat → Nat) (a b c : Word) : Word :=
  packHalves (f (lo16 a) (lo16 b) (lo16 c)) (f (hi16 a) (hi16 b) (hi16 c))

/-- HDOT2 and BDOT2 (R90): both products and the sum exact, one rounding to FP32. -/
def dot2 (f : Fmt) (a b c : Word) : Word :=
  codeWord (f32.code ((((f.val (lo16 a)).mul (f.val (lo16 b))).add ((f.val (hi16 a)).mul (f.val (hi16 b)))).add
    (f32.val c.toNat)))

/-- The class of an FP32 code (R88): the bit of the mask. -/
def classBit (a : Nat) : Nat :=
  let neg := decide (a ≥ 2 ^ 31)
  let e := a / 2 ^ 23 % 256
  let f := a % 2 ^ 23
  if e = 255 then
    if f = 0 then (if neg then 0 else 7) else if f ≥ 2 ^ 22 then 9 else 8
  else if e = 0 then
    if f = 0 then (if neg then 3 else 4) else (if neg then 2 else 5)
  else if neg then 1 else 6

/-! ### FP32 -/

/-- FADD (R87). -/
def execFadd (h : Hdr) (d : Reg) (a b : Src) (s : State) : Host.Outcome State Fault Refusal := binaryF s h d a b f32.add
/-- FSUB (R87). -/
def execFsub (h : Hdr) (d : Reg) (a b : Src) (s : State) : Host.Outcome State Fault Refusal := binaryF s h d a b f32.sub
/-- FMUL (R87). -/
def execFmul (h : Hdr) (d : Reg) (a b : Src) (s : State) : Host.Outcome State Fault Refusal := binaryF s h d a b f32.mul
/-- FFMA (R87). -/
def execFfma (h : Hdr) (d a b c : Reg) (s : State) : Host.Outcome State Fault Refusal :=
  ternary s h d a b c fun x y z => codeWord (f32.fma x.toNat y.toNat z.toNat)
/-- FMIN (R83, R87). -/
def execFmin (h : Hdr) (d : Reg) (a b : Src) (s : State) : Host.Outcome State Fault Refusal := binaryF s h d a b f32.min
/-- FMAX (R83, R87). -/
def execFmax (h : Hdr) (d : Reg) (a b : Src) (s : State) : Host.Outcome State Fault Refusal := binaryF s h d a b f32.max
/-- FABS (R82, R87). -/
def execFabs (h : Hdr) (d : Reg) (a : Src) (s : State) : Host.Outcome State Fault Refusal := unaryF s h d a f32.abs
/-- FNEG (R82, R87). -/
def execFneg (h : Hdr) (d : Reg) (a : Src) (s : State) : Host.Outcome State Fault Refusal := unaryF s h d a f32.neg
/-- FCMPEQ (R83, R87). -/
def execFcmpeq (h : Hdr) (d : PReg) (a b : Src) (s : State) : Host.Outcome State Fault Refusal := compareF s h d a b f32.ceq
/-- FCMPLT (R83, R87). -/
def execFcmplt (h : Hdr) (d : PReg) (a b : Src) (s : State) : Host.Outcome State Fault Refusal := compareF s h d a b f32.clt
/-- FCMPLE (R83, R87). -/
def execFcmple (h : Hdr) (d : PReg) (a b : Src) (s : State) : Host.Outcome State Fault Refusal := compareF s h d a b f32.cle
/-- FCMPUN (R83, R87). -/
def execFcmpun (h : Hdr) (d : PReg) (a b : Src) (s : State) : Host.Outcome State Fault Refusal := compareF s h d a b f32.cun
/-- FSQRT (R87). -/
def execFsqrt (h : Hdr) (d : Reg) (a : Src) (s : State) : Host.Outcome State Fault Refusal := unaryF s h d a f32.sqrt
/-- FRCP (R84, R87). -/
def execFrcp (h : Hdr) (d : Reg) (a : Src) (s : State) : Host.Outcome State Fault Refusal := unary s h d a ApproxOp.rcp.eval
/-- FRSQ (R84, R87). -/
def execFrsq (h : Hdr) (d : Reg) (a : Src) (s : State) : Host.Outcome State Fault Refusal := unary s h d a ApproxOp.rsq.eval
/-- FEXP2 (R84, R87). -/
def execFexp2 (h : Hdr) (d : Reg) (a : Src) (s : State) : Host.Outcome State Fault Refusal := unary s h d a ApproxOp.exp2.eval
/-- FLOG2 (R84, R87). -/
def execFlog2 (h : Hdr) (d : Reg) (a : Src) (s : State) : Host.Outcome State Fault Refusal := unary s h d a ApproxOp.log2.eval
/-- FSIN (R84, R87). -/
def execFsin (h : Hdr) (d : Reg) (a : Src) (s : State) : Host.Outcome State Fault Refusal := unary s h d a ApproxOp.sin.eval
/-- FCOS (R84, R87). -/
def execFcos (h : Hdr) (d : Reg) (a : Src) (s : State) : Host.Outcome State Fault Refusal := unary s h d a ApproxOp.cos.eval
/-- FTANH (R84, R87). -/
def execFtanh (h : Hdr) (d : Reg) (a : Src) (s : State) : Host.Outcome State Fault Refusal := unary s h d a ApproxOp.tanh.eval
/-- FSIG (R84, R87). -/
def execFsig (h : Hdr) (d : Reg) (a : Src) (s : State) : Host.Outcome State Fault Refusal := unary s h d a ApproxOp.sig.eval
/-- FCLASS (R88). -/
def execFclass (h : Hdr) (d : Reg) (a : Src) (s : State) : Host.Outcome State Fault Refusal := unaryF s h d a fun x => 2 ^ classBit x

/-! ### FP64 -/

/-- DADD (R89). -/
def execDadd (h : Hdr) (d : Reg) (a b : Src) (s : State) : Host.Outcome State Fault Refusal := binaryD s h d a b f64.add
/-- DSUB (R89). -/
def execDsub (h : Hdr) (d : Reg) (a b : Src) (s : State) : Host.Outcome State Fault Refusal := binaryD s h d a b f64.sub
/-- DMUL (R89). -/
def execDmul (h : Hdr) (d : Reg) (a b : Src) (s : State) : Host.Outcome State Fault Refusal := binaryD s h d a b f64.mul
/-- DFMA (R89). -/
def execDfma (h : Hdr) (d a b c : Reg) (s : State) : Host.Outcome State Fault Refusal :=
  fixedOp s h d 2 [(a, 2), (b, 2), (c, 2)] fun G l =>
    codeWords (f64.fma (G.reg64 l a).toNat (G.reg64 l b).toNat (G.reg64 l c).toNat)
/-- DMIN (R83, R89). -/
def execDmin (h : Hdr) (d : Reg) (a b : Src) (s : State) : Host.Outcome State Fault Refusal := binaryD s h d a b f64.min
/-- DMAX (R83, R89). -/
def execDmax (h : Hdr) (d : Reg) (a b : Src) (s : State) : Host.Outcome State Fault Refusal := binaryD s h d a b f64.max
/-- DCMPEQ (R83, R89). -/
def execDcmpeq (h : Hdr) (d : PReg) (a b : Src) (s : State) : Host.Outcome State Fault Refusal := compareD s h d a b f64.ceq
/-- DCMPLT (R83, R89). -/
def execDcmplt (h : Hdr) (d : PReg) (a b : Src) (s : State) : Host.Outcome State Fault Refusal := compareD s h d a b f64.clt
/-- DCMPLE (R83, R89). -/
def execDcmple (h : Hdr) (d : PReg) (a b : Src) (s : State) : Host.Outcome State Fault Refusal := compareD s h d a b f64.cle
/-- DCMPUN (R83, R89). -/
def execDcmpun (h : Hdr) (d : PReg) (a b : Src) (s : State) : Host.Outcome State Fault Refusal := compareD s h d a b f64.cun
/-- DRCPA (R84, R89). -/
def execDrcpa (h : Hdr) (d : Reg) (a : Src) (s : State) : Host.Outcome State Fault Refusal := unaryD s h d a fun x => (rcp64 (BitVec.ofNat 64 x)).toNat
/-- DSQRT (R89). -/
def execDsqrt (h : Hdr) (d : Reg) (a : Src) (s : State) : Host.Outcome State Fault Refusal := unaryD s h d a f64.sqrt
/-- DDIV (R89). -/
def execDdiv (h : Hdr) (d : Reg) (a b : Src) (s : State) : Host.Outcome State Fault Refusal := binaryD s h d a b f64.div

/-! ### Packed 16-bit -/

/-- HADD2 (R90). -/
def execHadd2 (h : Hdr) (d : Reg) (a b : Src) (s : State) : Host.Outcome State Fault Refusal := binary s h d a b (halves2 f16.add)
/-- HMUL2 (R90). -/
def execHmul2 (h : Hdr) (d : Reg) (a b : Src) (s : State) : Host.Outcome State Fault Refusal := binary s h d a b (halves2 f16.mul)
/-- HMIN2 (R90). -/
def execHmin2 (h : Hdr) (d : Reg) (a b : Src) (s : State) : Host.Outcome State Fault Refusal := binary s h d a b (halves2 f16.min)
/-- HMAX2 (R90). -/
def execHmax2 (h : Hdr) (d : Reg) (a b : Src) (s : State) : Host.Outcome State Fault Refusal := binary s h d a b (halves2 f16.max)
/-- HFMA2 (R90). -/
def execHfma2 (h : Hdr) (d a b c : Reg) (s : State) : Host.Outcome State Fault Refusal := ternary s h d a b c (halves3 f16.fma)
/-- HDOT2 (R90). -/
def execHdot2 (h : Hdr) (d a b c : Reg) (s : State) : Host.Outcome State Fault Refusal := ternary s h d a b c (dot2 f16)
/-- BADD2 (R90). -/
def execBadd2 (h : Hdr) (d : Reg) (a b : Src) (s : State) : Host.Outcome State Fault Refusal := binary s h d a b (halves2 bf16.add)
/-- BMUL2 (R90). -/
def execBmul2 (h : Hdr) (d : Reg) (a b : Src) (s : State) : Host.Outcome State Fault Refusal := binary s h d a b (halves2 bf16.mul)
/-- BMIN2 (R90). -/
def execBmin2 (h : Hdr) (d : Reg) (a b : Src) (s : State) : Host.Outcome State Fault Refusal := binary s h d a b (halves2 bf16.min)
/-- BMAX2 (R90). -/
def execBmax2 (h : Hdr) (d : Reg) (a b : Src) (s : State) : Host.Outcome State Fault Refusal := binary s h d a b (halves2 bf16.max)
/-- BFMA2 (R90). -/
def execBfma2 (h : Hdr) (d a b c : Reg) (s : State) : Host.Outcome State Fault Refusal := ternary s h d a b c (halves3 bf16.fma)
/-- BDOT2 (R90). -/
def execBdot2 (h : Hdr) (d a b c : Reg) (s : State) : Host.Outcome State Fault Refusal := ternary s h d a b c (dot2 bf16)

/-! ### Conversions -/

/-- sat of a rounded FP32 value to a range, as a word (R91). -/
def toInt32 (r : Nat → Int → Nat) (lo hi : Int) (a : Nat) : Nat := (BitVec.ofInt 32 ((f32.val a).toInt r lo hi)).toNat

/-- Two FP32 values as packed halves of a format (R91). -/
def cvtHalves (f : Fmt) (a b : Word) : Word := packHalves (f32.convert f a.toNat) (f32.convert f b.toNat)

/-- The two halves widened to FP32 (R91). -/
def widen (f : Fmt) (a : Word) : List Word := [codeWord (f.convert f32 (lo16 a)), codeWord (f.convert f32 (hi16 a))]

/-- Byte `i` of a word (R74). -/
def byteOf (a : Word) (i : Nat) : Nat := bitsAt a (8 * i) 8

/-- A word of four narrow codes, from a quad of FP32 values (R92). -/
def packNarrow (f : Val → Nat) (ws : List Word) : Word :=
  BitVec.ofNat 32 ((ws.zipIdx.map fun e => f (f32.val e.1.toNat) * 2 ^ (8 * e.2)).sum)

/-- The four narrow codes of a word as FP32 values (R92). -/
def unpackNarrow (f : Nat → Val) (a : Word) : List Word := (List.range 4).map fun i => codeWord (f32.code (f (byteOf a i)))

/-- CVTQ4F's elements (R93): each rounded once to BF16. -/
def unpackQ4n (a m : Word) : List Word :=
  let e := fun i => bf16.code ((f32.val m.toNat).mul (q4nVal (bitsAt a (4 * i) 4)))
  (List.range 4).map fun i => packHalves (e (2 * i)) (e (2 * i + 1))

/-- CVTIF (R91). -/
def execCvtif (h : Hdr) (d : Reg) (a : Src) (s : State) : Host.Outcome State Fault Refusal := unary s h d a fun x => codeWord (f32.code (ofInt x.toInt))
/-- CVTUF (R91). -/
def execCvtuf (h : Hdr) (d : Reg) (a : Src) (s : State) : Host.Outcome State Fault Refusal := unaryF s h d a fun x => f32.code (ofInt x)
/-- CVTFI (R91). -/
def execCvtfi (h : Hdr) (d : Reg) (a : Src) (s : State) : Host.Outcome State Fault Refusal :=
  unaryF s h d a (toInt32 truncNat (-(2 ^ 31)) (2 ^ 31 - 1))
/-- CVTFIN (R91). -/
def execCvtfin (h : Hdr) (d : Reg) (a : Src) (s : State) : Host.Outcome State Fault Refusal :=
  unaryF s h d a (toInt32 roundNat (-(2 ^ 31)) (2 ^ 31 - 1))
/-- CVTFU (R91). -/
def execCvtfu (h : Hdr) (d : Reg) (a : Src) (s : State) : Host.Outcome State Fault Refusal := unaryF s h d a (toInt32 truncNat 0 (2 ^ 32 - 1))
/-- CVTFD (R91). -/
def execCvtfd (h : Hdr) (d : Reg) (a : Src) (s : State) : Host.Outcome State Fault Refusal :=
  fixedOp s h d 2 (srcReg a 1) fun G l => codeWords (f32.convert f64 (G.src l a).toNat)
/-- CVTDF (R91). -/
def execCvtdf (h : Hdr) (d : Reg) (a : Src) (s : State) : Host.Outcome State Fault Refusal :=
  fixedOp s h d 1 (srcReg a 2) fun G l => [codeWord (f64.convert f32 (G.srcD l a))]
/-- CVTLD (R91). -/
def execCvtld (h : Hdr) (d : Reg) (a : Src) (s : State) : Host.Outcome State Fault Refusal :=
  fixedOp s h d 2 (srcReg a 2) fun G l => codeWords (f64.code (ofInt (G.src64 l a).toInt))
/-- CVTDL (R91). -/
def execCvtdl (h : Hdr) (d : Reg) (a : Src) (s : State) : Host.Outcome State Fault Refusal :=
  fixedOp s h d 2 (srcReg a 2) fun G l =>
    words64 (BitVec.ofInt 64 ((f64.val (G.srcD l a)).toInt truncNat (-(2 ^ 63)) (2 ^ 63 - 1)))
/-- CVTFB2 (R91). -/
def execCvtfb2 (h : Hdr) (d : Reg) (a b : Src) (s : State) : Host.Outcome State Fault Refusal := binary s h d a b (cvtHalves bf16)
/-- CVTFH2 (R91). -/
def execCvtfh2 (h : Hdr) (d : Reg) (a b : Src) (s : State) : Host.Outcome State Fault Refusal := binary s h d a b (cvtHalves f16)
/-- CVTBF (R91). -/
def execCvtbf (h : Hdr) (d : Reg) (a : Src) (s : State) : Host.Outcome State Fault Refusal := fixedOp s h d 2 (srcReg a 1) fun G l => widen bf16 (G.src l a)
/-- CVTHF (R91). -/
def execCvthf (h : Hdr) (d : Reg) (a : Src) (s : State) : Host.Outcome State Fault Refusal := fixedOp s h d 2 (srcReg a 1) fun G l => widen f16 (G.src l a)
/-- CVTE4 (R92). -/
def execCvte4 (h : Hdr) (d a : Reg) (s : State) : Host.Outcome State Fault Refusal :=
  fixedOp s h d 1 [(a, 4)] fun G l => [packNarrow toE4m3k (G.regs' l a 4)]
/-- CVTE5 (R92). -/
def execCvte5 (h : Hdr) (d a : Reg) (s : State) : Host.Outcome State Fault Refusal :=
  fixedOp s h d 1 [(a, 4)] fun G l => [packNarrow toE5m2k (G.regs' l a 4)]
/-- CVTI8 (R92). -/
def execCvti8 (h : Hdr) (d a : Reg) (s : State) : Host.Outcome State Fault Refusal :=
  fixedOp s h d 1 [(a, 4)] fun G l => [packNarrow toInt8 (G.regs' l a 4)]
/-- CVTE4F (R92). -/
def execCvte4f (h : Hdr) (d : Reg) (a : Src) (s : State) : Host.Outcome State Fault Refusal :=
  fixedOp s h d 4 (srcReg a 1) fun G l => unpackNarrow e4m3kVal (G.src l a)
/-- CVTE5F (R92). -/
def execCvte5f (h : Hdr) (d : Reg) (a : Src) (s : State) : Host.Outcome State Fault Refusal :=
  fixedOp s h d 4 (srcReg a 1) fun G l => unpackNarrow e5m2kVal (G.src l a)
/-- CVTI8F (R92). -/
def execCvti8f (h : Hdr) (d : Reg) (a : Src) (s : State) : Host.Outcome State Fault Refusal :=
  fixedOp s h d 4 (srcReg a 1) fun G l => unpackNarrow int8Val (G.src l a)
/-- CVTQ4F (R93). -/
def execCvtq4f (h : Hdr) (d : Reg) (a b : Src) (s : State) : Host.Outcome State Fault Refusal :=
  fixedOp s h d 4 (srcReg a 1 ++ srcReg b 1) fun G l => unpackQ4n (G.src l a) (G.src l b)

/-! ### Block quantisation (R94 to R96) -/

/-- The magnitude of a value. -/
def Val.abs : Val → Val
  | .nan => .nan
  | .inf _ => .inf false
  | .fin _ m e => .fin false m e

/-- ceil(a / b) of positive values, clamped to 1 .. 254; an infinite a gives 254. -/
def ceilClamp (a b : Val) : Nat :=
  match a, b with
  | .fin _ m e, .fin _ p f =>
    let q : Int := if e < f then e else f
    let n := m * 2 ^ (e - q).toNat
    let d := p * 2 ^ (f - q).toNat
    max 1 (min 254 (cdiv n d))
  | _, _ => 254

/-- U is usable: finite and above 0. -/
def unitOk : Val → Bool
  | .fin n m _ => !n && m != 0
  | _ => false

/-- The block code and the element codes of 64 elements: `scale` is 1 for Q4N and 480 for E4M3K, `nanCode` the code under
c = 0xFF, `zeroCode` the code in a block of zeros. -/
def quantise (scale nanCode : Nat) (zeroCode code : Val → Nat) (u : Val) (xs : List Val) : Nat × List Nat :=
  if !unitOk u || xs.any Val.isNan then (255, xs.map fun _ => nanCode)
  else
    let mx := xs.foldl (fun m x => if m.lt x.abs then x.abs else m) (.fin false 0 0)
    if mx.eq (.fin false 0 0) then (0, xs.map zeroCode)
    else
      let c := ceilClamp mx ((Val.fin false scale 0).mul u)
      (c, xs.map fun x => code (x.div (u.mul (.fin false c 0))))

/-- The 64 elements of a block (R95): lanes of the issue that are no helpers supply two, the others +0. -/
def blockOf (G : Group) (N : Word) (a : VReg) : List Val :=
  (List.range 64).map fun i =>
    if inMask N (i / 2) then f32.val ((G.lane (i / 2)).vreg (a.val + i % 2)).toNat else .fin false 0 0

/-- QBLK and QBLKE4 as a group operation. -/
def quantOp (s : State) (h : Hdr) (d a : VReg) (b : SSrc) (q : Val → List Val → Nat × List Nat)
    (pack : Nat → Nat → Nat → Nat) : Host.Outcome State Fault Refusal :=
  issue s h .both ([(.v d, 1), (.v a, 2)] ++ ssrcReg b 1) noHandles fun s x =>
    s.result x (.v d) 1 fun G l =>
      let r := q (f32.val (G.ssrc b).toNat) (blockOf G x.N a)
      [codeWord (pack r.1 (r.2.getD (2 * l) 0) (r.2.getD (2 * l + 1) 0))]

/-- QBLK (R94, R96). -/
def execQblk (h : Hdr) (d a : VReg) (b : SSrc) (s : State) : Host.Outcome State Fault Refusal :=
  quantOp s h d a b (quantise 1 7 (fun _ => 7) toQ4n) fun c lo hi => 256 * c + 16 * hi + lo

/-- QBLKE4 (R94, R96). -/
def execQblke4 (h : Hdr) (d a : VReg) (b : SSrc) (s : State) : Host.Outcome State Fault Refusal :=
  quantOp s h d a b (quantise 480 0 toE4m3k toE4m3k) fun c lo hi => 65536 * c + 256 * hi + lo

end Sys2Proof.Machine
end

