-- ==== Sys2Proof/Machine/GroupOps.lean ====
section
/-! DEFINITION. The group operations: group 0x6 (R125 to R133). -/

namespace Sys2Proof.Machine

/-- A group operation: the value of each lane of T from the registers at the issue and the sets of R125. -/
def groupOp (s : State) (h : Hdr) (d : Reg) (regs : List (Reg × Nat)) (f : Group → At → Nat → Word) :
    Host.Outcome State Fault Refusal :=
  issue s h .both ((d, 1) :: regs) noHandles fun s x => s.result x d 1 fun G l => [f G x l]

/-! ### Exchanges (R126, R127) -/

/-- A lane of T reads the register of a lane of T, or its own. -/
def exchange (s : State) (h : Hdr) (d a : VReg) (regs : List (Reg × Nat)) (src : Group → Nat → Option Nat) :
    Host.Outcome State Fault Refusal :=
  groupOp s h (.v d) ((.v a, 1) :: regs) fun G x l =>
    match src G l with
    | some k => if inMask x.T k then (G.lane k).vreg a.val else (G.lane l).vreg a.val
    | none => (G.lane l).vreg a.val

/-- QSWPH (R127). -/
def execQswph (h : Hdr) (d a : VReg) (s : State) : Host.Outcome State Fault Refusal :=
  exchange s h d a [] fun _ l => some (l ^^^ 1)
/-- QSWPV (R127). -/
def execQswpv (h : Hdr) (d a : VReg) (s : State) : Host.Outcome State Fault Refusal :=
  exchange s h d a [] fun _ l => some (l ^^^ 2)
/-- QSWPD (R127). -/
def execQswpd (h : Hdr) (d a : VReg) (s : State) : Host.Outcome State Fault Refusal :=
  exchange s h d a [] fun _ l => some (l ^^^ 3)
/-- QBRD (R127). -/
def execQbrd (h : Hdr) (d a : VReg) (i : Fin 4) (s : State) : Host.Outcome State Fault Refusal :=
  exchange s h d a [] fun _ l => some (l / 4 * 4 + i.val)
/-- SHFL (R127). -/
def execShfl (h : Hdr) (d a : VReg) (b : Src) (s : State) : Host.Outcome State Fault Refusal :=
  exchange s h d a (srcReg b 1) fun G l => some ((G.src l b).toNat % 32)
/-- SHFLUP (R127). -/
def execShflup (h : Hdr) (d a : VReg) (b : Src) (s : State) : Host.Outcome State Fault Refusal :=
  exchange s h d a (srcReg b 1) fun G l => if (G.src l b).toNat > l then none else some (l - (G.src l b).toNat)
/-- SHFLDN (R127). -/
def execShfldn (h : Hdr) (d a : VReg) (b : Src) (s : State) : Host.Outcome State Fault Refusal :=
  exchange s h d a (srcReg b 1) fun G l => if l + (G.src l b).toNat > 31 then none else some (l + (G.src l b).toNat)
/-- SHFLX (R127). -/
def execShflx (h : Hdr) (d a : VReg) (b : Src) (s : State) : Host.Outcome State Fault Refusal :=
  exchange s h d a (srcReg b 1) fun G l => some (l ^^^ ((G.src l b).toNat % 32))

/-! ### Votes, ballots, matches and counts (R128, R129) -/

/-- The counted lanes in which a predicate is 1. -/
def ballotOf (G : Group) (x : At) (a : PReg) : Word := maskOf fun m => inMask x.N m && (G.lane m).pred a

/-- A vote: one value for every lane of T. -/
def vote (s : State) (h : Hdr) (d a : PReg) (f : Word → Word → Bool) : Host.Outcome State Fault Refusal :=
  issue s h .both [] noHandles fun s x => s.resultP x d fun G _ => f (ballotOf G x a) x.N

/-- VOTEANY (R129). -/
def execVoteany (h : Hdr) (d a : PReg) (s : State) : Host.Outcome State Fault Refusal := vote s h d a fun b _ => b != 0
/-- VOTEALL (R129). -/
def execVoteall (h : Hdr) (d a : PReg) (s : State) : Host.Outcome State Fault Refusal := vote s h d a fun b n => b == n
/-- BALLOT (R129). -/
def execBallot (h : Hdr) (d : Reg) (a : PReg) (s : State) : Host.Outcome State Fault Refusal :=
  groupOp s h d [] fun G x _ => ballotOf G x a
/-- GCNT (R129). -/
def execGcnt (h : Hdr) (d : Reg) (a : PReg) (s : State) : Host.Outcome State Fault Refusal :=
  groupOp s h d [] fun G x _ => BitVec.ofNat 32 (popcount (ballotOf G x a))
/-- MATCH (R129). -/
def execMatchLanes (h : Hdr) (d a : VReg) (s : State) : Host.Outcome State Fault Refusal :=
  groupOp s h (.v d) [(.v a, 1)] fun G x l =>
    maskOf fun m => inMask x.N m && (G.lane m).vreg a.val == (G.lane l).vreg a.val

/-! ### Reductions and scans (R130 to R132) -/

/-- The values of the counted lanes, in lane order. -/
def counted (G : Group) (x : At) (a : VReg) : List Word := (lanesOf x.N).map fun l => (G.lane l).vreg a.val

/-- One value over the counted lanes for every lane of T. -/
def reduceOp (s : State) (h : Hdr) (d : Reg) (a : VReg) (f : List Word → Word) : Host.Outcome State Fault Refusal :=
  groupOp s h d [(.v a, 1)] fun G x _ => f (counted G x a)

/-- The 32 slots of the tree (R132): −0 where no counted lane is. -/
def treeSlots (N : Word) (f : Nat → Word) : List Word :=
  (List.range 32).map fun m => if inMask N m then f m else 0x80000000

/-- block(lo, 2^k) of R132. -/
def treeBlock (xs : List Word) : Nat → Nat → Word
  | 0, lo => xs.getD lo 0x80000000
  | k + 1, lo => addF (treeBlock xs k lo) (treeBlock xs k (lo + 2 ^ k))

/-- The inclusive prefix of R132: the aligned blocks of the binary decomposition of n, from left to right. -/
def treePrefix (xs : List Word) (n : Nat) : Word :=
  (([5, 4, 3, 2, 1, 0].foldl (fun (r : Nat × Option Word) k =>
    if n / 2 ^ k % 2 = 1 then
      let b := treeBlock xs k r.1
      (r.1 + 2 ^ k, some (match r.2 with
        | none => b
        | some a => addF a b))
    else r) (0, none)).2).getD 0x80000000

/-- FP32 minima and maxima over a list: the canonical NaN when no value is a number (R131). -/
def foldF (f : Nat → Nat → Nat) (ws : List Word) : Word :=
  codeWord (ws.foldl (fun a w => f a w.toNat) f32.nanCode)

/-- GSUMI (R131). -/
def execGsumi (h : Hdr) (d : Reg) (a : VReg) (s : State) : Host.Outcome State Fault Refusal :=
  reduceOp s h d a fun ws => ws.foldl (· + ·) 0
/-- GSUMF (R132). -/
def execGsumf (h : Hdr) (d : Reg) (a : VReg) (s : State) : Host.Outcome State Fault Refusal :=
  groupOp s h d [(.v a, 1)] fun G x _ => treeBlock (treeSlots x.N fun m => (G.lane m).vreg a.val) 5 0
/-- GMINI (R131). -/
def execGmini (h : Hdr) (d : Reg) (a : VReg) (s : State) : Host.Outcome State Fault Refusal :=
  reduceOp s h d a fun ws => ws.foldl minS 0x7FFFFFFF
/-- GMAXI (R131). -/
def execGmaxi (h : Hdr) (d : Reg) (a : VReg) (s : State) : Host.Outcome State Fault Refusal :=
  reduceOp s h d a fun ws => ws.foldl maxS 0x80000000
/-- GMINF (R131). -/
def execGminf (h : Hdr) (d : Reg) (a : VReg) (s : State) : Host.Outcome State Fault Refusal :=
  reduceOp s h d a (foldF f32.min)
/-- GMAXF (R131). -/
def execGmaxf (h : Hdr) (d : Reg) (a : VReg) (s : State) : Host.Outcome State Fault Refusal :=
  reduceOp s h d a (foldF f32.max)
/-- GSCANI (R131). -/
def execGscani (h : Hdr) (d a : VReg) (s : State) : Host.Outcome State Fault Refusal :=
  groupOp s h (.v d) [(.v a, 1)] fun G x l =>
    ((lanesOf x.N).filter (· ≤ l)).foldl (fun t m => t + (G.lane m).vreg a.val) 0
/-- GSCANF (R132). -/
def execGscanf (h : Hdr) (d a : VReg) (s : State) : Host.Outcome State Fault Refusal :=
  groupOp s h (.v d) [(.v a, 1)] fun G x l => treePrefix (treeSlots x.N fun m => (G.lane m).vreg a.val) (l + 1)

/-! ### Intersection (R133) -/

/-- ISECT (R133). -/
def execIsect (h : Hdr) (d a b : VReg) (s : State) : Host.Outcome State Fault Refusal :=
  groupOp s h (.v d) [(.v a, 1), (.v b, 1)] fun G x l =>
    let k := (G.lane l).vreg a.val
    if k = 0xFFFFFFFF then 0xFFFFFFFF
    else match (lanesOf x.N).find? fun m => (G.lane m).vreg b.val == k with
      | some m => BitVec.ofNat 32 m
      | none => 0xFFFFFFFF

/-- The counts of ISECTADV: keys of each window at or below the smaller of the two maxima. -/
def isectCounts (as bs : List Word) : Word :=
  let m := min ((as.map BitVec.toNat).foldl max 0) ((bs.map BitVec.toNat).foldl max 0)
  let n := fun (xs : List Word) => (xs.filter fun k => k.toNat ≤ m).length
  if as.isEmpty then 0 else BitVec.ofNat 32 (256 * n bs + n as)

/-- ISECTADV (R133). -/
def execIsectadv (h : Hdr) (d : Reg) (a b : VReg) (s : State) : Host.Outcome State Fault Refusal :=
  groupOp s h d [(.v a, 1), (.v b, 1)] fun G x _ => isectCounts (counted G x a) (counted G x b)

/-- ISHELP (R133). -/
def execIshelp (h : Hdr) (d : VReg) (a : PReg) (s : State) : Host.Outcome State Fault Refusal :=
  groupOp s h (.v d) [] fun G x l =>
    BitVec.ofNat 32 ((lanesOf x.N).filter fun m => m < l && (G.lane m).pred a).length

end Sys2Proof.Machine
end

