-- ==== Sys2Proof/Machine/Links.lean ====
section
/-! DEFINITION. The links of the package: CXL.mem and back-invalidation (R325), writes that arrive over the fabric (R180), the
flits of the Dyell ports and the repair of their lanes (R328, R335 to R339, R342), the power states (R343 to R345), and package
reset (R346). -/

namespace Sys2Proof.Machine

/-! ### CXL.mem (R325) -/

/-- CXL_MEM_READ: served at the home with the latest value; the host caches the lines. Outside the two ranges it completes
with the CXL error response. -/
def execCxlMemRead (pa n : Nat) (s : State) : Host.Outcome State Fault Refusal :=
  event s <|
  let s := s.awake
  if n = 0 || !inDevice pa n || s.dev.recovery then some s
  else if s.holds ((List.range n).map (pa + ·)) then none
  else
    let s := s.fillRange pa n
    let lines := (List.range ((pa + n - 1) / 64 - pa / 64 + 1)).map (pa / 64 + ·)
    some (s.setDev fun v => { v with hostLines := v.hostLines.filter (fun l => !lines.contains l) ++ lines })

/-- CXL_MEM_WRITE: performed at the home as a write that registers no ownership. -/
def execCxlMemWrite (pa : Nat) (bytes : List Byte) (s : State) : Host.Outcome State Fault Refusal :=
  event s <|
  let s := s.awake
  if bytes.isEmpty || !inDevice pa bytes.length || s.dev.recovery then some s
  else if s.waveHolds ((List.range bytes.length).map (pa + ·)) then none
  else some (s.homeWrite none [] (span pa bytes))

/-- BACK_INVALIDATE: a line leaves the host's caches. -/
def execBackInvalidate (line : Nat) (s : State) : Host.Outcome State Fault Refusal :=
  event s <|
  if s.dev.hostLines.contains line then some (s.backInv [64 * line]) else none

/-! ### Fabric writes (R180, R340) -/

/-- A PUTS signal that arrives: 8 bytes added as NADD64 (R341), at the quay while its line is in quay mode (R207). -/
def State.signalArrival (s : State) (pa : Nat) (v : DWord) : Option State :=
  let k := quayOf pa
  let Q := s.quay k
  if pa % 8 != 0 || !inDevice pa 8 then none
  else if s.quayMode (pa / 64) then
    let q : QReq :=
      { who := none, seq := s.seq, pc := 0, ctx := 65536, pa, va := 0, cls := 0, m := 0, size := 8, arg := 0
        op := some (.add64, leBytes 8 v.toNat, []), pend := none, core := 0x3FF, ents := [] }
    if Q.reqs.length ≥ 512 then none else some (s.setQuay k { Q with reqs := Q.reqs ++ [q] })
  else if s.waveHolds [pa] then none
  else if (s.poisonIn pa 8).isSome then some s
  else some (s.homeWrite none [] (span pa (leBytes 8 (leNat (s.bytes pa 8) + v.toNat))))

/-- FABRIC_WRITE_ARRIVAL (R180): a write of another package is performed at its home and registers no ownership; the signal of
a PUTS follows its payload. -/
def execFabricWriteArrival (pa : Nat) (bytes : List Byte) (signal : Option (Nat × DWord)) (s : State) :
    Host.Outcome State Fault Refusal :=
  event s <|
  let s := s.awake
  if s.dev.recovery then some s
  else if !(bytes.isEmpty || inDevice pa bytes.length) || s.waveHolds ((List.range bytes.length).map (pa + ·)) then
    none
  else
    let s := if bytes.isEmpty then s else s.homeWrite none [] (span pa bytes)
    match signal with
    | none => some s
    | some (at', v) => (s.signalArrival at' v)

/-! ### Flits (R337, R338) -/

def State.updPort (s : State) (k : Nat) (f : DPort → DPort) : State :=
  s.setDev fun v => { v with ports := modAt v.ports k f }

/-- The ACK of a received flit; the first one after a retraining starts the replay (R339). -/
def DPort.takeAck (p : DPort) (f : FlitView) : DPort :=
  match f.ack with
  | none => p
  | some a =>
    let q := p.acked a
    if q.resync && q.retrain.isNone then { q.replayAll with resync := false } else q

/-- A DATA flit is accepted in order and acknowledged, or discarded (R338). -/
def DPort.takeData (p : DPort) (f : FlitView) : DPort :=
  if f.seq = (p.rxSeq + 1) % 4096 then { p with rxSeq := f.seq, rx := p.rx ++ [f.payload] }.send 1 0 [] else p

/-- A received flit at a port, which in recovery mode does not respond (R346); `f` handles one of the event's kind. -/
def atPort (port kind : Nat) (flit : List Byte) (f : DPort → FlitView → DPort) (s : State) : Host.Outcome State Fault Refusal :=
  event s <|
  if port ≥ 12 then none
  else if s.dev.recovery then some s
  else match viewFlit flit with
    | some v => if v.kind = kind then some (s.updPort port fun p => (f (p.takeAck v) v).pump) else none
    | none => none

/-- DATA_FLIT (R337, R338): a flit that is lost makes the receiver send NAK, but for a port that is being repaired, which has stopped
(R339). -/
def execDataFlit (port : Nat) (flit : List Byte) (s : State) : Host.Outcome State Fault Refusal :=
  let s := s.awake
  if port < 12 && flit.length == 256 && (viewFlit flit).isNone && !s.dev.recovery then
    .next (s.updPort port fun p => if p.retrain.isSome then p else p.send 2 0 [])
  else s |> atPort port 0 flit fun p v => if p.retrain.isSome then p else p.takeData v

/-- IDLE_FLIT (R337): its ACK. -/
def execIdleFlit (port : Nat) (flit : List Byte) (s : State) : Host.Outcome State Fault Refusal :=
  s |> atPort port 1 flit fun p _ => p

/-- NAK_FLIT (R338): every buffered flit from ACK + 1 goes out again before new ones. -/
def execNakFlit (port : Nat) (flit : List Byte) (s : State) : Host.Outcome State Fault Refusal :=
  s |> atPort port 2 flit fun p _ => if p.retrain.isSome || p.resync then p else p.replayAll

/-! ### Lane repair (R335, R339, R342) -/

/-- The logical lane that a physical lane carries. -/
def DPort.logical (p : DPort) (lane : Nat) : Option Nat :=
  (List.range (if p.narrowed then 4 else 8)).find? fun i => p.lanemap.getD i 9 == lane

/-- The four lanes of a narrowed port (R339): neither the failing lane is among them nor the one that the first repair has mapped out. -/
def DPort.bestOk (p : DPort) (best : List Nat) (lane : Nat) : Bool :=
  best.length == 4 && best.all (fun l => decide (l < 9) && l != lane && l != p.lanemap.getD 8 9) &&
    (List.range 4).all fun i => !(best.drop (i + 1)).contains (best.getD i 9)

/-- A repair begins: the sender stops and sends RETRAIN. -/
def DPort.startRetrain (p : DPort) (lane : Nat) (best : List Nat) : DPort :=
  { p.send 3 0 [] with retrain := some (lane, best), resync := true }

/-- A lane can be repaired: it carries a logical lane, no repair runs, and where the spare is used the four best lanes are
named. -/
def DPort.repairable (p : DPort) (lane : Nat) (best : List Nat) : Bool :=
  (p.logical lane).isSome && p.retrain.isNone && (!p.spareUsed || p.bestOk best lane)

/-- LANE_REPAIR (R335, R339): a lane reaches 16 violations in its window. -/
def execLaneRepair (port lane : Nat) (best : List Nat) (s : State) : Host.Outcome State Fault Refusal :=
  event s <|
  if port ≥ 12 || !(s.dev.ports.getD port {}).repairable lane best then none
  else if s.hostMode 3 then some (s.msi (s.dev.managed.getD 3 {}).vec.toNat)
  else some (s.updPort port fun p => p.startRetrain lane best)

/-- The failing lane is mapped out (R339): the spare takes its place, or the port goes on with its four best lanes. The receiver
then sends its ACK. -/
def DPort.remap (p : DPort) (lane : Nat) (best : List Nat) : DPort :=
  let p := if p.spareUsed then { p with narrowed := true, lanemap := best ++ p.lanemap.drop 4 }
    else match p.logical lane with
      | some i => { p with spareUsed := true, lanemap := (p.lanemap.set i (p.lanemap.getD 8 8)).set 8 lane }
      | none => p
  { p with retrain := none }.send 1 0 []

/-- The repair of a lane on the port's own side: the map changes and the lane event is raised (R339, R342). -/
def State.remapPort (s : State) (port lane : Nat) (best : List Nat) : State :=
  let p := s.dev.ports.getD port {}
  let s := s.updPort port fun p => p.remap lane best
  if p.spareUsed then s.cxlEvent 3 port 0 else s.cxlEvent 2 port ((p.logical lane).getD 0)

/-- RETRAIN_FLIT (R339): the exchange is complete. It answers the repair that this end has begun; or the other end has begun one, of the
lane and with the lanes that it names, and this end answers with its own RETRAIN. -/
def execRetrainFlit (r : Retrain) (s : State) : Host.Outcome State Fault Refusal :=
  event s <|
  if r.port ≥ 12 then none
  else if s.dev.recovery then some s
  else
    let p := s.dev.ports.getD r.port {}
    match p.retrain with
    | some (lane, best) => some (s.remapPort r.port lane best)
    | none =>
      if !p.repairable r.lane r.best then none
      else some ((s.updPort r.port fun p => { p.send 3 0 [] with resync := true }).remapPort r.port r.lane r.best)

/-- REPAIR_LANE (R328, R335): the command completes once the port has been retrained. -/
def execRepairLane (best : List Nat) (s : State) : Host.Outcome State Fault Refusal :=
  s |> mailbox 0xA fun s =>
    let port := (s.arg 0).toNat
    let lane := (s.arg 1).toNat
    if s.dev.repairing then
      if (s.dev.ports.getD port {}).retrain.isSome then none
      else some ((s.setDev fun v => { v with repairing := false }).mbDone 0 none)
    else if !s.hostMode 3 then some (s.mbDone 2 none)
    else if port ≥ 12 || ((s.dev.ports.getD port {}).logical lane).isNone then some (s.mbDone 1 none)
    else if !(s.dev.ports.getD port {}).repairable lane best then none
    else some ((s.setDev fun v => { v with repairing := true }).updPort port fun p => p.startRetrain lane best)

/-! ### Power (R343 to R345) -/

/-- No engine, gate, quay or array work remains (R344). -/
def State.enginesIdle (s : State) : Bool :=
  s.cores.all (fun c => c.2.journal.isEmpty) && s.gates.all (fun g => g.2.isEmpty) && s.bstores.isEmpty && s.qreplies.isEmpty
    && s.quays.all (fun q => q.2.reqs.isEmpty && q.2.busy.isEmpty) && s.groups.all (fun e => e.2.wave.isNone)
    && s.arrays.all fun a => a.2.active.isNone && a.2.slots.all fun x => x.queue.isEmpty && x.closed.isEmpty

/-- The deepest state whose condition holds; `quiet`: there has been no CXL or fabric traffic for 1 ms (R344). The other times are the
event's. -/
def State.idleDepth (s : State) (quiet : Bool) : Nat :=
  if s.groups.any fun e => e.2.wave.isNone then 0
  else if !s.enginesIdle then 1
  else if !(s.packets.isEmpty && s.jobs.isEmpty && s.writes.isEmpty && s.portQ.isEmpty && s.lsq.isEmpty && s.pendPar.all fun e => e.2 == 0) then 2
  else if quiet then 4 else 3

/-- The deepest state that a latency tolerance in µs allows (R344). -/
def tolerated (ltol : Nat) : Nat :=
  if ltol < 2 then 0 else if ltol < 20 then 1 else if ltol < 200 then 2 else if ltol < 5000 then 3 else 4

/-- The state that FORCE names in host-assisted mode, and the deepest one that LTOL allows in hardware mode (R335, R343). -/
def State.powerLimit (s : State) : Nat :=
  if s.hostMode 5 then (if s.dev.force > 4 then 0 else s.dev.force) else tolerated s.dev.ltol

/-- The state that the power policy enters next (R344): a deeper one whose conditions hold, or, where FORCE or LTOL has been lowered below
the present state, the one that it now names. -/
def State.powerNext (s : State) (quiet : Bool) : Option Nat :=
  let m := s.powerLimit
  let d := s.idleDepth quiet
  let t := if s.hostMode 5 then m else min m d
  if s.dev.power < t then (if t ≤ d then some t else none) else if m < s.dev.power then some m else none

/-- POWER_STATE_ENTRY (R335, R344). -/
def execPowerStateEntry (s : State) : Host.Outcome State Fault Refusal :=
  event s ((s.powerNext (Config.linksQuiet s.seq)).map fun t => { s.setDev fun v => { v with power := t } with seq := s.seq + 1 })

/-- WAKE_EVENT (R344): leaves the state, or aborts an entry. -/
def execWakeEvent (_w : WakeCause) (s : State) : Host.Outcome State Fault Refusal := .next s.awake

/-- POWER_THROTTLE (R345): a lower core clock changes timing only. -/
def execPowerThrottle (step : Nat) (s : State) : Host.Outcome State Fault Refusal :=
  .next (s.setDev fun v => { v with throttle := step })

/-! ### Package reset (R164, R166, R346) -/

/-- The boot ROM accepts the image in place (R346). -/
def Dev.bootOk (v : Dev) : Bool := imageOk v.image.2 && decide (v.fused ≤ v.image.1)

/-- What survives package reset: the records of lost stacks, the firmware and its counters, and what has gone out of the package. A
pending update is in place from now on. -/
def Dev.afterReset (v : Dev) : Dev :=
  let u : Dev :=
    { stkh := v.stkh.map fun h => { lost := h.lost }
      repl := v.repl, lost := v.lost, msix := v.msix, events := v.events
      nonces := v.nonces
      fw := v.pendingFw.or v.fw
      rollback := match v.pendingFw with
        | some (r, _) => r
        | none => v.rollback }
  { u with recovery := !u.bootOk }

/-- PACKAGE_RESET (R346): the pending update is applied, the image in place is checked, and the package starts afresh. Host
memory and other packages keep their bytes. -/
def execPackageReset (s : State) : Host.Outcome State Fault Refusal :=
  let t : State := { State.reset with
    agenda := s.agenda, seq := s.seq
    mem := s.mem.filter fun e => region e.1 == .host || region e.1 == .fabric
    dev := s.dev.afterReset }
  .next (if s.dev.pendingFw.isSome then t.cxlEvent 4 0 0 else t)

end Sys2Proof.Machine
end

