-- ==== Sys2Proof/Machine/Replies.lean ====
section
/-! DEFINITION. Replies of fault service, and what waited for them (R26, R71, R109, R200, R285, R299 to R301, R334, R335, R352,
R353). -/

namespace Sys2Proof.Machine

/-! ### Refusals (R290, R300) -/

/-- A lane whose access is refused has no share in its instruction's outstanding result (R186). -/
def Group.dropRefused (G : Group) (l : Nat) : Group := match (G.lane l).wait with
  | .fault _ (.ldlu q _) _ _ => G.dropLane q l
  | _ => G

/-- The lanes of one instruction whose fault is refused trap together (R290); a frame that cannot be reached ends the context
(R287, R291). A helper lane ends where its fetch is refused, and else runs on (R98). -/
def State.lanesRefused (s : State) (g : Nat) (pc : DWord) (ls : List Nat) : State :=
  match s.group? g with
  | none => s
  | some G =>
    let of := fun l => match (G.lane l).wait with
      | .fault _ _ _ (some r) => some r
      | _ => none
    let frame := ls.findSome? fun l => match (G.lane l).wait with
      | .fault _ (.frame r) _ _ => some r
      | .fault _ .eret _ (some r) => some r
      | _ => none
    match frame with
    | some r => s.terminate G.ctx r
    | none =>
      let m := maskOf fun l => ls.contains l && (of l).isSome
      let fetch := maskOf fun l => match (G.lane l).wait with
        | .fault _ .fetch _ _ => true
        | _ => false
      let s := s.bump
      let s := s.updGroup g fun G => ls.foldl Group.dropRefused G
      let hs := m &&& G.helpers
      let s := s.endHelpers (atPc g pc s.seq (hs &&& fetch)) (hs &&& fetch)
      let s := s.updGroup g fun G => G.updLanes (hs &&& ~~~fetch) fun _ L => { L.wakeUp (s.now g) with pc := L.pc + 12 }
      s.raise (atPc g pc s.seq m) m fun l => (of l).getD { cause := .translation }

/-- The lanes of an entry, by group and address. -/
def State.laneGroups (s : State) (ws : List Waiter) : List (Nat × DWord × List Nat) :=
  ws.foldl (fun r w => match w with
    | .lane g l =>
      let pc := (s.lane g l).pc
      if r.any fun e => e.1 == g && e.2.1 == pc then r.map fun e => if e.1 == g && e.2.1 == pc then (e.1, e.2.1, e.2.2 ++ [l]) else e
      else r ++ [(g, pc, [l])]
    | _ => r) []

/-! ### Outstanding results (R26, R300) -/

/-- One lane of an outstanding result: it is read again, or its outcome is the refusal. -/
def PLane.reply (x : PLane) (resolved helper : Bool) (p : Pend) (e : XFault) : PLane :=
  match x with
  | .faulted va => if resolved then .waiting va else .lost (if helper then none else some (p.lostRec e va))
  | x => x

/-- Lanes of a result that `m` selects get their reply; lanes of a GATH that runs ahead go on after a refusal. -/
def State.pendReply (s : State) (g seq : Nat) (m : Word) (resolved : Bool) (e : XFault) : State :=
  let s := s.updGroup g fun G =>
    { G with pend := G.pend.map fun p =>
        if p.seq = seq then { p with lanes := p.lanes.map fun x =>
          (x.1, if inMask m x.1 then x.2.reply resolved (G.lane x.1).helper p e else x.2) }
        else p }
  (s.gathGo g seq m).resultWake g seq

/-! ### One waiter -/

/-- The address of a write for a launch (R353). -/
def State.stepVa (s : State) : LStep → DWord
  | .team t => ((s.team? t).map fun T => T.desc.teamev).getD 0
  | .unit u => ((AMap.get? s.units u).map fun u => (s.unitDesc u).clev).getD 0
  | .launch l => ((AMap.get? s.launches l).map Launch.caddr).getD 0

/-- What else waits on an entry; `none` while a wave holds a write of a launch. -/
def State.waiterReply (s : State) (f : FaultEntry) (resolved : Bool) (w : Waiter) : Option State :=
  let x : XFault := { cause := f.cause, sub := f.sub }
  match w with
  | .lane g l => some (if resolved then s.laneResolved g l else s)
  | .pend g seq l => some (s.pendReply g seq (1 <<< l) resolved x)
  | .group g seq => some (s.pendReply g seq 0xFFFFFFFF resolved x)
  | .copy core j =>
    some (match s.copyAt core j with
      | some c =>
        if !c.waiting then s
        else if resolved then s.updCopy core j fun c => { c with waiting := false }
        else s.copyRefused core j c x f.kind
      | none => s)
  | .gate u =>
    some (match s.gateHead u with
      | some (i, c) =>
        if !c.waiting then s
        else if resolved then s.updGate u i fun c => { c with waiting := false }
        else s.gateRefused u x f.kind
      | none => s)
  | .mma a i => some (s.mmaReply a i (if resolved then none else some (f.cause, f.sub)))
  | .bwr i =>
    some (match AMap.get? s.bstores i with
      | some e =>
        if !e.waiting then s
        else if resolved then s.updStore i fun e => { e with waiting := false } else s.storeFail i e f.cause f.sub e.fva
      | none => s)
  | .launch step =>
    if resolved then s.launchStep step false
    else (s.logRecord f.ctx (launchRec x f.kind (s.stepVa step))).launchStep step true
  | .load t _ =>
    some (match s.team? t with
      | some T => match T.loads, resolved with
        | e :: es, false => (s.loadFails t (T.loadRec e x)).updTeam t fun T => { T with loads := es }
        | _, _ => s
      | none => s)

def State.waitersReply (s : State) (f : FaultEntry) (resolved : Bool) : List Waiter → Option State
  | [] => some s
  | w :: ws => match s.waiterReply f resolved w with
    | some s => s.waitersReply f resolved ws
    | none => none

/-- Lanes of one store that are served together perform it highest first, so that a lower one writes nothing that a higher one supplies
(R71); the waiters that are no lanes come before. -/
def servedOrder (ws : List Waiter) : List Waiter :=
  let at' := fun (w : Waiter) => match w with
    | .lane _ l => some l
    | _ => none
  (ws.filter fun w => (at' w).isNone) ++ (List.range 32).reverse.flatMap fun l => ws.filter fun w => at' w == some l

/-- An entry is answered (R300): it leaves its queue, and every waiter acts; accesses that its faults kept back are made (R285), and lanes
that waited with a record due take it (R263). -/
def State.answerFault (s : State) (die i : Nat) (f : FaultEntry) (resolved : Bool) : Option State :=
  let s := { s with faults := modAt s.faults die fun q => dropAt q i }
  let gs := s.laneGroups f.waiters
  (s.waitersReply f resolved (servedOrder f.waiters)).map fun s =>
    (gs.foldl (fun s e =>
      if resolved then (s.updGroup e.1 fun G => G.partFrom (maskOf fun l => e.2.2.contains l)).takeLate e.1
      else s.lanesRefused e.1 e.2.1 e.2.2) s).retryAll

/-! ### The servicers -/

/-- The L0 entry that marks a fault for a zero fill, with its value now (R352). -/
def State.zeroMark (s : State) (f : FaultEntry) : Option (Nat × DWord) :=
  match f.l0 with
  | some a =>
    let e := leDWord (s.bytes a 8)
    if f.cause == .translation && f.sub == 0 && e.getLsbD 63 then some (a, e) else none
  | none => none

/-- FAULT_REPLY (R299, R300, R335): the host has written REPLY, or Snido refuses a fault that no zero fill serves. -/
def execFaultReply (die i : Nat) (resolved : Bool) (s : State) : Host.Outcome State Fault Refusal :=
  event s <|
  match (s.faults.getD die [])[i]? with
  | none => none
  | some f =>
    let ok := f.queued && match f.addr with
      | some _ => s.replyOf f != 0 && (s.replyOf f == 1) == resolved
      | none => !resolved && (s.zeroMark f).isNone
    if ok then (s.answerFault die i f resolved) else none

/-- The entry with its new frame: FRAME, HOST, TIER, A, D, LEAF and V are set; the rest stays as software prepared it. -/
def filledEntry (e : DWord) (frame : Nat) : DWord :=
  (e &&& 0xFFF000000000CF9C) ||| BitVec.ofNat 64 (frame / 2 ^ 16 % 2 ^ 36 * 2 ^ 16) ||| 3

/-- ZERO_FILL (R335, R352): Snido installs a zeroed frame of the donated pool and replies RESOLVED; with the pool empty, REFUSED.
An entry that another fill has made valid needs no frame. -/
def execZeroFill (die i : Nat) (frame : Option Nat) (s : State) : Host.Outcome State Fault Refusal :=
  event s <|
  match (s.faults.getD die [])[i]? with
  | none => none
  | some f =>
    match s.zeroMark f with
    | none => none
    | some (a, e) =>
      if f.addr.isSome || !f.queued then none
      else if pteV e then (s.answerFault die i f true)
      else match frame with
        | none => (s.answerFault die i f false)
        | some p =>
          if p % 65536 != 0 || !inDevice p 65536 || region p == .tier2 || s.waveHolds (a :: (List.range 256).map (p + 256 * ·)) then
            none
          else
            let s := s.homeWrite none [] (span p (List.replicate 65536 0))
            let s := s.homeWrite none [] (span a (leBytes 8 (filledEntry e p).toNat))
            (s.answerFault die i f true)

end Sys2Proof.Machine
end

