-- ==== Sys2Proof/Machine/Dispatch.lean ====
section
/-! DEFINITION. One arm per row of the opcode table: the instruction's meaning. -/

namespace Sys2Proof.Machine

/-- The effect of one instruction or event. -/
def exec (i : Instr) (s : State) : Host.Outcome State Fault Refusal :=
  match i with
  | .parkComplete g => Sys2Proof.Machine.execParkComplete g s
  | .variableResultReturn g idx lanes how => Sys2Proof.Machine.execVariableResultReturn g idx lanes how s
  | .gathLaneArrival g idx lanes how => Sys2Proof.Machine.execGathLaneArrival g idx lanes how s
  | .asyncRecordArrival ix => Sys2Proof.Machine.execAsyncRecordArrival ix s
  | .faultReply die ix resolved => Sys2Proof.Machine.execFaultReply die ix resolved s
  | .zeroFill die ix frame => Sys2Proof.Machine.execZeroFill die ix frame s
  | .monitorWriteObserved g lane => Sys2Proof.Machine.execMonitorWriteObserved g lane s
  | .mwaitBudgetExpiry g lane => Sys2Proof.Machine.execMwaitBudgetExpiry g lane s
  | .storeRegistration ix => Sys2Proof.Machine.execStoreRegistration ix s
  | .homeAtomicPerform ix how => Sys2Proof.Machine.execHomeAtomicPerform ix how s
  | .ackCountZero g => Sys2Proof.Machine.execAckCountZero g s
  | .discardPerform ix => Sys2Proof.Machine.execDiscardPerform ix s
  | .quayRequestArrival ix => Sys2Proof.Machine.execQuayRequestArrival ix s
  | .quayWaveForm quay => Sys2Proof.Machine.execQuayWaveForm quay s
  | .quayWaveEnd w => Sys2Proof.Machine.execQuayWaveEnd w s
  | .quayReply ix => Sys2Proof.Machine.execQuayReply ix s
  | .notify q value => Sys2Proof.Machine.execNotify q value s
  | .packetRead q => Sys2Proof.Machine.execPacketRead q s
  | .grid ix => Sys2Proof.Machine.execGrid ix s
  | .gang ix => Sys2Proof.Machine.execGang ix s
  | .graph ix => Sys2Proof.Machine.execGraph ix s
  | .depend ix => Sys2Proof.Machine.execDepend ix s
  | .barrierAnd ix => Sys2Proof.Machine.execBarrierAnd ix s
  | .dependConditionHolds ix => Sys2Proof.Machine.execDependConditionHolds ix s
  | .clusterPlacement l cores => Sys2Proof.Machine.execClusterPlacement l cores s
  | .teamStart t => Sys2Proof.Machine.execTeamStart t s
  | .teamRetire t => Sys2Proof.Machine.execTeamRetire t s
  | .groupSwap core out inn => Sys2Proof.Machine.execGroupSwap core out inn s
  | .agedDisplacement core => Sys2Proof.Machine.execAgedDisplacement core s
  | .bundleSelect core fresh => Sys2Proof.Machine.execBundleSelect core fresh s
  | .fallbackAdvance g => Sys2Proof.Machine.execFallbackAdvance g s
  | .copy g => Sys2Proof.Machine.execCopy g s
  | .copyResume g => Sys2Proof.Machine.execCopyResume g s
  | .copyCancel g => Sys2Proof.Machine.execCopyCancel g s
  | .copyStart core j fromBuf => Sys2Proof.Machine.execCopyStart core j fromBuf s
  | .copyComplete core j => Sys2Proof.Machine.execCopyComplete core j s
  | .copyStop core j => Sys2Proof.Machine.execCopyStop core j s
  | .topk unit => Sys2Proof.Machine.execTopk unit s
  | .hist unit => Sys2Proof.Machine.execHist unit s
  | .psum unit => Sys2Proof.Machine.execPsum unit s
  | .perm unit => Sys2Proof.Machine.execPerm unit s
  | .gateCommandComplete unit => Sys2Proof.Machine.execGateCommandComplete unit s
  | .arrayBoundary array => Sys2Proof.Machine.execArrayBoundary array s
  | .mmaEnterQueue array slot ix => Sys2Proof.Machine.execMmaEnterQueue array slot ix s
  | .mmaComplete array => Sys2Proof.Machine.execMmaComplete array s
  | .mmaFetchFault array => Sys2Proof.Machine.execMmaFetchFault array s
  | .bwrComplete ix => Sys2Proof.Machine.execBwrComplete ix s
  | .binCountTrigger graph die node core => Sys2Proof.Machine.execBinCountTrigger graph die node core s
  | .binTimerExpiry graph die node => Sys2Proof.Machine.execBinTimerExpiry graph die node s
  | .seedEntry graph node => Sys2Proof.Machine.execSeedEntry graph node s
  | .launchListStart die => Sys2Proof.Machine.execLaunchListStart die s
  | .rd port tag pa beats src met => Sys2Proof.Machine.execRd port tag pa beats src met s
  | .wr port tag pa beats masks src met => Sys2Proof.Machine.execWr port tag pa beats masks src met s
  | .rdr ix => Sys2Proof.Machine.execRdr ix s
  | .wack ix => Sys2Proof.Machine.execWack ix s
  | .delta ix => Sys2Proof.Machine.execDelta ix s
  | .dack ix => Sys2Proof.Machine.execDack ix s
  | .lock ix => Sys2Proof.Machine.execLock ix s
  | .locked ix => Sys2Proof.Machine.execLocked ix s
  | .chunkrd ix => Sys2Proof.Machine.execChunkrd ix s
  | .chunk ix => Sys2Proof.Machine.execChunk ix s
  | .unlock ix => Sys2Proof.Machine.execUnlock ix s
  | .stackLoss stack => Sys2Proof.Machine.execStackLoss stack s
  | .tierMigration ctx va tier frame => Sys2Proof.Machine.execTierMigration ctx va tier frame s
  | .save u pa => Sys2Proof.Machine.execSave u pa s
  | .contextEvict ctx => Sys2Proof.Machine.execContextEvict ctx s
  | .createContext => Sys2Proof.Machine.execCreateContext s
  | .destroyContext => Sys2Proof.Machine.execDestroyContext s
  | .createQueue => Sys2Proof.Machine.execCreateQueue s
  | .destroyQueue => Sys2Proof.Machine.execDestroyQueue s
  | .resetQueue => Sys2Proof.Machine.execResetQueue s
  | .preempt => Sys2Proof.Machine.execPreempt s
  | .resume cores pa => Sys2Proof.Machine.execResume cores pa s
  | .migrate frame => Sys2Proof.Machine.execMigrate frame s
  | .declareLost => Sys2Proof.Machine.execDeclareLost s
  | .repairLane best => Sys2Proof.Machine.execRepairLane best s
  | .setMode => Sys2Proof.Machine.execSetMode s
  | .nonce => Sys2Proof.Machine.execNonce s
  | .token => Sys2Proof.Machine.execToken s
  | .attest => Sys2Proof.Machine.execAttest s
  | .halt => Sys2Proof.Machine.execHalt s
  | .run => Sys2Proof.Machine.execRun s
  | .step => Sys2Proof.Machine.execStep s
  | .snap => Sys2Proof.Machine.execSnap s
  | .nextevt => Sys2Proof.Machine.execNextevt s
  | .registerWrite src pa size value => Sys2Proof.Machine.execRegisterWrite src pa size value s
  | .cxlMemRead pa n => Sys2Proof.Machine.execCxlMemRead pa n s
  | .cxlMemWrite pa bytes => Sys2Proof.Machine.execCxlMemWrite pa bytes s
  | .backInvalidate line => Sys2Proof.Machine.execBackInvalidate line s
  | .fabricWriteArrival pa bytes signal => Sys2Proof.Machine.execFabricWriteArrival pa bytes signal s
  | .dataFlit port flit => Sys2Proof.Machine.execDataFlit port flit s
  | .idleFlit port flit => Sys2Proof.Machine.execIdleFlit port flit s
  | .nakFlit port flit => Sys2Proof.Machine.execNakFlit port flit s
  | .retrainFlit port => Sys2Proof.Machine.execRetrainFlit port s
  | .laneRepair port lane best => Sys2Proof.Machine.execLaneRepair port lane best s
  | .powerStateEntry => Sys2Proof.Machine.execPowerStateEntry s
  | .wakeEvent w => Sys2Proof.Machine.execWakeEvent w s
  | .powerThrottle step => Sys2Proof.Machine.execPowerThrottle step s
  | .packageReset => Sys2Proof.Machine.execPackageReset s
  | .unlistedOpcode w => Sys2Proof.Machine.execUnlistedOpcode w s
  | .fetchFault f => Sys2Proof.Machine.execFetchFault f s
  | .patrolScrub stack word found => Sys2Proof.Machine.execPatrolScrub stack word found s
  | .deviceDoesNotAnswer g seq dev => Sys2Proof.Machine.execDeviceDoesNotAnswer g seq dev s
  | .bytesLand e n => Sys2Proof.Machine.execBytesLand e n s
  | .nop h => Sys2Proof.Machine.execNop h s
  | .bra h disp => Sys2Proof.Machine.execBra h disp s
  | .jmpx h a => Sys2Proof.Machine.execJmpx h a s
  | .call h disp => Sys2Proof.Machine.execCall h disp s
  | .callx h a => Sys2Proof.Machine.execCallx h a s
  | .ret h => Sys2Proof.Machine.execRet h s
  | .rvset h j sa disp => Sys2Proof.Machine.execRvset h j sa disp s
  | .rvwait h j => Sys2Proof.Machine.execRvwait h j s
  | .exit h => Sys2Proof.Machine.execExit h s
  | .yield h => Sys2Proof.Machine.execYield h s
  | .trap h code => Sys2Proof.Machine.execTrap h code s
  | .bkpt h code => Sys2Proof.Machine.execBkpt h code s
  | .mov h d a => Sys2Proof.Machine.execMov h d a s
  | .movi h d imm => Sys2Proof.Machine.execMovi h d imm s
  | .iadd h d a b => Sys2Proof.Machine.execIadd h d a b s
  | .isub h d a b => Sys2Proof.Machine.execIsub h d a b s
  | .iadd64 h d a b => Sys2Proof.Machine.execIadd64 h d a b s
  | .isub64 h d a b => Sys2Proof.Machine.execIsub64 h d a b s
  | .imul h d a b => Sys2Proof.Machine.execImul h d a b s
  | .imulhs h d a b => Sys2Proof.Machine.execImulhs h d a b s
  | .imulhu h d a b => Sys2Proof.Machine.execImulhu h d a b s
  | .imad h d a b c => Sys2Proof.Machine.execImad h d a b c s
  | .imadw h d a b c => Sys2Proof.Machine.execImadw h d a b c s
  | .idivs h d a b => Sys2Proof.Machine.execIdivs h d a b s
  | .idivu h d a b => Sys2Proof.Machine.execIdivu h d a b s
  | .irems h d a b => Sys2Proof.Machine.execIrems h d a b s
  | .iremu h d a b => Sys2Proof.Machine.execIremu h d a b s
  | .imin h d a b => Sys2Proof.Machine.execImin h d a b s
  | .imax h d a b => Sys2Proof.Machine.execImax h d a b s
  | .umin h d a b => Sys2Proof.Machine.execUmin h d a b s
  | .umax h d a b => Sys2Proof.Machine.execUmax h d a b s
  | .iabs h d a => Sys2Proof.Machine.execIabs h d a s
  | .and h d a b => Sys2Proof.Machine.execAnd h d a b s
  | .or h d a b => Sys2Proof.Machine.execOr h d a b s
  | .xor h d a b => Sys2Proof.Machine.execXor h d a b s
  | .andn h d a b => Sys2Proof.Machine.execAndn h d a b s
  | .not h d a => Sys2Proof.Machine.execNot h d a s
  | .shl h d a b => Sys2Proof.Machine.execShl h d a b s
  | .shr h d a b => Sys2Proof.Machine.execShr h d a b s
  | .sar h d a b => Sys2Proof.Machine.execSar h d a b s
  | .rotl h d a b => Sys2Proof.Machine.execRotl h d a b s
  | .fshr h d a b c => Sys2Proof.Machine.execFshr h d a b c s
  | .clz h d a => Sys2Proof.Machine.execClz h d a s
  | .popc h d a => Sys2Proof.Machine.execPopc h d a s
  | .brev h d a => Sys2Proof.Machine.execBrev h d a s
  | .bfxu h d a b => Sys2Proof.Machine.execBfxu h d a b s
  | .bfxs h d a b => Sys2Proof.Machine.execBfxs h d a b s
  | .bfi h d a b c => Sys2Proof.Machine.execBfi h d a b c s
  | .lea h d a b sh => Sys2Proof.Machine.execLea h d a b sh s
  | .lea64 h d a b sh zx => Sys2Proof.Machine.execLea64 h d a b sh zx s
  | .sel h d a b c => Sys2Proof.Machine.execSel h d a b c s
  | .icmpeq h d a b => Sys2Proof.Machine.execIcmpeq h d a b s
  | .icmpne h d a b => Sys2Proof.Machine.execIcmpne h d a b s
  | .icmplt h d a b => Sys2Proof.Machine.execIcmplt h d a b s
  | .icmple h d a b => Sys2Proof.Machine.execIcmple h d a b s
  | .ucmplt h d a b => Sys2Proof.Machine.execUcmplt h d a b s
  | .ucmple h d a b => Sys2Proof.Machine.execUcmple h d a b s
  | .icmpeq64 h d a b => Sys2Proof.Machine.execIcmpeq64 h d a b s
  | .ucmplt64 h d a b => Sys2Proof.Machine.execUcmplt64 h d a b s
  | .pand h d a b => Sys2Proof.Machine.execPand h d a b s
  | .por h d a b => Sys2Proof.Machine.execPor h d a b s
  | .pxor h d a b => Sys2Proof.Machine.execPxor h d a b s
  | .pnot h d a => Sys2Proof.Machine.execPnot h d a s
  | .p2v h d => Sys2Proof.Machine.execP2v h d s
  | .v2p h a mask => Sys2Proof.Machine.execV2p h a mask s
  | .fadd h d a b => Sys2Proof.Machine.execFadd h d a b s
  | .fsub h d a b => Sys2Proof.Machine.execFsub h d a b s
  | .fmul h d a b => Sys2Proof.Machine.execFmul h d a b s
  | .ffma h d a b c => Sys2Proof.Machine.execFfma h d a b c s
  | .fmin h d a b => Sys2Proof.Machine.execFmin h d a b s
  | .fmax h d a b => Sys2Proof.Machine.execFmax h d a b s
  | .fabs h d a => Sys2Proof.Machine.execFabs h d a s
  | .fneg h d a => Sys2Proof.Machine.execFneg h d a s
  | .fcmpeq h d a b => Sys2Proof.Machine.execFcmpeq h d a b s
  | .fcmplt h d a b => Sys2Proof.Machine.execFcmplt h d a b s
  | .fcmple h d a b => Sys2Proof.Machine.execFcmple h d a b s
  | .fcmpun h d a b => Sys2Proof.Machine.execFcmpun h d a b s
  | .frcp h d a => Sys2Proof.Machine.execFrcp h d a s
  | .frsq h d a => Sys2Proof.Machine.execFrsq h d a s
  | .fsqrt h d a => Sys2Proof.Machine.execFsqrt h d a s
  | .fexp2 h d a => Sys2Proof.Machine.execFexp2 h d a s
  | .flog2 h d a => Sys2Proof.Machine.execFlog2 h d a s
  | .fsin h d a => Sys2Proof.Machine.execFsin h d a s
  | .fcos h d a => Sys2Proof.Machine.execFcos h d a s
  | .ftanh h d a => Sys2Proof.Machine.execFtanh h d a s
  | .fsig h d a => Sys2Proof.Machine.execFsig h d a s
  | .fclass h d a => Sys2Proof.Machine.execFclass h d a s
  | .dadd h d a b => Sys2Proof.Machine.execDadd h d a b s
  | .dsub h d a b => Sys2Proof.Machine.execDsub h d a b s
  | .dmul h d a b => Sys2Proof.Machine.execDmul h d a b s
  | .dfma h d a b c => Sys2Proof.Machine.execDfma h d a b c s
  | .dmin h d a b => Sys2Proof.Machine.execDmin h d a b s
  | .dmax h d a b => Sys2Proof.Machine.execDmax h d a b s
  | .dcmpeq h d a b => Sys2Proof.Machine.execDcmpeq h d a b s
  | .dcmplt h d a b => Sys2Proof.Machine.execDcmplt h d a b s
  | .dcmple h d a b => Sys2Proof.Machine.execDcmple h d a b s
  | .dcmpun h d a b => Sys2Proof.Machine.execDcmpun h d a b s
  | .drcpa h d a => Sys2Proof.Machine.execDrcpa h d a s
  | .dsqrt h d a => Sys2Proof.Machine.execDsqrt h d a s
  | .ddiv h d a b => Sys2Proof.Machine.execDdiv h d a b s
  | .hadd2 h d a b => Sys2Proof.Machine.execHadd2 h d a b s
  | .hmul2 h d a b => Sys2Proof.Machine.execHmul2 h d a b s
  | .hfma2 h d a b c => Sys2Proof.Machine.execHfma2 h d a b c s
  | .hmin2 h d a b => Sys2Proof.Machine.execHmin2 h d a b s
  | .hmax2 h d a b => Sys2Proof.Machine.execHmax2 h d a b s
  | .badd2 h d a b => Sys2Proof.Machine.execBadd2 h d a b s
  | .bmul2 h d a b => Sys2Proof.Machine.execBmul2 h d a b s
  | .bfma2 h d a b c => Sys2Proof.Machine.execBfma2 h d a b c s
  | .bmin2 h d a b => Sys2Proof.Machine.execBmin2 h d a b s
  | .bmax2 h d a b => Sys2Proof.Machine.execBmax2 h d a b s
  | .hdot2 h d a b c => Sys2Proof.Machine.execHdot2 h d a b c s
  | .bdot2 h d a b c => Sys2Proof.Machine.execBdot2 h d a b c s
  | .cvtif h d a => Sys2Proof.Machine.execCvtif h d a s
  | .cvtuf h d a => Sys2Proof.Machine.execCvtuf h d a s
  | .cvtfi h d a => Sys2Proof.Machine.execCvtfi h d a s
  | .cvtfin h d a => Sys2Proof.Machine.execCvtfin h d a s
  | .cvtfu h d a => Sys2Proof.Machine.execCvtfu h d a s
  | .cvtfd h d a => Sys2Proof.Machine.execCvtfd h d a s
  | .cvtdf h d a => Sys2Proof.Machine.execCvtdf h d a s
  | .cvtld h d a => Sys2Proof.Machine.execCvtld h d a s
  | .cvtdl h d a => Sys2Proof.Machine.execCvtdl h d a s
  | .cvtfb2 h d a b => Sys2Proof.Machine.execCvtfb2 h d a b s
  | .cvtfh2 h d a b => Sys2Proof.Machine.execCvtfh2 h d a b s
  | .cvtbf h d a => Sys2Proof.Machine.execCvtbf h d a s
  | .cvthf h d a => Sys2Proof.Machine.execCvthf h d a s
  | .cvte4 h d a => Sys2Proof.Machine.execCvte4 h d a s
  | .cvte5 h d a => Sys2Proof.Machine.execCvte5 h d a s
  | .cvti8 h d a => Sys2Proof.Machine.execCvti8 h d a s
  | .cvte4f h d a => Sys2Proof.Machine.execCvte4f h d a s
  | .cvte5f h d a => Sys2Proof.Machine.execCvte5f h d a s
  | .cvti8f h d a => Sys2Proof.Machine.execCvti8f h d a s
  | .cvtq4f h d a b => Sys2Proof.Machine.execCvtq4f h d a b s
  | .qblk h d a b => Sys2Proof.Machine.execQblk h d a b s
  | .qblke4 h d a b => Sys2Proof.Machine.execQblke4 h d a b s
  | .qswph h d a => Sys2Proof.Machine.execQswph h d a s
  | .qswpv h d a => Sys2Proof.Machine.execQswpv h d a s
  | .qswpd h d a => Sys2Proof.Machine.execQswpd h d a s
  | .qbrd h d a ix => Sys2Proof.Machine.execQbrd h d a ix s
  | .shfl h d a b => Sys2Proof.Machine.execShfl h d a b s
  | .shflup h d a b => Sys2Proof.Machine.execShflup h d a b s
  | .shfldn h d a b => Sys2Proof.Machine.execShfldn h d a b s
  | .shflx h d a b => Sys2Proof.Machine.execShflx h d a b s
  | .voteany h d a => Sys2Proof.Machine.execVoteany h d a s
  | .voteall h d a => Sys2Proof.Machine.execVoteall h d a s
  | .ballot h d a => Sys2Proof.Machine.execBallot h d a s
  | .matchLanes h d a => Sys2Proof.Machine.execMatchLanes h d a s
  | .gsumi h d a => Sys2Proof.Machine.execGsumi h d a s
  | .gsumf h d a => Sys2Proof.Machine.execGsumf h d a s
  | .gmini h d a => Sys2Proof.Machine.execGmini h d a s
  | .gmaxi h d a => Sys2Proof.Machine.execGmaxi h d a s
  | .gminf h d a => Sys2Proof.Machine.execGminf h d a s
  | .gmaxf h d a => Sys2Proof.Machine.execGmaxf h d a s
  | .gscani h d a => Sys2Proof.Machine.execGscani h d a s
  | .gscanf h d a => Sys2Proof.Machine.execGscanf h d a s
  | .isect h d a b => Sys2Proof.Machine.execIsect h d a b s
  | .isectadv h d a b => Sys2Proof.Machine.execIsectadv h d a b s
  | .ishelp h d a => Sys2Proof.Machine.execIshelp h d a s
  | .gcnt h d a => Sys2Proof.Machine.execGcnt h d a s
  | .lds8u h d a disp => Sys2Proof.Machine.execLds8u h d a disp s
  | .lds8s h d a disp => Sys2Proof.Machine.execLds8s h d a disp s
  | .lds16u h d a disp => Sys2Proof.Machine.execLds16u h d a disp s
  | .lds16s h d a disp => Sys2Proof.Machine.execLds16s h d a disp s
  | .lds32 h d a disp => Sys2Proof.Machine.execLds32 h d a disp s
  | .lds64 h d a disp => Sys2Proof.Machine.execLds64 h d a disp s
  | .lds128 h d a disp => Sys2Proof.Machine.execLds128 h d a disp s
  | .sts8 h a b disp => Sys2Proof.Machine.execSts8 h a b disp s
  | .sts16 h a b disp => Sys2Proof.Machine.execSts16 h a b disp s
  | .sts32 h a b disp => Sys2Proof.Machine.execSts32 h a b disp s
  | .sts64 h a b disp => Sys2Proof.Machine.execSts64 h a b disp s
  | .sts128 h a b disp => Sys2Proof.Machine.execSts128 h a b disp s
  | .ldsh h d a disp => Sys2Proof.Machine.execLdsh h d a disp s
  | .stsh h a b disp => Sys2Proof.Machine.execStsh h a b disp s
  | .saadd h d a b disp => Sys2Proof.Machine.execSaadd h d a b disp s
  | .sacas h d a b disp => Sys2Proof.Machine.execSacas h d a b disp s
  | .safadd h d a b disp => Sys2Proof.Machine.execSafadd h d a b disp s
  | .ld8u h d a disp => Sys2Proof.Machine.execLd8u h d a disp s
  | .ld8s h d a disp => Sys2Proof.Machine.execLd8s h d a disp s
  | .ld16u h d a disp => Sys2Proof.Machine.execLd16u h d a disp s
  | .ld16s h d a disp => Sys2Proof.Machine.execLd16s h d a disp s
  | .ld32 h d a disp => Sys2Proof.Machine.execLd32 h d a disp s
  | .ld64 h d a disp => Sys2Proof.Machine.execLd64 h d a disp s
  | .ld128 h d a disp => Sys2Proof.Machine.execLd128 h d a disp s
  | .st8 h a b disp => Sys2Proof.Machine.execSt8 h a b disp s
  | .st16 h a b disp => Sys2Proof.Machine.execSt16 h a b disp s
  | .st32 h a b disp => Sys2Proof.Machine.execSt32 h a b disp s
  | .st64 h a b disp => Sys2Proof.Machine.execSt64 h a b disp s
  | .st128 h a b disp => Sys2Proof.Machine.execSt128 h a b disp s
  | .ldacq32 h d a disp => Sys2Proof.Machine.execLdacq32 h d a disp s
  | .ldacq64 h d a disp => Sys2Proof.Machine.execLdacq64 h d a disp s
  | .strel32 h a b disp => Sys2Proof.Machine.execStrel32 h a b disp s
  | .strel64 h a b disp => Sys2Proof.Machine.execStrel64 h a b disp s
  | .gath32 h d a disp => Sys2Proof.Machine.execGath32 h d a disp s
  | .gath64 h d a disp => Sys2Proof.Machine.execGath64 h d a disp s
  | .scat32 h a b disp => Sys2Proof.Machine.execScat32 h a b disp s
  | .scat64 h a b disp => Sys2Proof.Machine.execScat64 h a b disp s
  | .pref h a disp => Sys2Proof.Machine.execPref h a disp s
  | .ldlu32 h d a disp => Sys2Proof.Machine.execLdlu32 h d a disp s
  | .disc h a disp => Sys2Proof.Machine.execDisc h a disp s
  | .puts h a b sc => Sys2Proof.Machine.execPuts h a b sc s
  | .aadd32 h d a b disp => Sys2Proof.Machine.execAadd32 h d a b disp s
  | .aadd64 h d a b disp => Sys2Proof.Machine.execAadd64 h d a b disp s
  | .amins32 h d a b disp => Sys2Proof.Machine.execAmins32 h d a b disp s
  | .amaxs32 h d a b disp => Sys2Proof.Machine.execAmaxs32 h d a b disp s
  | .aminu32 h d a b disp => Sys2Proof.Machine.execAminu32 h d a b disp s
  | .amaxu32 h d a b disp => Sys2Proof.Machine.execAmaxu32 h d a b disp s
  | .aand32 h d a b disp => Sys2Proof.Machine.execAand32 h d a b disp s
  | .aor32 h d a b disp => Sys2Proof.Machine.execAor32 h d a b disp s
  | .axor32 h d a b disp => Sys2Proof.Machine.execAxor32 h d a b disp s
  | .axch32 h d a b disp => Sys2Proof.Machine.execAxch32 h d a b disp s
  | .axch64 h d a b disp => Sys2Proof.Machine.execAxch64 h d a b disp s
  | .acas32 h d a b disp => Sys2Proof.Machine.execAcas32 h d a b disp s
  | .acas64 h d a b disp => Sys2Proof.Machine.execAcas64 h d a b disp s
  | .acas128 h d a b disp => Sys2Proof.Machine.execAcas128 h d a b disp s
  | .afaddb h d a b disp => Sys2Proof.Machine.execAfaddb h d a b disp s
  | .afaddf h d a b disp => Sys2Proof.Machine.execAfaddf h d a b disp s
  | .afaddd h d a b disp => Sys2Proof.Machine.execAfaddd h d a b disp s
  | .afminb h d a b disp => Sys2Proof.Machine.execAfminb h d a b disp s
  | .afmaxb h d a b disp => Sys2Proof.Machine.execAfmaxb h d a b disp s
  | .afminf h d a b disp => Sys2Proof.Machine.execAfminf h d a b disp s
  | .afmaxf h d a b disp => Sys2Proof.Machine.execAfmaxf h d a b disp s
  | .afmind h d a b disp => Sys2Proof.Machine.execAfmind h d a b disp s
  | .afmaxd h d a b disp => Sys2Proof.Machine.execAfmaxd h d a b disp s
  | .afaddb2 h d a b disp => Sys2Proof.Machine.execAfaddb2 h d a b disp s
  | .afaddf2 h d a b disp => Sys2Proof.Machine.execAfaddf2 h d a b disp s
  | .nadd32 h a b disp => Sys2Proof.Machine.execNadd32 h a b disp s
  | .nadd64 h a b disp => Sys2Proof.Machine.execNadd64 h a b disp s
  | .nfaddb h a b disp => Sys2Proof.Machine.execNfaddb h a b disp s
  | .nfaddf h a b disp => Sys2Proof.Machine.execNfaddf h a b disp s
  | .nfaddd h a b disp => Sys2Proof.Machine.execNfaddd h a b disp s
  | .nfaddb2 h a b disp => Sys2Proof.Machine.execNfaddb2 h a b disp s
  | .nfaddf2 h a b disp => Sys2Proof.Machine.execNfaddf2 h a b disp s
  | .nfminf h a b disp => Sys2Proof.Machine.execNfminf h a b disp s
  | .nfmaxf h a b disp => Sys2Proof.Machine.execNfmaxf h a b disp s
  | .nor32 h a b disp => Sys2Proof.Machine.execNor32 h a b disp s
  | .qcall h d a b cls m => Sys2Proof.Machine.execQcall h d a b cls m s
  | .qcalla h d a b cls m => Sys2Proof.Machine.execQcalla h d a b cls m s
  | .qcalln h a b cls m => Sys2Proof.Machine.execQcalln h a b cls m s
  | .ldo h d a disp => Sys2Proof.Machine.execLdo h d a disp s
  | .sto h a b disp => Sys2Proof.Machine.execSto h a b disp s
  | .qret h b => Sys2Proof.Machine.execQret h b s
  | .bara h d bar => Sys2Proof.Machine.execBara h d bar s
  | .barw h a bar => Sys2Proof.Machine.execBarw h a bar s
  | .bars h bar => Sys2Proof.Machine.execBars h bar s
  | .barx h sa bar => Sys2Proof.Machine.execBarx h sa bar s
  | .fence h => Sys2Proof.Machine.execFence h s
  | .fencex h x y => Sys2Proof.Machine.execFencex h x y s
  | .marm h a disp => Sys2Proof.Machine.execMarm h a disp s
  | .mwait h d b cond budget => Sys2Proof.Machine.execMwait h d b cond budget s
  | .cvset h c a => Sys2Proof.Machine.execCvset h c a s
  | .sign h c => Sys2Proof.Machine.execSign h c s
  | .signw h d c => Sys2Proof.Machine.execSignw h d c s
  | .mxacq h d => Sys2Proof.Machine.execMxacq h d s
  | .mxrel h => Sys2Proof.Machine.execMxrel h s
  | .mmabf h d a c hb kq ms ns => Sys2Proof.Machine.execMmabf h d a c hb kq ms ns s
  | .mmahf h d a c hb kq ms ns => Sys2Proof.Machine.execMmahf h d a c hb kq ms ns s
  | .mmae4 h d a c hb kq ms ns => Sys2Proof.Machine.execMmae4 h d a c hb kq ms ns s
  | .mmae5 h d a c hb kq ms ns => Sys2Proof.Machine.execMmae5 h d a c hb kq ms ns s
  | .mmae45 h d a c hb kq ms ns => Sys2Proof.Machine.execMmae45 h d a c hb kq ms ns s
  | .mmai8 h d a c hb kq ms ns => Sys2Proof.Machine.execMmai8 h d a c hb kq ms ns s
  | .mmaq4 h d a c hb kq ms ns => Sys2Proof.Machine.execMmaq4 h d a c hb kq ms ns s
  | .mmaf64 h d a c hb kq ms ns => Sys2Proof.Machine.execMmaf64 h d a c hb kq ms ns s
  | .mmase4 h d a c hb kq ms ns hx => Sys2Proof.Machine.execMmase4 h d a c hb kq ms ns hx s
  | .mmasi8 h d a c hb kq ms ns hx => Sys2Proof.Machine.execMmasi8 h d a c hb kq ms ns hx s
  | .mmajbf h d a c hb ms ns => Sys2Proof.Machine.execMmajbf h d a c hb ms ns s
  | .mmaje4 h d a c hb ms ns => Sys2Proof.Machine.execMmaje4 h d a c hb ms ns s
  | .mmagbf h d a c hb gn ms ns hx => Sys2Proof.Machine.execMmagbf h d a c hb gn ms ns hx s
  | .mmage4 h d a c hb gn ms ns hx => Sys2Proof.Machine.execMmage4 h d a c hb gn ms ns hx s
  | .bzero h b => Sys2Proof.Machine.execBzero h b s
  | .brd h d b x => Sys2Proof.Machine.execBrd h d b x s
  | .bwr h b sb k ms ns bar => Sys2Proof.Machine.execBwr h b sb k ms ns bar s
  | .bgive h b x => Sys2Proof.Machine.execBgive h b x s
  | .bclaim h d b => Sys2Proof.Machine.execBclaim h d b s
  | .bfree h b => Sys2Proof.Machine.execBfree h b s
  | .bstat h d b => Sys2Proof.Machine.execBstat h d b s
  | .sprn8 h d a => Sys2Proof.Machine.execSprn8 h d a s
  | .sprn4e h d a => Sys2Proof.Machine.execSprn4e h d a s
  | .qpush h q a => Sys2Proof.Machine.execQpush h q a s
  | .qpop h d q => Sys2Proof.Machine.execQpop h d q s
  | .qtry h d q => Sys2Proof.Machine.execQtry h d q s
  | .tdef h t sa sb ready => Sys2Proof.Machine.execTdef h t sa sb ready s
  | .tstat h d t => Sys2Proof.Machine.execTstat h d t s
  | .tfree h t => Sys2Proof.Machine.execTfree h t s
  | .twait h t => Sys2Proof.Machine.execTwait h t s
  | .kdef h sa k => Sys2Proof.Machine.execKdef h sa k s
  | .krel h k => Sys2Proof.Machine.execKrel h k s
  | .evroute h e g en => Sys2Proof.Machine.execEvroute h e g en s
  | .evwait h g => Sys2Proof.Machine.execEvwait h g s
  | .evpost h e => Sys2Proof.Machine.execEvpost h e s
  | .launch h d sa disp => Sys2Proof.Machine.execLaunch h d sa disp s
  | .emit h d a node => Sys2Proof.Machine.execEmit h d a node s
  | .emitw h a node => Sys2Proof.Machine.execEmitw h a node s
  | .pipew h n a => Sys2Proof.Machine.execPipew h n a s
  | .piper h d n => Sys2Proof.Machine.execPiper h d n s
  | .pipetry h d n => Sys2Proof.Machine.execPipetry h d n s
  | .srd h d num => Sys2Proof.Machine.execSrd h d num s
  | .swr h hi a => Sys2Proof.Machine.execSwr h hi a s
  | .keyw h sa => Sys2Proof.Machine.execKeyw h sa s
  | .keyr h d a disp => Sys2Proof.Machine.execKeyr h d a disp s
  | .eret h => Sys2Proof.Machine.execEret h s
  | .trpv h a ix => Sys2Proof.Machine.execTrpv h a ix s
  | .tlbinv h sa b => Sys2Proof.Machine.execTlbinv h sa b s
  | .cachewb h sa b => Sys2Proof.Machine.execCachewb h sa b s
  | .cacheinv h sa b => Sys2Proof.Machine.execCacheinv h sa b s
  | .qreg h d sa cls => Sys2Proof.Machine.execQreg h d sa cls s
  | .qdereg h d cls => Sys2Proof.Machine.execQdereg h d cls s

end Sys2Proof.Machine
end

