-- ==== Sys2Proof/Machine/Policy.lean ====
section
/-! DEFINITION. The events that occur when the agenda names none: a choice among the orders that the manual allows. Every
event that can occur does so before the cores issue again, in the order of this list; what only time brings comes last. -/

namespace Sys2Proof.Machine

/-- Numbers below a length. -/
def upTo {α : Type} (l : List α) (f : Nat → List Instr) : List Instr := (List.range l.length).flatMap f

/-- Writes on their way, and what waits for them. -/
def State.writeEvents (s : State) : List Instr :=
  upTo s.lsq (fun i => [.storeRegistration i, .homeAtomicPerform i (.perform []), .homeAtomicPerform i .divert, .discardPerform i, .quayRequestArrival i]) ++
  s.groups.map (fun e => .ackCountZero e.1) ++ upTo s.qreplies (fun i => [.quayReply i]) ++
  upTo s.recsOut (fun i => [.asyncRecordArrival i])

/-- Lanes of a result that are still to return. -/
def Pend.due (p : Pend) : Word := maskOf fun l => match p.kind, AMap.get? p.lanes l with
  | _, some (.waiting _) | _, some (.half _ _ _ _) | .scat, some (.back _) => true
  | _, _ => false

/-- Results that return, monitors that have seen their value, and parks that end. -/
def State.groupEvents (s : State) : List Instr :=
  s.groups.flatMap fun e =>
    (e.2.pend.zipIdx.flatMap fun p => match p.1.kind with
      | .gath _ | .scat => [.gathLaneArrival e.1 p.2 p.1.due {}]
      | _ => [.variableResultReturn e.1 p.2 p.1.due {}]) ++
    ((List.range 32).map fun l => .monitorWriteObserved e.1 l) ++ [.parkComplete e.1, .fallbackAdvance e.1, .copy e.1, .copyResume e.1, .copyCancel e.1]

/-- The quays. -/
def State.quayEvents (s : State) : List Instr :=
  (s.quays.map fun q => .quayWaveForm q.1) ++ (s.groups.filter fun e => e.2.wave.isSome).map fun e => .quayWaveEnd e.1

/-- The engines. -/
def State.engineEvents (s : State) : List Instr :=
  (s.cores.flatMap fun c => c.2.journal.flatMap fun j =>
    [.copyStart c.1 j.1 false, .bytesLand (.copy c.1 j.1) (max 1 (j.2.total - j.2.prog)), .copyStop c.1 j.1, .copyComplete c.1 j.1] ++
    if j.2.stampDue.isSome || j.2.stopping.isSome then [.bytesLand (.copy c.1 j.1) 0] else []) ++
  (s.gates.flatMap fun g =>
    [.topk g.1, .hist g.1, .psum g.1, .perm g.1] ++
    (g.2.map fun c => .bytesLand (.gate g.1) (max 1 c.out.length)) ++ [.gateCommandComplete g.1]) ++
  (s.arrays.flatMap fun a =>
    ((List.range 4).map fun i => .mmaEnterQueue a.1 i 0) ++ (if (a.2.pick s.tilesSettled).isSome then [.arrayBoundary a.1] else []) ++
    [.mmaComplete a.1, .mmaFetchFault a.1]) ++
  s.bstores.flatMap fun b => [.bytesLand (.bwr b.1) (max 1 b.2.out.length), .bwrComplete b.1]

/-- Cores on which a cluster, gang or node group may be placed: the cores of each tetrad in turn. -/
def placements (n : Nat) : List (List Nat) :=
  (List.range 96).flatMap fun t => (List.range (5 - n)).map fun i => (List.range n).map fun k => 4 * t + i + k

/-- Launches, from the queue to the end. -/
def State.launchEvents (s : State) : List Instr :=
  ((s.queues.filter fun q => s.startable q.1 q.2 && (s.launchesOf q.1).all fun e => e.2.started).map fun q => .packetRead q.1) ++ (List.range 4).map (fun d => .launchListStart d) ++
  (s.launches.flatMap fun l =>
    [.grid l.1, .gang l.1, .graph l.1, .depend l.1, .barrierAnd l.1, .dependConditionHolds l.1] ++
    (if l.2.started && decide (l.2.placed < l.2.ncl) then
      (placements (match l.2.kind, l.2.descs with
        | .grid, [d] => d.clt
        | _, _ => 1)).map fun cs => .clusterPlacement l.1 cs
    else []) ++
    (l.2.bins.zipIdx.flatMap fun b => if b.1.recs.isEmpty then []
      else (List.range 96).map fun c => .binCountTrigger l.1 (b.2 % 4) (b.2 / 4) (96 * (b.2 % 4) + c)) ++
    (List.range l.2.seeds.length).map fun n => .seedEntry l.1 n) ++
  s.teams.flatMap fun t => [.teamStart t.1, .teamRetire t.1]

/-- A frame of a tier in which no byte is listed; 1, which is no frame, if none of those tried is free. -/
def State.freeFrame (s : State) (tier : Bool) : Nat :=
  let top := if tier then 0x040000000000 else 0x00F000000000
  ([36, 26, 16].findSome? fun k => ((List.range 15).map fun i => top - (i + 1) * 2 ^ k).find? fun f =>
    !(s.mem.any fun e => decide (f ≤ e.1) && decide (e.1 < f + 2 ^ k))).getD 1

/-- Four lanes that a port may go on with when one fails. -/
def State.fourLanes (s : State) (port lane : Nat) : List Nat :=
  ((List.range 9).filter fun l => l != lane && l != (s.dev.ports.getD port {}).lanemap.getD 8 9).take 4

/-- The command that the mailbox or the debug window runs; those that choose a frame or cores take the first that will do. -/
def State.commandEvents (s : State) : List Instr :=
  (if s.dev.mbbusy then
    if s.dev.mbcmd = 7 then [1, 2, 3, 4].flatMap fun n => (placements n).map fun cs => .resume cs 0
    else [.createContext, .destroyContext, .createQueue, .destroyQueue, .resetQueue, .preempt, .migrate (s.freeFrame (s.arg 2 == 1)), .declareLost,
      .repairLane (s.fourLanes (s.arg 0).toNat (s.arg 1).toNat), .setMode, .nonce, .token, .attest]
  else []) ++ (if s.dev.dbgbusy then [.halt, .run, .step, .snap, .nextevt] else []) ++
  (if s.powerLimit < s.dev.power then [.powerStateEntry] else [])

/-- Fault service, and the packets of the memory. -/
def State.serviceEvents (s : State) : List Instr :=
  (s.faults.zipIdx.flatMap fun q => upTo q.1 fun i => [.faultReply q.2 i true, .faultReply q.2 i false, .zeroFill q.2 i none]) ++
  s.packets.flatMap fun p =>
    [.rdr p.1, .wack p.1, .delta ⟨p.1, []⟩, .dack p.1, .lock p.1, .locked p.1, .chunkrd ⟨p.1, []⟩, .chunk p.1, .unlock p.1]

/-- The units that have been asked to save, and Snido's own resumes that have begun. -/
def State.saveEvents (s : State) : List Instr :=
  ((s.units.filter fun u => u.2.save.isSome).map fun u => .save u.1 (u.2.save.getD 0)) ++
  s.saved.flatMap fun e => match e.2.resume with
    | some (pa, _) => if s.dev.resuming == some e.1 then [] else [1, 2, 3, 4].flatMap fun n => (placements n).map fun cs => .resume cs pa
    | none => []

/-- Stacks that the error policy declares lost: in hardware mode, once UECNT has reached 255 (R164, R335). -/
def State.lossEvents (s : State) : List Instr :=
  if s.hostMode 2 then []
  else ((List.range 16).filter fun k => decide (255 ≤ (s.dev.stkh.getD k {}).uecnt) && !s.isLost k).map fun k => .stackLoss k

/-- The swaps of the cores' active sets. -/
def State.swapEvents (s : State) : List Instr :=
  s.units'.flatMap fun c => (match s.nextPending c, (s.residents c).find? (fun e => e.2.active && s.waiting e.1 e.2) with
    | some p, some o => [.groupSwap c o.1 p.1]
    | _, _ => []) ++ [.agedDisplacement c]

/-- Everything that may be due. -/
def State.dueEvents (s : State) : List Instr :=
  s.writeEvents ++ s.groupEvents ++ s.quayEvents ++ s.engineEvents ++ s.commandEvents ++ s.launchEvents ++ s.serviceEvents ++ s.saveEvents ++ s.lossEvents ++ s.swapEvents

/-- The core or quay whose turn it is. -/
def State.nextUnit (s : State) : Option Nat :=
  match s.units'.find? fun c => decide (s.turn % issueUnits ≤ c) with
  | some c => some c
  | none => s.units'.head?

/-- What only time brings is due: every 1,024 rounds, and every 16 while no core can issue. -/
def State.timeIsUp (s : State) : Bool :=
  s.units'.isEmpty || s.turn / issueUnits % 1024 == 1023 || (s.turn / issueUnits % 16 == 15 && !s.units'.any s.canIssue)

/-- What only time brings: budgets and timers. -/
def State.timedEvents (s : State) : List Instr :=
  (s.groups.flatMap fun e => (List.range 32).map fun l => .mwaitBudgetExpiry e.1 l) ++
  s.launches.flatMap fun l => (List.range (l.2.bins.length / 4)).flatMap fun n => (List.range 4).flatMap fun d =>
    [.binTimerExpiry l.1 d n]

end Sys2Proof.Machine
end

