-- ==== Sys2Proof/Machine/Step.lean ====
section
/-! DEFINITION. One step of the part: the bundle selected is fetched, decoded and executed; with none selected, the next
event of the agenda occurs; with none, what is due occurs, and then a core builds its next bundle. -/

namespace Sys2Proof.Machine

/-- An event that the agenda may name: not an instruction, and not one of the two that belong to a fetch. -/
def agendaEvent (i : Instr) : Bool :=
  match i with
  | .unlistedOpcode _ | .fetchFault _ => false
  | _ => (encode i).isNone

/-- The instruction of a fetched word: an unlisted one takes its trap (R38). -/
noncomputable def instrOf (w : BitVec 96) : Instr :=
  match decode w with
  | .ok i => i
  | .error _ => .unlistedOpcode w

/-- What the current bundle does: its word is fetched, decoded and executed (R17, R37). A bundle whose lanes can no
longer issue is dropped, and so is one whose fetch has to wait: its lanes are selected again later (R201). -/
noncomputable def stepBundle (s : State) : Host.Outcome State Fault Refusal :=
  match s.at? plainHdr with
  | none => .next s
  | some (_, x) =>
    if s.fetchHeld x.g x.pc s.cur.fresh then .next s
    else match s.fetch x.g x.pc s.cur.fresh with
    | (s, .ok w) => exec (instrOf w) s
    | (s, .error f) => exec (.fetchFault f) s

/-- An event can occur. -/
def occurs (s : State) (i : Instr) : Bool := match exec i s with
  | .next t => !t.missed
  | _ => false

/-- The cores and quays take turns: each builds a bundle, or counts a cycle with nothing to issue. Before that, what
only time brings. -/
def stepTurn (s : State) : Host.Outcome State Fault Refusal :=
  match if s.timeIsUp then s.timedEvents.find? (occurs s) else none with
  | some i => exec i s
  | none => match s.nextUnit with
    | some c => exec (.bundleSelect c 7) s
    | none => .next s

/-- With nothing selected and the agenda empty, what is due occurs; with nothing due, the next core has its turn. -/
def stepIdle (s : State) : Host.Outcome State Fault Refusal :=
  let s := { s with missed := false }
  match s.dueEvents.find? (occurs s) with
  | some i => exec i s
  | none => stepTurn s

/-- One step. An entry of the agenda that names an instruction, and an event whose conditions do not hold, are passed over (log 3). -/
noncomputable def step (s : State) : Host.Outcome State Fault Refusal :=
  match s.issueQ with
  | b :: q => stepBundle { s with issueQ := q, cur := b }
  | [] =>
    match s.agenda with
    | i :: q => if agendaEvent i then exec i { s with agenda := q } else .next { s with agenda := q }.passOver
    | [] => stepIdle s

/-! ### A program placed from outside -/

/-- The address at which `withFetchWord` places the instruction, in virtual and in physical memory alike. -/
def probePc : Nat := 0x40000000

/-- A page-table tree that maps the first 64 GiB to themselves with every right and key 0: its L3 table and its L2
table (R294). -/
def probeTables (s : State) : State :=
  let s := (leBytes 8 (0x50004000 + 1)).zipIdx.foldl (fun s e => s.setByte (0x50000000 + e.2) e.1) s
  (leBytes 8 0x7F).zipIdx.foldl (fun s e => s.setByte (0x50004000 + e.2) e.1) s

/-- One plain team of one full group on core 0, as TEAM_START leaves it (R10, R113), in context 0. -/
def probeTeam (s : State) : State :=
  let d : KDesc := { entry := BitVec.ofNat 64 probePc, regs := 256, teamt := 32, clt := 1, berths := 8, l1u := 4, scratch := 65536 }
  let lane := fun (l : Nat) => ({ live := true, pc := BitVec.ofNat 64 probePc, spt := BitVec.ofNat 64 (0x60000000 + (l + 1) * 1024) } : Lane)
  { s with
    contexts := AMap.put s.contexts 0 { recPa := 0x50010000, root := 0x50000000, trapva := 0x48000000, logbase := 0x50020000, logn := 4, savearea := 0x50030000 }
    groups := AMap.put s.groups 0 { ctx := 0, team := 1, idx := 0, regs := 256, active := true, lanes := (List.range 32).map lane }
    teams := AMap.put s.teams 1 { ctx := 0, unit := 1, share := 1, core := 0, idx := 0, desc := d, groups := [0], fin := [false], started := true, berths := List.replicate 8 {}, clCount := 1, launch := 1 }
    shares := AMap.put s.shares 1 { size := 65536 }
    units := AMap.put s.units 1 { kind := .cluster, ctx := 0, launch := 1, clIdx := 0, clCount := 1, teams := [1] }
    launches := AMap.put s.launches 1 { kind := .grid, ctx := 0, queue := none, num := 0, hdr := 1, descs := [d], ncl := 1, started := true, placed := 1 } }

/-- The state with an instruction stored where the next step fetches it: a program comes to run by being loaded from
outside the machine, and this stands for that load. -/
def State.withFetchWord (s : State) (nbits w : Nat) : State :=
  let s := probeTeam (probeTables s)
  let s := (leBytes 12 (w % 2 ^ nbits)).zipIdx.foldl (fun s e => s.setByte (probePc + e.2) e.1) s
  { s with issueQ := { g := 0, lanes := 0xFFFFFFFF } :: s.issueQ }

end Sys2Proof.Machine
end

