-- ==== Sys2Proof/Safety.lean ====
section
/-! DEFINITION. What the statements mean: a well-formed machine, a bundle that passes its decode checks, and the shapes of
what an issue leaves behind. -/

namespace Sys2Proof.Machine

/-- The memories keep their canonical form, so that equal memories are equal data. -/
def State.memOk (s : State) : Bool := Memory.wf s.mem && Memory.wf s.dram

/-- The current bundle passes every decode check of an instruction (R37): it has a lane that may issue, and the place, the
registers (name and width) and the handles are in order. `G` is the group and `x` the issue: its lanes B, the lanes T whose
guard holds and the counted lanes N (R125). -/
structure Issues (s : State) (h : Hdr) (site : Site) (regs : List (Reg × Nat))
    (handles : State → Group → List (Nat × Bool)) (G : Group) (x : At) : Prop where
  bundle : s.at? h = some (G, x)
  within : G.overLimit = false
  place : site = .both ∨ (site = .quay ↔ isWave x.g = true)
  named : ∀ r ∈ regs, regOk (isWave x.g) G.regs r = true
  known : ∀ e ∈ handles s G, e.2 = true

/-- A lane of the bundle after the instruction: past it, ready, with the instruction's hints (R20, R24, R122). -/
def Lane.past (L : Lane) (x : At) (now : Nat) : Lane :=
  { L with
    pc := x.pc + 12, wait := .none, marker := false, due := none, since := now
    wseq := match L.wait with
      | .again _ => L.wseq
      | _ => x.seq
    delayed := now + x.h.delay.toNat, yielded := x.h.yld }

/-- The switch marker of the instruction acts on the lanes of the bundle (R23). -/
def State.marked (u : State) (x : At) : State :=
  if x.h.mark then
    let (s, dm, due) := u.claim x.g x.B
    s.parkWith x.g x.B (fun _ => .go) dm due
  else u

/-- What an issue that writes registers of its own group leaves: the lanes of the bundle are past the instruction, each
lane of T has changed by `f`, the scalar registers are `sr`, and nothing else in the machine has changed, the marks on
outstanding results apart (R22). -/
structure Wrote (s u : State) (G : Group) (x : At) (f : Nat → Lane → Lane) (sr : AMap Word) : Prop where
  rest : u = { s with seq := s.seq + 1, groups := u.groups }
  others : ∀ k, k ≠ x.g → u.group? k = s.group? k
  own : ∃ G', u.group? x.g = some G' ∧ G'.s = sr ∧
    (∀ l, G'.lane l =
      let L := if inMask x.B l then (G.lane l).past x (s.now x.g) else G.lane l
      if inMask x.T l then f l L else L) ∧
    (G'.pend.map fun p => { p with disc := 0 }) = (G.pend.map fun p => { p with disc := 0 }) ∧
    G' = { G with lanes := G'.lanes, s := G'.s, pend := G'.pend, age := 0, stepping := G.stepping &&& ~~~x.B }

/-- The lanes' change that a register result makes: a v register takes each lane's own words. -/
def vWrite (d : Reg) (ws : Nat → List Word) (l : Nat) (L : Lane) : Lane :=
  match d with
  | .v n => L.setVs n.val (ws l)
  | .s _ => L

/-- The scalar registers after a result: the words of the lowest counted lane, and no write without one (R12). -/
def sWrite (G : Group) (x : At) (d : Reg) (ws : Nat → List Word) : AMap Word :=
  match d, lowest x.N with
  | .s n, some l => (G.setSs n.val (ws l)).s
  | _, _ => G.s

/-- An outcome is the next state in which a register result has been written, nothing else has changed and the switch
marker has acted. -/
def Lands (s : State) (G : Group) (x : At) (d : Reg) (ws : Nat → List Word)
    (o : Host.Outcome State Fault Refusal) : Prop :=
  ∃ u, Wrote s u G x (vWrite d ws) (sWrite G x d ws) ∧ o = .next (u.marked x)

/-- As `Lands`, for a predicate result. -/
def LandsP (s : State) (G : Group) (x : At) (d : PReg) (b : Nat → Bool)
    (o : Host.Outcome State Fault Refusal) : Prop :=
  ∃ u, Wrote s u G x (fun l L => L.setP d (b l)) G.s ∧ o = .next (u.marked x)

/-- What an issue that moves lanes of its own group leaves: the lanes of the bundle are past the instruction, each lane of
T has then changed by `f`, and nothing else in the machine has changed. -/
structure Moved (s u : State) (G : Group) (x : At) (f : Nat → Lane → Lane) : Prop where
  rest : u = { s with seq := s.seq + 1, groups := u.groups }
  others : ∀ k, k ≠ x.g → u.group? k = s.group? k
  own : ∃ G', u.group? x.g = some G' ∧
    (∀ l, G'.lane l =
      let L := if inMask x.B l then (G.lane l).moveOn x (s.now x.g) else G.lane l
      if inMask x.T l then f l L else L) ∧
    G' = { G with lanes := G'.lanes, age := 0, stepping := G.stepping &&& ~~~x.B }

/-- An outcome is the next state in which the lanes of T have moved by `f`; then lanes that came apart form joined sets of
their own, and the switch marker acts (`close`). -/
def Turns (s : State) (G : Group) (x : At) (f : Nat → Lane → Lane) (o : Host.Outcome State Fault Refusal) : Prop :=
  ∃ u, Moved s u G x f ∧ o = .next (u.close x G)

/-- An outcome is the next state that an operation gives, once the lanes of the bundle have moved on; then lanes that
came apart form joined sets of their own, and the switch marker acts. -/
def Yields (s : State) (G : Group) (x : At) (op : State → State) (o : Host.Outcome State Fault Refusal) : Prop :=
  o = .next ((op (s.advance x)).close x G)

/-- What the issue of a variable-latency instruction leaves: the lanes of the bundle are past it, the result `p` is
outstanding behind those that were (R21, R22), each lane of T has changed by `f`, and nothing else in the machine has
changed. -/
structure Pended (s u : State) (G : Group) (x : At) (f : Nat → Lane → Lane) (p : Pend) : Prop where
  rest : u = { s with seq := s.seq + 1, groups := u.groups }
  others : ∀ k, k ≠ x.g → u.group? k = s.group? k
  own : ∃ G', u.group? x.g = some G' ∧
    (∀ l, G'.lane l =
      let L := if inMask x.B l then (G.lane l).moveOn x (s.now x.g) else G.lane l
      if inMask x.T l then f l L else L) ∧
    G' = { G with lanes := G'.lanes, pend := G.pend ++ [p], age := 0, stepping := G.stepping &&& ~~~x.B }

/-- The outstanding result of an issue. -/
def pendOf (G : Group) (x : At) (kind : PKind) (d : Reg) (w : Nat) (f : Nat → PLane) : Pend :=
  { seq := x.seq, pc := x.pc, kind, dest := { reg := some (.inl d), w }, pkr := G.pkr, supplier := lowest x.N
    lanes := (lanesOf x.T).map fun l => (l, f l), parked := x.h.mark }

/-- A lane that only goes on. -/
def keep : Nat → Lane → Lane := fun _ L => L

/-- The accesses of a list of lanes, one after the other, each passing its checks: the state after them, and each lane with
the physical addresses of its bytes. -/
def State.passLanes (s : State) (x : At) (n : Nat) (va : Nat → DWord) (a : Nat → Acc) : List Nat → Option (State × List (Nat × List Nat))
  | [] => some (s, [])
  | l :: ls =>
    match s.check x l n (va l) (a l) with
    | (s, .ok pas) => ((s.perform x.g l x.seq x.pc (va l) pas (a l)).passLanes x n va a ls).map fun r => (r.1, (l, pas) :: r.2)
    | (_, .error _) => none

/-- The quay requests of a list of lanes, one after the other, each passing its checks (R197): the state after them, and each
lane with the physical address of its object. -/
def State.passCalls (s : State) (x : At) (n : Nat) (va : Nat → DWord) (a : Nat → Acc) (ls : List Nat) : Option (State × List (Nat × Nat)) :=
  match s.group? x.g with
  | none => none
  | some G =>
    if ls.any fun l => s.quaySpace x.g G (va l) (a l) then none
    else (s.passLanes x n va a ls).map fun r => (r.1, r.2.map fun p => (p.1, p.2.getD 0 0))

/-- Every byte of memory is as it was, but for the accessed and dirty bits that translations set in leaves (R296). -/
def State.SameBytes (s t : State) : Prop := ∀ a, t.byte a = s.byte a ∨ t.byte a = s.byte a ||| 0x20 ∨ t.byte a = s.byte a ||| 0x60

/-- A group but for what its monitors have seen. -/
def Group.unwatched (G : Group) : Group := { G with lanes := G.lanes.map fun L => { L with monitor := none } }

/-- What translations may have changed of what runs: the accessed and dirty bits of leaves, and what monitors there have seen (R183, R296). -/
structure Translated (s t : State) : Prop where
  bytes : s.SameBytes t
  lsq : t.lsq = s.lsq
  groups : ∀ g, (t.group? g).map Group.unwatched = (s.group? g).map Group.unwatched

/-- A lane takes part that can give the destination a value: any for a v register, a counted one for an s register (R12). -/
def supplies (x : At) : Reg → Prop
  | .v _ => x.T ≠ 0
  | .s _ => x.N ≠ 0

/-! ### Numbers of the statements -/

/-- The rational number of a finite exact value; 0 for the others. -/
def Val.rat : Val → ℚ
  | .fin n m e => (if n then -1 else 1) * (m * (2 : ℚ) ^ e)
  | _ => 0

/-- The field of R61: `len2` bits of `a` from `pos`, as a number. -/
def bitField (a b : Word) : Nat × Nat × Nat :=
  let pos := b.toNat % 32
  let len2 := min (min (b.toNat / 256 % 64) 32) (32 - pos)
  (pos, len2, a.toNat / 2 ^ pos % 2 ^ len2)

/-- The two words of a 64-bit result (R9): the low half first. -/
def pairWords (v : Int) : List Word := [BitVec.ofInt 32 v, BitVec.ofInt 32 (v / 2 ^ 32)]

end Sys2Proof.Machine
end

