-- ==== Sys2Proof/Certificates/Slice0/Obligations.lean ====
section
/-! DEFINITION. The statements for the provers: what the numbered rules of the spec say that an instruction, an event or the
machine does. -/

open Sys2Proof Sys2Proof.Machine

/-! ### The step, reset and the memories -/

/-- R17, R19, R37, R38, R287: a step takes the bundle that was selected, fetches the instruction at its address and executes what the word
decodes to: a listed one its own meaning, any other the trap of a decode fault; a fetch that fails, for a cause that is not served, traps the
lanes at the instruction, and for one that is served makes them wait; a bundle whose fetch is held by a wave (R201) is dropped, to be selected
again. A fetch reads the three words that the address translates to, be it on two frames. The model's choice: with no bundle selected the next
entry of the agenda occurs, alone, and an entry that is no event is passed over (log 3); whether a line that the core holds serves a word is
the bundle's `fresh` (log 8). -/
def Obligations.StepRunsDecoded : Prop :=
  (∀ (s : State) (b : Bundle) (q : List Bundle), s.issueQ = b :: q →
    let s' := { s with issueQ := q, cur := b }
    (s'.at? plainHdr = none → step s = .next s') ∧
    ∀ (G : Group) (x : At) (u : State), s'.at? plainHdr = some (G, x) →
      (s'.fetchHeld x.g x.pc b.fresh = true → step s = .next s') ∧
      (s'.fetchHeld x.g x.pc b.fresh = false →
        (∀ w i, s'.fetch x.g x.pc b.fresh = (u, .ok w) → decode w = .ok i → step s = exec i u) ∧
        (∀ w e, s'.fetch x.g x.pc b.fresh = (u, .ok w) → decode w = .error e → step s = exec (.unlistedOpcode w) u) ∧
        (∀ f, s'.fetch x.g x.pc b.fresh = (u, .error f) → step s = exec (.fetchFault f) u))) ∧
  (∀ (s u : State) (g : Nat) (G : Group) (pc : DWord) (pas : List Nat) (w : BitVec 96), s.group? g = some G → pc.toNat % 4 = 0 →
    s.xlate (via g G) pc 12 .fetch none = (u, .ok pas) → (∀ pa ∈ pas, u.poisonIn pa 1 = none) →
    (∀ i ∈ [0, 4, 8], inDevice (pas.getD i 0) 4 = true) →
    wordOfBytes ([0, 4, 8].flatMap fun i => u.bytes (pas.getD i 0) 4) = some w →
    ∃ t : State, s.fetch g pc 7 = (t, .ok w) ∧ t = { u with icache := t.icache }) ∧
  (∀ (s : State) (g : Nat) (G : Group) (pc : DWord) (fresh : BitVec 3), s.group? g = some G → pc.toNat % 4 ≠ 0 →
    s.fetch g pc fresh = (s, .error .misaligned)) ∧
  (∀ (s : State) (i : Instr) (q : List Instr), s.issueQ = [] → s.agenda = i :: q →
    (agendaEvent i = true → step s = exec i { s with agenda := q }) ∧
    (agendaEvent i = false → step s = .next { s with agenda := q, missed := true })) ∧
  (∀ (s : State) (G : Group) (x : At), s.at? plainHdr = some (G, x) →
    (∀ w, exec (.unlistedOpcode w) s = .next ((s.advance x).decodeFault x { cause := .illegal })) ∧
    (isWave x.g = false → x.B &&& G.helpers = 0 →
      (∀ f, (fetchFault f).serviced = false → exec (.fetchFault f) s =
        .next (s.bump.raise x x.B fun _ => { cause := (fetchFault f).cause, sub := (fetchFault f).sub, kind := .fetch, addr := s.bump.fetchAddr x.g G x.pc f })) ∧
      (∀ f, (fetchFault f).serviced = true → ∃ (t : State) (G' : Group), exec (.fetchFault f) s = .next t ∧
        t.group? x.g = some G' ∧ ∀ l, inMask x.B l = true → ∃ r, (G'.lane l).wait = .fault (s.bump.fetchAddr x.g G x.pc f) .fetch G.pkr (some r) ∧ (G'.lane l).pc = x.pc)))

/-- R28 to R33, R37: words written out from the encoding tables decode to the instructions they stand for. -/
def Obligations.ManualWordsDecode : Prop :=
  let h0 : Hdr := { g := 0, gn := false, mark := false, delay := 0, yld := false, reuse := 0 }
  decode (0x000000000000C0300C04A109#96) = .ok (.imad { h0 with g := 2, gn := true } (.v 4) (.v 3) (.v 3) (.v 3)) ∧
  decode (0x00000000001B000000000003#96) = .ok (.call h0 0x6C) ∧
  decode (0x00003FFFFFEB000000000001#96) = .ok (.bra h0 0xFFFFFFAC) ∧
  decode (0x00000000003EF0002C0A010E#96) = .ok (.iremu h0 (.v 10) (.v 11) (.imm 251)) ∧
  decode (0x000000000003000412C80006#96) = .ok (.rvset h0 0 4 0xC) ∧
  decode (0x00000001F400C0A002010A07#96) = .ok (.mwait h0 1 (.v 10) 3 2000) ∧
  decode (0x800000000000412040143924#96) = .ok (.qcalla { h0 with mark := true, g := 3 } 20 (.v 16) (.v 18) 1 0) ∧
  decode (0x000000005A81C00C02400C00#96) = .ok (.qpush h0 0 (.imm 0x16A07)) ∧
  decode (0x0000000032006D0A0AC00B0B#96) = .ok (.mmasi8 h0 0 (.tile 2) 0 1 0 0 1 3) ∧
  decode (0x00000000046080C04C003708#96) = .ok (.sts16 { h0 with g := 3 } (.v 19) (.v 12) 4482) ∧
  decode (0x000000004000300420000E06#96) = .ok (.tlbinv h0 8 (.imm 0x10000)) ∧
  decode (0x800000000000000B84040D04#96) = .ok (.piper { h0 with mark := true } 4 1) ∧
  decode (0x000000000042806010000817#96) = .ok (.puts h0 (.v 4) (.v 6) 10)

/-- R12, R166, R323, R327, R343, R346: what package reset leaves where the spec gives a value: nothing runs, no context and no queue exists,
the mailbox and the debug window are idle, every aperture and error count is 0, every managed function is in hardware mode. The other reset
values are the model's own (logs 1 and 2). -/
def Obligations.ResetState : Prop :=
  let s := State.reset
  s.memOk = true ∧ s.groups = [] ∧ s.teams = [] ∧ s.units = [] ∧ s.contexts = [] ∧ s.queues = [] ∧ s.launches = [] ∧ s.faults.flatten = [] ∧
    s.issueQ = [] ∧ s.agenda = [] ∧ s.dev.mbbusy = false ∧ s.dev.dbgbusy = false ∧ s.dev.nonceLive = false ∧ s.dev.power = 0 ∧
    s.dev.apertures = List.replicate 32 0 ∧ (∀ i, s.hostMode i = false) ∧ (∀ k, s.isLost k = false) ∧ s.dev.memHealth = 0 ∧
    (∀ p ∈ s.dev.ports, p.laneMap = 0x876543210 ∧ p.replay = [] ∧ p.rxSeq = 4095) ∧ s.dev.halts = [] ∧ s.dev.hostLines = []

/-- The machine's memories keep their canonical form in every step, so that equal memories are equal data: addresses strictly rising, no
entry equal to what an unlisted address reads as. The form is the model's own representation of the memories that R171 and R322 give
(log 1). -/
def Obligations.MemoryStaysCanonical : Prop :=
  ∀ s t : State, s.memOk = true → step s = .next t → t.memOk = true

/-- R26 to R33, R37: the word of a well-formed instruction decodes to that instruction with every operand, and a word that decodes is the word of
the instruction it decodes to, which is well-formed: no word has two meanings, and no bit of one is dropped. -/
def Obligations.DecodeAndEncodeAgree : Prop :=
  (∀ (i : Instr) (w : BitVec 96), i.wellFormed = true → encode i = some w → decode w = .ok i) ∧
  (∀ (i : Instr) (w : BitVec 96), decode w = .ok i → i.wellFormed = true ∧ encode i = some w)

/-! ### Integer, predicate and control instructions (R51 to R65) -/

/-- R56: the two-source 32-bit instructions: their opcodes, and their results on the signed and unsigned readings of the
patterns. -/
def Obligations.IntegerTwoSourceResults : Prop :=
  (∀ (h : Hdr) (d : Reg) (a b : Src),
    let op := fun (i : Instr) => (encode i).map fun w => (w.extractLsb' 0 12).toNat
    op (.iadd h d a b) = some 0x102 ∧ op (.isub h d a b) = some 0x103 ∧ op (.imul h d a b) = some 0x106 ∧
    op (.imulhs h d a b) = some 0x107 ∧ op (.imulhu h d a b) = some 0x108 ∧ op (.imin h d a b) = some 0x10F ∧
    op (.imax h d a b) = some 0x110 ∧ op (.umin h d a b) = some 0x111 ∧ op (.umax h d a b) = some 0x112 ∧
    op (.and h d a b) = some 0x114 ∧ op (.or h d a b) = some 0x115 ∧ op (.xor h d a b) = some 0x116 ∧
    op (.andn h d a b) = some 0x117 ∧ op (.shl h d a b) = some 0x119 ∧ op (.shr h d a b) = some 0x11A ∧
    op (.sar h d a b) = some 0x11B ∧ op (.rotl h d a b) = some 0x11C) ∧
  ∀ (s : State) (h : Hdr) (d : Reg) (a b : Src) (G : Group) (x : At),
    Issues s h .both ((d, 1) :: (srcReg a 1 ++ srcReg b 1)) noHandles G x →
    let r := fun (f : Word → Word → Word) => Lands s G x d fun l => [f (G.src l a) (G.src l b)]
    r (fun a b => BitVec.ofNat 32 (a.toNat + b.toNat)) (exec (.iadd h d a b) s) ∧
    r (fun a b => BitVec.ofInt 32 ((a.toNat : Int) - b.toNat)) (exec (.isub h d a b) s) ∧
    r (fun a b => BitVec.ofNat 32 (a.toNat * b.toNat)) (exec (.imul h d a b) s) ∧
    r (fun a b => BitVec.ofInt 32 (a.toInt * b.toInt / 2 ^ 32)) (exec (.imulhs h d a b) s) ∧
    r (fun a b => BitVec.ofNat 32 (a.toNat * b.toNat / 2 ^ 32)) (exec (.imulhu h d a b) s) ∧
    r (fun a b => if a.toInt ≤ b.toInt then a else b) (exec (.imin h d a b) s) ∧
    r (fun a b => if a.toInt ≤ b.toInt then b else a) (exec (.imax h d a b) s) ∧
    r (fun a b => if a.toNat ≤ b.toNat then a else b) (exec (.umin h d a b) s) ∧
    r (fun a b => if a.toNat ≤ b.toNat then b else a) (exec (.umax h d a b) s) ∧
    r (fun a b => BitVec.ofNat 32 (a.toNat &&& b.toNat)) (exec (.and h d a b) s) ∧
    r (fun a b => BitVec.ofNat 32 (a.toNat ||| b.toNat)) (exec (.or h d a b) s) ∧
    r (fun a b => BitVec.ofNat 32 (a.toNat ^^^ b.toNat)) (exec (.xor h d a b) s) ∧
    r (fun a b => a &&& ~~~b) (exec (.andn h d a b) s) ∧
    r (fun a b => if b.toNat < 32 then BitVec.ofNat 32 (a.toNat * 2 ^ b.toNat) else 0) (exec (.shl h d a b) s) ∧
    r (fun a b => if b.toNat < 32 then BitVec.ofNat 32 (a.toNat / 2 ^ b.toNat) else 0) (exec (.shr h d a b) s) ∧
    r (fun a b => if b.toNat < 32 then BitVec.ofInt 32 (a.toInt / 2 ^ b.toNat)
        else if a.toInt < 0 then 0xFFFFFFFF else 0) (exec (.sar h d a b) s) ∧
    r (fun a b => BitVec.ofNat 32 (a.toNat * 2 ^ (b.toNat % 32) % 2 ^ 32 + a.toNat / 2 ^ (32 - b.toNat % 32)))
      (exec (.rotl h d a b) s)

/-- R60: the opcodes of the divisions; quotients truncate towards zero, a remainder is a − q·b and takes the sign of a or is
zero, and the borderline cases are those of the table. -/
def Obligations.DivisionResults : Prop :=
  (∀ (h : Hdr) (d : Reg) (a b : Src),
    let op := fun (i : Instr) => (encode i).map fun w => (w.extractLsb' 0 12).toNat
    op (.idivs h d a b) = some 0x10B ∧ op (.idivu h d a b) = some 0x10C ∧ op (.irems h d a b) = some 0x10D ∧
    op (.iremu h d a b) = some 0x10E) ∧
  ∀ (s : State) (h : Hdr) (d : Reg) (a b : Src) (G : Group) (x : At),
    Issues s h .both ((d, 1) :: (srcReg a 1 ++ srcReg b 1)) noHandles G x →
    let r := fun (f : Word → Word → Word) => Lands s G x d fun l => [f (G.src l a) (G.src l b)]
    let q := fun (a b : Word) => (a.toInt.tdiv b.toInt : Int)
    r (fun a b => if b = 0 then 0xFFFFFFFF else if a = 0x80000000 ∧ b = 0xFFFFFFFF then 0x80000000
        else BitVec.ofInt 32 (q a b)) (exec (.idivs h d a b) s) ∧
    r (fun a b => if b = 0 then 0xFFFFFFFF else BitVec.ofNat 32 (a.toNat / b.toNat)) (exec (.idivu h d a b) s) ∧
    r (fun a b => if b = 0 then a else if a = 0x80000000 ∧ b = 0xFFFFFFFF then 0
        else BitVec.ofInt 32 (a.toInt - q a b * b.toInt)) (exec (.irems h d a b) s) ∧
    r (fun a b => if b = 0 then a else BitVec.ofNat 32 (a.toNat % b.toNat)) (exec (.iremu h d a b) s)

/-- R58, R59, R63: the 64-bit results, written as a pair. R57, R59, R61 to R63: one- and three-source instructions, bit
fields and addresses. R64, R65: compares and predicate logic; a write to p0 is discarded, and a source p0 reads 1. -/
def Obligations.OtherIntegerAndPredicateResults : Prop :=
  (∀ (s : State) (h : Hdr) (d : Reg) (G : Group) (x : At),
    (∀ a b : Src, Issues s h .both ((d, 2) :: (srcReg a 2 ++ srcReg b 2)) noHandles G x →
      Lands s G x d (fun l => pairWords ((G.src64 l a).toInt + (G.src64 l b).toInt)) (exec (.iadd64 h d a b) s) ∧
      Lands s G x d (fun l => pairWords ((G.src64 l a).toInt - (G.src64 l b).toInt)) (exec (.isub64 h d a b) s)) ∧
    (∀ a b c : Reg, Issues s h .both [(d, 2), (a, 1), (b, 1), (c, 2)] noHandles G x →
      Lands s G x d (fun l => pairWords ((G.reg l a 0).toInt * (G.reg l b 0).toInt + (G.reg64 l c).toInt))
        (exec (.imadw h d a b c) s)) ∧
    (∀ (a b : Reg) (sh : Fin 32) (zx : Bool), Issues s h .both [(d, 2), (a, 2), (b, 1)] noHandles G x →
      Lands s G x d (fun l => pairWords ((G.reg64 l a).toInt +
          (if zx then ((G.reg l b 0).toNat : Int) else (G.reg l b 0).toInt) * 2 ^ sh.val)) (exec (.lea64 h d a b sh zx) s))) ∧
  (∀ (s : State) (h : Hdr) (d : Reg) (G : Group) (x : At),
    (∀ a : Src, Issues s h .both ((d, 1) :: srcReg a 1) noHandles G x →
      let r := fun (f : Word → Word) => Lands s G x d fun l => [f (G.src l a)]
      r (fun a => BitVec.ofInt 32 a.toInt.natAbs) (exec (.iabs h d a) s) ∧
      r (fun a => BitVec.ofNat 32 (2 ^ 32 - 1 - a.toNat)) (exec (.not h d a) s) ∧
      r (fun a => if a = 0 then 32 else BitVec.ofNat 32 (31 - Nat.log2 a.toNat)) (exec (.clz h d a) s) ∧
      r (fun a => BitVec.ofNat 32 ((List.range 32).filter fun i => a.toNat.testBit i).length) (exec (.popc h d a) s) ∧
      r (fun a => a.reverse) (exec (.brev h d a) s)) ∧
    (∀ a : Reg, Issues s h .both [(d, 1), (a, 1)] noHandles G x →
      Lands s G x d (fun l => [G.reg l a 0]) (exec (.mov h d a) s)) ∧
    (∀ imm : Word, Issues s h .both [(d, 1)] noHandles G x →
      Lands s G x d (fun _ => [imm]) (exec (.movi h d imm) s)) ∧
    (∀ a b c : Reg, Issues s h .both [(d, 1), (a, 1), (b, 1), (c, 1)] noHandles G x →
      let r := fun (f : Word → Word → Word → Word) => Lands s G x d fun l => [f (G.reg l a 0) (G.reg l b 0) (G.reg l c 0)]
      r (fun a b c => BitVec.ofNat 32 (a.toNat * b.toNat + c.toNat)) (exec (.imad h d a b c) s) ∧
      r (fun a b c => BitVec.ofNat 32 ((b.toNat * 2 ^ 32 + a.toNat) / 2 ^ (c.toNat % 32))) (exec (.fshr h d a b c) s) ∧
      r (fun a b c =>
          let f := bitField a b
          BitVec.ofNat 32 (c.toNat % 2 ^ f.1 + a.toNat % 2 ^ f.2.1 * 2 ^ f.1 +
            c.toNat / 2 ^ (f.1 + f.2.1) * 2 ^ (f.1 + f.2.1))) (exec (.bfi h d a b c) s)) ∧
    (∀ (a b : Reg) (c : PReg), Issues s h .both [(d, 1), (a, 1), (b, 1)] noHandles G x →
      Lands s G x d (fun l => [if (G.lane l).pred c then G.reg l a 0 else G.reg l b 0]) (exec (.sel h d a b c) s)) ∧
    (∀ a b : Src, Issues s h .both ((d, 1) :: (srcReg a 1 ++ srcReg b 1)) noHandles G x →
      let r := fun (f : Nat × Nat × Nat → Word) => Lands s G x d fun l => [f (bitField (G.src l a) (G.src l b))]
      r (fun f => BitVec.ofNat 32 f.2.2) (exec (.bfxu h d a b) s) ∧
      r (fun f => if 2 * f.2.2 < 2 ^ f.2.1 then BitVec.ofNat 32 f.2.2 else BitVec.ofInt 32 ((f.2.2 : Int) - 2 ^ f.2.1))
        (exec (.bfxs h d a b) s)) ∧
    (∀ (a b : Reg) (sh : Fin 32), Issues s h .both [(d, 1), (a, 1), (b, 1)] noHandles G x →
      Lands s G x d (fun l => [BitVec.ofNat 32 ((G.reg l a 0).toNat + (G.reg l b 0).toNat * 2 ^ sh.val)])
        (exec (.lea h d a b sh) s))) ∧
  (∀ (s : State) (h : Hdr) (G : Group) (x : At),
    (∀ (d : PReg) (a b : Src), Issues s h .both (srcReg a 1 ++ srcReg b 1) noHandles G x →
      let r := fun (f : Word → Word → Bool) => LandsP s G x d fun l => f (G.src l a) (G.src l b)
      r (fun a b => decide (a.toNat = b.toNat)) (exec (.icmpeq h d a b) s) ∧
      r (fun a b => decide (a.toNat ≠ b.toNat)) (exec (.icmpne h d a b) s) ∧
      r (fun a b => decide (a.toInt < b.toInt)) (exec (.icmplt h d a b) s) ∧
      r (fun a b => decide (a.toInt ≤ b.toInt)) (exec (.icmple h d a b) s) ∧
      r (fun a b => decide (a.toNat < b.toNat)) (exec (.ucmplt h d a b) s) ∧
      r (fun a b => decide (a.toNat ≤ b.toNat)) (exec (.ucmple h d a b) s)) ∧
    (∀ (d : PReg) (a b : Src), Issues s h .both (srcReg a 2 ++ srcReg b 2) noHandles G x →
      LandsP s G x d (fun l => decide ((G.src64 l a).toNat = (G.src64 l b).toNat)) (exec (.icmpeq64 h d a b) s) ∧
      LandsP s G x d (fun l => decide ((G.src64 l a).toNat < (G.src64 l b).toNat)) (exec (.ucmplt64 h d a b) s)) ∧
    (∀ d a b : PReg, Issues s h .both [] noHandles G x →
      let r := fun (f : Bool → Bool → Bool) => LandsP s G x d fun l => f ((G.lane l).pred a) ((G.lane l).pred b)
      r (fun a b => a && b) (exec (.pand h d a b) s) ∧ r (fun a b => a || b) (exec (.por h d a b) s) ∧
      r (fun a b => xor a b) (exec (.pxor h d a b) s) ∧ r (fun a _ => !a) (exec (.pnot h d a) s)) ∧
    (∀ d : Reg, Issues s h .both [(d, 1)] noHandles G x →
      Lands s G x d (fun l => [BitVec.ofNat 32 (((List.range 8).filter fun i =>
          (G.lane l).pred (Fin.ofNat 8 i)).map fun i => 2 ^ i).sum]) (exec (.p2v h d) s)) ∧
    (∀ (a : Reg) (mask : BitVec 7), Issues s h .both [(a, 1)] noHandles G x →
      ∃ u, Wrote s u G x (fun l L => (List.range 7).foldl (fun L i =>
          if mask.getLsbD i then L.setP (Fin.ofNat 8 (i + 1)) ((G.reg l a 0).getLsbD (i + 1)) else L) L) G.s ∧
        exec (.v2p h a mask) s = .next (u.marked x)))

/-! ### Numbers and floating point (R73 to R96) -/

/-- R81: the FP32 and FP64 arithmetic is the exact operation rounded once, in every form of the operands. R83, R87, R88:
minima and maxima, sign changes, classes and compares of FP32 and FP64. -/
def Obligations.FloatingResults : Prop :=
  (∀ (s : State) (h : Hdr) (d : Reg) (G : Group) (x : At),
    (∀ a b : Src, Issues s h .both ((d, 1) :: (srcReg a 1 ++ srcReg b 1)) noHandles G x →
      let r := fun (f : Val → Val → Val) => Lands s G x d fun l =>
        [codeWord (f32.code (f (f32.val (G.src l a).toNat) (f32.val (G.src l b).toNat)))]
      r Val.add (exec (.fadd h d a b) s) ∧ r (fun x y => x.add y.neg) (exec (.fsub h d a b) s) ∧
      r Val.mul (exec (.fmul h d a b) s)) ∧
    (∀ a b c : Reg, Issues s h .both [(d, 1), (a, 1), (b, 1), (c, 1)] noHandles G x →
      Lands s G x d (fun l => [codeWord (f32.code (((f32.val (G.reg l a 0).toNat).mul (f32.val (G.reg l b 0).toNat)).add
        (f32.val (G.reg l c 0).toNat)))]) (exec (.ffma h d a b c) s)) ∧
    (∀ a : Src, Issues s h .both ((d, 1) :: srcReg a 1) noHandles G x →
      Lands s G x d (fun l => [codeWord (f32.code (f32.val (G.src l a).toNat).sqrt)]) (exec (.fsqrt h d a) s)) ∧
    (∀ a b : Src, Issues s h .both ((d, 2) :: (srcReg a 2 ++ srcReg b 2)) noHandles G x →
      let r := fun (f : Val → Val → Val) => Lands s G x d fun l =>
        codeWords (f64.code (f (f64.val (G.srcD l a)) (f64.val (G.srcD l b))))
      r Val.add (exec (.dadd h d a b) s) ∧ r (fun x y => x.add y.neg) (exec (.dsub h d a b) s) ∧
      r Val.mul (exec (.dmul h d a b) s) ∧ r Val.div (exec (.ddiv h d a b) s)) ∧
    (∀ a b c : Reg, Issues s h .both [(d, 2), (a, 2), (b, 2), (c, 2)] noHandles G x →
      Lands s G x d (fun l => codeWords (f64.code (((f64.val (G.reg64 l a).toNat).mul (f64.val (G.reg64 l b).toNat)).add
        (f64.val (G.reg64 l c).toNat)))) (exec (.dfma h d a b c) s)) ∧
    (∀ a : Src, Issues s h .both ((d, 2) :: srcReg a 2) noHandles G x →
      Lands s G x d (fun l => codeWords (f64.code (f64.val (G.srcD l a)).sqrt)) (exec (.dsqrt h d a) s))) ∧
  (∀ (s : State) (h : Hdr) (G : Group) (x : At),
    (∀ (d : Reg) (a b : Src), Issues s h .both ((d, 1) :: (srcReg a 1 ++ srcReg b 1)) noHandles G x →
      let r := fun (f : Nat → Nat → Nat) => Lands s G x d fun l => [codeWord (f (G.src l a).toNat (G.src l b).toNat)]
      r f32.min (exec (.fmin h d a b) s) ∧ r f32.max (exec (.fmax h d a b) s)) ∧
    (∀ (d : Reg) (a b : Src), Issues s h .both ((d, 2) :: (srcReg a 2 ++ srcReg b 2)) noHandles G x →
      let r := fun (f : Nat → Nat → Nat) => Lands s G x d fun l => codeWords (f (G.srcD l a) (G.srcD l b))
      r f64.min (exec (.dmin h d a b) s) ∧ r f64.max (exec (.dmax h d a b) s)) ∧
    (∀ (d : Reg) (a : Src), Issues s h .both ((d, 1) :: srcReg a 1) noHandles G x →
      let r := fun (f : Word → Word) => Lands s G x d fun l => [f (G.src l a)]
      r (fun a => if f32.isNan a.toNat then 0x7FC00000 else a &&& 0x7FFFFFFF) (exec (.fabs h d a) s) ∧
      r (fun a => if f32.isNan a.toNat then 0x7FC00000 else a ^^^ 0x80000000) (exec (.fneg h d a) s) ∧
      r (fun a => BitVec.ofNat 32 (2 ^ classBit a.toNat)) (exec (.fclass h d a) s)) ∧
    (∀ (d : PReg) (a b : Src), Issues s h .both (srcReg a 1 ++ srcReg b 1) noHandles G x →
      let r := fun (f : Val → Val → Bool) => LandsP s G x d fun l =>
        f (f32.val (G.src l a).toNat) (f32.val (G.src l b).toNat)
      r Val.eq (exec (.fcmpeq h d a b) s) ∧ r Val.lt (exec (.fcmplt h d a b) s) ∧
      r (fun x y => x.lt y || x.eq y) (exec (.fcmple h d a b) s) ∧
      r (fun x y => x.isNan || y.isNan) (exec (.fcmpun h d a b) s)) ∧
    (∀ (d : PReg) (a b : Src), Issues s h .both (srcReg a 2 ++ srcReg b 2) noHandles G x →
      let r := fun (f : Val → Val → Bool) => LandsP s G x d fun l => f (f64.val (G.srcD l a)) (f64.val (G.srcD l b))
      r Val.eq (exec (.dcmpeq h d a b) s) ∧ r Val.lt (exec (.dcmplt h d a b) s) ∧
      r (fun x y => x.lt y || x.eq y) (exec (.dcmple h d a b) s) ∧
      r (fun x y => x.isNan || y.isNan) (exec (.dcmpun h d a b) s)))

/-- R84, R85: an approximate instruction gives one result for each operand pattern, a fixed function of its bits. Which of
the allowed results it is, is a free value of the model (log entry 4). R84: the special results of the table that need
no rounding: NaN operands, zeros, infinities and negative operands. -/
def Obligations.ApproximateResults : Prop :=
  (∀ (s : State) (h : Hdr) (d : Reg) (a : Src) (G : Group) (x : At),
    (Issues s h .both ((d, 1) :: srcReg a 1) noHandles G x →
      let r := fun (op : ApproxOp) => Lands s G x d fun l => [op.eval (G.src l a)]
      r .rcp (exec (.frcp h d a) s) ∧ r .rsq (exec (.frsq h d a) s) ∧ r .exp2 (exec (.fexp2 h d a) s) ∧
      r .log2 (exec (.flog2 h d a) s) ∧ r .sin (exec (.fsin h d a) s) ∧ r .cos (exec (.fcos h d a) s) ∧
      r .tanh (exec (.ftanh h d a) s) ∧ r .sig (exec (.fsig h d a) s)) ∧
    (Issues s h .both ((d, 2) :: srcReg a 2) noHandles G x →
      Lands s G x d (fun l => words64 (rcp64 (BitVec.ofNat 64 (G.srcD l a)))) (exec (.drcpa h d a) s))) ∧
  ((∀ (op : ApproxOp) (a : Word), f32.isNan a.toNat → op.eval a = 0x7FC00000) ∧
  ApproxOp.rcp.eval 0x00000000 = 0x7F800000 ∧ ApproxOp.rcp.eval 0x80000000 = 0xFF800000 ∧
  ApproxOp.rcp.eval 0x7F800000 = 0x00000000 ∧ ApproxOp.rcp.eval 0xFF800000 = 0x80000000 ∧
  ApproxOp.rsq.eval 0x00000000 = 0x7F800000 ∧ ApproxOp.rsq.eval 0x80000000 = 0xFF800000 ∧
  ApproxOp.rsq.eval 0x7F800000 = 0x00000000 ∧
  ApproxOp.exp2.eval 0x00000000 = 0x3F800000 ∧ ApproxOp.exp2.eval 0x80000000 = 0x3F800000 ∧
  ApproxOp.exp2.eval 0xFF800000 = 0x00000000 ∧ ApproxOp.exp2.eval 0x7F800000 = 0x7F800000 ∧
  ApproxOp.log2.eval 0x00000000 = 0xFF800000 ∧ ApproxOp.log2.eval 0x80000000 = 0xFF800000 ∧
  ApproxOp.log2.eval 0x7F800000 = 0x7F800000 ∧ ApproxOp.log2.eval 0x3F800000 = 0x00000000 ∧
  (∀ n m e (a : Word), f32.val a.toNat = .fin n m e → n = true → m ≠ 0 →
    ApproxOp.rsq.eval a = 0x7FC00000 ∧ ApproxOp.log2.eval a = 0x7FC00000) ∧
  ApproxOp.sin.eval 0x00000000 = 0x00000000 ∧ ApproxOp.sin.eval 0x80000000 = 0x80000000 ∧
  ApproxOp.sin.eval 0x7F800000 = 0x7FC00000 ∧ ApproxOp.cos.eval 0x80000000 = 0x3F800000 ∧
  ApproxOp.cos.eval 0xFF800000 = 0x7FC00000 ∧
  ApproxOp.tanh.eval 0x80000000 = 0x80000000 ∧ ApproxOp.tanh.eval 0x7F800000 = 0x3F800000 ∧
  ApproxOp.tanh.eval 0xFF800000 = 0xBF800000 ∧
  ApproxOp.sig.eval 0x00000000 = 0x3F000000 ∧ ApproxOp.sig.eval 0x7F800000 = 0x3F800000 ∧
  ApproxOp.sig.eval 0xFF800000 = 0x00000000)

/-- R81: a finite result is the value of the format nearest to the exact one, of two equally near the one whose code is
even, as long as it does not overflow. R82: every NaN that the arithmetic writes is the canonical NaN of its format.
R83: minima and maxima. One NaN gives the other operand, two give the canonical NaN; −0 is below +0; otherwise the
smaller or larger operand is returned bit for bit. Compares with a NaN are false, and the two zeros are equal. -/
def Obligations.RoundingNanAndOrderRules : Prop :=
  (∀ f ∈ [f64, f32, f16, bf16], ∀ (n : Bool) (m : Nat) (e : Int), f.code (.fin n m e) % f.signBit < f.infCode →
    ∀ c, c < 2 * f.signBit → c % f.signBit < f.infCode →
      let near := |(f.val (f.code (.fin n m e))).rat - Val.rat (.fin n m e)|
      let other := |(f.val c).rat - Val.rat (.fin n m e)|
      near ≤ other ∧ (near = other → (f.val c).rat ≠ (f.val (f.code (.fin n m e))).rat → f.code (.fin n m e) % 2 = 0)) ∧
  (∀ f ∈ [f64, f32, f16, bf16], ∀ a b c : Nat,
    ∀ r ∈ [f.add a b, f.sub a b, f.mul a b, f.fma a b c, f.div a b, f.sqrt a, f.min a b, f.max a b, f.abs a, f.neg a,
      f64.convert f a, f32.convert f b], f.isNan r → r = f.nanCode) ∧
  (∀ f ∈ [f64, f32, f16, bf16], ∀ a b : Nat, a < 2 * f.signBit → b < 2 * f.signBit →
    (f.isNan a → f.isNan b → f.min a b = f.nanCode ∧ f.max a b = f.nanCode) ∧
    (f.isNan a → f.isNan b = false → f.min a b = b ∧ f.max a b = b) ∧
    (f.isNan a = false → f.isNan b → f.min a b = a ∧ f.max a b = a) ∧
    (f.isNan a = false → f.isNan b = false →
      (f.clt a b → f.min a b = a ∧ f.max a b = b) ∧ (f.clt b a → f.min a b = b ∧ f.max a b = a)) ∧
    f.min 0 f.signBit = f.signBit ∧ f.max 0 f.signBit = 0 ∧
    (f.isNan a ∨ f.isNan b → f.ceq a b = false ∧ f.clt a b = false ∧ f.cle a b = false) ∧
    f.ceq 0 f.signBit = true ∧ f.clt f.signBit 0 = false)

/-- R91: conversions between wide values and integers. R91: the integer of a float: NaN gives 0, an infinity the end of
the range, a finite value its truncation or its nearest integer, ties to even, within the range. R92 to R96: the
narrow formats and block quantisation. -/
def Obligations.ConversionResults : Prop :=
  (∀ (s : State) (h : Hdr) (d : Reg) (G : Group) (x : At),
    (∀ a : Src, Issues s h .both ((d, 1) :: srcReg a 1) noHandles G x →
      let r := fun (f : Word → Word) => Lands s G x d fun l => [f (G.src l a)]
      let i := fun (m : Nat → Int → Nat) (lo hi : Int) (a : Word) => BitVec.ofInt 32 ((f32.val a.toNat).toInt m lo hi)
      r (fun a => codeWord (f32.code (ofInt a.toInt))) (exec (.cvtif h d a) s) ∧
      r (fun a => codeWord (f32.code (ofInt a.toNat))) (exec (.cvtuf h d a) s) ∧
      r (i truncNat (-2147483648) 2147483647) (exec (.cvtfi h d a) s) ∧
      r (i roundNat (-2147483648) 2147483647) (exec (.cvtfin h d a) s) ∧
      r (i truncNat 0 4294967295) (exec (.cvtfu h d a) s)) ∧
    (∀ a : Src, Issues s h .both ((d, 2) :: srcReg a 1) noHandles G x →
      Lands s G x d (fun l => codeWords (f64.code (f32.val (G.src l a).toNat))) (exec (.cvtfd h d a) s) ∧
      Lands s G x d (fun l => [codeWord (f32.code (bf16.val (lo16 (G.src l a)))),
        codeWord (f32.code (bf16.val (hi16 (G.src l a))))]) (exec (.cvtbf h d a) s) ∧
      Lands s G x d (fun l => [codeWord (f32.code (f16.val (lo16 (G.src l a)))),
        codeWord (f32.code (f16.val (hi16 (G.src l a))))]) (exec (.cvthf h d a) s)) ∧
    (∀ a : Src, Issues s h .both ((d, 1) :: srcReg a 2) noHandles G x →
      Lands s G x d (fun l => [codeWord (f32.code (f64.val (G.srcD l a)))]) (exec (.cvtdf h d a) s)) ∧
    (∀ a : Src, Issues s h .both ((d, 2) :: srcReg a 2) noHandles G x →
      Lands s G x d (fun l => codeWords (f64.code (ofInt (G.src64 l a).toInt))) (exec (.cvtld h d a) s) ∧
      Lands s G x d (fun l => pairWords ((f64.val (G.srcD l a)).toInt truncNat (-9223372036854775808) 9223372036854775807))
        (exec (.cvtdl h d a) s)) ∧
    (∀ a b : Src, Issues s h .both ((d, 1) :: (srcReg a 1 ++ srcReg b 1)) noHandles G x →
      let r := fun (f : Fmt) => Lands s G x d fun l =>
        [packHalves (f.code (f32.val (G.src l a).toNat)) (f.code (f32.val (G.src l b).toNat))]
      r bf16 (exec (.cvtfb2 h d a b) s) ∧ r f16 (exec (.cvtfh2 h d a b) s))) ∧
  (∀ lo hi : Int, lo ≤ hi → ∀ m : Nat → Int → Nat,
    Val.toInt m lo hi .nan = 0 ∧ Val.toInt m lo hi (.inf false) = hi ∧ Val.toInt m lo hi (.inf true) = lo ∧
    ∀ (n : Bool) (k : Nat) (e : Int),
      let q := Val.rat (.fin n k e)
      Val.toInt truncNat lo hi (.fin n k e) = max lo (min hi (if 0 ≤ q then ⌊q⌋ else ⌈q⌉)) ∧
      ∃ z : Int, Val.toInt roundNat lo hi (.fin n k e) = max lo (min hi z) ∧ |q - z| ≤ 1 / 2 ∧ (|q - z| = 1 / 2 → z % 2 = 0)) ∧
  (∀ (s : State) (h : Hdr) (G : Group) (x : At),
    (∀ d a : Reg, Issues s h .both [(d, 1), (a, 4)] noHandles G x →
      let r := fun (f : Val → Nat) => Lands s G x d fun l =>
        let c := fun i => f (f32.val (G.reg l a i).toNat)
        [BitVec.ofNat 32 (c 0 + c 1 * 2 ^ 8 + c 2 * 2 ^ 16 + c 3 * 2 ^ 24)]
      r toE4m3k (exec (.cvte4 h d a) s) ∧ r toE5m2k (exec (.cvte5 h d a) s) ∧ r toInt8 (exec (.cvti8 h d a) s)) ∧
    (∀ (d : Reg) (a : Src), Issues s h .both ((d, 4) :: srcReg a 1) noHandles G x →
      let r := fun (f : Nat → Val) => Lands s G x d fun l =>
        let c := fun i => codeWord (f32.code (f ((G.src l a).toNat / 2 ^ (8 * i) % 256)))
        [c 0, c 1, c 2, c 3]
      r e4m3kVal (exec (.cvte4f h d a) s) ∧ r e5m2kVal (exec (.cvte5f h d a) s) ∧ r int8Val (exec (.cvti8f h d a) s)) ∧
    (∀ (d : Reg) (a b : Src), Issues s h .both ((d, 4) :: (srcReg a 1 ++ srcReg b 1)) noHandles G x →
      Lands s G x d (fun l =>
        let e := fun i => bf16.code ((f32.val (G.src l b).toNat).mul (q4nVal ((G.src l a).toNat / 2 ^ (4 * i) % 16)))
        [packHalves (e 0) (e 1), packHalves (e 2) (e 3), packHalves (e 4) (e 5), packHalves (e 6) (e 7)])
        (exec (.cvtq4f h d a b) s)) ∧
    (∀ (d a : VReg) (b : SSrc), Issues s h .both ([(.v d, 1), (.v a, 2)] ++ ssrcReg b 1) noHandles G x →
      let xs := blockOf G x.N a
      let u := f32.val (G.ssrc b).toNat
      let q := quantise 1 7 (fun _ => 7) toQ4n u xs
      let e := quantise 480 0 toE4m3k toE4m3k u xs
      Lands s G x (.v d) (fun l => [codeWord (q.1 * 2 ^ 8 + q.2.getD (2 * l + 1) 0 * 2 ^ 4 + q.2.getD (2 * l) 0)])
        (exec (.qblk h d a b) s) ∧
      Lands s G x (.v d) (fun l => [codeWord (e.1 * 2 ^ 16 + e.2.getD (2 * l + 1) 0 * 2 ^ 8 + e.2.getD (2 * l) 0)])
        (exec (.qblke4 h d a b) s)))

/-! ### Group operations (R125 to R133) -/

/-- R126, R127: quad exchanges and shuffles: a lane of T reads the register of its source lane if that lane takes part,
else its own. -/
def Obligations.ExchangeResults : Prop :=
  ∀ (s : State) (h : Hdr) (d a : VReg) (G : Group) (x : At),
    let r := fun (src : Nat → Option Nat) => Lands s G x (.v d) fun l =>
      [match src l with
       | some k => if inMask x.T k then (G.lane k).vreg a.val else (G.lane l).vreg a.val
       | none => (G.lane l).vreg a.val]
    (Issues s h .both [(.v d, 1), (.v a, 1)] noHandles G x →
      r (fun l => some (if l % 2 = 0 then l + 1 else l - 1)) (exec (.qswph h d a) s) ∧
      r (fun l => some (if l % 4 < 2 then l + 2 else l - 2)) (exec (.qswpv h d a) s) ∧
      r (fun l => some (l - l % 4 + (3 - l % 4))) (exec (.qswpd h d a) s) ∧
      ∀ i : Fin 4, r (fun l => some (l - l % 4 + i.val)) (exec (.qbrd h d a i) s)) ∧
    (∀ b : Src, Issues s h .both ([(.v d, 1), (.v a, 1)] ++ srcReg b 1) noHandles G x →
      let n := fun l => (G.src l b).toNat
      r (fun l => some (n l % 32)) (exec (.shfl h d a b) s) ∧
      r (fun l => if n l > l then none else some (l - n l)) (exec (.shflup h d a b) s) ∧
      r (fun l => if l + n l > 31 then none else some (l + n l)) (exec (.shfldn h d a b) s) ∧
      r (fun l => some (l ^^^ n l % 32)) (exec (.shflx h d a b) s))

/-- R128 to R133: votes, ballots, matches, counts, reductions, scans and intersections over the counted lanes. -/
def Obligations.GroupOperationResults : Prop :=
  ∀ (s : State) (h : Hdr) (G : Group) (x : At),
    let ns := (List.range 32).filter fun l => inMask x.N l
    let slots := fun (f : Nat → Word) => (List.range 32).map fun l => if inMask x.N l then f l else 0x80000000
    (∀ d a : PReg, Issues s h .both [] noHandles G x →
      LandsP s G x d (fun _ => ns.any fun l => (G.lane l).pred a) (exec (.voteany h d a) s) ∧
      LandsP s G x d (fun _ => ns.all fun l => (G.lane l).pred a) (exec (.voteall h d a) s)) ∧
    (∀ (d : Reg) (a : PReg), Issues s h .both [(d, 1)] noHandles G x →
      Lands s G x d (fun _ => [BitVec.ofNat 32 ((ns.filter fun l => (G.lane l).pred a).map fun l => 2 ^ l).sum])
        (exec (.ballot h d a) s) ∧
      Lands s G x d (fun _ => [BitVec.ofNat 32 (ns.filter fun l => (G.lane l).pred a).length]) (exec (.gcnt h d a) s)) ∧
    (∀ (d : Reg) (a : VReg), Issues s h .both [(d, 1), (.v a, 1)] noHandles G x →
      let r := fun (f : List Word → Word) => Lands s G x d fun _ => [f (ns.map fun l => (G.lane l).vreg a.val)]
      r (fun vs => BitVec.ofNat 32 (vs.map BitVec.toNat).sum) (exec (.gsumi h d a) s) ∧
      r (fun vs => BitVec.ofInt 32 ((vs.map BitVec.toInt).foldr min 2147483647)) (exec (.gmini h d a) s) ∧
      r (fun vs => BitVec.ofInt 32 ((vs.map BitVec.toInt).foldr max (-2147483648))) (exec (.gmaxi h d a) s) ∧
      r (fun vs => BitVec.ofNat 32 (vs.foldl (fun m v => f32.min m v.toNat) f32.nanCode)) (exec (.gminf h d a) s) ∧
      r (fun vs => BitVec.ofNat 32 (vs.foldl (fun m v => f32.max m v.toNat) f32.nanCode)) (exec (.gmaxf h d a) s) ∧
      Lands s G x d (fun _ => [treeBlock (slots fun l => (G.lane l).vreg a.val) 5 0]) (exec (.gsumf h d a) s)) ∧
    (∀ d a : VReg, Issues s h .both [(.v d, 1), (.v a, 1)] noHandles G x →
      let v := fun l => (G.lane l).vreg a.val
      Lands s G x (.v d) (fun l => [BitVec.ofNat 32 ((ns.filter fun m => v m = v l).map fun m => 2 ^ m).sum])
        (exec (.matchLanes h d a) s) ∧
      Lands s G x (.v d) (fun l => [BitVec.ofNat 32 ((ns.filter (· ≤ l)).map fun m => (v m).toNat).sum])
        (exec (.gscani h d a) s) ∧
      Lands s G x (.v d) (fun l => [treePrefix (slots v) (l + 1)]) (exec (.gscanf h d a) s)) ∧
    (∀ d a b : VReg, Issues s h .both [(.v d, 1), (.v a, 1), (.v b, 1)] noHandles G x →
      Lands s G x (.v d) (fun l =>
        let k := (G.lane l).vreg a.val
        [if k = 0xFFFFFFFF then 0xFFFFFFFF
          else match ns.find? fun m => decide ((G.lane m).vreg b.val = k) with
            | some m => BitVec.ofNat 32 m
            | none => 0xFFFFFFFF]) (exec (.isect h d a b) s)) ∧
    (∀ (d : Reg) (a b : VReg), Issues s h .both [(d, 1), (.v a, 1), (.v b, 1)] noHandles G x →
      let key := fun (r : VReg) l => ((G.lane l).vreg r.val).toNat
      let m := min ((ns.map (key a)).foldr max 0) ((ns.map (key b)).foldr max 0)
      let n := fun r => (ns.filter fun l => key r l ≤ m).length
      Lands s G x d (fun _ => [BitVec.ofNat 32 (n a + n b * 2 ^ 8)]) (exec (.isectadv h d a b) s)) ∧
    (∀ (d : VReg) (a : PReg), Issues s h .both [(.v d, 1)] noHandles G x →
      Lands s G x (.v d) (fun l => [BitVec.ofNat 32 (ns.filter fun m => m < l && (G.lane m).pred a).length])
        (exec (.ishelp h d a) s))

/-- R75 to R78, R96: the worked values of the manual. R132: the worked sum of four lanes, and that a prefix over all 32
slots is the sum. -/
def Obligations.WorkedValues : Prop :=
  (let v := fun x : Word => f32.val x.toNat
  toE4m3k (v 0x3F800000) = 0x38 ∧ toE4m3k (v 0x3E99999A) = 0x2A ∧ toE4m3k (v 0x43FA0000) = 0x7F ∧
  toE4m3k (v 0xBA83126F) = 0x81 ∧ toE4m3k (v 0x7FC00000) = 0x00 ∧
  toE4m3k (.fin false 496 0) = 0x7F ∧ toE4m3k (.fin true 1 (-11)) = 0x80 ∧
  toInt8 (.fin true 1285 (-1)) = 0x80 ∧ toInt8 (.fin false 255 (-1)) = 0x7F ∧ toInt8 (.inf true) = 0x80 ∧
  (∀ c, c < 256 → toE4m3k (e4m3kVal c) = c ∧ toE5m2k (e5m2kVal c) = c ∧ toInt8 (int8Val c) = c) ∧
  (∀ n, n < 16 → toQ4n (q4nVal n) = n ∧ f32.val (f32.code (q4nVal n)) ≠ .nan) ∧
  quantise 1 7 (fun _ => 7) toQ4n (v 0x3F000000)
    ([v 0x40000000, v 0xBECCCCCD, v 0x3F666666] ++ List.replicate 61 (.fin false 0 0))
    = (4, [0xF, 5, 0xC] ++ List.replicate 61 7) ∧
  quantise 1 7 (fun _ => 7) toQ4n (v 0xBF000000) (List.replicate 64 (v 0x40000000)) = (255, List.replicate 64 7)) ∧
  (let slots : List Word := [0x4B800000, 0x3F800000, 0x3F800000, 0x3F800000] ++ List.replicate 28 0x80000000
  treeBlock slots 1 0 = 0x4B800000 ∧ treeBlock slots 2 0 = 0x4B800001 ∧ treeBlock slots 5 0 = 0x4B800001 ∧
  treePrefix slots 1 = 0x4B800000 ∧ treePrefix slots 3 = 0x4B800000 ∧ treePrefix slots 4 = 0x4B800001 ∧
  (∀ xs : List Word, treePrefix xs 32 = treeBlock xs 5 0) ∧
  treeBlock (List.replicate 32 0x80000000) 5 0 = 0x80000000)

/-! ### Control (R51 to R55, R134 to R139) -/

/-- R53, R54: with four entries a push spills the oldest to SPT − 8 and SPT falls by 8; with none a pop reads the 8 bytes
at SPT, and SPT rises by 8. Both act lane by lane, lowest lane first, for any depths of the lanes. The spill is a store of the thread, and the
thread waits until it is performed (R54). The model's choice (log 17): the refill is a read at the home, with the thread's own stores in flight
(R18), and never of an L1 copy; it waits for what it has to come after, and is then outstanding. -/
def Obligations.ReturnStackSpillAndRefill : Prop :=
  (∀ (s : State) (h : Hdr) (G : Group) (x : At),
    (Issues s h .both [] noHandles G x →
      (∀ disp, Yields s G x (fun s => (lanesOf x.T).foldl (fun s l => s.callLane x l (x.pc + 12 + disp.signExtend 64)) s)
        (exec (.call h disp) s)) ∧
      Yields s G x (fun s => (lanesOf x.T).foldl (fun s l => s.retLane x l) s) (exec (.ret h) s)) ∧
    (∀ a : Reg, Issues s h .both [(a, 2)] noHandles G x →
      Yields s G x (fun s => (lanesOf x.T).foldl (fun s l => s.callLane x l (G.reg64 l a)) s) (exec (.callx h a) s))) ∧
  (∀ (s s' : State) (x : At) (l : Nat) (target r0 r1 r2 r3 : DWord) (G : Group) (pas : List Nat),
    s.group? x.g = some G → l < G.lanes.length → (G.lane l).rs = [r0, r1, r2, r3] → isWave x.g = false →
    (G.lane l).helper = false → s.check x l 8 ((G.lane l).spt - 8) (.spill target) = (s', .ok pas) →
    s.callLane x l target =
      (s'.pushStore 8 { g := x.g, lane := l, seq := x.seq, pc := x.pc, ctx := G.ctx, rel := false, va := (G.lane l).spt - 8, kind := .store [] 0 }
          (stBytes l pas (leBytes 8 r0.toNat))).updLane
        x.g l fun L => { L with rs := [r1, r2, r3, x.pc + 12], spt := L.spt - 8, pc := target, wait := .spilled x.seq }) ∧
  (∀ (s s' : State) (x : At) (l : Nat) (G : Group) (pas : List Nat),
    s.group? x.g = some G → (G.lane l).rs = [] → isWave x.g = false → (G.lane l).helper = false →
    s.check x l 8 (G.lane l).spt .refill = (s', .ok pas) →
    (s'.refill x l pas = none → s.retLane x l = s'.readLater x.g l x.pc .refill (G.lane l).spt G.pkr) ∧
    ((∀ pa ∈ pas, ∀ e ∈ s'.lsq, e.blocks x.g l x.seq pa 1 = false) → (∀ e ∈ s'.lsq, e.seen.contains (x.g, l) = false) →
      s'.loadsAt x.g l x.seq (pas.map wordOf) = false →
      let far := pas.filter fun pa => (s'.forward x.g l x.seq pa).isNone
      s'.holds far = false → (∀ pa ∈ far, s'.poisonIn pa 1 = none) → (∀ pa ∈ pas, isRemote pa = true → remoteOk pa = true) →
      ∃ u : State, u.groups = s'.groups ∧ u.mem = s'.mem ∧ u.lsq = s'.lsq ∧ s.retLane x l = u.updLane x.g l fun L =>
        { L with pc := leDWord (pas.flatMap fun pa => s'.laneBytes x.g l x.seq pa 1), spt := L.spt + 8 }))

/-- The target of a relative transfer (R44, R51): the address of the next instruction plus the signed displacement. R136,
R137: RVSET makes the record; RVWAIT at its address makes the named lanes wait, and the last arrival releases them all
at TARGET + 12 and clears VALID, MASK and ARRIVED; a lane that MASK does not name goes on. -/
def Obligations.BranchesAndRejoins : Prop :=
  (∀ (s : State) (h : Hdr) (G : Group) (x : At),
    (Issues s h .both [] noHandles G x →
      let target := fun disp : Word => BitVec.ofInt 64 ((x.pc.toNat : Int) + 12 + disp.toInt)
      Turns s G x (fun _ L => L) (exec (.nop h) s) ∧
      (∃ u, Moved s u G x (fun _ L => { L with yielded := true }) ∧ exec (.yield h) s = .next (u.close x G)) ∧
      (∀ disp, Turns s G x (fun _ L => { L with pc := target disp }) (exec (.bra h disp) s)) ∧
      (∀ disp, (∀ l, inMask x.T l = true → (G.lane l).rs.length < 4) →
        Turns s G x (fun _ L => { L with rs := L.rs ++ [x.pc + 12], pc := target disp }) (exec (.call h disp) s)) ∧
      ((∀ l, inMask x.T l = true → (G.lane l).rs ≠ []) →
        Turns s G x (fun _ L => { L with rs := L.rs.dropLast, pc := L.rs.getLast?.getD 0 }) (exec (.ret h) s))) ∧
    (∀ a : Reg, Issues s h .both [(a, 2)] noHandles G x →
      Turns s G x (fun l L => { L with pc := G.reg64 l a }) (exec (.jmpx h a) s) ∧
      ((∀ l, inMask x.T l = true → (G.lane l).rs.length < 4) →
        Turns s G x (fun l L => { L with rs := L.rs ++ [x.pc + 12], pc := G.reg64 l a }) (exec (.callx h a) s)))) ∧
  (∀ (s : State) (h : Hdr) (j : JReg) (G : Group) (x : At),
    let r := G.rj.getD j.val {}
    (∀ (sa : SReg) (disp : Word), Issues s h .both [(.s sa, 1)] noHandles G x →
      (x.T = 0 → Turns s G x (fun _ L => L) (exec (.rvset h j sa disp) s)) ∧
      (x.T ≠ 0 → ∃ (u : State) (G' : Group), exec (.rvset h j sa disp) s = .next (u.close x G) ∧ u.group? x.g = some G' ∧
        let m := (G.sreg sa.val ||| G.helpers) &&& G.live
        G'.rj = G.rj.set j.val { valid := m != 0, mask := m, target := x.pc + 12 + disp.signExtend 64, arrived := 0 } ∧
        (r.valid = true → ∀ l, l < G.lanes.length → inMask r.arrived l = true → (G'.lane l).pc = r.target + 12) ∧
        (r.valid = false ∨ r.arrived = 0 → ∀ l, (G'.lane l).pc = if inMask x.B l then x.pc + 12 else (G.lane l).pc))) ∧
    (Issues s h .both [] noHandles G x →
      (¬ (r.valid = true ∧ r.target = x.pc) → Turns s G x (fun _ L => L) (exec (.rvwait h j) s)) ∧
      (r.valid = true → r.target = x.pc → r.mask ≠ 0 → ∃ (u : State) (G' : Group), exec (.rvwait h j) s = .next (u.close x G) ∧
        u.group? x.g = some G' ∧
        let a := r.arrived ||| (x.T &&& r.mask)
        (a ≠ r.mask → G'.rj = G.rj.set j.val { r with arrived := a } ∧
          ∀ l, inMask x.T l = true → inMask r.mask l = true → (G'.lane l).wait = .rejoin j ∧ (G'.lane l).pc = x.pc) ∧
        (∀ l, inMask x.B l = true → inMask r.mask l = false → inMask r.arrived l = false →
          (G'.lane l).wait = .none ∧ (G'.lane l).pc = x.pc + 12) ∧
        (a = r.mask → G'.rj = G.rj.set j.val { valid := false, mask := 0, target := r.target, arrived := 0 } ∧
          ∀ l, inMask r.mask l = true → l < G.lanes.length → (G'.lane l).pc = x.pc + 12))))

/-- R52: EXIT parks as a switch marker and then ends the thread; TRAP parks and then takes a software trap whose record
holds the code, with RESUME at the next instruction; BKPT halts the group where breakpoints are enabled, else it is a NOP. -/
def Obligations.ThreadEndsTrapsAndBreakpoints : Prop :=
  ∀ (s : State) (h : Hdr) (G : Group) (x : At), Issues s h .both [] noHandles G x → isWave x.g = false →
    (x.T ≠ 0 → Yields s G x (fun s => (s.jump x x.T fun _ _ => x.pc).park x.g x.T fun _ => .exit) (exec (.exit h) s)) ∧
    (x.T ≠ 0 → G.pend = [] → G.recs = [] → G.held = [] → G.parked = 0 → (∀ e ∈ s.lsq, e.g ≠ x.g) → x.h.mark = false →
      ∃ t : State, exec (.exit h) s = .next t ∧ ∀ l, inMask x.T l = true → (t.lane x.g l).live = false) ∧
    (x.T = 0 → Turns s G x (fun _ L => L) (exec (.exit h) s)) ∧
    (∀ code, x.N ≠ 0 → Yields s G x (fun s =>
      (s.updGroup x.g fun G => (G.updLanes x.N fun _ L => { L with pc := x.pc }).joinSet x.N).park x.g x.N fun _ =>
        .trap { cause := .swtrap, info := code.setWidth 32, resume := x.pc + 12, fpc := x.pc, mask := x.N })
      (exec (.trap h code) s)) ∧
    (∀ code c, AMap.get? s.contexts G.ctx = some c → c.debug = false → Turns s G x (fun _ L => L) (exec (.bkpt h code) s)) ∧
    (∀ code c, AMap.get? s.contexts G.ctx = some c → c.debug = true → x.N ≠ 0 → ∃ u : State, exec (.bkpt h code) s = .next (u.close x G) ∧
      (∃ G' : Group, u.group? x.g = some G' ∧ G'.halted = true) ∧ u.dev.halts.length = s.dev.halts.length + 1 ∧ u.mem = s.mem)

/-! ### The scratchpad (R66 to R68, R176, R192) -/

/-- R66, R67: a scratchpad load reads its bytes at the issue, and the result is outstanding until the marker. R66, R67: a
scratchpad store writes the low bytes of its registers at the lane's offset, the highest lane supplying a byte that
several store; every other byte, and everything else in the machine, stays. -/
def Obligations.ScratchpadAccesses : Prop :=
  (∀ (s : State) (h : Hdr) (d a : Reg) (disp : Word) (G : Group) (x : At),
    let sh := s.share (s.shareKey x.g)
    let off := fun l => (G.reg l a 0 + disp).toNat
    let r := fun (w n : Nat) (f : List Byte → List Word) (o : Host.Outcome State Fault Refusal) =>
      Issues s h .core [(d, w), (a, 1)] noHandles G x → supplies x d →
      (∀ l, inMask x.N l = true → off l % n = 0 ∧ off l + n ≤ sh.size) →
      ∃ u, Pended s u G x keep (pendOf G x .value d w fun l => .back
          (if off l % n = 0 ∧ off l + n ≤ sh.size then f ((List.range n).map fun i => AMap.getD sh.scratch (off l + i) 0)
           else List.replicate w 0)) ∧
        o = .next (u.close x G)
    r 1 1 (fun bs => [BitVec.ofNat 32 (leNat bs)]) (exec (.lds8u h d a disp) s) ∧
    r 1 1 (fun bs => [BitVec.ofInt 32 (BitVec.ofNat 8 (leNat bs)).toInt]) (exec (.lds8s h d a disp) s) ∧
    r 1 2 (fun bs => [BitVec.ofNat 32 (leNat bs)]) (exec (.lds16u h d a disp) s) ∧
    r 1 2 (fun bs => [BitVec.ofInt 32 (BitVec.ofNat 16 (leNat bs)).toInt]) (exec (.lds16s h d a disp) s) ∧
    r 1 4 (fun bs => [leWord bs]) (exec (.lds32 h d a disp) s) ∧
    r 2 8 (fun bs => [leWord (bs.take 4), leWord (bs.drop 4)]) (exec (.lds64 h d a disp) s) ∧
    r 4 16 (fun bs => [leWord (bs.take 4), leWord ((bs.drop 4).take 4), leWord ((bs.drop 8).take 4), leWord (bs.drop 12)])
      (exec (.lds128 h d a disp) s)) ∧
  (∀ (s : State) (h : Hdr) (a b : Reg) (disp : Word) (G : Group) (x : At),
    let k := s.shareKey x.g
    let off := fun l => (G.reg l a 0 + disp).toNat
    let r := fun (w n : Nat) (o : Host.Outcome State Fault Refusal) =>
      Issues s h .core [(a, 1), (b, w)] noHandles G x →
      (∀ l, inMask x.N l = true → off l % n = 0 ∧ off l + n ≤ (s.share k).size) →
      ∃ u : State, o = .next (u.close x G) ∧ u = { s.advance x with shares := u.shares } ∧
        (∀ j, j ≠ k → u.share j = s.share j) ∧ u.share k = { s.share k with scratch := (u.share k).scratch } ∧
        ∀ i, AMap.getD (u.share k).scratch i 0 =
          match ((lanesOf x.N).reverse.find? fun l => off l ≤ i ∧ i < off l + n) with
          | some l => BitVec.ofNat 8 ((G.reg l b ((i - off l) / 4)).toNat / 2 ^ (8 * ((i - off l) % 4)))
          | none => AMap.getD (s.share k).scratch i 0
    r 1 1 (exec (.sts8 h a b disp) s) ∧ r 1 2 (exec (.sts16 h a b disp) s) ∧ r 1 4 (exec (.sts32 h a b disp) s) ∧
    r 2 8 (exec (.sts64 h a b disp) s) ∧ r 4 16 (exec (.sts128 h a b disp) s))

/-- R68, R176, R192: LDSH and STSH reach another team's scratchpad through an outstanding result and the store queues, where several lanes'
words at one place are one entry, with the highest lane's data;
the scratchpad atomics act in ascending lane order and answer the old values. -/
def Obligations.ClusterScratchpadAndAtomics : Prop :=
  ∀ (s : State) (h : Hdr) (a b : Reg) (disp : Word) (G : Group) (x : At),
    let own := s.shareKey x.g
    let adr := fun l => G.reg l a 0 + disp
    (∀ d : Reg, Issues s h .core [(d, 1), (a, 1)] noHandles G x → supplies x d →
      (∀ l, inMask x.N l = true → s.clusterFault x.g (adr l) .spRead = none) →
      ∃ u, Pended s u G x keep (pendOf G x .ldsh d 1 fun l =>
          match if s.clusterFault x.g (adr l) .spRead = none then s.clusterScratch x.g (adr l) else none with
          | some (k, o) => if k = own then .back [leWord ((s.share k).bytes o 4)] else .waiting (BitVec.ofNat 64 (k * 2 ^ 32 + o))
          | none => .back [0]) ∧
        exec (.ldsh h d a disp) s = .next (u.close x G)) ∧
    (Issues s h .core [(a, 1), (b, 1)] noHandles G x →
      (∀ l, inMask x.N l = true → s.clusterFault x.g (adr l) .spWrite = none) →
      Yields s G x (fun s =>
          let words := (lanesOf x.N).filterMap fun l =>
            (s.clusterScratch x.g (adr l)).map fun w => (l, w.1, w.2, leBytes 4 (G.reg l b 0).toNat)
          let s := (words.filter fun w => w.2.1 == own).foldl (fun s w => s.updShare own fun sh => sh.setBytes w.2.2.1 w.2.2.2) s
          (mergeWords (words.filter fun w => w.2.1 != own)).foldl (fun s w =>
            s.push { g := x.g, lane := (lowest w.2.2.1).getD 0, seq := x.seq, pc := x.pc, ctx := G.ctx, rel := false
                     kind := .stsh w.1 w.2.1 w.2.2.2 w.2.2.1 }) s) (exec (.stsh h a b disp) s)) ∧
    (∀ (ws : List (Nat × Nat × Nat × List Byte)) (k o : Nat),
      let same := ws.filter fun w => w.2.1 == k && w.2.2.1 == o
      (mergeWords ws).filter (fun w => w.1 == k && w.2.1 == o) =
        (same.getLast?.map fun w => (k, o, same.foldl (fun (m : Word) v => m ||| (1 <<< v.1)) 0, w.2.2.2)).toList) ∧
    (∀ d : VReg, Issues s h .core [(.v d, 1), (a, 1), (b, 1)] noHandles G x →
      (∀ l, inMask x.N l = true → (adr l).toNat % 4 = 0 ∧ (adr l).toNat + 4 ≤ (s.share own).size) →
      let r := fun (f : Nat → Word → Word) (o : Host.Outcome State Fault Refusal) =>
        Yields s G x (fun s => s.scratchAtomic x d adr f) o ∧
        ∀ l, x.T = 1 <<< l → x.N = 1 <<< l → l < 32 →
          let old := leWord ((s.share own).bytes (adr l).toNat 4)
          ∃ (u : State) (G' : Group), o = .next (u.close x G) ∧ u.group? x.g = some G' ∧
            leWord ((u.share own).bytes (adr l).toNat 4) = f l old ∧
            G'.pend = G.pend ++ [pendOf G x .value (.v d) 1 fun _ => .back [old]]
      r (fun l old => BitVec.ofNat 32 (old.toNat + (G.reg l b 0).toNat)) (exec (.saadd h d a b disp) s) ∧
      r (fun l old => if old = (G.lane l).vreg d.val then G.reg l b 0 else old) (exec (.sacas h d a b disp) s) ∧
      r (fun l old => BitVec.ofNat 32 (f32.add old.toNat (G.reg l b 0).toNat)) (exec (.safadd h d a b disp) s))

/-! ### Global memory (R69 to R72, R172, R184 to R192, R341) -/

/-- R18, R70, R71, R170, R172, R184, R185: a store whose counted lanes all pass leaves for its homes, one entry of the store queues for each
aligned word, or for each aligned 8 bytes of one that is longer than a word: the highest lane supplies a byte that several write, and every
lane that wrote it reads it back; memory itself has not changed yet. The lanes of a scatter without a marker then go on in cohorts. Where
every counted lane's address is misaligned or not canonical they trap precisely, and nothing leaves; one such lane is enough for a scatter. -/
def Obligations.GlobalStores : Prop :=
  ∀ (s : State) (h : Hdr) (a b : Reg) (disp : Word) (G : Group) (x : At),
    let va := fun l => G.reg64 l a + disp.signExtend 64
    let r := fun (w n : Nat) (rel scat : Bool) (o : Host.Outcome State Fault Refusal) =>
      let data := fun l => (wordsBytes ((List.range w).map fun i => G.reg l b i)).take n
      let ok := fun (l : Nat) => (va l).toNat % n = 0 ∧ canonical (va l) = true
      Issues s h .core [(a, 2), (b, w)] noHandles G x →
      (scat = false → (∀ l, inMask x.N l = true → ¬ ok l) →
        o = .next (((s.advance x).raiseAll x x.N fun l => addrFault (va l) n .write).close x G)) ∧
      (scat = true → (∃ l, inMask x.N l = true ∧ ¬ ok l) →
        o = .next (((s.advance x).divergentFault x (maskOf fun l => inMask x.N l && !decide (ok l)) fun l => addrFault (va l) n .write).close x G)) ∧
      ((∀ l, inMask x.N l = true → ok l) →
      ∀ (t : State) (bs : List (List StByte)),
        (s.advance x).storeLanes x n va (fun l => .store n (data l) rel scat []) data (lanesOf x.N) = (t, x.N, bs, []) →
        Translated (s.advance x) t ∧
        (let u := t.sendStore x n rel va x.N bs
         o = .next ((if scat = true ∧ h.mark = false then
             (u.addPend x .scat noDest ((lanesOf x.T).map fun l => (l, .back []))).waitLanes x x.T fun _ => .gath x.seq
           else u).close x G) ∧ u.mem = t.mem) ∧
        ∀ l0, lowest x.N = some l0 → ∃ bytes : List StByte,
          (∀ pa, (bytes.find? fun e => e.pa == pa).map StByte.val = bs.reverse.findSome? fun e => (e.find? fun e => e.pa == pa).map StByte.val) ∧
          (∀ e ∈ bs, ∀ y ∈ e, ∀ l, inMask y.lanes l = true → ∃ z ∈ bytes, z.pa = y.pa ∧ inMask z.lanes l = true) ∧
          (t.sendStore x n rel va x.N bs).lsq = (storeUnits n bytes).zipIdx.foldl (fun q e => insertLs
            { g := x.g, lane := l0, seq := x.seq, part := e.2, pc := x.pc, ctx := G.ctx, rel, va := va l0, kind := .store e.1 (lanesIn e.1) } q) s.lsq)
    r 1 1 false false (exec (.st8 h a b disp) s) ∧ r 1 2 false false (exec (.st16 h a b disp) s) ∧
    r 1 4 false false (exec (.st32 h a b disp) s) ∧ r 2 8 false false (exec (.st64 h a b disp) s) ∧
    r 4 16 false false (exec (.st128 h a b disp) s) ∧
    r 1 4 true false (exec (.strel32 h a b disp) s) ∧ r 2 8 true false (exec (.strel64 h a b disp) s) ∧
    r 1 4 false true (exec (.scat32 h a b disp) s) ∧ r 2 8 false true (exec (.scat64 h a b disp) s)

/-- R69, R70, R184, R185: a global load leaves its lanes with an outstanding result at their addresses; a GATH without a
switch marker leaves each lane waiting for its own data. A helper lane whose address fails a check gets zero (R98).
Where a counted lane's address is misaligned or not canonical, it traps precisely (R25, R290) and the others of a
plain load go on; a GATH with such a lane has no effect at all. R186, R187, R341: a prefetch changes no register and
no byte of memory; a discard, an LDLU32 and a PUTS whose lanes pass leave for their homes, the result of LDLU32
outstanding with its supplier fixed at issue (R12). The model's choices: the read of LDLU32 is served at the home (log
39, R186 leaves it open), and a PUTS is one entry with its payload words in lane order (log 16). -/
def Obligations.LoadsPrefetchesAndPuts : Prop :=
  (∀ (s : State) (h : Hdr) (a : Reg) (disp : Word) (G : Group) (x : At),
    let va := fun l => G.reg64 l a + disp.signExtend 64
    let ok := fun (n : Nat) (l : Nat) => (va l).toNat % n = 0 ∧ canonical (va l) = true
    let out := fun (w n l : Nat) => if ok n l then PLane.waiting (va l) else .back (List.replicate w 0)
    (∀ d : Reg,
      let r := fun (w n : Nat) (k : PKind) (o : Host.Outcome State Fault Refusal) =>
        Issues s h .core [(d, w), (a, 2)] noHandles G x → supplies x d → (∀ l, inMask x.N l = true → ok n l) →
        ∃ u, Pended s u G x keep (pendOf G x k d w (out w n)) ∧ o = .next (u.close x G)
      r 1 1 (.load 1 .zero false false) (exec (.ld8u h d a disp) s) ∧
      r 1 1 (.load 1 .sign false false) (exec (.ld8s h d a disp) s) ∧
      r 1 2 (.load 2 .zero false false) (exec (.ld16u h d a disp) s) ∧
      r 1 2 (.load 2 .sign false false) (exec (.ld16s h d a disp) s) ∧
      r 1 4 (.load 4 .zero false false) (exec (.ld32 h d a disp) s) ∧
      r 2 8 (.load 8 .zero false false) (exec (.ld64 h d a disp) s) ∧
      r 4 16 (.load 16 .zero false false) (exec (.ld128 h d a disp) s) ∧
      r 1 4 (.load 4 .zero true true) (exec (.ldacq32 h d a disp) s) ∧
      r 2 8 (.load 8 .zero true true) (exec (.ldacq64 h d a disp) s) ∧
      (Issues s h .core [(d, 1), (a, 2)] noHandles G x → ∀ fail, (∀ l, inMask fail l = (inMask x.N l && !decide (ok 4 l))) →
        let x' := { x with T := x.T &&& ~~~fail, N := x.N &&& ~~~fail }
        exec (.ld32 h d a disp) s = .next ((((s.advance x).addPend x' (.load 4 .zero false false) { reg := some (.inl d), w := 1 }
          (pendLanes d x' (out 1 4))).raiseAll x fail fun l => addrFault (va l) 4 .read).close x G))) ∧
    (∀ (u : State) (m : Word), (s.advance x).group? x.g = some G → m &&& G.helpers = 0 → G.outstanding = true → G.recs = [] → m ≠ 0 →
      (∀ l, inMask m l = true → (va l).toNat % 4 ≠ 0 ∨ canonical (va l) = false) →
      u = (s.advance x).raiseAll x m (fun l => addrFault (va l) 4 .read) →
      u.mem = s.mem ∧ u.lsq = s.lsq ∧ ∃ G' : Group, u.group? x.g = some G' ∧ ∀ l, l < G.lanes.length → inMask m l = true →
        (G'.lane l).pc = x.pc ∧ (G'.lane l).wait = .park (.trap
          { cause := if (va l).toNat % 4 ≠ 0 then .misaligned else .translation, sub := if (va l).toNat % 4 ≠ 0 then 0 else 2
            kind := .read, addr := va l, resume := x.pc, fpc := x.pc, mask := m }) (G.lane l).due) ∧
    (∀ d : VReg,
      let r := fun (w n : Nat) (o : Host.Outcome State Fault Refusal) =>
        Issues s h .core [(.v d, w), (a, 2)] noHandles G x → x.T ≠ 0 → (∀ l, inMask x.N l = true → ok n l) →
        ∃ u, Pended s u G x (fun _ L => if h.mark then L else { L with wait := .gath x.seq })
            (pendOf G x (.gath n) (.v d) w (out w n)) ∧ o = .next (u.close x G)
      r 1 4 (exec (.gath32 h d a disp) s) ∧ r 2 8 (exec (.gath64 h d a disp) s) ∧
      (Issues s h .core [(.v d, 1), (a, 2)] noHandles G x → (∃ l, inMask x.N l = true ∧ ¬ ok 4 l) →
        exec (.gath32 h d a disp) s = .next (((s.advance x).divergentFault x (maskOf fun l => inMask x.N l && !decide (ok 4 l))
          fun l => addrFault (va l) 4 .read).close x G)))) ∧
  (∀ (s : State) (h : Hdr) (a : Reg) (G : Group) (x : At),
    (∀ disp : Word, Issues s h .core [(a, 2)] noHandles G x →
      ∃ u : State, exec (.pref h a disp) s = .next (u.close x G) ∧ Translated (s.advance x) u) ∧
    (∀ disp : Word, Issues s h .core [(a, 2)] noHandles G x →
      let va := fun l => G.reg64 l a + disp.signExtend 64
      (∀ l, inMask x.N l = true → (va l).toNat % 64 = 0 ∧ canonical (va l) = true) →
      ∀ t ps, (s.advance x).passLanes x 64 va (fun _ => .disc) (lanesOf x.N) = some (t, ps) →
        exec (.disc h a disp) s = .next (t.close x G) ∧ s.SameBytes t ∧
        t.lsq = (ps.filter fun e => e.2.getD 0 0 < 0x800000000000).foldl (fun q e => insertLs
          { g := x.g, lane := e.1, seq := x.seq, pc := x.pc, ctx := G.ctx, rel := false, va := va e.1, kind := .disc (e.2.getD 0 0 / 64) } q) s.lsq) ∧
    (∀ (d : Reg) (disp : Word), Issues s h .core [(d, 1), (a, 2)] noHandles G x →
      let va := fun l => G.reg64 l a + disp.signExtend 64
      let dst : Dest := { reg := some (.inl d), w := 1 }
      let first := (s.advance x).addPend x (.load 4 .zero false true) dst (pendLanes d x fun l =>
        if inMask x.N l then .faulted (va l) else if (va l).toNat % 4 = 0 ∧ canonical (va l) = true then .waiting (va l) else .back [0])
      (∀ l, inMask x.N l = true → (va l).toNat % 4 = 0 ∧ canonical (va l) = true) →
      ∀ t ps, first.passLanes x 4 va (fun _ => .ldlu x.seq dst) (lanesOf x.N) = some (t, ps) →
        exec (.ldlu32 h d a disp) s = .next (t.close x G) ∧ s.SameBytes t ∧
        t.lsq = (ps.filter fun e => e.2.getD 0 0 < 0x800000000000).foldl (fun q e => insertLs
          { g := x.g, lane := e.1, seq := x.seq, pc := x.pc, ctx := G.ctx, rel := false, va := va e.1, kind := .disc (e.2.getD 0 0 / 64) } q) s.lsq ∧
        (supplies x d → ∃ (G' : Group) (p : Pend), t.group? x.g = some G' ∧ p ∈ G'.pend ∧ p.seq = x.seq ∧ p.supplier = lowest x.N ∧
          ∀ l, inMask x.T l = true → AMap.get? p.lanes l =
            some (if (va l).toNat % 4 = 0 ∧ canonical (va l) = true then .waiting (va l) else .back [0]))) ∧
    (∀ (b : Reg) (sc : SReg), Issues s h .core [(a, 2), (b, 2), (.s sc, 2)] noHandles G x →
      let arg := (s.advance x).putsArg s x a b sc
      (∀ l, (∀ va bs sig pkr, (s.lane x.g l).wait ≠ .again (.puts va bs sig pkr)) →
        arg l = { va := G.reg64 l a, data := leBytes 8 (G.reg64 l b).toNat, sig := G.sreg64 sc.val, pkr := G.pkr }) ∧
      ((∀ l, inMask x.N l = true → (arg l).va.toNat % 8 = 0 ∧ (arg l).sig.toNat % 8 = 0) →
      ∀ (t : State) l0 pa ps f rest, (s.advance x).putsLanes x arg (lanesOf x.N) = (t, (l0, pa, ps, f) :: rest, []) →
        ((l0, pa, ps, f) :: rest).map (·.1) = lanesOf x.N →
        Translated (s.advance x) t ∧
        exec (.puts h a b sc) s = .next ((t.push { g := x.g, lane := l0, seq := x.seq, pc := x.pc, ctx := G.ctx, rel := false, kind := .puts (((l0, pa, ps, f) :: rest).map fun e => (e.2.1, (arg e.1).data)) ps (rest.length + 1) f x.N }).close x G))))

/-- R188, R189: an atomic whose counted lanes all pass leaves as one releasing entry per lane, with the lane's operands; a
returning one leaves the old value outstanding, and its helper lanes receive 0. R188: the values of the atomics;
minima and maxima are those of R83. -/
def Obligations.Atomics : Prop :=
  (∀ (s : State) (h : Hdr) (a b : Reg) (disp : Word) (G : Group) (x : At),
    let va := fun l => G.reg64 l a + disp.signExtend 64
    let data := fun (r : Reg) (o : AtOp) l => (wordsBytes ((List.range o.regs).map fun i => G.reg l r i)).take o.width
    let entry := fun (o : AtOp) (e : List Byte) (ret : Option Nat) (p : Nat × List Nat) =>
      ({ g := x.g, lane := p.1, seq := x.seq, pc := x.pc, ctx := G.ctx, rel := true, va := va p.1, kind := .atomic o (p.2.getD 0 0) o.width (data b o p.1) e ret [] } : LsOp)
    (∀ d : VReg,
      let r := fun (op : AtOp) (o : Host.Outcome State Fault Refusal) =>
        Issues s h .core [(.v d, op.regs), (a, 2), (b, op.regs)] noHandles G x →
        (∀ l, inMask x.N l = true → (va l).toNat % op.width = 0 ∧ canonical (va l) = true) →
        let dst : Dest := { reg := some (.inl (.v d)), w := op.regs }
        let helped := (lanesOf (x.T &&& ~~~x.N)).foldl (fun (s : State) l => s.updGroup x.g fun G =>
          G.joinPend x.seq x.pc (.remote true) dst G.pkr l (.back (List.replicate op.regs 0))) (s.advance x)
        ∀ t ps, helped.passLanes x op.width va (fun l => .atomic op op.width (data b op l) (data (.v d) op l)
            (some (x.seq, dst))) (lanesOf x.N) = some (t, ps) →
          o = .next (t.close x G) ∧ s.SameBytes t ∧
          t.lsq = (ps.map fun p => entry op (data (.v d) op p.1) (some x.seq) p).foldl (fun q e => insertLs e q) s.lsq ∧
          ∀ l, inMask x.T l = true → ∃ G', t.group? x.g = some G' ∧ ∃ p ∈ G'.pend, p.seq = x.seq ∧
            AMap.get? p.lanes l = some (if inMask x.N l then .waiting (va l) else .back (List.replicate op.regs 0))
      r .add32 (exec (.aadd32 h d a b disp) s) ∧ r .add64 (exec (.aadd64 h d a b disp) s) ∧
      r .mins32 (exec (.amins32 h d a b disp) s) ∧ r .maxs32 (exec (.amaxs32 h d a b disp) s) ∧
      r .minu32 (exec (.aminu32 h d a b disp) s) ∧ r .maxu32 (exec (.amaxu32 h d a b disp) s) ∧
      r .and32 (exec (.aand32 h d a b disp) s) ∧ r .or32 (exec (.aor32 h d a b disp) s) ∧
      r .xor32 (exec (.axor32 h d a b disp) s) ∧ r .xch32 (exec (.axch32 h d a b disp) s) ∧
      r .xch64 (exec (.axch64 h d a b disp) s) ∧ r .cas32 (exec (.acas32 h d a b disp) s) ∧
      r .cas64 (exec (.acas64 h d a b disp) s) ∧ r .cas128 (exec (.acas128 h d a b disp) s) ∧
      r .faddb (exec (.afaddb h d a b disp) s) ∧ r .faddf (exec (.afaddf h d a b disp) s) ∧
      r .faddd (exec (.afaddd h d a b disp) s) ∧ r .fminb (exec (.afminb h d a b disp) s) ∧
      r .fmaxb (exec (.afmaxb h d a b disp) s) ∧ r .fminf (exec (.afminf h d a b disp) s) ∧
      r .fmaxf (exec (.afmaxf h d a b disp) s) ∧ r .fmind (exec (.afmind h d a b disp) s) ∧
      r .fmaxd (exec (.afmaxd h d a b disp) s) ∧ r .faddb2 (exec (.afaddb2 h d a b disp) s) ∧
      r .faddf2 (exec (.afaddf2 h d a b disp) s)) ∧
    (let r := fun (op : AtOp) (o : Host.Outcome State Fault Refusal) =>
        Issues s h .core [(a, 2), (b, op.regs)] noHandles G x →
        (∀ l, inMask x.N l = true → (va l).toNat % op.width = 0 ∧ canonical (va l) = true) →
        ∀ t ps, (s.advance x).passLanes x op.width va (fun l => .atomic op op.width (data b op l) [] none) (lanesOf x.N) = some (t, ps) →
          o = .next (t.close x G) ∧ s.SameBytes t ∧ t.lsq = (ps.map fun p => entry op [] none p).foldl (fun q e => insertLs e q) s.lsq
     r .add32 (exec (.nadd32 h a b disp) s) ∧ r .add64 (exec (.nadd64 h a b disp) s) ∧
     r .faddb (exec (.nfaddb h a b disp) s) ∧ r .faddf (exec (.nfaddf h a b disp) s) ∧
     r .faddd (exec (.nfaddd h a b disp) s) ∧ r .faddb2 (exec (.nfaddb2 h a b disp) s) ∧
     r .faddf2 (exec (.nfaddf2 h a b disp) s) ∧ r .fminf (exec (.nfminf h a b disp) s) ∧
     r .fmaxf (exec (.nfmaxf h a b disp) s) ∧ r .or32 (exec (.nor32 h a b disp) s))) ∧
  (∀ old b e : Nat,
    AtOp.new .add32 old b e = (old + b) % 2 ^ 32 ∧ AtOp.new .add64 old b e = (old + b) % 2 ^ 64 ∧
    (∀ x y : Word, AtOp.new .mins32 x.toNat y.toNat e = (BitVec.ofInt 32 (min x.toInt y.toInt)).toNat ∧
      AtOp.new .maxs32 x.toNat y.toNat e = (BitVec.ofInt 32 (max x.toInt y.toInt)).toNat) ∧
    AtOp.new .minu32 old b e = min old b ∧ AtOp.new .maxu32 old b e = max old b ∧
    AtOp.new .and32 old b e = old &&& b ∧ AtOp.new .or32 old b e = old ||| b ∧ AtOp.new .xor32 old b e = old ^^^ b ∧
    AtOp.new .xch32 old b e = b ∧ AtOp.new .xch64 old b e = b ∧
    (∀ o ∈ [AtOp.cas32, .cas64, .cas128], o.new old b old = b ∧ (old ≠ e → o.new old b e = old)) ∧
    AtOp.new .fminb old b e = bf16.min old b ∧ AtOp.new .fmaxb old b e = bf16.max old b ∧ AtOp.new .fminf old b e = f32.min old b ∧
    AtOp.new .fmaxf old b e = f32.max old b ∧ AtOp.new .fmind old b e = f64.min old b ∧ AtOp.new .fmaxd old b e = f64.max old b ∧
    AtOp.new .faddf old b e = f32.code ((f32.val old).add (f32.val b)) ∧
    AtOp.new .faddd old b e = f64.code ((f64.val old).add (f64.val b)) ∧
    AtOp.new .faddb old b e = bf16.code ((bf16.val old).add (bf16.val b)) ∧
    (∀ lo hi lo' hi', lo < 2 ^ 16 → hi < 2 ^ 16 → lo' < 2 ^ 16 → hi' < 2 ^ 16 →
      AtOp.new .faddb2 (lo + hi * 2 ^ 16) (lo' + hi' * 2 ^ 16) e = bf16.add lo lo' + bf16.add hi hi' * 2 ^ 16) ∧
    (∀ lo hi lo' hi', lo < 2 ^ 32 → hi < 2 ^ 32 → lo' < 2 ^ 32 → hi' < 2 ^ 32 →
      AtOp.new .faddf2 (lo + hi * 2 ^ 32) (lo' + hi' * 2 ^ 32) e = f32.add lo lo' + f32.add hi hi' * 2 ^ 32))

/-- R171, R172, R187, R189: what the performance of a write at its home does: its entry leaves the store queues, the bytes of a store are the
memory's, and no other byte changes; an atomic reads and writes its bytes in one step and answers the old value. -/
def Obligations.HomePerformance : Prop :=
  ∀ (s : State) (i : Nat) (e : LsOp), s.lsReady i [] = some e →
    let u := s.acked [e.key]
    ((∀ l, (s.lane e.g l).wait ≠ .spilled e.seq) → u.lsq = s.lsq.filter fun f => f.key != e.key) ∧
    (∀ bs m, e.kind = .store bs m → s.waveHolds (bs.map (·.pa)) = false → (∀ b ∈ bs, region b.pa = .hbm) → (bs.map (·.pa)).Nodup →
      ∃ t : State, exec (.storeRegistration i) s = .next t ∧ t.lsq = u.lsq ∧
        ∀ pa, t.byte pa = match bs.find? fun b => b.pa == pa with
          | some b => b.val
          | none => u.byte pa) ∧
    (∀ k off d m, e.kind = .stsh k off d m → exec (.storeRegistration i) s = .next (u.updShare k fun h => h.setBytes off d)) ∧
    (∀ o pa w b x q, e.kind = .atomic o pa w b x (some q) [] → s.packetReady e = true → s.holds ((List.range w).map (pa + ·)) = false → s.quayMode (homeOf pa / 64) = false →
      region pa = .hbm → (∀ j, j < w → region (pa + j) = .hbm) → (u.fillRange pa w).poisonIn pa w = none →
      ∃ t : State, exec (.homeAtomicPerform i (.perform [])) s = .next t ∧ t.lsq = u.lsq ∧
        (∀ j, j < w → t.byte (pa + j) =
          BitVec.ofNat 8 (o.new (leNat (u.bytes pa w)) (leNat b) (leNat x) / 2 ^ (8 * j))) ∧
        (∀ a, a < pa ∨ pa + w ≤ a → t.byte a = u.byte a) ∧
        ∀ G p, u.group? e.g = some G → p ∈ G.pend → p.seq = q → ∃ G' p', t.group? e.g = some G' ∧ p' ∈ G'.pend ∧ p'.seq = q ∧
          AMap.get? p'.lanes e.lane = some (.back (o.words (leNat (u.bytes pa w))))) ∧
    (∀ line, e.kind = .disc line → s.waveHolds [64 * line] = false → s.freeTag (homeSlice (64 * line)) ≠ none →
      (∀ G p, s.group? e.g = some G → p ∈ G.pend → p.seq = e.seq → ∀ y, AMap.get? p.lanes e.lane = some y → y.open' = false) →
      exec (.discardPerform i) s = .next (u.discardLine line))

/-! ### Results, parks, barriers, fences and monitors (R22, R23, R140 to R144, R172 to R183, R263) -/

/-- R22, R170, R175, R185, R323: a lane of an outstanding load gets the bytes that the lane sees, a 16-byte one by halves
or at once, its other half at the addresses that the first was translated with; a GATH without a marker then lets its
lanes go on. Where nothing of the group is on its way and no earlier load of the lane is outstanding there, the bytes
are those of memory. R22, R23: at the end of a park the values that are back commit in program order, a later writer
winning, and the parked lanes go on. R22: a fixed-latency write marks the same word of every earlier outstanding
result in its lanes, and only there: a marked word does not commit. -/
def Obligations.CommitsInOrder : Prop :=
  (∀ (s s' : State) (g idx l : Nat) (stale : Bool) (G : Group) (p : Pend) (va : DWord) (bs : List Byte),
    s.group? g = some G → G.pend[idx]? = some p → l < 32 → AMap.get? p.lanes l = some (.waiting va) →
    (∀ n ext acq home, p.kind = .load n ext acq home → s.laneRead g G p l n va home stale = (s', .bytes bs) →
      exec (.variableResultReturn g idx (1 <<< l) ⟨stale, 0, []⟩) s = .next (s'.setPLane g p.seq l (.back (loadWords ext bs)))) ∧
    (∀ (ext : Ext) (acq home : Bool) (part : Nat) (u : State) (pas : List Nat), part = 1 ∨ part = 2 → p.kind = .load 16 ext acq home →
      s.readXlate g G p va 16 = (u, .ok pas) →
      u.readAt g p l (if part = 2 then pas.drop 8 else pas.take 8) home stale = (s', .bytes bs) →
      exec (.variableResultReturn g idx (1 <<< l) ⟨stale, part, []⟩) s = .next (s'.setPLane g p.seq l
        (.half va (part == 2) (loadWords ext bs) (if part = 2 then pas.take 8 else pas.drop 8)))) ∧
    (∀ n, p.kind = .gath n → s.laneRead g G p l n va false stale = (s', .bytes bs) →
      let t := s'.setPLane g p.seq l (.back (loadWords .zero bs))
      exec (.gathLaneArrival g idx (1 <<< l) ⟨stale, 0, []⟩) s =
        .next (if p.parked then t.updGroup g fun G => G.gathCommit p.seq l else t.gathGo g p.seq (1 <<< l))) ∧
    (∀ n home pas, s.readXlate g G p va n = (s', .ok pas) →
      (∀ pa ∈ pas, region pa = .hbm ∧ s'.poisonIn pa 1 = none) → s'.holds pas = false →
      (∀ e ∈ s'.lsq, e.g ≠ g ∧ e.seen = []) → s'.loadsAt g l p.seq (pas.map wordOf) = false →
      ∃ u : State, s.laneRead g G p l n va home false = (u, .bytes (pas.map s'.byte)) ∧ u.mem = s'.mem ∧ u.groups = s'.groups)) ∧
  (∀ (s : State) (g : Nat) (G : Group), s.group? g = some G →
    (G.canSettle = true → s.saving G = false → exec (.parkComplete g) s = .next (s.settle g)) ∧
    (G.canSettle = true → s.saving G = true → (∃ l, l < 32 ∧ inMask G.leaving l = true ∧ G.laneOpen l = false) →
      exec (.parkComplete g) s = .next (s.settleIn g G.leaving (~~~G.leaving))) ∧
    (G.canSettle = false → exec (.parkComplete g) s = .next s.passOver) ∧
    (∀ (l : Nat) (p q : Pend) (m n : VReg) (a b : Word), l < 32 → l < G.lanes.length → (G.lane l).wait = .park .go none →
      (∀ k, k ≠ l → ∀ y z, (G.lane k).wait ≠ .park y z) → isWave g = false → G.pend = [p, q] → p.seq < q.seq →
      p.kind = .value → q.kind = .value → p.lanes = [(l, .back [a])] → q.lanes = [(l, .back [b])] →
      p.dest = { reg := some (.inl (.v m)), w := 1 } → q.dest = { reg := some (.inl (.v n)), w := 1 } →
      p.disc = 0 → q.disc = 0 →
      ∃ G', (s.settle g).group? g = some G' ∧ G'.pend = [] ∧ (G'.lane l).wait = .none ∧
        (G'.lane l).vreg n.val = b ∧ (m ≠ n → (G'.lane l).vreg m.val = a) ∧
        ∀ r, r ≠ m.val → r ≠ n.val → (G'.lane l).vreg r = (G.lane l).vreg r)) ∧
  (∀ (ps : List Pend) (seq : Nat) (m : Word) (r : Reg ⊕ PReg) (p : Pend), p ∈ ps →
    ∃ p' ∈ supersede ps seq m r, { p' with disc := p.disc } = p ∧
      ∀ l w, l < 32 → w < 4 → p'.disc.getLsbD (4 * l + w) =
        (p.disc.getLsbD (4 * l + w) || (decide (p.seq < seq) && inMask m l && decide (p.dest.wordOf r = some w))))

/-- R140, R142: at a barrier of a scratchpad and at one of a cluster: an arrival counts, and the phase completes exactly
when at least one arrival is counted, every expected one is in and no byte is awaited; then PHASE rises, ARR is 0 and
BAL keeps its excess. R140 to R144: the barrier instructions. BARA and BARS perform their release first; BARW's lanes
wait while PHASE has not passed their token; BARX raises the bytes expected, once. -/
def Obligations.Barriers : Prop :=
  (∀ (s : State) (at' : BarAt) (c : Nat),
    (match at' with
      | .share k n => ∃ sh, AMap.get? s.shares k = some sh ∧ n < sh.bars.length
      | .unit u n => ∃ v, AMap.get? s.units u = some v ∧ n < v.bars.length) →
    let b := s.barrier at'
    let arr := (b.arr + c) % 65536
    let done := 1 ≤ arr ∧ s.expected at' ≤ arr ∧ b.bal.toInt ≤ 0
    (s.arriveBar at' c).barrier at' =
      (if done then { b with phase := b.phase + 1, arr := 0 } else { b with arr := arr }) ∧
    (s.arriveBar at' c).mem = s.mem ∧
    ((s.creditBar at' c).barrier at').bal = b.bal - BitVec.ofNat 64 c) ∧
  (∀ (s : State) (h : Hdr) (bar : Bar) (G : Group) (x : At) (t : Team), s.team? G.team = some t →
    let at' := barOf t bar
    (∀ d : Reg, Issues s h .core [(d, 1)] noHandles G x → supplies x d →
      ∃ u, Pended s u G x keep (pendOf G x (.bara bar) d 1 fun _ => .waiting 0) ∧
        exec (.bara h d bar) s = .next (((if u.mustHold x.g x.seq x.T then u.holdAct x.g x.seq x.T 0 (.barA bar (popcount x.N) x.seq)
          else u.runBarA x.g bar (popcount x.N) x.seq)).close x G)) ∧
    (Issues s h .core [] noHandles G x → x.T ≠ 0 →
      Yields s G x (fun u => if u.mustHold x.g x.seq x.T then u.holdAct x.g x.seq x.T x.T (.barS bar (popcount x.N) x.T)
        else u.runBarS x.g bar (popcount x.N) x.T) (exec (.bars h bar) s)) ∧
    (∀ a : Reg, Issues s h .core [(a, 1)] noHandles G x →
      let phase := (s.barrier at').phase
      let go := maskOf fun l => inMask x.T l && passed phase (G.reg l a 0)
      (go = 0 → Turns s G x (fun l L => { L with wait := .token bar (G.reg l a 0) }) (exec (.barw h a bar) s)) ∧
      (go ≠ 0 → ∃ u, Moved s u G x (fun l L => if inMask go l then L else { L with wait := .token bar (G.reg l a 0) }) ∧
        exec (.barw h a bar) s = .next ((u.acquire (coreOf x.g)).close x G))) ∧
    (∀ sa : SReg, Issues s h .core [(.s sa, 1)] noHandles G x → x.T ≠ 0 →
      Yields s G x (fun u => let b := u.barrier at'
        (u.setBarrier at' { b with bal := b.bal + BitVec.ofNat 64 (G.sreg sa.val).toNat }).checkBar at') (exec (.barx h sa bar) s)) ∧
    (∀ phase tok : Word, passed phase tok = true ↔ ¬ ((phase - tok).toNat = 0 ∨ 2 ^ 31 ≤ (phase - tok).toNat)))

/-- R172, R178, R182: a fence waits for the group's earlier writes and then performs an acquire; a release that is held takes
effect once, and not before, every earlier write of the group has been performed. -/
def Obligations.FencesAndReleases : Prop :=
  (∀ (s : State) (h : Hdr) (G : Group) (x : At), Issues s h .core [] noHandles G x → x.T ≠ 0 →
    Yields s G x (fun u => if u.mustHold x.g x.seq x.T then u.holdAct x.g x.seq x.T x.T (.fence x.T) else u.acquire (coreOf x.g))
      (exec (.fence h) s) ∧
    ∀ p q, Yields s G x (fun u =>
      let v := u.fenceTo x.g q
      if v.fenceWaits x.g x.seq x.T p then v.holdAct x.g x.seq x.T x.T (.fencex p q x.T) else v) (exec (.fencex h p q) s)) ∧
  (∀ (s : State) (g : Nat) (G : Group) (hd : Held) (rest : List Held), s.group? g = some G → G.held = hd :: rest →
    (∀ t, s.mustHold g hd.seq hd.lanes = false → s.runHeld g hd = some t → exec (.ackCountZero g) s = .next t) ∧
    ((∀ p q m, hd.act ≠ .fencex p q m) → (∀ w a n m, hd.act ≠ .maint w a n m true) → s.mustHold g hd.seq hd.lanes = true → exec (.ackCountZero g) s = .next s.passOver) ∧
    (∀ m, hd.act = .fence m → s.mustHold g hd.seq hd.lanes = false →
      exec (.ackCountZero g) s = .next
        ((s.updGroup g fun G => { G with held := G.held.filter fun y => y.seq != hd.seq }).runFence g m)))

/-- R183: MARM arms a monitor at the lane's word; MWAIT examines the value, and ends with 1 when a value satisfies it and
with 0 when its budget expires or no monitor is armed. That MWAIT examines the value at its issue is the model's
choice (log 17, DEDUCED: R183 says at its arrival at the home, and the model counts it as arrived when it issues).
R263, R290, R340: a record that arrives joins those of its group, and goes to the log of its context where the group
has finished: the entry at HEAD and then HEAD, or the count of lost records alone where the log is full (R263, R290).
The accesses of an instruction to a device that does not answer are dropped with a record. -/
def Obligations.MonitorsAndRecords : Prop :=
  ((∀ (s : State) (h : Hdr) (a : Reg) (disp : Word) (G : Group) (x : At), Issues s h .core [(a, 2)] noHandles G x →
    let va := fun l => G.reg64 l a + disp.signExtend 64
    (∀ l, inMask x.N l = true → (va l).toNat % 8 = 0 ∧ canonical (va l) = true) →
    ∀ t ps, (s.advance x).passLanes x 8 va (fun _ => .arm) (lanesOf x.N) = some (t, ps) →
      exec (.marm h a disp) s = .next (t.close x G) ∧ s.SameBytes t ∧
      ∀ e ∈ ps, (t.lane x.g e.1).monitor = some { va := va e.1, pa := homeOf (e.2.getD 0 0), hit := false }) ∧
  (∀ (s : State) (h : Hdr) (d : PReg) (b : Reg) (cond : Fin 4) (budget : BitVec 24) (G : Group) (x : At),
    Issues s h .core [(b, 2)] noHandles G x →
    ∃ (u : State) (G' : Group), exec (.mwait h d b cond budget) s = .next (u.close x G) ∧ u.mem = s.mem ∧
      u.group? x.g = some G' ∧ ∀ l, inMask x.T l = true →
        match inMask x.N l, (G.lane l).monitor with
        | true, some m => (G'.lane l).wait = .mwait d (G.reg64 l b) cond.val budget.toNat ∧
          (G'.lane l).monitor = some { m with hit := mwaitHolds cond.val (leDWord (s.bytes m.pa 8)) (G.reg64 l b) }
        | _, _ => (G'.lane l).wait = .none ∧ (d ≠ 0 → (G'.lane l).pred d = false)) ∧
  (∀ (s : State) (g l : Nat) (G : Group) (d : PReg) (b : DWord) (cond budget : Nat) (m : Monitor), s.group? g = some G →
    l < 32 → l < G.lanes.length → (G.lane l).live = true → (G.lane l).wait = .mwait d b cond budget →
    (G.lane l).monitor = some m →
    (m.hit = true → ∃ t : State, exec (.monitorWriteObserved g l) s = .next t ∧ (t.lane g l).monitor = none ∧
      (d ≠ 0 → (t.lane g l).pred d = true) ∧ ((G.lane l).marker = false → (t.lane g l).wait = .none) ∧ t.mem = s.mem) ∧
    (m.hit = false → exec (.monitorWriteObserved g l) s = .next s.passOver) ∧
    (m.hit = false → budget ≠ 0 → ∃ t : State, exec (.mwaitBudgetExpiry g l) s = .next t ∧ (t.lane g l).monitor = none ∧
      (d ≠ 0 → (t.lane g l).pred d = false) ∧ ((G.lane l).marker = false → (t.lane g l).wait = .none) ∧ t.mem = s.mem))) ∧
  ((∀ (s : State) (i g ctx : Nat) (r : Rec) (G : Group), s.recsOut[i]? = some (g, ctx, r) → s.group? g = some G → G.ctx = ctx →
    (if r.mask = 0 then G.live else G.live &&& r.mask) ≠ 0 →
    exec (.asyncRecordArrival i) s =
      .next ({ s with recsOut := dropAt s.recsOut i }.updGroup g fun G => { G with recs := G.recs ++ [r] })) ∧
  (∀ (s : State) (i g ctx : Nat) (r : Rec), s.recsOut[i]? = some (g, ctx, r) →
    (∀ G, s.group? g = some G → G.ctx ≠ ctx ∨ (if r.mask = 0 then G.live else G.live &&& r.mask) = 0) →
    exec (.asyncRecordArrival i) s = .next ({ s with recsOut := dropAt s.recsOut i }.logRecord ctx { r with mask := 0 })) ∧
  (∀ (s : State) (ctx : Nat) (r : Rec) (c : Context), AMap.get? s.contexts ctx = some c →
    let head := leNat (s.bytes (c.recPa + 0x20) 8)
    let tail := leNat (s.bytes (c.recPa + 0x28) 8)
    let slot := c.logbase + 64 * (head % 2 ^ c.logn)
    let full := (head + 2 ^ 64 - tail) % 2 ^ 64 = 2 ^ c.logn
    let u := s.logRecord ctx r
    c.recPa + 64 ≤ 0xF000000000 → slot + 64 ≤ 0xF000000000 → slot + 64 ≤ c.recPa ∨ c.recPa + 64 ≤ slot →
    s.waveHolds [c.recPa, slot] = false →
    (¬ full → u.bytes slot 64 = r.head 0 0 ∧ leNat (u.bytes (c.recPa + 0x20) 8) = (head + 1) % 2 ^ 64) ∧
    (full → leNat (u.bytes (c.recPa + 0x1C) 4) = min (2 ^ 32 - 1) (leNat (s.bytes (c.recPa + 0x1C) 4) + 1) ∧
      ∀ a, a < c.recPa + 0x1C ∨ c.recPa + 0x20 ≤ a → u.byte a = s.byte a)) ∧
  (∀ (s : State) (g seq dev : Nat) (G : Group) (e : LsOp) (bs : List StByte) (m : Word), s.group? g = some G → G.pend = [] →
    s.lsq = [e] → e.g = g → e.seq = seq → e.kind = .store bs m → bs ≠ [] → (∀ b ∈ bs, leadsTo dev b.pa = true) →
    exec (.deviceDoesNotAnswer g seq dev) s = .next ((s.fabricLost e).acked [e.key])))

/-! ### The matrix array and its berths (R233 to R258) -/

/-- R236, R239, R241: CVSET gives a convergence register its expected count, discarding a partial set; SIGN and SIGNW count
the lanes that sign, and the set closes when the count is reached; MXACQ takes the lowest free slot, MXREL gives it back. -/
def Obligations.ConvergenceAndReservations : Prop :=
  ∀ (s : State) (h : Hdr) (c : CReg) (G : Group) (x : At) (T : Team), s.team? G.team = some T →
    let at' := convOf G.team T c
    let cv := s.conv at'
    let code := (Field.c c).bits
    (∀ a, Issues s h .core (ssrcReg a 1) noHandles G x → x.T ≠ 0 →
      let e := (G.ssrc a).toNat
      1 ≤ e → e ≤ (if c.val < 8 then 512 else 2048) →
      Yields s G x (fun u => let v := if cv.cnt = 0 then u else u.closeConv at' false
        v.setConv at' { v.conv at' with exp := e }) (exec (.cvset h c a) s)) ∧
    (Issues s h .core [] (convHandle c code) G x → s.noPlace at' (popcount x.N) [] = none →
      Yields s G x (fun u => u.signConv at' (popcount x.N)) (exec (.sign h c) s) ∧
      ∀ d, Yields s G x (fun u => (u.waitLanes x x.T fun _ => .signw c cv.gen d).signConv at' (popcount x.N))
        (exec (.signw h d c) s)) ∧
    (∀ r, Issues s h .core [] (convHandle c code) G x → s.noPlace at' (popcount x.N) [] = some r →
      Yields s G x (fun u => u.again x x.T r) (exec (.sign h c) s)) ∧
    (∀ k, k ≠ 0 → cv.cnt + k < cv.exp → s.signConv at' k = s.setConv at' { cv with cnt := cv.cnt + k }) ∧
    (∀ k, k ≠ 0 → cv.exp ≤ cv.cnt + k → (∀ y, (s.setConv at' y).conv at' = y) →
      (s.signConv at' k).conv at' = { exp := cv.exp, cnt := 0, gen := cv.gen + 1, parts := [] }) ∧
    (Issues s h .core [] noHandles G x → x.N ≠ 0 →
      (∀ d, Yields s G x (fun u => (u.takeSlot G.team).1.resultP x d fun _ _ => (s.takeSlot G.team).2)
        (exec (.mxacq h d) s)) ∧
      (T.slot ≠ none → s.mxBusy G.team = false → Yields s G x (fun u => u.freeSlot G.team) (exec (.mxrel h) s)) ∧
      (T.slot ≠ none → s.mxBusy G.team = true → Yields s G x (fun u => u.again x x.T .mxrel) (exec (.mxrel h) s)) ∧
      (T.slot = none → Turns s G x keep (exec (.mxrel h) s))) ∧
    (T.slot = none → (∀ i < 4, ((s.array T.array).slots.getD i {}).team ≠ none) → s.takeSlot G.team = (s, false)) ∧
    (∀ i < 4, T.slot = none → ((s.array T.array).slots.getD i {}).team = none →
      (∀ j < i, ((s.array T.array).slots.getD j {}).team ≠ none) →
      (s.takeSlot G.team).2 = true ∧ (s.takeSlot G.team).1.team? G.team = some { T with slot := some i })

/-- R242, R249 to R255: a multiplying instruction whose tiles are READY and whose berths the group owns records its image in the
convergence register, pledges its berths, and signs for its lanes; while a tile is not READY, its lanes wait. That the instruction which
records the part gives the address of a global A, whichever others sign with the same image, is the model's choice (log 44, DESIGN CHOICE). -/
def Obligations.MultiplyingInstructions : Prop :=
  ∀ (s : State) (h : Hdr) (d : BReg) (c : CReg) (hb : HReg) (ms ns : Fin 8) (G : Group) (x : At) (T : Team),
    s.team? G.team = some T →
    let at' := convOf G.team T c
    let cv := s.conv at'
    let key := at'.key T
    let tile := fun t => ((s.share T.share).tiles.getD t {}).st
    let r := fun (f : Mma) (o : Host.Outcome State Fault Refusal) =>
      Issues s h .core (asrcReg f.a) f.handles G x → x.N ≠ 0 →
      (∀ n, f.a = .glob n → (G.sreg64 n.val).toNat % 256 = 0 ∧ canonical (G.sreg64 n.val) = true) →
      ((∃ t ∈ f.tiles, tile t.1 ≠ .ready) → Yields s G x (fun u => u.again x x.T (.tileReady (f.tiles.map (·.1)))) o) ∧
      ((∀ t ∈ f.tiles, tile t.1 = .ready) → (∀ b ∈ mmaBerths f.op d.val, (T.berths.getD b {}).owner = some G.idx) →
        (∀ p ∈ cv.parts, p.2.img.op = f.op) → (∀ p, AMap.get? cv.parts key = some p → p.img = f.img) →
        s.noPlace at' (popcount x.N) [G.team] = none →
        Yields s G x (fun u =>
          (if (AMap.get? cv.parts key).isSome then u
           else (mmaBerths f.op d.val).foldl (fun u b => u.updBerth G.team b fun B => { B with pending := B.pending + 1 })
             (u.setConv at' { cv with parts := AMap.put cv.parts key { img := f.img, g := x.g, gi := G.idx, team := G.team, addr := f.addr G, pkr := G.pkr, pc := x.pc } })).signConv
            at' (popcount x.N)) o)
    (∀ (a : ASrc) (kq : Fin 4),
      let f := fun op => ({ op, d, a, c, hb := hb.val, kq := kq.val, gn := 0, hx := none, ms := ms.val, ns := ns.val } : Mma)
      r (f 0xB02) (exec (.mmabf h d a c hb kq ms ns) s) ∧ r (f 0xB03) (exec (.mmahf h d a c hb kq ms ns) s) ∧
      r (f 0xB04) (exec (.mmae4 h d a c hb kq ms ns) s) ∧ r (f 0xB05) (exec (.mmae5 h d a c hb kq ms ns) s) ∧
      r (f 0xB06) (exec (.mmae45 h d a c hb kq ms ns) s) ∧ r (f 0xB07) (exec (.mmai8 h d a c hb kq ms ns) s) ∧
      r (f 0xB08) (exec (.mmaq4 h d a c hb kq ms ns) s) ∧ r (f 0xB09) (exec (.mmaf64 h d a c hb kq ms ns) s) ∧
      ∀ hx : HReg, r { f 0xB0A with hx := some hx.val } (exec (.mmase4 h d a c hb kq ms ns hx) s) ∧
        r { f 0xB0B with hx := some hx.val } (exec (.mmasi8 h d a c hb kq ms ns hx) s)) ∧
    (∀ a : HReg,
      let f := fun op => ({ op, d, a := .tile a, c, hb := hb.val, kq := 0, gn := 0, hx := none, ms := ms.val, ns := ns.val } : Mma)
      r (f 0xB0C) (exec (.mmajbf h d a c hb ms ns) s) ∧ r (f 0xB0D) (exec (.mmaje4 h d a c hb ms ns) s) ∧
      ∀ (gn : Fin 4) (hx : HReg),
        r { f 0xB0E with gn := gn.val, hx := some hx.val } (exec (.mmagbf h d a c hb gn ms ns hx) s) ∧
        r { f 0xB0F with gn := gn.val, hx := some hx.val } (exec (.mmage4 h d a c hb gn ms ns hx) s))

/-- R244 to R248, R303: the berth instructions of the owner of an idle berth; while it is busy their lanes wait, with the operands and the PKR
of the issue. BRD's result is outstanding; BWR's store begins and makes the berth busy; BCLAIM answers whether the group is the owner; BSTAT
reads the word of R247. That BWR's words are those of the berth as the store begins is the model's choice (log 44, DESIGN CHOICE). -/
def Obligations.BerthInstructions : Prop :=
  ∀ (s : State) (h : Hdr) (b : BReg) (G : Group) (x : At) (T : Team), s.team? G.team = some T → x.N ≠ 0 →
    let B := T.berths.getD b.val {}
    let has := fun (regs : List (Reg × Nat)) => Issues s h .core regs (fun s G => berthHandle b s G ++ noHandles s G) G x
    (B.owner = some G.idx → B.pending = 0 →
      (has [] → Yields s G x (fun u => u.updBerth G.team b.val fun B => { B with words := [], done := false, lstat := 0, chunk := 0 })
        (exec (.bzero h b) s)) ∧
      (has [] → Yields s G x (fun u => u.updBerth G.team b.val fun B => { B with owner := none }) (exec (.bfree h b) s)) ∧
      (∀ (d : VReg) (v : Src), has ((.v d, 1) :: srcReg v 1) →
        ∃ u, Pended s u G x keep (pendOf G x .value (.v d) 1 fun l => .back [AMap.getD B.words ((G.src l v).toNat % 16384) 0]) ∧
          exec (.brd h d b v) s = .next (u.close x G)) ∧
      (∀ v, has (ssrcReg v 1) →
        let gi := ((x.keptOr s ([G.ssrc v], G.pkr)).1.headD 0).toNat
        gi < T.groups.length → T.fin.getD gi false = false →
        Yields s G x (fun u => u.updBerth G.team b.val fun B => { B with owner := some gi }) (exec (.bgive h b v) s)) ∧
      (∀ (sb : SReg) (k : KId) (ms ns : Fin 8) (bar : Option Bar) (t : TensorId), s.tensor? G.ctx k.val = some t →
        let wide := t.fmt == 7
        let B1 := T.berths.getD (b.val + 1) {}
        (wide = true → B1.owner = some G.idx ∧ B1.pending = 0) →
        Issues s h .core [(.s sb, 2)] (fun s G => berthHandle b s G ++ bwrHandle b k s G) G x →
        Yields s G x (fun u =>
          let (at', pkr) := x.keptOr s ([G.sreg sb.val, G.sreg (sb.val + 1)], G.pkr)
          let out := s.bwrOut G.team b.val t (16 * (ms.val + 1)) (16 * (ns.val + 1)) (at'.getD 0 0).toInt (at'.getD 1 0).toInt
          let v := u.updBerth G.team b.val fun B => { B with pending := 1 }
          let v := if wide then v.updBerth G.team (b.val + 1) fun B => { B with pending := 1 } else v
          { v with bstores := AMap.put s.bstores (AMap.next s.bstores) { g := x.g, gi := G.idx, team := G.team, ctx := G.ctx, berth := b.val, wide, bar, pc := x.pc, pkr, out, outSeq := u.seq } })
          (exec (.bwr h b sb k ms ns bar) s))) ∧
    (B.owner = some G.idx → B.pending ≠ 0 →
      (has [] → Yields s G x (fun u => u.again x x.T (.berth b.val [] G.pkr)) (exec (.bzero h b) s)) ∧
      (∀ (sb : SReg) (k : KId) (ms ns : Fin 8) (bar : Option Bar) (t : TensorId), s.tensor? G.ctx k.val = some t → t.fmt ≠ 7 →
        Issues s h .core [(.s sb, 2)] (fun s G => berthHandle b s G ++ bwrHandle b k s G) G x →
        let (at', pkr) := x.keptOr s ([G.sreg sb.val, G.sreg (sb.val + 1)], G.pkr)
        Yields s G x (fun u => u.again x x.T (.berth b.val at' pkr)) (exec (.bwr h b sb k ms ns bar) s))) ∧
    (∀ d : PReg, has [] → Yields s G x (fun u =>
      (if B.owner = none then u.updBerth G.team b.val fun B => { B with owner := some G.idx } else u).resultP x d fun _ _ =>
        decide (B.owner = none ∨ B.owner = some G.idx)) (exec (.bclaim h d b) s)) ∧
    (∀ d : Reg, has [(d, 1)] → ∃ (u : State) (w : Word),
      Pended s u G x keep (pendOf G x .value d 1 fun _ => .back [w]) ∧ exec (.bstat h d b) s = .next (u.close x G) ∧
      (B.chunk < 64 → B.lstat < 64 → B.owner.getD 0 < 32 →
        w.toNat / 2 ^ 30 = (if B.pending > 0 then 1 else if B.done then 2 else 0) ∧
        w.toNat / 2 ^ 29 % 2 = (if B.owner = none then 0 else 1) ∧ w.toNat / 2 ^ 24 % 32 = B.owner.getD 0 ∧
        w.toNat / 2 ^ 18 % 64 = B.lstat ∧ w.toNat / 64 % 512 = min B.pending 511 ∧ w.toNat % 64 = B.chunk)) ∧
    (has [] → B.owner ≠ some G.idx → isWave x.g = false →
      Yields s G x (fun u => u.raise x x.T fun _ => { cause := .berthOwn, info := BitVec.ofNat 32 b.val }) (exec (.bzero h b) s))

/-- R90: the packed instructions act on each half by itself; the dot products round once to FP32. R256: a pruning keeps,
of eight values four or of each four values two, those of largest magnitude, ties to the lower index, in ascending
order of their indices, and writes the kept bytes and then the indices. -/
def Obligations.PackedAndPrunedResults : Prop :=
  (∀ (s : State) (h : Hdr) (d : Reg) (G : Group) (x : At),
    (∀ a b : Src, Issues s h .both ((d, 1) :: (srcReg a 1 ++ srcReg b 1)) noHandles G x →
      let r := fun (f : Nat → Nat → Nat) => Lands s G x d fun l =>
        [packHalves (f (lo16 (G.src l a)) (lo16 (G.src l b))) (f (hi16 (G.src l a)) (hi16 (G.src l b)))]
      r f16.add (exec (.hadd2 h d a b) s) ∧ r f16.mul (exec (.hmul2 h d a b) s) ∧ r f16.min (exec (.hmin2 h d a b) s) ∧
      r f16.max (exec (.hmax2 h d a b) s) ∧ r bf16.add (exec (.badd2 h d a b) s) ∧ r bf16.mul (exec (.bmul2 h d a b) s) ∧
      r bf16.min (exec (.bmin2 h d a b) s) ∧ r bf16.max (exec (.bmax2 h d a b) s)) ∧
    (∀ a b c : Reg, Issues s h .both [(d, 1), (a, 1), (b, 1), (c, 1)] noHandles G x →
      let r := fun (f : Nat → Nat → Nat → Nat) => Lands s G x d fun l =>
        [packHalves (f (lo16 (G.reg l a 0)) (lo16 (G.reg l b 0)) (lo16 (G.reg l c 0)))
          (f (hi16 (G.reg l a 0)) (hi16 (G.reg l b 0)) (hi16 (G.reg l c 0)))]
      let dot := fun (f : Fmt) => Lands s G x d fun l =>
        let p := fun (e : Word → Nat) => (f.val (e (G.reg l a 0))).mul (f.val (e (G.reg l b 0)))
        [codeWord (f32.code (((p lo16).add (p hi16)).add (f32.val (G.reg l c 0).toNat)))]
      r f16.fma (exec (.hfma2 h d a b c) s) ∧ r bf16.fma (exec (.bfma2 h d a b c) s) ∧
      dot f16 (exec (.hdot2 h d a b c) s) ∧ dot bf16 (exec (.bdot2 h d a b c) s))) ∧
  ((∀ (s : State) (h : Hdr) (d a : VReg) (G : Group) (x : At), Issues s h .core [(.v d, 2), (.v a, 2)] noHandles G x →
    let xs := fun l => leBytes 4 (G.reg l (.v a) 0).toNat ++ leBytes 4 (G.reg l (.v a) 1).toNat
    Lands s G x (.v d) (fun l => prune8 (xs l)) (exec (.sprn8 h d a) s) ∧
    Lands s G x (.v d) (fun l => prune4 (xs l)) (exec (.sprn4e h d a) s)) ∧
  (∀ xs : List Byte, xs.length = 8 →
    let best := fun (mag : Byte → Nat) (lo n : Nat) (sel : List Nat) => sel.length = n ∧ sel.Pairwise (· < ·) ∧
      ∀ i ∈ sel, lo ≤ i ∧ i < lo + 2 * n ∧ ∀ j, lo ≤ j → j < lo + 2 * n → j ∉ sel →
        mag (xs.getD j 0) < mag (xs.getD i 0) ∨ mag (xs.getD j 0) = mag (xs.getD i 0) ∧ i < j
    (∃ i0 i1 i2 i3, best (fun b => b.toInt.natAbs) 0 4 [i0, i1, i2, i3] ∧
      prune8 xs = [leWord ([i0, i1, i2, i3].map fun i => xs.getD i 0), BitVec.ofNat 32 (i0 + 8 * i1 + 64 * i2 + 512 * i3)]) ∧
    (∃ i0 i1 j0 j1, best (fun b => b.toNat % 128) 0 2 [i0, i1] ∧ best (fun b => b.toNat % 128) 4 2 [j0, j1] ∧
      prune4 xs = [leWord ([i0, i1, j0, j1].map fun i => xs.getD i 0),
        BitVec.ofNat 32 (i0 + 4 * i1 + 16 * (j0 - 4) + 64 * (j1 - 4))])))

/-! ### Queues, tiles, tensor identifiers, events, launches, records and pipes (R211 to R230, R267 to R280) -/

/-- R213, R214: QPUSH appends a word, and the word that completes a command submits it, or waits for room with the command that was checked;
QPOP removes the oldest result at issue, and waits without one; QTRY answers at once, with 1 in its second word when there was a result. That
a QPUSH of other lanes waits while the buffer holds a complete command is the model's choice (log 19). -/
def Obligations.QueueInstructions : Prop :=
  ∀ (s : State) (h : Hdr) (q : QReg) (G : Group) (x : At), x.N ≠ 0 →
    (∀ a : SSrc, Issues s h .core (ssrcReg a 1) (queueHandle q [0, 2]) G x →
      let old := if q = 0 then G.q0 else G.q2
      let ws := old ++ [G.ssrc a]
      let len := (ws.getD 0 0).toNat % 32
      (old = [] → (if q = 0 then copyHeaderOk (G.ssrc a) else gateHeaderOk (G.ssrc a)) = true) →
      (ws.length < len → Yields s G x (fun u => u.updGroup x.g fun G => if q = 0 then { G with q0 := ws } else { G with q2 := ws })
        (exec (.qpush h q a) s)) ∧
      (ws.length = len → s.commandCheck x.g G q.val ws = none →
        let v := (s.advance x).updGroup x.g fun G => (G.setBuf q.val ws).keep q.val x.pc ws (s.advance x) x.g
        (∀ t, v.submit x.g q.val = some t → exec (.qpush h q a) s = .next (t.close x G)) ∧
        (v.submit x.g q.val = none → exec (.qpush h q a) s = .next ((v.waitLanes x x.T fun _ => .submit q.val).close x G))) ∧
      (old ≠ [] → old.length = len → Yields s G x (fun u => u.again x x.T (.buffer q.val)) (exec (.qpush h q a) s))) ∧
    (∀ d : Reg, Issues s h .core [(d, 1)] (queueHandle q [1, 3]) G x →
      let res := if q = 1 then G.q1 else G.q3
      let pop := fun G : Group => if q = 1 then { G with q1 := res.tail } else { G with q3 := res.tail }
      (∀ w, res.head? = some w → Yields s G x (fun u => u.updGroup x.g fun G =>
        { pop G with pend := G.pend ++ [pendOf G x .value d 1 fun _ => .back [w]] }) (exec (.qpop h d q) s)) ∧
      (res = [] → Yields s G x (fun u => u.again x x.T (.qpop q.val)) (exec (.qpop h d q) s))) ∧
    (∀ d : Reg, Issues s h .core [(d, 2)] (queueHandle q [1, 3]) G x →
      let res := if q = 1 then G.q1 else G.q3
      let pop := fun G : Group => if q = 1 then { G with q1 := res.tail } else { G with q3 := res.tail }
      Yields s G x (fun u => u.updGroup x.g fun G =>
        { pop G with pend := G.pend ++ [pendOf G x .value d 2 fun _ => .back (match res with
            | [] => [0, 0]
            | w :: _ => [w, 1])] }) (exec (.qtry h d q) s))

/-- R224 to R227, R252: TDEF gives a tile its range and state; TSTAT reads the state and the bytes that have landed; TFREE empties a
READY tile that no operation names, and its lanes wait at a tile that is in use, until it becomes EMPTY; TWAIT goes on at a READY tile, and
its lanes wait at another. -/
def Obligations.TileInstructions : Prop :=
  ∀ (s : State) (h : Hdr) (t : HReg) (G : Group) (x : At), x.N ≠ 0 →
    let k := s.shareKey x.g
    let tile := s.tile k t.val
    (∀ (sa sb : SReg) (ready : Bool), Issues s h .core [(.s sa, 1), (.s sb, 1)] noHandles G x →
      let a := (G.sreg sa.val).toNat
      let b := (G.sreg sb.val).toNat
      (a % 8 = 0 → b % 8 = 0 → b ≠ 0 → a + b ≤ (s.share k).size → s.tileInJournal (coreOf x.g) k t.val = false →
        s.tileInOp k t.val = false →
        Yields s G x (fun u => u.setTile k t.val { base := a, size := b, defined := true, st := if ready then .ready else .empty, exp := if ready then b else 0, arr := if ready then b else 0 })
          (exec (.tdef h t sa sb ready) s)) ∧
      (¬ (a % 8 = 0 ∧ b % 8 = 0 ∧ b ≠ 0 ∧ a + b ≤ (s.share k).size) →
        Yields s G x (fun u => u.raise x x.T fun _ => { cause := .badHandle, info := (Field.h t).bits.setWidth 32 })
          (exec (.tdef h t sa sb ready) s))) ∧
    (∀ d : Reg, Issues s h .core [(d, 1)] (tileHandle t) G x → ∃ w : Word,
      Lands s G x d (fun _ => [w]) (exec (.tstat h d t) s) ∧ w.toNat % 2 ^ 30 = tile.arr % 2 ^ 20 ∧
      w.toNat / 2 ^ 30 = match tile.st with
        | .empty => 0
        | .filling => 1
        | .ready => 2
        | .draining => 3) ∧
    (Issues s h .core [] (tileHandle t) G x →
      (tile.st = .empty → Turns s G x keep (exec (.tfree h t) s)) ∧
      (tile.st = .ready → s.tileInOp k t.val = false →
        Yields s G x (fun u => u.tileEmpty (coreOf x.g) k t.val) (exec (.tfree h t) s)) ∧
      (tile.st = .filling ∨ tile.st = .draining ∨ tile.st = .ready ∧ s.tileInOp k t.val = true →
        Turns s G x (fun _ L => { L with wait := .tfree t.val }) (exec (.tfree h t) s)) ∧
      (∀ (c g l : Nat) (H : Group), s.group? g = some H → s.keyOf H = k → l < H.lanes.length → (H.lane l).wait = .tfree t.val →
        (H.lane l).marker = false → ((s.tileEmpty c k t.val).lane g l).wait = .none) ∧
      (tile.st = .ready → Turns s G x keep (exec (.twait h t) s)) ∧
      (tile.st ≠ .ready → Yields s G x (fun u => u.again x x.T (.tileReady [t.val])) (exec (.twait h t) s)))

/-- R228, R229: a route, a pulse on every condition that its source reaches (a count stops at 65535), and the taking of one
count by the earliest waiter. -/
def Obligations.EventInstructions : Prop :=
  (∀ (s : State) (h : Hdr) (G : Group) (x : At), Issues s h .core [] noHandles G x → x.N ≠ 0 →
    let k := s.shareKey x.g
    (∀ (e g : Fin 16) (en : Bool), Yields s G x (fun u => u.updShare k fun sh =>
      { sh with routes := modAt sh.routes e.val fun m => setBit m g.val en }) (exec (.evroute h e g en) s)) ∧
    (∀ e : Fin 6, Yields s G x (fun u => u.updShare k fun sh => sh.pulse (10 + e.val)) (exec (.evpost h e) s)) ∧
    (∀ g : Fin 4, let r := Reason.event (12 + g.val)
      let free := (s.share k).counts.getD (12 + g.val) 0 ≠ 0 ∧ (s.advance x).firstWaiter k (· == r) (x.since (s.advance x)) = true
      (free → Yields s G x (fun u => u.updShare k fun sh => sh.take (12 + g.val)) (exec (.evwait h g) s)) ∧
      (¬ free → Yields s G x (fun u => u.again x x.T r) (exec (.evwait h g) s)))) ∧
  (∀ (m : Half) (i j : Nat) (b : Bool), i < 16 → j < 16 → (setBit m i b).getLsbD j = if j = i then b else m.getLsbD j) ∧
  (∀ (sh : Share) (e g : Nat), g < sh.counts.length → (sh.counts.getD g 0 ≤ 65535) →
    (sh.pulse e).counts.getD g 0 =
      if (sh.routes.getD e 0).getLsbD g then min 65535 (sh.counts.getD g 0 + 1) else sh.counts.getD g 0) ∧
  (∀ (sh : Share) (g i : Nat), g < sh.counts.length →
    (sh.take g).counts.getD i 0 = if i = g then sh.counts.getD g 0 - 1 else sh.counts.getD i 0)

/-- R278 to R280, R303: LAUNCH forms its address at issue, waits for its release with it and with the PKR of its issue,
reads its packet once for the group and checks it once; a packet that is in order is listed, or waits for room on the
list as it was read, and one that is not gives its code at once. EMIT and EMITW read their records at issue and
release, and the records join the node's bin of the die. R279: an EMIT's records are admitted in ascending lane order,
up to twice the node's count, and none while a record waits. -/
def Obligations.LaunchAndEmit : Prop :=
  (∀ (s : State) (h : Hdr) (G : Group) (x : At), x.N ≠ 0 →
    (∀ (d sa : SReg) (disp : Word), Issues s h .core [(.s d, 1), (.s sa, 2)] noHandles G x →
      let place := fun (t : State) (bs : List Byte) =>
        (∀ u, t.listLaunch x.g G.ctx bs = some u → exec (.launch h d sa disp) s = .next ((u.updGroup x.g fun G =>
          { G with pend := G.pend ++ [pendOf G x (.launch none) (.s d) 1 fun _ => .back [0]] }).close x G)) ∧
        (t.listLaunch x.g G.ctx bs = none → exec (.launch h d sa disp) s = .next ((t.again x x.T (.launchRoom bs)).close x G))
      (∀ bs, x.reason s = some (.launchRoom bs) → place (s.advance x) bs) ∧
      ((∀ bs, x.reason s ≠ some (.launchRoom bs)) →
        let (a, pkr) := match x.reason s with
          | some (.release a pkr) => (a, pkr)
          | _ => (G.sreg64 sa.val + disp.signExtend 64, G.pkr)
        a.toNat % 64 = 0 → (s.mustHold x.g (x.since (s.advance x)) x.T = true →
            Yields s G x (fun u => u.again x x.T (.release a pkr)) (exec (.launch h d sa disp) s)) ∧
          (s.mustHold x.g (x.since (s.advance x)) x.T = false → ∀ t bs, (s.advance x).groupRead x a 64 pkr = (t, .bytes bs) →
            (∀ u, t.checkLaunch G.ctx bs = (u, 0) → place u bs) ∧
            ∀ u w, w ≠ 0 → t.checkLaunch G.ctx bs = (u, w) → exec (.launch h d sa disp) s = .next ((u.updGroup x.g fun G =>
              { G with pend := G.pend ++ [{ pendOf G x (.launch none) (.s d) 1 (fun _ => .back [w]) with pkr }] }).close x G)))) ∧
    (∀ (a : Reg) (node : Fin 256) (lk : Nat) (l : Launch), Issues s h .core [(a, 1)] (nodeHandle node) G x →
      s.graphOf G = some (lk, l) →
      let n := (l.descs.getD node.val {}).nrec
      let sh := s.shareOf G
      let off := fun l => (G.reg l a 0).toNat
      (∀ l, inMask x.N l = true → off l % 4 = 0 ∧ off l + n ≤ sh.size) →
      let recs := (lanesOf x.N).map fun l => (l, sh.bytes (off l) n)
      (∀ d : PReg, Yields s G x (fun u =>
        let v := u.addPend x .value { reg := some (.inr d), w := 1 } ((lanesOf x.T).map fun l => (l, .waiting 0))
        if s.mustHold x.g x.seq x.T then v.holdAct x.g x.seq x.T 0 (.emit node.val recs (x.T &&& ~~~x.N) (some x.seq))
        else v.runEmit x.g node.val recs (x.T &&& ~~~x.N) (some x.seq)) (exec (.emit h d a node) s)) ∧
      Yields s G x (fun u =>
        if s.mustHold x.g x.seq x.T then u.holdAct x.g x.seq x.T x.T (.emit node.val recs (x.T &&& ~~~x.N) none)
        else u.runEmit x.g node.val recs (x.T &&& ~~~x.N) none) (exec (.emitw h a node) s))) ∧
  (∀ (cap : Nat) (b : Bin) (rs : List (Nat × List Byte)),
    let room := if b.waiters = [] then cap - b.recs.length else 0
    (admitRecs cap b rs).1.recs = b.recs ++ (rs.take room).map (·.2) ∧
    (admitRecs cap b rs).2 = rs.zipIdx.map fun e => (e.1.1, decide (e.2 < room)))

/-- R268 to R271: a write takes the slot at the tail, a read the slot at the head, each binding its side of the pipe to the
team; PIPEW waits while the pipe is full, with the entry that it formed at issue, PIPER while it is empty, and PIPETRY then gives
zeros. -/
def Obligations.PipeInstructions : Prop :=
  ∀ (s : State) (h : Hdr) (n : NReg) (G : Group) (x : At) (T : Team) (sh : Share), s.team? G.team = some T → x.N ≠ 0 →
    AMap.get? s.shares T.share = some sh →
    let p := sh.pipes.getD n.val {}
    let first := fun r : Reason => (s.advance x).firstWaiter T.share r.same (x.since (s.advance x)) = true
    let lanes := fun a : VReg => (List.range 32).flatMap fun l => if inMask x.N l then leBytes 8 (G.reg64 l (.v a)).toNat else List.replicate 8 0
    let entry := fun l => leWords 2 ((List.range 8).map fun i => (sh.bytes (p.off + (p.head.toNat % p.depth) * p.ebytes) p.ebytes).getD (8 * l + i) 0)
    (∀ a : VReg, Issues s h .core [(.v a, 2)] (pipeHandle n) G x → s.pipeMisuse T n.val true true = false →
      let bs := match x.reason s with
        | some (.pipeFull _ bs) => bs
        | _ => lanes a
      (p.full = false → first (.pipeFull n.val bs) → Yields s G x (fun u => u.updShare T.share fun sh =>
        (sh.setBytes (p.off + (p.tail.toNat % p.depth) * p.ebytes) (bs.take p.ebytes)).setPipe
          n.val { p with wteam := some T.idx, tail := p.tail + 1 }) (exec (.pipew h n a) s)) ∧
      (p.full = true ∨ ¬ first (.pipeFull n.val bs) → Yields s G x (fun u =>
        (u.updShare T.share fun sh => sh.setPipe n.val { p with wteam := some T.idx }).again x x.T (.pipeFull n.val bs)) (exec (.pipew h n a) s))) ∧
    (∀ d : VReg, Issues s h .core [(.v d, 2)] (pipeHandle n) G x → s.pipeMisuse T n.val false true = false →
      (p.empty = false → first (.pipeEmpty n.val) → Yields s G x (fun u =>
        (u.updShare T.share fun sh => sh.setPipe n.val { p with rteam := some T.idx, head := p.head + 1 }).updGroup x.g fun G =>
          { G with pend := G.pend ++ [pendOf G x .value (.v d) 2 fun l => .back (entry l)] }) (exec (.piper h d n) s)) ∧
      (p.empty = true ∨ ¬ first (.pipeEmpty n.val) → Yields s G x (fun u => (u.updShare T.share fun sh => sh.setPipe n.val { p with rteam := some T.idx }).again
        x x.T (.pipeEmpty n.val)) (exec (.piper h d n) s))) ∧
    (∀ d : VReg, Issues s h .core [(.v d, 4)] (pipeHandle n) G x → s.pipeMisuse T n.val false false = false →
      Yields s G x (fun u =>
        (u.updShare T.share fun sh => sh.setPipe n.val { p with rteam := some T.idx, head := if p.empty then p.head else p.head + 1 }).updGroup x.g fun G =>
          { G with pend := G.pend ++ [pendOf G x .value (.v d) 4 fun l => .back (if p.empty then [0, 0, 0, 0] else entry l ++ [1, 0])] })
        (exec (.pipetry h d n) s))

/-! ### Calls, methods, special registers and handlers (R13 to R16, R194 to R209, R287 to R293, R302 to R305) -/

/-- R196, R197, R173: a call whose counted lanes all pass leaves as one request per lane for the quay; QCALL's and
QCALLA's replies are outstanding, and their helper lanes receive 0; QCALLA and QCALLN are releases. R203, R204: in a
wave LDO reads the object buffer, STO writes it (the highest lane wins) and marks the words it stores, and QRET sets
the replies of its lanes and ends them; offsets outside the object, and EXIT and TRAP, are method faults. -/
def Obligations.QuayCallsAndMethods : Prop :=
  (∀ (s : State) (h : Hdr) (a b : Reg) (cls : Fin 256) (m : Fin 4) (G : Group) (x : At) (c : QClass),
    s.classOf G.ctx cls.val = some c →
    let va := fun l => G.reg64 l a
    let known : State → Group → List (Nat × Bool) := fun s G => [(0, s.classOk G.ctx cls.val m.val)]
    let fits := ∀ l, inMask x.N l = true → (va l).toNat % 4 = 0 ∧ (va l).toNat % 256 + c.size ≤ 256 ∧ canonical (va l) = true
    let entry := fun (rel : Bool) (ret : Option Nat) (p : Nat × Nat) =>
      ({ g := x.g, lane := p.1, seq := x.seq, pc := x.pc, ctx := G.ctx, rel, va := va p.1, gen := c.gen, kind := .quay p.2 (va p.1) cls.val m.val c.size (G.reg64 p.1 b) ret } : LsOp)
    (∀ d : VReg, Issues s h .core [(.v d, 2), (a, 2), (b, 2)] known G x → fits →
      let dst : Dest := { reg := some (.inl (.v d)), w := 2 }
      let r := fun (acq : Bool) (o : Host.Outcome State Fault Refusal) =>
        let helped := (lanesOf (x.T &&& ~~~x.N)).foldl (fun (s : State) l => s.updGroup x.g fun G =>
          G.joinPend x.seq x.pc (.remote acq) dst G.pkr l (.back [0, 0])) (s.advance x)
        ∀ t ps, helped.passCalls x c.size va (fun l => .qcall cls.val m.val c.size c.gen (G.reg64 l b) (some (x.seq, dst)) acq acq) (lanesOf x.N) = some (t, ps) →
          o = .next (t.close x G) ∧ s.SameBytes t ∧ t.lsq = (ps.map (entry acq (some x.seq))).foldl (fun q e => insertLs e q) s.lsq ∧
          ∀ l, inMask x.T l = true → ∃ G', t.group? x.g = some G' ∧ ∃ p ∈ G'.pend, p.seq = x.seq ∧
            AMap.get? p.lanes l = some (if inMask x.N l then .waiting (va l) else .back [0, 0])
      r false (exec (.qcall h d a b cls m) s) ∧ r true (exec (.qcalla h d a b cls m) s)) ∧
    (Issues s h .core [(a, 2), (b, 2)] known G x → fits →
      ∀ t ps, (s.advance x).passCalls x c.size va (fun l => .qcall cls.val m.val c.size c.gen (G.reg64 l b) none false true) (lanesOf x.N) = some (t, ps) →
        exec (.qcalln h a b cls m) s = .next (t.close x G) ∧ s.SameBytes t ∧ t.lsq = (ps.map (entry true none)).foldl (fun q e => insertLs e q) s.lsq)) ∧
  (∀ (s : State) (h : Hdr) (G : Group) (x : At) (w : Wave), G.wave = some w → isWave x.g = true →
    (∀ (d a : Reg) (disp : Word), Issues s h .quay [(d, 1), (a, 1)] noHandles G x →
      let off := fun l => (G.reg l a 0 + disp).toNat
      ((∀ l, inMask x.T l = true → off l % 4 = 0 ∧ off l + 4 ≤ w.size ∧ w.bad w.pa (off l) = false) →
        Lands s G x d (fun l => [leWord ((w.buf.drop (off l)).take 4)]) (exec (.ldo h d a disp) s)) ∧
      ((∃ l, inMask x.T l = true ∧ ¬ (off l % 4 = 0 ∧ off l + 4 ≤ w.size)) →
        Yields s G x (fun u => u.methodFault x.g 2 0) (exec (.ldo h d a disp) s))) ∧
    (∀ (a b : Reg) (disp : Word), Issues s h .quay [(a, 1), (b, 1)] noHandles G x → w.wr = true → w.buf.length = w.size →
      let off := fun l => (G.reg l a 0 + disp).toNat
      (∀ l, inMask x.T l = true → off l % 4 = 0 ∧ off l + 4 ≤ w.size) →
      ∃ (u : State) (G' : Group) (w' : Wave), exec (.sto h a b disp) s = .next (u.close x G) ∧ u.mem = s.mem ∧
        u.group? x.g = some G' ∧ G'.wave = some w' ∧ w'.buf.length = w.size ∧
        (∀ i, i < w.size → w'.buf.getD i 0 = match ((lanesOf x.T).reverse.find? fun l => off l ≤ i ∧ i < off l + 4) with
          | some l => (leBytes 4 (G.reg l b 0).toNat).getD (i - off l) 0
          | none => w.buf.getD i 0) ∧
        ∀ j, j < 64 → w'.stored.getLsbD j = (w.stored.getLsbD j || (lanesOf x.T).any fun l => off l / 4 == j)) ∧
    (∀ b : VReg, Issues s h .quay [(.v b, 2)] noHandles G x →
      ∃ (u : State) (G' : Group) (w' : Wave), exec (.qret h b) s = .next (u.close x G) ∧ u.mem = s.mem ∧
        u.group? x.g = some G' ∧ G'.wave = some w' ∧ w'.buf = w.buf ∧
        ∀ l, l < 32 → if inMask x.T l then AMap.get? w'.replies l = some (G.reg64 l (.v b)) ∧ (G'.lane l).live = false
          else AMap.get? w'.replies l = AMap.get? w.replies l ∧ (G'.lane l).live = (G.lane l).live) ∧
    (Issues s h .both [] noHandles G x → x.T ≠ 0 →
      Yields s G x (fun u => u.methodFault x.g 8 0) (exec (.exit h) s) ∧
      ∀ code, Yields s G x (fun u => u.methodFault x.g 7 code.toNat) (exec (.trap h code) s)))

/-- R287: taking a trap stores the frame of R288 below SPT, raises the depth, names the frame in v0:v1 and goes to the
handler; without a handler, at depth 4, or where the frame covers a poisoned half only in part, the context is
terminated (R291). That the frame leaves as stores of aligned 8 bytes, each with a place of its own among the stores
on their way, is the model's choice (log 17, DEDUCED). R288: the frame's layout. -/
def Obligations.TakingATrap : Prop :=
  (∀ (s : State) (g l : Nat) (r : Rec) (G : Group) (c : Context), s.group? g = some G → l < G.lanes.length → l < 32 →
    AMap.get? s.contexts G.ctx = some c →
    let L := G.lane l
    let f := L.spt - 128
    (c.trapva = 0 ∨ L.traps.length ≥ 4 → s.trapEntry g l r = s.terminate G.ctx r) ∧
    (∀ s' pas G1, c.trapva ≠ 0 → L.traps.length < 4 → s.xlate (via g G) f 128 .frameWrite none = (s', .ok pas) → s'.group? g = some G1 →
      let cut := pas.any fun pa => s'.poisoned pa && !((List.range 32).all fun i => pas.contains (pa / 32 * 32 + i))
      let bytes := (pas.zip (frameBytes r L)).map fun b => ({ pa := b.1, val := b.2, lanes := 1 <<< l } : StByte)
      Translated s s' ∧ (cut = true → s.trapEntry g l r = s'.terminate G.ctx r) ∧
      (cut = false → ∃ (t : State) (G' : Group), s.trapEntry g l r = t ∧ t.mem = s'.mem ∧ t.group? g = some G' ∧
        (∀ k, k ≠ g → t.group? k = s'.group? k) ∧ (∀ k, k ≠ l → G'.lane k = G1.lane k) ∧ G' = { G1 with lanes := G'.lanes } ∧
        (G'.lane l).pc = c.trapva ∧ (G'.lane l).spt = f ∧ (G'.lane l).traps.length = L.traps.length + 1 ∧ (G'.lane l).wait = .none ∧
        (G'.lane l).vreg 0 = BitVec.ofNat 32 f.toNat ∧ (G'.lane l).vreg 1 = BitVec.ofNat 32 (f.toNat / 2 ^ 32) ∧
        (∀ n, n ≠ 0 → n ≠ 1 → (G'.lane l).vreg n = L.vreg n) ∧ (G'.lane l).p = L.p ∧ (G'.lane l).rs = L.rs ∧
        t.lsq = (storeUnits 8 bytes).zipIdx.foldl (fun q e => insertLs
          { g, lane := l, seq := s'.seq + 1, part := e.2, pc := L.pc, ctx := G.ctx, rel := false, kind := .store e.1 (1 <<< l) } q) s.lsq))) ∧
  (∀ (r : Rec) (L : Lane), L.traps.length < 4 →
    let fr := frameBytes r L
    let at' := fun off n => leNat ((fr.drop off).take n)
    fr.length = 128 ∧ at' 0x00 8 = r.resume.toNat ∧ at' 0x08 8 = r.fpc.toNat ∧ at' 0x10 8 = r.addr.toNat ∧
    at' 0x18 1 = r.cause.code ∧ at' 0x19 1 = r.sub.toNat ∧ at' 0x1A 1 / 16 = r.kind.code ∧ at' 0x1B 1 % 2 = (if r.async then 1 else 0) ∧
    at' 0x1C 4 = r.info.toNat ∧ at' 0x20 4 = r.mask.toNat ∧ at' 0x24 4 = L.p.toNat / 2 * 2 ∧ at' 0x28 8 = r.aux.toNat ∧
    at' 0x34 4 = L.traps.length + 1 ∧ at' 0x38 8 = 0 ∧ (∀ n, n < 8 → at' (0x40 + 4 * n) 4 = (L.vreg n).toNat) ∧ at' 0x60 32 = 0)

/-- R292, R293: ERET parks as a switch marker in the lanes of a handler; then the frame at SPT gives v0 to v7, the predicates and
the address, and the words that TRPV supplied, unless a later writer has committed, replace the pending destination.
TRPV keeps word `i` for the lane's innermost trap. Both are illegal outside a handler, where they trap at their own address and change nothing
else. -/
def Obligations.LeavingAHandler : Prop :=
  (∀ (s : State) (h : Hdr) (G : Group) (x : At),
    (Issues s h .core [] noHandles G x →
      let x' := { x with h := { h with mark := false } }
      let by' := if h.mark then x.B &&& ~~~x.T else 0
      ((∀ l, inMask x.T l = true → (G.lane l).traps ≠ []) →
        exec (.eret h) s = .next ((((s.advance x).updGroup x.g fun G => G.updLanes x.T fun _ L => { L with pc := x.pc }).park x.g (x.T ||| by')
          fun l => if inMask x.T l then .eret else .go).close x' G)) ∧
      (x.T ≠ 0 → x.N = x.T → (∀ l, inMask x.T l = true → (G.lane l).traps = []) →
        exec (.eret h) s = .next ((((s.advance x).raise x x.T fun _ => { cause := .illegal }).park x.g by' fun _ => .go).close x' G))) ∧
    (∀ (a : Reg) (i : Fin 4), Issues s h .core [(a, 1)] noHandles G x →
      (∀ l, inMask x.T l = true → (G.lane l).traps ≠ []) →
      Turns s G x (fun l L => { L with traps := match L.traps with
          | [] => []
          | t :: ts => (if i.val < t.dest.w then { t with rv := t.rv.set i.val (G.reg l a 0), rvValid := t.rvValid ||| (1 <<< i.val : BitVec 4) } else t) :: ts })
        (exec (.trpv h a i) s)) ∧
    (∀ (a : Reg) (i : Fin 4), Issues s h .core [(a, 1)] noHandles G x → x.T ≠ 0 → x.N = x.T →
      (∀ l, inMask x.T l = true → (G.lane l).traps = []) →
      Yields s G x (fun u => u.raise x x.T fun _ => { cause := .illegal }) (exec (.trpv h a i) s))) ∧
  (∀ (s s' : State) (g l : Nat) (G G1 : Group) (pas : List Nat) (t : TrapCtx) (ts : List TrapCtx), s.group? g = some G →
    l < G.lanes.length → (G.lane l).traps = t :: ts → s.lsq = [] →
    s.xlate (via g G) (G.lane l).spt 128 .frameRead none = (s', .ok pas) → s'.group? g = some G1 → pas.length = 128 →
    s'.holds pas = false → (∀ pa ∈ pas, s'.poisonIn pa 1 = none) →
    let fr := pas.map fun pa => s'.byte (homeOf pa)
    Translated s s' ∧ ∃ (u : State) (G' : Group), s.eretLane g l = u ∧ u.mem = s'.mem ∧ u.lsq = [] ∧ u.group? g = some G' ∧
      (∀ k, k ≠ l → G'.lane k = G1.lane k) ∧
      (G'.lane l).pc = leDWord (fr.take 8) ∧ (G'.lane l).spt = (G.lane l).spt + 128 ∧ (G'.lane l).traps = ts ∧
      (t.rvValid = 0 → (∀ i, 1 ≤ i → i < 8 → (G'.lane l).p.getLsbD i = (fr.getD 0x24 0).getLsbD i) ∧ (∀ n, n < 8 → (G'.lane l).vreg n = leWord ((fr.drop (0x40 + 4 * n)).take 4)) ∧
        (∀ n, 8 ≤ n → (G'.lane l).vreg n = (G.lane l).vreg n) ∧ G'.s = G.s) ∧
      (∀ (d : VReg) (i : Nat), i < (destOf (leWord ((fr.drop 0x30).take 4))).w →
        (destOf (leWord ((fr.drop 0x30).take 4))).reg = some (.inl (.v d)) → t.rv.length = 4 → i < 4 → t.rvValid.getLsbD i = true →
        t.blocked.getLsbD i = false → (G'.lane l).vreg (d.val + i) = t.rv.getD i 0))

/-- R13 to R16, R302: SRD gives each lane the register's value, and a read of CYCLO takes the snapshot that CYCHI gives;
SWR replaces a half of SPT, whose three lowest bits stay 0. R303, R304: KEYW sets the group's key register; KEYR's
probe is outstanding, and answers a word that says the level, rights and key of the page, or 0 without one. R305: a
maintenance instruction releases, and waits while a wave holds the table entries that its range needs (R201). Then
TLBINV drops the context's translations of pages that meet its range, all of them for a length of 0; CACHEWB leaves
every line of the range clean and waits until its writes are acknowledged; CACHEINV drops the instruction words of the
range and the words that the core's L1 holds without owning them. What is outside the range or of another context or
core stays, and none changes a register or what memory holds. -/
def Obligations.SpecialRegistersAndKeys : Prop :=
  (∀ (s : State) (h : Hdr) (G : Group) (x : At) (T : Team), s.team? G.team = some T →
    (∀ d : Reg, Issues s h .core [(d, 1)] noHandles G x →
      let r := fun (n : SpecReg) (v : Nat → Nat) => Lands s G x d (fun l => [BitVec.ofNat 32 (v l)]) (exec (.srd h d n) s)
      let core := x.g / 64
      r .thread (fun l => (if (G.lane l).helper then 2 ^ 14 else 0) + T.idx % 4 * 2 ^ 12 + G.idx % 16 * 32 + l % 32) ∧
      r .place (fun _ => core * 2 ^ 19 + core / 4 * 2 ^ 12 + core / 96 * 2 ^ 10 + core / 4 % 24 * 2 ^ 5 + core % 4) ∧
      r .cluster (fun _ => T.clIdx) ∧ r .clcount (fun _ => T.clCount) ∧
      r .karglo (fun _ => T.karg.toNat) ∧ r .karghi (fun _ => T.karg.toNat / 2 ^ 32) ∧
      r .cychi (fun l => (G.lane l).cychi.toNat) ∧ r .sptlo (fun l => (G.lane l).spt.toNat) ∧
      r .spthi (fun l => (G.lane l).spt.toNat / 2 ^ 32) ∧ r .rsdepth (fun l => (G.lane l).rs.length) ∧
      r .pkrlo (fun _ => G.pkr.toNat) ∧ r .pkrhi (fun _ => G.pkr.toNat / 2 ^ 32) ∧
      ∃ u, Wrote s u G x (fun l L => vWrite d (fun _ => [BitVec.ofNat 32 (s.now x.g)]) l { L with cychi := BitVec.ofNat 32 (s.now x.g / 2 ^ 32) })
          (sWrite G x d fun _ => [BitVec.ofNat 32 (s.now x.g)]) ∧
        exec (.srd h d .cyclo) s = .next (u.marked x)) ∧
    (∀ (hi : Bool) (a : Reg), Issues s h .core [(a, 1)] noHandles G x →
      ∃ u, Wrote s u G x (fun l L => { L with spt := BitVec.ofNat 64 (if hi then L.spt.toNat % 2 ^ 32 + 2 ^ 32 * (G.reg l a 0).toNat else L.spt.toNat / 2 ^ 32 * 2 ^ 32 + (G.reg l a 0).toNat / 8 * 8) }) G.s ∧
        exec (.swr h hi a) s = .next (u.marked x))) ∧
  ((∀ (s : State) (h : Hdr) (G : Group) (x : At),
    (∀ sa : SReg, Issues s h .core [(.s sa, 2)] noHandles G x →
      (x.N ≠ 0 → Yields s G x (fun u => u.updGroup x.g fun G' => { G' with pkr := G.sreg64 sa.val }) (exec (.keyw h sa) s)) ∧
      (x.N = 0 → Turns s G x keep (exec (.keyw h sa) s))) ∧
    (∀ (d a : Reg) (disp : Word), Issues s h .core [(d, 1), (a, 2)] noHandles G x → supplies x d →
      ∃ u, Pended s u G x keep (pendOf G x .keyr d 1 fun l => .waiting (G.reg64 l a + disp.signExtend 64)) ∧
        exec (.keyr h d a disp) s = .next (u.close x G))) ∧
  (∀ (s s' : State) (g idx l part : Nat) (stale : Bool) (G : Group) (p : Pend) (va : DWord) (f : Option Leaf),
    s.group? g = some G → G.pend[idx]? = some p → l < 32 → AMap.get? p.lanes l = some (.waiting va) → p.kind = .keyr →
    s.probeHeld (via g G) va = false → s.probe (via g G) va = (s', f) → ∃ w : Word,
      exec (.variableResultReturn g idx (1 <<< l) ⟨stale, part, []⟩) s = .next (s'.setPLane g p.seq l (.back [w])) ∧
      (f = none → w = 0) ∧
      ∀ e, f = some e → e.lvl < 4 → let k := pteKey e.e
        w.toNat / 2 ^ 31 = 1 ∧ w.toNat / 2 ^ 22 % 512 = e.lvl ∧ w.toNat / 2 ^ 21 % 2 = (if p.pkr.getLsbD (2 * k + 1) then 1 else 0) ∧
        w.toNat / 2 ^ 20 % 2 = (if p.pkr.getLsbD (2 * k) then 1 else 0) ∧
        w.toNat / 2 % 8 = (if pteR e.e then 1 else 0) + (if pteW e.e then 2 else 0) + (if pteX e.e then 4 else 0))) ∧
  ((∀ (s : State) (h : Hdr) (sa : SReg) (b : SSrc) (G : Group) (x : At), Issues s h .core ((.s sa, 2) :: ssrcReg b 1) noHandles G x →
    x.N ≠ 0 →
    let a := G.sreg64 sa.val
    let len : DWord := (G.ssrc b).setWidth 64
    let r := fun (what : Nat) (o : Host.Outcome State Fault Refusal) => Yields s G x (fun u =>
      if s.mustHold x.g x.seq x.T ∨ u.maintHeld x.g what a len then u.holdAct x.g x.seq x.T x.T (.maint what a len x.T false)
      else
        let v := u.maintain (x.g / 64) G.ctx what a len
        if what = 1 ∧ v.wbDone G.ctx a len = false then v.holdAct x.g x.seq x.T x.T (.maint what a len x.T true) else v) o
    r 0 (exec (.tlbinv h sa b) s) ∧ r 1 (exec (.cachewb h sa b) s) ∧ r 2 (exec (.cacheinv h sa b) s)) ∧
  (∀ (s : State) (core ctx : Nat) (a len : DWord),
    let within := fun (lo n : Nat) => ∃ p ∈ s.rangePages ctx a len, pteR p.2.2.e = true ∧ 0 < n ∧
      let pa := p.2.2.pa (BitVec.ofNat 64 p.1)
      pa < lo + n ∧ lo < pa + (p.2.1 - p.1)
    let Same := fun (t : State) => t.mem = s.mem ∧ t.groups = s.groups ∧ t.lsq = s.lsq
    let tlb := s.maintain core ctx 0 a len
    let wb := s.maintain core ctx 1 a len
    let inv := s.maintain core ctx 2 a len
    Same tlb ∧ Same wb ∧ Same inv ∧ tlb.l1 = s.l1 ∧ tlb.l2 = s.l2 ∧ wb.l1 = s.l1 ∧ inv.l2 = s.l2 ∧ inv.tlb = s.tlb ∧
    (∀ e, e ∈ tlb.tlb ↔ e ∈ s.tlb ∧ (e.ctx = ctx → len ≠ 0 ∧ ∀ i, i < len.toNat →
      let va := (a.toNat + i) % 2 ^ 64
      va < e.vpn * 2 ^ pageLog e.lvl ∨ (e.vpn + 1) * 2 ^ pageLog e.lvl ≤ va)) ∧
    (∀ line x, AMap.get? wb.l2 line = some x → within (64 * line) 64 → x.dirty = false) ∧
    (∀ e, e ∈ inv.l1 → e ∈ s.l1 ∧ (e.1 / 2 ^ 46 = core → e.2.owned = false → ¬ within (e.1 % 2 ^ 46 * 4) 4)) ∧
    (∀ e, e ∈ s.l1 → e.1 / 2 ^ 46 ≠ core ∨ e.2.owned = true → e ∈ inv.l1) ∧
    ∀ e, e ∈ inv.icache → e ∈ s.icache ∧ ¬ within (e.1 % 2 ^ 46 * 4) 4))

/-- R216: KDEF reads its record once through the group's access and defines the identifier; while the read has to wait, so
do its lanes. KREL undefines it. Rows of the identifier leave the line buffers (R222). R115, R194, R195: QREG's
descriptor is outstanding at its aligned address; QDEREG closes the class at once to new requests. Both make their
lanes wait. -/
def Obligations.TensorsAndClasses : Prop :=
  (∀ (s : State) (h : Hdr) (k : KId) (G : Group) (x : At) (c : Context), x.N ≠ 0 → AMap.get? s.contexts G.ctx = some c →
    (∀ sa : SReg, Issues s h .core [(.s sa, 2)] noHandles G x →
      let va := G.sreg64 sa.val
      va.toNat % 64 = 0 →
      (∀ t bs id, (s.advance x).groupRead x va 64 G.pkr = (t, .bytes bs) → tensorOf bs = some id →
        ∃ u : State, exec (.kdef h sa k) s = .next (u.close x G) ∧ Translated (s.advance x) u ∧
          u.tensor? G.ctx k.val = some id ∧ (∀ j, j ≠ k.val → u.tensor? G.ctx j = s.tensor? G.ctx j) ∧
          ∀ i, ∀ r ∈ (u.core i).rows, r.k ≠ rowKey G.ctx k.val) ∧
      (∀ t bs, (s.advance x).groupRead x va 64 G.pkr = (t, .bytes bs) → tensorOf bs = none →
        exec (.kdef h sa k) s = .next ((t.raise x x.T fun _ => { cause := .badHandle, info := BitVec.ofNat 32 k.val }).close x G)) ∧
      (∀ t, (s.advance x).groupRead x va 64 G.pkr = (t, .later) →
        exec (.kdef h sa k) s = .next (((lanesOf x.T).foldl (fun s l => s.readLater x.g l x.pc (.kdef k.val) va G.pkr) t).close x G))) ∧
    (Issues s h .core [] (fun s G => [(k.val, (s.tensor? G.ctx k.val).isSome)]) G x →
      ∃ u : State, exec (.krel h k) s = .next (u.close x G) ∧ u.mem = s.mem ∧ u.groups = (s.advance x).groups ∧
        u.tensor? G.ctx k.val = none ∧ (∀ j, j ≠ k.val → u.tensor? G.ctx j = s.tensor? G.ctx j) ∧
        ∀ i, ∀ r ∈ (u.core i).rows, r.k ≠ rowKey G.ctx k.val)) ∧
  (∀ (s : State) (h : Hdr) (d : SReg) (cls : Fin 256) (G : Group) (x : At), x.N ≠ 0 →
    (∀ sa : SReg, Issues s h .core [(.s d, 1), (.s sa, 2)] noHandles G x →
      ((G.sreg64 sa.val).toNat % 64 = 0 →
        ∃ u, Pended s u G x (fun _ L => { L with wait := .result x.seq }) (pendOf G x (.qreg cls.val) (.s d) 1 fun _ => .waiting (G.sreg64 sa.val)) ∧
          exec (.qreg h d sa cls) s = .next (u.close x G)) ∧
      ((G.sreg64 sa.val).toNat % 64 ≠ 0 →
        Yields s G x (fun u => u.raise x x.T fun _ => { cause := .misaligned, kind := .read, addr := G.sreg64 sa.val })
          (exec (.qreg h d sa cls) s))) ∧
    (Issues s h .core [(.s d, 1)] noHandles G x → ∃ u : State, exec (.qdereg h d cls) s = .next (u.close x G) ∧ u.mem = s.mem ∧
      (∀ c, s.classOf G.ctx cls.val = some c → u.classOf G.ctx cls.val = some { c with closing := true }) ∧
      (∀ k, k ≠ cls.val → u.classOf G.ctx k = s.classOf G.ctx k) ∧
      ∃ G', u.group? x.g = some G' ∧ (G'.pend = G.pend ++ [pendOf G x (.qdereg cls.val) (.s d) 1 fun _ =>
        if (s.classOf G.ctx cls.val).isSome then .waiting 0 else .back [1]]) ∧
        ∀ l, inMask x.T l = true → (G'.lane l).wait = if (s.classOf G.ctx cls.val).isSome then .result x.seq else .none))

/-! ### Queues, packets, teams and work graphs (R97 to R118, R264 to R282, R353, R355) -/

/-- R102 to R105, R108, R264, R273, R280: NOTIFY raises WRIDX within the ring, and one that passes it stops the queue with
OVERFLOW; a packet that may start is read in its queue's turn, its slot freed and RDIDX advanced, and a rejected one stops the queue;
packets start in their queue's order, and a watch ends when every condition holds; a graph whose bins do not fit is no startable work, so that
it holds back no other queue (R274). The model's choices here are those of log 23 (DESIGN CHOICE and DEDUCED): which of the queues that may
start has its turn, what a descriptor that can no longer be read leaves of a packet, and that the packets of a launch list start one by one. -/
def Obligations.QueuesAndPackets : Prop :=
  (∀ (s : State) (q : Nat) (u : UQueue), q < 4096 → AMap.get? s.queues q = some u →
    (∀ v, u.wridx < v.toNat → v.toNat ≤ u.rdidx + 2 ^ u.log2n → ∃ t : State, exec (.notify q v) s = .next t ∧
      AMap.get? t.queues q = some { u with wridx := v.toNat } ∧ t.dev.power = 0 ∧
      (s.waveHolds ((List.range 20).map (u.desc + 0x10 + ·)) = false →
        leNat ((List.range 8).map fun i => t.byte (homeOf (u.desc + 0x18 + i))) = v.toNat ∧
        ∀ pa, (∀ i, i < 20 → pa ≠ homeOf (u.desc + 0x10 + i)) → t.byte pa = s.byte pa)) ∧
    (∀ v, v.toNat ≤ u.wridx → ∃ t : State, exec (.notify q v) s = .next t ∧ t.queues = s.queues ∧ t.mem = s.mem) ∧
    (∀ v, u.wridx < v.toNat → u.rdidx + 2 ^ u.log2n < v.toNat → u.st = 0 → ∃ t : State, exec (.notify q v) s = .next t ∧
      AMap.get? t.queues q = some { u with st := 1, code := 6 }) ∧
    (u.st = 0 → u.rdidx < u.wridx → u.dying = false → s.alive u.ctx = true → s.waveHolds [u.slot] = false →
      let b := s.bytes u.slot 64
      let turn := s.startable q u = true → ∀ e ∈ s.queues, e.1 ≠ q → e.2.served < u.served → s.startable e.1 e.2 = true →
        Config.launchDie e.1 ≠ Config.launchDie q
      (s.poisonIn u.slot 64 = none → pktType b ≠ 0 → turn →
        (∀ s' l, s.packetOf u.ctx b = (s', .ok l) → ∃ t : State, exec (.packetRead q) s = .next t ∧
          AMap.get? t.launches s'.freshId = some { l with queue := some q, num := u.rdidx } ∧
          AMap.get? t.queues q = some { u with rdidx := u.rdidx + 1 } ∧
          ((∀ i, i < 20 → homeOf u.slot ≠ homeOf (u.desc + 0x10 + i)) → s'.waveHolds [u.slot] = false → t.byte (homeOf u.slot) = 0)) ∧
        (∀ s' e, s.packetOf u.ctx b = (s', .error e) → ∃ t : State, exec (.packetRead q) s = .next t ∧
          AMap.get? t.queues q = some { u with st := 1, code := e.code } ∧ t.launches = s'.launches)) ∧
      (s.poisonIn u.slot 64 ≠ none → turn → ∃ t : State, exec (.packetRead q) s = .next t ∧
        AMap.get? t.queues q = some { u with st := 1, code := 5 } ∧ t.launches = s.launches) ∧
      (¬ turn → exec (.packetRead q) s = .next s.passOver)) ∧
    (u.st ≠ 0 ∨ u.wridx ≤ u.rdidx → exec (.packetRead q) s = .next s.passOver) ∧
    (∀ e es, (s.launchesOf q).filter (fun e => !e.2.started) = e :: es → (s.reread e.2).2.kind = .graph →
      binRoom < s.binsTaken + ((s.reread e.2).2.descs.map binBytes).sum → s.startable q u = false)) ∧
  (∀ (s : State) (i : Nat) (l : Launch), AMap.get? s.launches i = some l →
    (l.started = false → (∀ q, l.queue = some q → s.queueLets q l.num l.bar = true ∧ s.queueTurn q = true) →
      (∀ s' l', s.bump.packetOf l.ctx l.packet = (s', .ok l') → s.bump.reread l = (s', { l' with queue := l.queue, num := l.num })) ∧
      (∀ s' e, s.bump.packetOf l.ctx l.packet = (s', .error e) → s.bump.reread l = (s.bump, l)) ∧
      ∀ s' l', s.bump.reread l = (s', l') →
        let t : State := { s' with
          queues := match l'.queue with
            | some q => AMap.upd s'.queues q fun u => { u with served := s'.seq }
            | none => s'.queues
          launches := AMap.put s'.launches i { l' with started := true } }
        (l.kind = .grid → exec (.grid i) s = .next t) ∧ (l.kind = .gang → exec (.gang i) s = .next t) ∧
        (l.kind = .depend → exec (.depend i) s = .next t) ∧
        (l.kind = .graph → l'.kind = .graph → t.binsTaken ≤ binRoom → l'.seeds.any (fun e => e != []) = true → exec (.graph i) s = .next t) ∧
        (l.kind = .graph → l'.kind = .graph → t.binsTaken ≤ binRoom → t.graphIdle i { l' with started := true } = true →
          ∀ u, t.launchDone i false = some u → exec (.graph i) s = .next u) ∧
        (l.kind = .graph → binRoom < t.binsTaken → exec (.graph i) s = .next s.passOver) ∧
        (l.kind = .barrier → l.conds ≠ [] → exec (.barrierAnd i) s = .next t) ∧
        (l.kind = .barrier → l.conds = [] → ∀ u, t.launchDone i false = some u → exec (.barrierAnd i) s = .next u)) ∧
    (∀ q, l.started = false → l.queue = some q → s.queueLets q l.num l.bar = false →
      exec (.grid i) s = .next s.passOver ∧ exec (.gang i) s = .next s.passOver ∧ exec (.graph i) s = .next s.passOver ∧
      exec (.depend i) s = .next s.passOver ∧ exec (.barrierAnd i) s = .next s.passOver) ∧
    (l.started = true → l.kind = .depend ∨ l.kind = .barrier → s.waits (.launch (.launch i)) = false →
      (∀ s' u, s.condsHold l.ctx l.conds = (s', true) → s'.launchDone i false = some u → exec (.dependConditionHolds i) s = .next u) ∧
      (∀ s', s.condsHold l.ctx l.conds = (s', false) → exec (.dependConditionHolds i) s = .next s.passOver)) ∧
    (l.caddr = 0 → l.rel = false → ∃ u : State, s.launchDone i false = some u ∧ AMap.get? u.launches i = none ∧ u.mem = s.mem ∧
      u.dev.msix = s.dev.msix ++ (if l.irq then [l.vec] else [])) ∧
    (∀ s' pas, l.caddr ≠ 0 → l.rel = false → s.xlate (lpVia l.ctx) l.caddr 8 .write (if l.kind = .depend ∨ l.kind = .barrier then none else some l.pkr) = (s', .ok pas) →
      s'.waveHolds [pas.getD 0 0] = false → (isRemote (pas.getD 0 0) = true → remoteOk (pas.getD 0 0) = true) →
      ∃ u : State, s.launchDone i false = some u ∧ AMap.get? u.launches i = none ∧
        (List.range 8).map (fun k => u.byte (homeOf (pas.getD 0 0 + k))) = leBytes 8 l.cval.toNat)) ∧
  (∀ (s : State) (die : Nat), (s.launchLists.getD die [] = [] → exec (.launchListStart die) s = .next s.passOver) ∧
    ∀ (s' : State) (ctx : Nat) (b : List Byte) (rest : List (Nat × List Byte)), s.launchLists.getD die [] = (ctx, b) :: rest →
      (∀ l, ({ s with launchLists := s.launchLists.set die rest }).launchPacket ctx b = (s', .ok l) →
        exec (.launchListStart die) s = .next { s' with launches := AMap.put s'.launches s'.freshId { l with started := true }, seq := s'.seq + 16 }) ∧
      (∀ e, ({ s with launchLists := s.launchLists.set die rest }).launchPacket ctx b = (s', .error e) → exec (.launchListStart die) s = .next s'))

/-- R111 to R113, R265: a cluster is placed on distinct cores of one tetrad on which its teams fit, each team with a
zeroed scratchpad; a gang on one core; a team starts with an acquire once its load list is done. R274 to R276: a seed
enters a bin with room; a bin's timer makes its records due; a bin with a trigger places a group of the node that
takes the oldest records behind a header. That a seed passes earlier ones whose own bins are full, and that a trigger
places its group and takes the records in one step, are the model's choices (log 24, DEDUCED: R274 says in index
order). -/
def Obligations.PlacementBinsAndStart : Prop :=
  ((∀ (s : State) (k : Nat) (l : Launch), AMap.get? s.launches k = some l → l.started = true → l.placed < l.ncl →
    (∀ (d : KDesc) (cores : List Nat), l.kind = .grid → l.descs = [d] → cores ≠ [] → cores.length = d.clt → cores.Nodup →
      (∀ c ∈ cores, c / 4 = cores.headD 0 / 4 ∧ s.fitsOn c (d.need d.groups) = true) →
      ∃ (t : State) (u : Nat), exec (.clusterPlacement k cores) s = .next t ∧ t.mem = s.mem ∧
        AMap.get? t.launches k = some { l with placed := l.placed + 1 } ∧
        ∀ i, i < cores.length → ∃ T : Team, t.team? (u + i) = some T ∧ T.idx = i ∧ T.core = cores.getD i 0 ∧ T.desc = d ∧ T.unit = u ∧
          T.started = false ∧ T.karg = l.karg ∧ T.clIdx = l.placed ∧ T.clCount = l.ncl ∧ T.berths = List.replicate d.berths {} ∧
          (t.share T.share).scratch = [] ∧ (t.share T.share).size = d.scratch) ∧
    (∀ c : Nat, l.kind = .gang → s.fitsOn c (gangNeed l.descs) = true →
      ∃ (t : State) (u : Nat), exec (.clusterPlacement k [c]) s = .next t ∧ t.mem = s.mem ∧
        AMap.get? t.launches k = some { l with placed := l.placed + 1 } ∧
        ∀ i, i < l.descs.length → ∃ T : Team, t.team? (u + i) = some T ∧ T.idx = i ∧ T.core = c ∧ T.desc = l.descs.getD i {} ∧ T.share = u)) ∧
  (∀ (s : State) (k : Nat) (T : Team), s.team? k = some T → T.started = false →
    (∀ q ∈ s.faults, ∀ e ∈ q, ∀ t n, .load t n ∈ e.waiters → t ≠ k) →
    (∀ s', s.runLoads k T.loads = some (s', true) → exec (.teamStart k) s = .next (s'.beginTeam k)) ∧
    (T.loads = [] → T.desc.tids = [] → T.loadFail = none → ∃ t : State, exec (.teamStart k) s = .next t ∧ t.mem = s.mem ∧
      t.team? k = some { T with started := true, extents := [] })) ∧
  (∀ (s : State) (k : Nat) (T : Team), s.team? k = some T → s.teamOver k T = true → s.waits (.launch (.team k)) = false →
    (∀ t, s.teamDone k false = some t → exec (.teamRetire k) s = .next t) ∧
    (∀ (v : CUnit) (j : Nat) (J : Team), T.desc.teamev = 0 → AMap.get? s.units T.unit = some v → j ∈ v.teams → j ≠ k → s.team? j = some J → J.retired = false →
      (∀ e ∈ s.recsOut, e.1 ∉ T.groups) → (∀ r ∈ s.qreplies, ∀ w, r.req.who = some w → w.1 ∉ T.groups) →
      ∃ t : State, exec (.teamRetire k) s = .next t ∧ t.mem = s.mem ∧ t.team? k = some { T with retired := true, slot := none } ∧
        (∀ g ∈ T.groups, t.group? g = none) ∧ ∀ g, g ∉ T.groups → t.group? g = s.group? g))) ∧
  (∀ (s : State) (k node : Nat) (l : Launch), AMap.get? s.launches k = some l → l.kind = .graph →
    (∀ (j : Nat) (e : Nat × List Byte), l.started = true → node < l.seeds.length →
      let seeds := l.seeds.getD node []
      let bin := fun (e : Nat × List Byte) => l.bins.getD (4 * node + e.1 % 4) {}
      seeds[j]? = some e → (∀ k f, k < j → seeds[k]? = some f → 2 * (l.descs.getD node {}).ncount ≤ (bin f).recs.length) →
      (bin e).recs.length < 2 * (l.descs.getD node {}).ncount →
      ∃ t : State, exec (.seedEntry k node) s = .next t ∧ t.mem = s.mem ∧
        AMap.get? t.launches k =
          some { l with seeds := l.seeds.set node (seeds.eraseIdx j), bins := l.bins.set (4 * node + e.1 % 4) ((bin e).push e.2) }) ∧
    (∀ die, die < 4 →
      let i := 4 * node + die
      let b := l.bins.getD i {}
      (b.timer = true → b.recs ≠ [] → ∃ t : State, exec (.binTimerExpiry k die node) s = .next t ∧ t.mem = s.mem ∧
        AMap.get? t.launches k = some { l with bins := l.bins.set i { b with timer := false, expired := true } }) ∧
      (∀ (d : KDesc) (core : Nat), l.started = true → l.descs[node]? = some d → core / 96 = die → s.fitsOn core (d.need d.groups) = true →
        i < l.bins.length → b.waiters = [] →
        (d.ncount ≤ b.recs.length ∨ b.expired = true ∧ b.recs ≠ [] →
          let recs := b.recs.take d.ncount
          let rest := b.recs.drop d.ncount
          ∃ (t : State) (u : Nat), exec (.binCountTrigger k die node core) s = .next t ∧ t.mem = s.mem ∧
            AMap.get? t.launches k = some { l with placed := l.placed + 1, bins := l.bins.set i { b with recs := rest, timer := rest != [], expired := false } } ∧
            (∃ T : Team, t.team? u = some T ∧ T.core = core ∧ T.desc = d) ∧
            ∀ j, j < (recs.flatten).length → AMap.getD (t.share u).scratch (8 + j) 0 = recs.flatten.getD j 0) ∧
        (¬ (d.ncount ≤ b.recs.length ∨ b.expired = true ∧ b.recs ≠ []) → exec (.binCountTrigger k die node core) s = .next s.passOver))))

/-- R114 to R122: of the ready pending groups the one with the highest class, then the greatest age, then the lowest slot comes first
and takes the slot of an active group that waits; the first of those that ageing has raised displaces the active group that entered
earliest, once that has been active for 1,024 cycles; each cycle the builder takes the first candidate point by class, wait, slot and
PC, on a core also the first of the other points, and draws from each the lanes of its groups that do not meet; the fallback point moves
on after 256 bundles to the next higher unfiled PC of the group, wrapping round. -/
def Obligations.Scheduling : Prop :=
  let first := fun (P : Nat × Group → Bool) (rs : List (Nat × Group)) (a : Nat × Group) =>
    a ∈ rs ∧ P a = true ∧ ∀ e ∈ rs, P e = true →
      let cls := fun (x : Nat × Group) => if 1024 ≤ x.2.age then 3 else x.2.cls
      cls e < cls a ∨ cls e = cls a ∧ (e.2.age < a.2.age ∨ e.2.age = a.2.age ∧ a.1 ≤ e.1)
  let pending := fun (s : State) (e : Nat × Group) => !e.2.active && s.started e.2 && s.groupReady e.1 e.2
  let aged := fun (s : State) (e : Nat × Group) => pending s e && decide (1024 ≤ e.2.age) && decide (e.2.cls < 3)
  let old := fun (s : State) (core : Nat) (e : Nat × Group) => e.2.active && decide (e.2.entered + 1024 ≤ (s.core core).cycles)
  let out := fun (age : Nat → Nat) (G : Group) => { G with active := false, fallback := none, run := none, age := age G.age }
  let enter := fun (now : Nat) (G : Group) => { G with active := true, age := 0, entered := now, issueFrom := now + 2 }
  (∀ (s : State) (core : Nat),
    (∀ a, s.nextPending core = some a → first (pending s) (s.residents core) a) ∧
    (s.nextPending core = none ↔ ∀ e ∈ s.residents core, pending s e = false) ∧
    (∀ a, s.agedPending core = some a → first (aged s) (s.residents core) a) ∧
    (s.agedPending core = none ↔ ∀ e ∈ s.residents core, aged s e = false) ∧
    (∀ o, s.oldestActive core = some o → o ∈ s.residents core ∧ old s core o = true ∧
      ∀ e ∈ s.residents core, old s core e = true → o.2.entered ≤ e.2.entered) ∧
    (s.oldestActive core = none ↔ ∀ e ∈ s.residents core, old s core e = false) ∧
    (∀ a, first (pending s) (s.residents core) a → core < 384 → s.swapFree core = true →
      ∀ g G, s.group? g = some G → G.active = true → coreOf g = core → s.waiting g G = true →
        ∃ e, s.nextPending core = some e ∧
          exec (.groupSwap core g e.1) s = .next ((s.updGroup g (out id)).updGroup e.1 (enter (s.now e.1)))) ∧
    (∀ a o, a ∈ s.residents core → aged s a = true → o ∈ s.residents core → old s core o = true → s.swapFree core = true →
      ∃ a' o', s.agedPending core = some a' ∧ s.oldestActive core = some o' ∧
        exec (.agedDisplacement core) s = .next ((s.updGroup o'.1 (out fun _ => 0)).updGroup a'.1 (enter (s.now a'.1)))) ∧
    ((∀ a ∈ s.residents core, aged s a = false) ∨ (∀ o ∈ s.residents core, old s core o = false) ∨ s.swapFree core = false →
      exec (.agedDisplacement core) s = .next s.passOver)) ∧
  (∀ (s : State) (core : Nat) (fresh : BitVec 3), core < 1920 → s.dev.power = 0 ∨ s.residents core ≠ [] →
    let u := s.prepare core
    let cs := u.candidates core
    let behind := fun (c d : Cand) => d.cls < c.cls ∨ d.cls = c.cls ∧ (d.wait < c.wait ∨ d.wait = c.wait ∧ (c.slot < d.slot ∨ c.slot = d.slot ∧ c.point.pc ≤ d.point.pc))
    let two := fun (c : Cand) => c :: (if core < 384 then (pick (cs.filter fun d => d.point != c.point)).toList else [])
    (∃ t : State, exec (.bundleSelect core fresh) s = .next t ∧ t.mem = s.mem ∧ (t.core core).cycles = (s.core core).cycles + 1 ∧
      (cs = [] → t.issueQ = s.issueQ) ∧
      ∀ c, pick cs = some c → t.issueQ = s.issueQ ++ (two c).flatMap fun d => (u.bundle d).map fun e => { g := e.1, lanes := e.2, fresh := fresh }) ∧
    (cs ≠ [] → pick cs ≠ none) ∧
    (∀ (ds : List Cand) (c : Cand), pick ds = some c → c ∈ ds ∧
      (c.deferred ds = false ∨ ∀ d ∈ ds, d.deferred ds = true) ∧ ∀ d ∈ ds, d.deferred ds = c.deferred ds → behind c d) ∧
    (∀ c ∈ cs, c.point ∈ u.points core ∧ c.groups = u.pointGroups core c.point ∧ c.groups ≠ [] ∧
      (∀ e ∈ c.groups, (if 1024 ≤ e.2.2.2 ∨ 1024 ≤ e.2.1.age then 3 else e.2.1.cls) ≤ c.cls ∧ e.2.2.2 ≤ c.wait ∧ c.slot ≤ e.1) ∧
      (∃ e ∈ c.groups, c.wait = e.2.2.2) ∧ (∃ e ∈ c.groups, c.cls = if 1024 ≤ e.2.2.2 ∨ 1024 ≤ e.2.1.age then 3 else e.2.1.cls) ∧
      u.bundle c ≠ [] ∧ (u.bundle c).Pairwise (fun a b => a.2 &&& b.2 = 0) ∧
      ∀ b ∈ u.bundle c, ∃ e ∈ c.groups, b = (e.1, e.2.2.1))) ∧
  (∀ (s : State) (g : Nat) (G : Group) (pc : DWord) (n : Nat), s.group? g = some G → G.fallback = some (pc, n) →
    let free := fun (l : Nat) => l < 32 ∧ (G.lane l).live = true ∧ ∀ e ∈ (s.core (issueUnit g)).pcs, e.2 ≠ (G.lane l).pc
    (n < 256 → exec (.fallbackAdvance g) s = .next s.passOver) ∧
    (256 ≤ n → ∃ f, exec (.fallbackAdvance g) s = .next (s.updGroup g fun G => { G with fallback := f }) ∧
      (f = none ↔ ∀ l, ¬ free l) ∧
      ∀ pc' m, f = some (pc', m) → m = 0 ∧ (∃ l, free l ∧ (G.lane l).pc = pc') ∧
        ((∃ l, free l ∧ pc < (G.lane l).pc) → pc < pc' ∧ ∀ l, free l → pc < (G.lane l).pc → pc' ≤ (G.lane l).pc) ∧
        ((∀ l, free l → (G.lane l).pc ≤ pc) → ∀ l, free l → pc' ≤ (G.lane l).pc)))

/-! ### Fault service and quays (R191, R199 to R209, R299, R300, R334, R335, R352) -/

/-- R26, R71, R299, R300, R335, R352: a fault that is served joins the entry of its page, kind and cause that has no reply, or makes an entry
of its own at the end of its die's queue; an outstanding load whose read meets one waits with it, and is lost at once for a fault that is not
served. A reply takes the entry from its queue and every waiter acts: a lane goes on to try again, or traps precisely where a store is refused;
an outstanding result is read again or is lost; a zero fill zeroes the frame, makes the entry valid, and replies RESOLVED. -/
def Obligations.FaultReplies : Prop :=
  (∀ (s : State) (die : Nat) (f : FaultEntry), s.hostMode 0 = false → die < s.faults.length →
    let q := s.faults.getD die []
    let joined := fun (e : FaultEntry) => e.ctx = f.ctx ∧ e.va.toNat / 65536 = f.va.toNat / 65536 ∧ e.kind = f.kind ∧ e.cause = f.cause ∧ s.replyOf e = 0
    ((∀ e ∈ q, ¬ joined e) → s.toService die f = { s with faults := s.faults.set die (q ++ [{ f with queued := true, addr := none }]) }) ∧
    (∀ i e, q[i]? = some e → (∀ d ∈ q.take i, ¬ joined d) → joined e → e.addr = none →
      s.toService die f = { s with faults := s.faults.set die (modAt q i fun e => { e with waiters := e.waiters ++ f.waiters }) })) ∧
  (∀ (s s' : State) (g idx l n : Nat) (stale : Bool) (G : Group) (p : Pend) (va : DWord) (ext : Ext) (acq home : Bool) (x : XFault),
    s.group? g = some G → G.pend[idx]? = some p → l < 32 → AMap.get? p.lanes l = some (.waiting va) → p.kind = .load n ext acq home →
    (G.lane l).helper = false → s.laneRead g G p l n va home stale = (s', .fault x) → x.held = false →
    let o := exec (.variableResultReturn g idx (1 <<< l) ⟨stale, 0, []⟩) s
    (x.serviced = true → G.faulting l = false → o = .next ((s'.toService (dieOfGroup g)
      { va, cause := x.cause, sub := x.sub, kind := .read, src := .ls, ctx := G.ctx, source := groupSource g .ls
        waiters := [.pend g p.seq l], l0 := x.l0 }).setPLane g p.seq l (.faulted va))) ∧
    (x.serviced = true → G.faulting l = true → o = .next s.passOver) ∧
    (x.serviced = false → o = .next (s'.setPLane g p.seq l (.lost (some (p.lostRec x va)))))) ∧
  (∀ (s : State) (die i : Nat) (f : FaultEntry), (s.faults.getD die [])[i]? = some f → f.queued = true →
    let answered := fun (resolved : Bool) => match f.addr with
      | some a => leNat (s.bytes (a + 0x14) 4) ≠ 0 ∧ (leNat (s.bytes (a + 0x14) 4) = 1 ↔ resolved = true)
      | none => resolved = false ∧ s.zeroMark f = none
    let alone := fun (but : Option (Nat × Nat)) => ∀ h H k, s.group? h = some H → but ≠ some (h, k) → ∀ v a q r, (H.lane k).wait ≠ .fault v a q r
    let noDues := fun (G : Group) => ∀ k, (G.lane k).due = none
    (∀ resolved t, answered resolved → s.answerFault die i f resolved = some t → exec (.faultReply die i resolved) s = .next t) ∧
    (∀ resolved, ¬ answered resolved → exec (.faultReply die i resolved) s = .next s.passOver) ∧
    (∀ g l G va pkr r, answered true → f.waiters = [.lane g l] → s.group? g = some G → l < G.lanes.length →
      (G.lane l).wait = .fault va .fetch pkr r → alone (some (g, l)) → noDues G →
      ∃ (t : State) (G' : Group), exec (.faultReply die i true) s = .next t ∧ t.mem = s.mem ∧ t.group? g = some G' ∧
        (G'.lane l).wait = .none ∧ (G'.lane l).pc = (G.lane l).pc ∧ t.faults = modAt s.faults die fun q => dropAt q i) ∧
    (∀ g l n data rel scat hs G va pkr r, answered false → f.waiters = [.lane g l] → s.group? g = some G → l < G.lanes.length → l < 32 →
      (G.lane l).wait = .fault va (.store n data rel scat hs) pkr (some r) → (G.lane l).helper = false → alone (some (g, l)) →
      G.outstanding = true → G.recs = [] →
      ∃ (t : State) (G' : Group), exec (.faultReply die i false) s = .next t ∧ t.mem = s.mem ∧ t.lsq = s.lsq ∧ t.group? g = some G' ∧
        (G'.lane l).pc = (G.lane l).pc ∧
        (G'.lane l).wait = .park (.trap { r with resume := (G.lane l).pc, fpc := (G.lane l).pc, mask := 1 <<< l }) (G.lane l).due) ∧
    (∀ resolved g seq l G p va, answered resolved → f.waiters = [.pend g seq l] → s.group? g = some G → G.pend = [p] → p.seq = seq → l < 32 →
      p.lanes = [(l, .faulted va)] → (∀ k, (G.lane k).wait ≠ .gath seq) → alone none →
      ∃ (t : State) (G' : Group), exec (.faultReply die i resolved) s = .next t ∧ t.mem = s.mem ∧ t.group? g = some G' ∧
        G'.pend = [{ p with lanes := [(l, if resolved then .waiting va else .lost (if (G.lane l).helper then none else
          some (p.lostRec { cause := f.cause, sub := f.sub } va)))] }]) ∧
    (∀ a e p g l G va pkr r, f.addr = none → s.zeroMark f = some (a, e) → pteV e = false → p % 65536 = 0 → p < 2 ^ 52 → inDevice p 65536 = true →
      region p ≠ .tier2 → s.waveHolds (a :: (List.range 256).map (p + 256 * ·)) = false →
      (∀ k, k < 8 → homeOf (a + k) < p ∨ p + 65536 ≤ homeOf (a + k)) →
      f.waiters = [.lane g l] → s.group? g = some G → l < G.lanes.length → (G.lane l).wait = .fault va .fetch pkr r →
      alone (some (g, l)) → noDues G →
      ∃ (t : State) (e' : DWord), exec (.zeroFill die i (some p)) s = .next t ∧ (List.range 8).map (fun k => t.byte (homeOf (a + k))) = leBytes 8 e'.toNat ∧
        (∀ k, k < 65536 → t.byte (p + k) = 0) ∧ pteV e' = true ∧ pteLeaf e' = true ∧ e'.toNat / 2 ^ 16 % 2 ^ 36 = p / 2 ^ 16 ∧
        pteR e' = pteR e ∧ pteW e' = pteW e ∧ pteX e' = pteX e ∧ pteKey e' = pteKey e ∧ (t.lane g l).wait = .none))

/-- R199 to R209: the requests of one issue join their superblock's queue together; a wave takes the front run of one superblock's
queue, its object copied into a buffer; a method's end commits what it stored and answers each request, a
built-in's writes the new value, and the writes and accesses that the wave held go on; the reply reaches its lane. That a wave takes the lowest
free slot of its quay (DESIGN CHOICE) and that its run is of requests with one physical address (DEDUCED) are the model's choices (log 22). -/
def Obligations.QuayEvents : Prop :=
  (∀ (s : State) (i : Nat) (e : LsOp) (pa : Nat) (va : DWord) (cls m size : Nat) (arg : DWord) (ret : Option Nat), s.lsq[i]? = some e →
    e.kind = .quay pa va cls m size arg ret → e.away = false →
    let es := s.batch e
    let k := quayOf (pa / 256 * 256)
    s.allReady es = true → s.overtakes e = false → (s.quay k).reqs.length + es.length ≤ 512 → e.superblock = some (pa / 256) →
    ∃ t : State, exec (.quayRequestArrival i) s = .next t ∧ t.mem = s.mem ∧ t.groups = s.groups ∧
      (t.quay k).reqs = (s.quay k).reqs ++ es.map LsOp.request ∧ (t.quay k).busy = (s.quay k).busy) ∧
  (∀ (s : State) (k i : Nat) (q : QReq) (rest : List QReq), s.quay k = { reqs := q :: rest, busy := [] } → i < 4 →
    s.group? (waveKey k i) = none → (∀ j < i, (s.group? (waveKey k j)).isSome = true) →
    (s.classOpen q = true →
      let r := takeRun (q.pa / 256) q 32 (q :: rest)
      ∃ (t : State) (G : Group) (w : Wave), exec (.quayWaveForm k) s = .next t ∧ t.mem = s.mem ∧ t.group? (waveKey k i) = some G ∧ G.wave = some w ∧
        w.reqs = r.1 ∧ w.buf = s.bytes q.pa q.size ∧ w.size = q.size ∧ w.stored = 0 ∧
        (t.quay k).reqs = r.2 ∧ (t.quay k).busy = [(q.pa / 256, [])] ∧
        ∀ l, l < 32 → ((G.lane l).live = true ↔ q.cls ≠ 0 ∧ l < r.1.length) ∧
          ∀ qs, r.1[l]? = some qs → G.reg64 l (.v 0) = qs.arg) ∧
    (s.classOpen q = false → ∃ t : State, exec (.quayWaveForm k) s = .next t ∧ t.mem = s.mem ∧ (t.quay k).reqs = (q :: rest).filter (· != q))) ∧
  (∀ (s : State) (g : Nat) (G : Group) (w : Wave), s.group? g = some G → G.wave = some w → G.live = 0 →
    (w.flt = none → (∀ q ∈ w.reqs, q.op = none) → w.buf.length = w.size → w.size ≤ 256 → w.reqs ≠ [] → w.pa + w.size ≤ remoteBase →
      ∃ t : State, exec (.quayWaveEnd g) s = .next t.drainLate.drainLog.retryAll ∧ t.group? g = none ∧
        (∀ pa, t.byte pa = if w.pa ≤ pa ∧ pa < w.pa + w.size ∧ w.stored.getLsbD ((pa - w.pa) / 4) = true then w.buf.getD (pa - w.pa) 0 else s.byte pa) ∧
        ∀ l q, w.reqs[l]? = some q → q.who ≠ none → q.pend ≠ none →
          { req := q, status := 0, words := words64 (AMap.getD w.replies l 0), sub := 0, code := 0 } ∈ t.qreplies) ∧
    (∀ q o b e, w.reqs.head? = some q → q.op = some (o, b, e) → s.poisonIn w.pa w.size = none → w.pa + w.size ≤ remoteBase →
      let r := builtin o (leNat w.buf) (w.reqs.map QReq.vals)
      ∃ t : State, exec (.quayWaveEnd g) s = .next t.drainLate.drainLog.retryAll ∧ t.group? g = none ∧ t.bytes w.pa w.size = leBytes w.size r.2) ∧
    (∀ sub code, w.flt = some (sub, code) → 2 ≤ w.reqs.length → (∀ q ∈ w.reqs, q.op = none) →
      ∃ t : State, exec (.quayWaveEnd g) s = .next t.drainLate.drainLog.retryAll ∧ t.group? g = none ∧ t.mem = s.mem ∧ AMap.get? (t.quay w.quay).busy w.sb = some w.reqs)) ∧
  (∀ (old : Nat) (xs : List (Nat × Nat)), old < 2 ^ 32 →
    (builtin .add32 old xs).2 = (old + (xs.map (·.1)).sum) % 2 ^ 32 ∧
    ∀ i, i < xs.length → (builtin .add32 old xs).1.getD i 0 = (old + ((xs.take i).map (·.1)).sum) % 2 ^ 32) ∧
  (∀ (s : State) (i g l q : Nat) (r : QReply), s.qreplies[i]? = some r → r.req.who = some (g, l) → r.req.pend = some q →
    exec (.quayReply i) s = .next (({ s with qreplies := dropAt s.qreplies i }).setPLane g q l
      (if r.status = 0 then .back r.words else .lost (some r.rec')))) ∧
  (∀ (s : State) (i g l : Nat) (r : QReply), s.qreplies[i]? = some r → r.req.who = some (g, l) → r.req.pend = none →
    exec (.quayReply i) s = .next { s with qreplies := dropAt s.qreplies i, recsOut := s.recsOut ++ [(g, r.req.ctx, { r.rec' with mask := 1 <<< l, async := true })] })

/-! ### The engines and the arrays at work (R217 to R223, R226, R228 to R231, R237, R238, R248, R252 to R259) -/

/-- R213, R217 to R223, R226: a command that waited is accepted; a COPY takes the lowest free journal entry; the first queued entry that
nothing holds starts, its source tile draining; its bytes are read and land in box order, those of one aligned 8 bytes together; at the end its word
enters q1 and its entry is free; poison in the source stops it, once what was read before it has landed. That bytes land in box order, and that
one event (of 0 bytes) reads all that is left of the source and places what is left to write, are the model's choices (log 14, DEDUCED: R219
says that reads and writes are made in any order). -/
def Obligations.CopyEngine : Prop :=
  (∀ (s : State) (g : Nat) (G : Group), s.group? g = some G →
    let m := maskOf fun l => (G.lane l).live && (G.lane l).wait == .submit 0
    let ty := (G.q0.getD 0 0).toNat / 32 % 8
    let k := (G.q0.getD 1 0).toNat % 64
    m ≠ 0 →
    (ty = 0 → ∀ c, G.sub0 = some c → s.resumeTakes (coreOf g) = false →
      ((∀ j, j < 64 → (s.copyAt (coreOf g) j).isSome = true) → exec (.copy g) s = .next s.passOver) ∧
      ∀ j, j < 64 → s.copyAt (coreOf g) j = none → (∀ i < j, (s.copyAt (coreOf g) i).isSome = true) →
        ∃ (t : State) (c' : Copy), exec (.copy g) s = .next (t.wake g m) ∧ t.mem = s.mem ∧ t.copyAt (coreOf g) j = some c' ∧
          c' = { c with g, order := s.seq + 1, entered := c'.entered } ∧
          t.group? g = some { G with q0 := [], sub0 := none } ∧ ∀ i, i ≠ j → t.copyAt (coreOf g) i = s.copyAt (coreOf g) i) ∧
    (ty = 1 → ∃ t : State, exec (.copyResume g) s = .next (t.wake g m) ∧ t.mem = s.mem ∧ t.group? g = some { G with q0 := [], sub0 := none } ∧
      t.copyAt (coreOf g) k = (s.copyAt (coreOf g) k).map fun c =>
        { c with st := .queued, order := s.seq + 1, waiting := false, stamped := false, stampDue := none }) ∧
    (ty = 2 → ∃ (t : State) (G' : Group), exec (.copyCancel g) s = .next (t.wake g m) ∧ t.mem = s.mem ∧ t.group? g = some G' ∧ G'.q0 = [] ∧
      ∀ c, s.copyAt (coreOf g) k = some c → ∃ c', t.copyAt (coreOf g) k = some c' ∧
        c' = { c with st := .finishing, status := 3, waiting := false, stamped := false, stampDue := none, entered := c'.entered })) ∧
  (∀ (s : State) (core j : Nat) (c : Copy) (T : Team) (sh : Share), s.copyAt core j = some c → s.team? c.team = some T →
    AMap.get? s.shares T.share = some sh →
    (∀ fromBuf, c.st = .queued → s.beingSaved c.team = false → s.tilesLet c = true → s.condLets c = true →
      ((s.core core).journal.filter fun e => e.2.st == .active).length < 4 →
      (∀ e ∈ (s.core core).journal, e.2.order < c.order → ¬ (e.2.st = .queued ∧ s.tilesLet e.2 = true ∧ s.condLets e.2 = true)) →
      ∃ t : State, exec (.copyStart core j fromBuf) s = .next t ∧ t.mem = s.mem ∧ t.groups = s.groups ∧
        t.copyAt core j = some { c with
          st := .active, fromBuf, stamped := false, issued := false, ahead := [], carry := none, index := [], rowNow := [], waiting := false, places := [], stopping := none } ∧
        (∀ h, c.srcTile = some h → h < sh.tiles.length → (t.tile T.share h).st = .draining) ∧
        (c.wt = true → (t.share T.share).counts.getD c.wg 0 = sh.counts.getD c.wg 0 - 1)) ∧
    (∀ n t, c.st = .active → c.waiting = false → c.stopping = none → n ≠ 0 → c.prog + n ≤ c.total → s.copyRun core j (c.prog + n) true n = some t →
      (∀ d, t.copyAt core j = some d → d.waiting = true ∨ d.st ≠ .active ∨ d.prog ≤ c.prog + n) →
      exec (.bytesLand (.copy core j) n) s = .next t) ∧
    (∀ u t, c.st = .active → c.waiting = false → c.stopping = none → c.issued = false → c.prog < c.total →
      s.readAhead core j (c.total - c.prog) (c.total - c.prog) = (u, .ok ()) → u.placeRest core j c = (t, .ok ()) →
      exec (.bytesLand (.copy core j) 0) s = .next (t.updCopy core j fun c => { c with issued := true, issuedSeq := t.seq })) ∧
    (∀ a, c.srcTile = some a → c.ahead = [] → c.prog < c.total →
      let src := (sh.tiles.getD a {}).base + (c.word 2).toNat / 256 + c.prog
      ∃ u : State, s.readAhead core j (c.total - c.prog) (c.total - c.prog) = (u, .ok ()) ∧ u.mem = s.mem ∧ u.groups = s.groups ∧
        u.copyAt core j = some { c with ahead := sh.bytes src (c.total - c.prog) }) ∧
    (∀ h n, c.st = .active → c.waiting = false → c.stopping = none → c.dstTile = some h → c.barrier = none → c.carry = none → h < sh.tiles.length →
      c.prog + n ≤ c.total → n = s.blockLen c c.prog c.total → n ≤ c.ahead.length →
      let dst := (sh.tiles.getD h {}).base + (c.word c.dstAt).toNat / 256 + c.prog
      ∃ t : State, exec (.bytesLand (.copy core j) n) s = .next t ∧ t.mem = s.mem ∧ t.groups = s.groups ∧
        t.copyAt core j = some { c with prog := c.prog + n, credited := c.credited + n, ahead := c.ahead.drop n } ∧
        (t.tile T.share h).arr = ((sh.tiles.getD h {}).arr + n) % 2 ^ 20 ∧
        ∀ i, AMap.getD (t.share T.share).scratch i 0 =
          if dst ≤ i ∧ i < dst + n then c.ahead.getD (i - dst) 0 else AMap.getD sh.scratch i 0) ∧
    (∀ G : Group, c.st = .active → c.prog = c.total → c.waiting = false → c.stopping = none → c.hasStamp = false → s.group? c.g = some G →
      (c.cq = false → ∃ t : State, exec (.copyComplete core j) s = .next t ∧ t.mem = s.mem ∧ t.copyAt core j = none) ∧
      (c.cq = true → s.groupOver c = false → G.q1.length < 64 →
        ∃ (t : State) (G' : Group) (w : Word), exec (.copyComplete core j) s = .next t ∧ t.mem = s.mem ∧ t.copyAt core j = none ∧
          t.group? c.g = some G' ∧ G'.q1 = G.q1 ++ [w] ∧ w.toNat = (c.tag * 2 ^ 16 + j) % 2 ^ 32)) ∧
    (∀ s' va, c.st = .active → c.waiting = false → c.stopping = none → c.issued = false → c.prog + c.ahead.length < c.total →
      s.srcUnit core j c (c.prog + c.ahead.length) = (s', .error (.poison va)) →
      exec (.copyStop core j) s = .next (s'.stopCopy core j 1 .uncorr 0 .read va) ∧
      ∀ c', s'.copyAt core j = some c' → c'.ahead = [] → c'.carry = none → c'.hasStamp = false → c'.prog ≠ c'.total → s'.teamFinished c'.team = false →
        let t := s'.stopCopy core j 1 .uncorr 0 .read va
        t.copyAt core j = some { c' with st := .stopped, waiting := false, issued := false, issuedSeq := s'.seq, places := [], stopping := none, stampOnly := false, status := 1, stampDue := none } ∧
        t.recsOut = s'.recsOut ++ [(c'.g, c'.ctx, { c'.rec' j .uncorr 0 .read va with async := true })]))

/-- R230, R231: the submission that has waited longest is accepted; the head command of a gate unit reads its input and its outputs
follow granule by granule; TOPK names the best scores, ties to the lower index, HIST counts, PSUM gives running sums, PERM gathers the
positions of each expert in turn; the finished command's word enters q3. That outputs follow granule by granule, in the order of `byGranule`,
is the model's choice (log 15, DEDUCED: R231 says that they may be written in any order). -/
def Obligations.GateUnits : Prop :=
  let run := fun (op u : Nat) (s : State) =>
    if op = 1 then exec (.topk u) s else if op = 2 then exec (.hist u) s else if op = 3 then exec (.psum u) s else exec (.perm u) s
  let waits := fun (u : Nat) (e : Nat × Group) => isWave e.1 = false ∧ tetradOf (coreOf e.1) = u ∧ e.2.gateLanes ≠ 0 ∧ e.2.sub2 ≠ none
  let stamp := fun (G : Group) => (G.lane ((lowest G.gateLanes).getD 0)).wseq
  (∀ (s : State) (u : Nat),
    (s.gateWaiter u = none ↔ ∀ e ∈ s.groups, ¬ waits u e) ∧
    ∀ g G c, s.gateWaiter u = some (g, G, c) →
      ((g, G) ∈ s.groups ∧ waits u (g, G) ∧ G.sub2 = some c ∧ ∀ e ∈ s.groups, waits u e → stamp G ≤ stamp e.2) ∧
      (s.group? g = some G → (s.gateQ u).length < 16 → 1 ≤ c.op → c.op ≤ 4 →
        ∃ t : State, run c.op u s = .next (t.wake g G.gateLanes) ∧ t.mem = s.mem ∧
          t.gateQ u = s.gateQ u ++ [{ c with g, order := s.seq + 1 }] ∧ t.group? g = some { G with q2 := [], sub2 := none })) ∧
  (∀ (s s' : State) (u i : Nat) (c : Gate) (T : Team) (A : TensorId) (xs : List Nat), s.gateHead u = some (i, c) → c.computed = false →
    c.waiting = false → (∀ g G d, s.gateWaiter u = some (g, G, d) → d.op ≠ c.op) → s.team? c.team = some T →
    (c.started = false → s.beingSaved c.team = false) → (c.wt = true → c.started = false → (s.share T.share).counts.getD (8 + c.wg) 0 ≠ 0) → c.ten 0 = some A →
    let s0 := s.bump.updGate u i fun c => { c with started := true }
    (if c.wt && !c.started then s0.updShare T.share fun h => h.take (8 + c.wg) else s0).gateList u c c.inBytes A.allAddrs = (s', xs, none) →
    let done := fun out => (Host.Outcome.next (s'.updGate u i fun g => { g with computed := true, outSeq := s'.seq, out := byGranule out }) : Host.Outcome State Fault Refusal)
    let w := fun k l => match c.ten k with
      | some t => put1 t l
      | none => []
    (c.op = 1 → exec (.topk u) s = done (c.topkOut A xs)) ∧
    (c.op = 2 → exec (.hist u) s = done (w 1 (histOf c.E xs))) ∧
    (c.op = 3 → exec (.psum u) s = done (w 1 (psumOf 0 xs))) ∧
    (c.op = 4 → exec (.perm u) s = done (w 1 (permOf c.E xs) ++ w 2 (histOf c.E xs) ++ w 3 (psumOf 0 (histOf c.E xs))))) ∧
  (∀ out, (byGranule out).Perm out ∧ (byGranule out).Pairwise fun a b => a.1.toNat / 64 ≤ b.1.toNat / 64) ∧
  (∀ (s : State) (u i n : Nat) (c : Gate), s.gateHead u = some (i, c) → c.computed = true → c.waiting = false →
    (∀ t, n ≠ 0 → n ≤ c.out.length → s.gateRun u i n true n = some t → exec (.bytesLand (.gate u) n) s = .next t) ∧
    (∀ va b rest p, c.out = (va, b) :: rest → n = alignedRun 4 c.out → (c.granule.find? fun e => e.1 == va.toNat / 64) = some (va.toNat / 64, p) → 64 * p + 64 ≤ remoteBase →
      let pa := 64 * p + va.toNat % 64
      s.waveHolds ((List.range n).map (pa + ·)) = false →
      ∃ t : State, exec (.bytesLand (.gate u) n) s = .next t ∧ (t.gateQ u)[i]? = some { c with out := c.out.drop n } ∧
        ∀ a, t.byte a = if pa ≤ a ∧ a < pa + n then (c.out.getD (a - pa) (0, 0)).2 else s.byte a)) ∧
  (∀ (s : State) (u : Nat) (c : Gate) (rest : List Gate) (G : Group), s.gateQ u = c :: rest → (∀ d ∈ c :: rest, d.finished = false) →
    c.computed = true → c.waiting = false → c.out = [] → c.hasStamp = false ∨ c.stamped = true → s.group? c.g = some G →
    (c.ev = false → c.cq = true → s.gateOver c = false → G.q3.length < 16 →
      ∃ (t : State) (w : Word), exec (.gateCommandComplete u) s = .next t ∧ t.mem = s.mem ∧ t.gateQ u = rest ∧
        t.group? c.g = some { G with q3 := G.q3 ++ [w] } ∧ w.toNat = (c.tag * 2 ^ 16 + c.status * 2 ^ 8) % 2 ^ 32) ∧
    (c.cq = true → s.gateOver c = false → 16 ≤ G.q3.length →
      exec (.gateCommandComplete u) s = .next (s.setGate u ({ c with finished := true } :: rest)))) ∧
  (∀ (fp32 : Bool) (xs : List Nat) (k : Nat), k ≤ xs.length →
    let is := topK fp32 xs k
    let beats := fun i j => scoreKey fp32 (xs.getD j 0) < scoreKey fp32 (xs.getD i 0) ∨
      scoreKey fp32 (xs.getD j 0) = scoreKey fp32 (xs.getD i 0) ∧ i < j
    is.length = k ∧ is.Pairwise beats ∧ (∀ i ∈ is, i < xs.length ∧ ∀ j, j < xs.length → j ∉ is → beats i j)) ∧
  (∀ (E e : Nat) (xs : List Nat), e < E → (histOf E xs).getD e 0 = xs.count e % 2 ^ 32) ∧
  (∀ (xs : List Nat) (j : Nat), j ≤ xs.length → (psumOf 0 xs).getD j 0 = (xs.take j).sum % 2 ^ 32) ∧
  (∀ (E : Nat) (xs : List Nat), let p := permOf E xs
    p.length = xs.length ∧ ((∀ x ∈ xs, x < E) → p.Perm (List.range xs.length) ∧
      p.Pairwise fun i j => xs.getD i 0 < xs.getD j 0 ∨ xs.getD i 0 = xs.getD j 0 ∧ i < j))

/-- R237, R238, R253, R258, R259, R244, R248: a closed operation, the first that closed of those of its condition, takes the condition's
count and enters its queue; the arbiter serves a slot at most four times in a row while another is ready; a chunk adds its products to the
accumulators of each row and column; the last chunk completes the operation; a failed fetch sends it back or ends it; a berth store's
bytes land and its end ends its pledge. -/
def Obligations.ArrayOperations : Prop :=
  (∀ (s : State) (a slot i : Nat) (o : MmaOp) (p : MmaPart) (T : Team), ((s.array a).slots.getD slot {}).closed[i]? = some o →
    o.parts.head? = some p → s.team? p.team = some T → slot < (s.array a).slots.length →
    let x := (s.array a).slots.getD slot {}
    let first := ∀ b ∈ s.arrays, ∀ y ∈ b.2.slots, ∀ q ∈ y.closed, q.conv = o.conv → s.opShare q = some T.share → o.order ≤ q.order
    ((∀ q ∈ o.parts, s.beingSaved q.team = false) → first → (s.share T.share).counts.getD (4 + o.conv) 0 ≠ 0 → ∃ t : State, exec (.mmaEnterQueue a slot i) s = .next t ∧ t.mem = s.mem ∧
      (t.array a).slots.getD slot {} = { x with closed := x.closed.eraseIdx i, queue := x.queue ++ [o] } ∧
      t.share T.share = (s.share T.share).take (4 + o.conv)) ∧
    (¬ first ∨ (s.share T.share).counts.getD (4 + o.conv) 0 = 0 → exec (.mmaEnterQueue a slot i) s = .next s.passOver)) ∧
  (∀ (A : Arr) (settled : MmaOp → Bool), A.cur < 4 →
    let ready := fun i => match (A.slots.getD i {}).queue with
      | o :: _ => !o.waiting && settled o
      | [] => false
    (∀ i r, A.pick settled = some (i, r) → ready i = true ∧ i < 4 ∧ (i = A.cur ∧ A.run < 4 ∧ r = A.run + 1 ∨ r = 1 ∧
      (ready A.cur = true → 4 ≤ A.run))) ∧
    (A.pick settled = none ↔ ∀ i < 4, ready i = false)) ∧
  (∀ (s : State) (a : Nat), a < 96 → (s.array a).active = none →
    (∃ t : State, exec (.arrayBoundary a) s = .next t ∧ t.mem = s.mem ∧ t.groups = s.groups) ∧
    ((s.array a).pick s.tilesSettled = none → exec (.arrayBoundary a) s = .next (s.setArray a { s.array a with run := 0 })) ∧
    ∀ i r o rest, (s.array a).pick s.tilesSettled = some (i, r) → ((s.array a).slots.getD i {}).queue = o :: rest → i < (s.array a).slots.length →
      (∀ p, o.begun = false → o.parts.head? = some p → (isSparse p.img.op = true → s.firstBad p = none) →
        ∃ (t : State) (o' : MmaOp), exec (.arrayBoundary a) s = .next t ∧ t.mem = s.mem ∧ (t.array a).active = some (i, o') ∧
          (t.array a).cur = i ∧ (t.array a).run = r ∧ ((t.array a).slots.getD i {}).queue = rest ∧
          o' = { o with begun := true, chunk := 0, part := 0, sizes := o'.sizes }) ∧
      (∀ p T m g, o.begun = false → o.parts.head? = some p → isSparse p.img.op = true → s.firstBad p = some (m, g) → s.team? p.team = some T →
        ∃ u : State, exec (.arrayBoundary a) s = .next (u.boundary a) ∧ (u.array a).active = none ∧ ((u.array a).slots.getD i {}).queue = rest ∧
          u.recsOut = s.recsOut ++ [(p.g, T.ctx, metaRec p m g)]) ∧
      (o.begun = true → ∃ t : State, exec (.arrayBoundary a) s = .next t ∧ (t.array a).active = some (i, o) ∧
        ((t.array a).slots.getD i {}).queue = rest)) ∧
  (∀ (s : State) (a i : Nat) (o : MmaOp) (p : MmaPart), (s.array a).active = some (i, o) → o.cur = some p →
    (∀ s' c rows, isGrouped p.img.op = false → s.nextChunk o p o.chunk = some c → s.bump.chunkA a o.order p c p.img.M = (s', .ok rows) →
      let u := s'.chunkAll o p c rows
      (∀ d, u.nextChunk o p (c + 1) = some d → exec (.mmaComplete a) s = .next (u.setActive a (some (i, { o with chunk := c + 1 })))) ∧
      (u.nextChunk o p (c + 1) = none → o.part + 1 < o.parts.length →
        exec (.mmaComplete a) s = .next (u.setActive a (some (i, { o with chunk := 0, part := o.part + 1 })))) ∧
      (u.nextChunk o p (c + 1) = none → o.parts.length ≤ o.part + 1 →
        exec (.mmaComplete a) s = .next (((u.setActive a none).finishOp o 0).boundary a))) ∧
    (∀ s' c va, s.nextChunk o p o.chunk = some c → s.bump.chunkA a o.order p c p.img.M = (s', .error (.poison va)) →
      exec (.mmaFetchFault a) s = .next (((s'.setActive a none).stopOp o p c 2 .uncorr 0 va).boundary a)) ∧
    (∀ s' c x va k, s.nextChunk o p o.chunk = some c → s.bump.chunkA a o.order p c p.img.M = (s', .error (.fault x va k)) →
      (x.serviced = false → exec (.mmaFetchFault a) s = .next (((s'.setActive a none).stopOp o p c 1 x.cause x.sub va).boundary a)) ∧
      (x.serviced = true → i < (s'.array a).slots.length → ∃ u : State, exec (.mmaFetchFault a) s = .next (u.boundary a) ∧
        (u.array a).active = none ∧
        ((u.array a).slots.getD i {}).queue = { o with chunk := c, waiting := true, fva := va } :: ((s'.array a).slots.getD i {}).queue))) ∧
  (∀ (s : State) (o : MmaOp) (p : MmaPart) (c m : Nat) (bs : List Byte) (q : Share × Nat) (T : Team),
    let op := p.img.op
    let wide := op == 0xB09
    op ≠ 0xB08 → isGrouped op = false → s.quarter o p 0 (c / perQuarter op) = some q → s.team? p.team = some T → m < 128 →
    (∀ b ∈ mmaBerths op p.img.d, b < T.berths.length) →
    let t := s.chunkRow o p c m bs
    t.mem = s.mem ∧ t.groups = s.groups ∧ ∀ m' n, m' < 128 → n < 128 →
      t.accAt p.team p.img.d m' n wide =
        (let old := s.accAt p.team p.img.d m' n wide
         if m' = m ∧ n < p.img.N then accStep op old (sumProducts (s.rowVals p c m bs) ((colBits q op c n).map (bVal op))) else old)) ∧
  (∀ (acc x : Nat) (n : Bool), let e := (if n then -(x : Int) else x)
    (BitVec.ofNat 32 (accStep 0xB07 acc (.fin n x 0))).toInt = max (-(2 ^ 31)) (min (2 ^ 31 - 1) ((BitVec.ofNat 32 acc).toInt + e))) ∧
  (∀ (s : State) (i : Nat) (e : BStore) (T : Team), AMap.get? s.bstores i = some e →
    (∀ n t, e.waiting = false → n ≠ 0 → n ≤ e.out.length → s.storeRun i n true n = some t → exec (.bytesLand (.bwr i) n) s = .next t) ∧
    (∀ n va b rest p, e.waiting = false → e.bar = none → e.out = (va, b) :: rest → n = alignedRun 8 e.out → (e.granule.find? fun q => q.1 == va.toNat / 64) = some (va.toNat / 64, p) →
      64 * p + 64 ≤ remoteBase →
      let pa := 64 * p + va.toNat % 64
      s.waveHolds ((List.range n).map (pa + ·)) = false →
      ∃ t : State, exec (.bytesLand (.bwr i) n) s = .next t ∧ AMap.get? t.bstores i = some { e with out := e.out.drop n } ∧
        ∀ x, t.byte x = if pa ≤ x ∧ x < pa + n then (e.out.getD (x - pa) (0, 0)).2 else s.byte x) ∧
    (e.waiting = false → e.out = [] → e.wide = false → s.team? e.team = some T → e.berth < T.berths.length →
      ∃ t : State, exec (.bwrComplete i) s = .next t ∧ t.mem = s.mem ∧ AMap.get? t.bstores i = none ∧
        t.berth e.team e.berth = { s.berth e.team e.berth with pending := (s.berth e.team e.berth).pending - 1, lstat := e.failed.getD (s.berth e.team e.berth).lstat }))

/-! ### The memory below the slices (R150 to R168, R342, R351) -/

/-- R153, R155, R159: every HBM byte has one place, on a data stack of its stripe, and the place names the byte. R154 to
R156, R159 to R161, R163: reads reply with the memory copy and fill the lines; a corrected error is counted and
reported, and a word that cannot be corrected is reconstructed; a write-back makes its lines clean, lands under its
masks and sends the change to the parity stack, which takes it; the acknowledgement frees the tag, and with no tag
free a request waits. No packet changes the coherent value of a byte. R153, R159: a write with its parity keeps the
parity of its stripe: the parity word stays the XOR of the fifteen data words. -/
def Obligations.MemoryPackets : Prop :=
  (∀ pa : Nat, pa < 0x00F000000000 →
    let p := dramPlace pa
    p.1 < 16 ∧ p.2 < 2 ^ 36 ∧ p.1 ≠ parityStack (p.2 / 256) ∧ placePa p.1 p.2 = some pa ∧ homeSlice pa < 1536 ∧
    ∀ pb, pb < 0x00F000000000 → dramPlace pb = p → pb = pa) ∧
  ((∀ (s : State) (port tag pa beats : Nat) (src : ReqSource) (errs : List EccState) (late : Bool) (cls b t off : Nat),
    dramPlace pa = (t, off) → requestOk port tag pa beats = true → s.serviceOf src = some (cls, b) → (∀ k, s.isLost k = false) →
    s.dramUe = [] → s.dramPois = [] →
    let req : Packet := { ty := .rd, target := t, off, beats, port, tag, cls, budget := budgetCode b, errs, late }
    ((∀ k, k < 8 → s.tagBusy port k = true) →
      exec (.rd port tag pa beats src ⟨errs, late⟩) s = .next { s with portQ := s.portQ ++ [req] }) ∧
    (s.tagBusy port tag = true → ∀ k, k < 8 → s.tagBusy port k = false → exec (.rd port tag pa beats src ⟨errs, late⟩) s = .next s.passOver) ∧
    (s.tagBusy port tag = false → (∀ e ∈ s.writes, e.2.sent = true) →
      ((∀ e ∈ errs, e = .good ∨ beats = 1 ∧ t < s.dev.stkh.length ∧ errs = [.corrected]) →
        ∃ (u : State) (i : Nat) (p : Packet), exec (.rd port tag pa beats src ⟨errs, late⟩) s = .next u ∧ u.mem = s.mem ∧ u.dram = s.dram ∧
          AMap.get? u.packets i = some p ∧ p.ty = .rdr ∧ p.port = port ∧ p.tag = tag ∧ p.target = t ∧ p.off = off ∧ p.data.length = beats ∧
          (∀ w, w < beats → (p.data.getD w { data := [], mask := 0 }).data = s.dramBytes t (off + 32 * w) 32) ∧
          (errs = [.corrected] → p.status = 1 ∧ (u.dev.stkh.getD t {}).cecnt = min 255 ((s.dev.stkh.getD t {}).cecnt + 1)) ∧
          ((∀ e ∈ errs, e = .good) → p.status = 0)) ∧
      (beats = 1 → errs = [.uncorrectable] → t < 16 → t < s.dev.stkh.length → (∀ e ∈ s.jobs, e.2.stripe ≠ off / 256) →
        ∃ (u : State) (k : Nat) (J : StripeJob), exec (.rd port tag pa beats src ⟨errs, late⟩) s = .next u ∧ u.mem = s.mem ∧ u.dram = s.dram ∧
          (u.dev.stkh.getD t {}).uecnt = min 255 ((s.dev.stkh.getD t {}).uecnt + 1) ∧ AMap.get? u.jobs k = some J ∧
          J.stripe = off / 256 ∧ J.want = t ∧ J.req.port = port ∧ J.req.tag = tag)) ∧
    (∀ masks : List Word, s.tagBusy port tag = false → (∀ e ∈ errs, e = .good) → s.locks = [] → (∀ e ∈ s.jobs, e.2.stripe ≠ off / 256 ∧ e.2.entry = none) →
      let line := fun w => (pa + 32 * w) / 64
      let beat := fun w => s.beatOf (line w) ((pa + 32 * w) / 32 % 2)
      masks = (List.range beats).map (fun w => (beat w).mask) → (∀ w, w < beats → (beat w).pois = false) →
      (∀ w, w < beats → ∀ h, h < 2 → (∃ v, v < beats ∧ line v = line w ∧ (pa + 32 * v) / 32 % 2 = h) ∨ (s.beatOf (line w) h).mask = 0) →
      ∃ (u : State) (i : Nat) (p : Packet), exec (.wr port tag pa beats masks src ⟨errs, late⟩) s = .next u ∧ u.mem = s.mem ∧
        (∀ w, w < beats → u.dramBytes t (off + 32 * w) 32 = (beat w).merge (s.dramBytes t (off + 32 * w) 32)) ∧
        (∀ w, w < beats → ∀ l, AMap.get? u.l2 (line w) = some l → l.dirty = false) ∧
        AMap.get? u.packets i = some p ∧
        (t < 16 → p.ty = .delta ∧ p.target = parityStack (off / 256) ∧ p.src = t ∧ p.port = t ∧ p.tag = 0 ∧ p.off = off) ∧
        (16 ≤ t → p.ty = .wack ∧ p.port = port ∧ p.tag = tag))) ∧
  (∀ (s : State) (port : Nat), ((∀ q ∈ s.portQ, q.port ≠ port) → s.tagFreed port = s) ∧
    ∀ q rest tag, s.portQ = q :: rest → q.port = port → s.freeTag port = some tag →
      s.tagFreed port = ({ s with portQ := rest }).accept { q with tag }) ∧
  (∀ (s : State) (i : Nat) (p : Packet), AMap.get? s.packets i = some p →
    let s' := { s with packets := AMap.del s.packets i }
    let key := pendKey (p.off / 256) p.target
    (p.ty = .rdr → ∃ u : State, exec (.rdr i) s = .next u ∧ u.mem = s.mem ∧
      ∀ pa, addrOf p.target p.off = some pa → (∀ q ∈ s.portQ, q.port ≠ p.port) → (∀ w, w < p.beats → (AMap.get? s.l2 ((pa + 32 * w) / 64)).isSome = true) →
        u.dram = s.dram ∧ u.packets = s'.packets ∧
        ∀ w, w < p.beats → ∃ l, AMap.get? u.l2 ((pa + 32 * w) / 64) = some l ∧ ∀ k, k < 8 → l.mask.getLsbD (8 * ((pa + 32 * w) / 32 % 2) + k) = true) ∧
    (p.ty = .wack → exec (.wack i) s = .next (s'.tagFreed p.port)) ∧
    (∀ errs, p.ty = .delta → (∀ e ∈ errs, e = .good) → (∀ w, w < p.beats → s.eccGood p.target (p.off + 32 * w) = true) →
      ∃ (u : State) (j : Nat), exec (.delta ⟨i, errs⟩) s = .next u ∧ u.mem = s.mem ∧
        (∀ w k, w < p.beats → k < 32 → u.dramByte p.target (p.off + 32 * w + k) =
          s.dramByte p.target (p.off + 32 * w + k) ^^^ (p.data.getD w { data := [], mask := 0 }).data.getD k 0) ∧
        AMap.get? u.packets j = some (ringPacket .dack p.target p.src p.off p.beats 0)) ∧
    (∀ e, p.ty = .dack → (s.writes.find? fun e => e.2.sent && e.2.p.target == p.target && e.2.p.off == p.off && e.2.p.beats == p.beats) = some e →
      ∃ (u : State) (j : Nat), exec (.dack i) s = .next u ∧ u.mem = s.mem ∧ u.dram = s.dram ∧
        AMap.get? u.packets j = some { e.2.p with ty := .wack, data := [], errs := [] } ∧ u.writes = AMap.del s.writes e.1 ∧
        AMap.getD u.pendPar key 0 = AMap.getD s.pendPar key 0 - 1) ∧
    (p.ty = .lock → (∀ j, AMap.get? s.locks key = some j → j = p.job) →
      (AMap.getD s.pendPar key 0 = 0 →
        ∃ (u : State) (k : Nat), exec (.lock i) s = .next u ∧ u.mem = s.mem ∧ AMap.get? u.locks key = some p.job ∧
          AMap.get? u.packets k = some (ringPacket .locked p.target p.src p.off 0 p.job)) ∧
      (AMap.getD s.pendPar key 0 ≠ 0 → AMap.get? s.locks key = none → exec (.lock i) s = .next { s with locks := AMap.put s.locks key p.job }) ∧
      (AMap.getD s.pendPar key 0 ≠ 0 → AMap.get? s.locks key ≠ none → exec (.lock i) s = .next s.passOver)) ∧
    (∀ j, p.ty = .locked → AMap.get? s.jobs p.job = some j →
      ∃ u : State, exec (.locked i) s = .next u ∧ u.mem = s.mem ∧ AMap.get? u.jobs p.job = some { j with locked := setIns p.src j.locked }) ∧
    (∀ errs, p.ty = .chunkrd → (∀ e ∈ errs, e = .good) → ∃ (u : State) (k : Nat) (q : Packet), exec (.chunkrd ⟨i, errs⟩) s = .next u ∧ u.mem = s.mem ∧
      AMap.get? u.packets k = some q ∧ q.ty = .chunk ∧ q.target = p.src ∧ q.src = p.target ∧ q.data.flatMap (·.data) = s.dramBytes p.target p.off 256) ∧
    (∀ j, p.ty = .chunk → AMap.get? s.jobs p.job = some j →
      let j' := { j with chunks := (p.src, p.data.flatMap (·.data), p.data.map (·.pois)) :: j.chunks }
      let u := { s' with jobs := AMap.put s.jobs p.job j' }
      exec (.chunk i) s = .next (if (otherStacks j.want).all (fun k => j'.chunks.any fun c => c.1 == k) then u.finishJob p.job j' else u)) ∧
    (p.ty = .unlock → (∀ e ∈ s.writes, ¬ (e.2.p.target = p.target ∧ e.2.p.off / 256 = p.off / 256)) →
      exec (.unlock i) s = .next { s' with locks := AMap.del s.locks key }))) ∧
  (∀ (s : State) (t off : Nat) (b : Beat), t < 16 → t ≠ parityStack (off / 256) → off % 32 = 0 → off < 2 ^ 36 → b.pois = false →
    b.data.length = 32 → (∀ k, s.isLost k = false) → s.dramPois = [] → s.dramUe = [] →
    (∀ i, i < 32 → s.xorAt (List.range 16) (off + i) = 0) →
    (∀ e ∈ s.packets, e.2.ty = .delta → e.2.target ≠ t) →
    let u := s.putWord t off b
    u.dramBytes t off 32 = b.merge (s.dramBytes t off 32) ∧ (∀ i, i < 32 → u.xorAt (List.range 16) (off + i) = 0) ∧ u.mem = s.mem ∧
    ∀ i, i < 32 → (u.xorAt (otherStacks t) (off + i)) = u.dramByte t (off + i))

/-- R294 to R298: an address that is not canonical faults with subcode 2; the rewalk that reads every entry at its home gives subcode 0
where an entry is not valid and 1 where it is malformed; a leaf's frame in a reserved range gives subcode 3; then the rights are checked
and then the key, whose AD bit bars every load and store and whose WD bit every store, for accesses that carry a PKR; an access that
passes sets A, or A and D where it writes, in the leaf, changes no other byte, and leaves that leaf in its TLB. A TLB hit that passes is
used as it stands; no fault is raised but by such a rewalk. -/
def Obligations.AddressTranslation : Prop :=
  (∀ (s : State) (v : Via) (va : DWord) (r : Right) (pkr : Option DWord), canonical va = false →
    s.translateRaw v va r pkr = (s, .error { cause := .translation, sub := 2 }) ∧
    s.walk v va r pkr true = (s, .error { cause := .translation, sub := 2 })) ∧
  (∀ (s : State) (v : Via) (va : DWord) (r : Right) (pkr : Option DWord) (k : Nat) (T : Nat → Nat) (E : Nat → DWord),
    canonical va = true → k < 4 → T 3 = s.rootOf v.ctx →
    (∀ n, k ≤ n → n < 4 → E n = leDWord (s.bytes (T n + 8 * vaIndex va n) 8) ∧ s.pteHeld v (T n + 8 * vaIndex va n) = false) →
    (∀ n, k < n → n < 4 → pteV (E n) = true ∧ pteMalformed (E n) n = false ∧ pteLeaf (E n) = false ∧ T (n - 1) = pteNext (E n)) →
    let pte := T k + 8 * vaIndex va k
    let f : Leaf := { e := E k, lvl := k, pte }
    (pteV (E k) = false → ∃ t, s.walk v va r pkr true = (t, .error { cause := .translation, sub := 0, l0 := if k = 0 then some pte else none }) ∧
      t.mem = s.mem) ∧
    (pteV (E k) = true → pteMalformed (E k) k = true → ∃ t, s.walk v va r pkr true = (t, .error { cause := .translation, sub := 1 }) ∧
      t.mem = s.mem) ∧
    (pteV (E k) = true → pteMalformed (E k) k = false → pteLeaf (E k) = true →
      (region (f.pa va) = .reserved → ∃ t, s.walk v va r pkr true = (t, .error { cause := .translation, sub := 3 }) ∧ t.mem = s.mem) ∧
      (region (f.pa va) ≠ .reserved → ∀ x, checkLeaf (E k) r pkr = some x → ∃ t, s.walk v va r pkr true = (t, .error x) ∧ t.mem = s.mem) ∧
      (region (f.pa va) ≠ .reserved → checkLeaf (E k) r pkr = none → pte + 8 ≤ remoteBase →
        let e := E k ||| (if r.writes then 0x60 else 0x20)
        ∃ t, s.walk v va r pkr true = (t, .ok (f.pa va)) ∧ t.tlbHit v va = some { f with e } ∧ leDWord (t.bytes pte 8) = e ∧
          ∀ a, a < pte ∨ pte + 8 ≤ a → t.byte a = s.byte a))) ∧
  (∀ (e : DWord) (r : Right) (pkr : Option DWord),
    let lacks := r = .fetch ∧ pteX e = false ∨ r.reads = true ∧ pteR e = false ∨ r.writes = true ∧ pteW e = false
    (lacks → checkLeaf e r pkr = some { cause := .permission }) ∧
    (¬ lacks → (r = .fetch ∨ r = .frameWrite ∨ r = .frameRead ∨ pkr = none → checkLeaf e r pkr = none) ∧
      ∀ p, pkr = some p → r = .read ∨ r = .write ∨ r = .both →
        let bars := p.getLsbD (2 * pteKey e) = true ∨ r.writes = true ∧ p.getLsbD (2 * pteKey e + 1) = true
        (bars → checkLeaf e r pkr = some { cause := .key, sub := BitVec.ofNat 8 (pteKey e) }) ∧
        (¬ bars → checkLeaf e r pkr = none))) ∧
  (∀ (s : State) (v : Via) (va : DWord) (r : Right) (pkr : Option DWord), canonical va = true →
    (∀ f, s.extentHit v va = none → s.tlbHit v va = some f → region (f.pa va) ≠ .reserved → checkLeaf f.e r pkr = none →
      pteA f.e = true → (r.writes = true → pteD f.e = true) → s.translateRaw v va r pkr = (s.tlbFill v va f, .ok (f.pa va))) ∧
    ∀ t x, s.translateRaw v va r pkr = (t, .error x) → ∃ u, s.SameBytes u ∧ u.walk v va r pkr true = (t, .error x))

/-- R154, R157, R161, R162, R164, R169, R342: a scrub counts what it corrects and starts a reconstruction of what it cannot; a stack that
is lost is recorded and reported; a page that moves keeps its bytes. -/
def Obligations.ScrubLossAndMigration : Prop :=
  (∀ (s : State) (stack word : Nat), stack < 16 → word < 2 ^ 31 → s.isLost stack = false →
    s.dramPois.contains (eccKey stack (32 * word)) = false → s.dramUe.contains (eccKey stack (32 * word)) = false → stack < s.dev.stkh.length →
    exec (.patrolScrub stack word .good) s = .next s ∧
    (∃ u : State, exec (.patrolScrub stack word .corrected) s = .next u ∧ u.mem = s.mem ∧ u.dram = s.dram ∧
      (u.dev.stkh.getD stack {}).cecnt = min 255 ((s.dev.stkh.getD stack {}).cecnt + 1)) ∧
    ((∀ k, s.isLost k = false) → (∀ e ∈ s.jobs, e.2.stripe ≠ word / 8) →
      ∃ (u : State) (j : Nat) (J : StripeJob), exec (.patrolScrub stack word .uncorrectable) s = .next u ∧ u.mem = s.mem ∧ u.dram = s.dram ∧
        (u.dev.stkh.getD stack {}).uecnt = min 255 ((s.dev.stkh.getD stack {}).uecnt + 1) ∧
        AMap.get? u.jobs j = some J ∧ J.stripe = word / 8 ∧ J.want = stack)) ∧
  (∀ (s : State) (stack : Nat), stack < 16 → stack < s.dev.stkh.length →
    (s.isLost stack = true → exec (.stackLoss stack) s = .next s.passOver) ∧
    (s.isLost stack = false → s.packets = [] → s.jobs = [] → s.writes = [] → ∃ u : State, exec (.stackLoss stack) s = .next u ∧ u.mem = s.mem ∧ u.dram = s.dram ∧
      u.isLost stack = true ∧ (∀ k, k ≠ stack → u.isLost k = s.isLost k) ∧ u.dev.repl = true ∧
      u.dev.lost = (if s.dev.lost.length < 2 then s.dev.lost ++ [stack] else s.dev.lost) ∧
      ∃ e, u.dev.events = s.dev.events ++ [e] ∧ e.take 18 = evUuidBytes ++ [1, BitVec.ofNat 8 stack])) ∧
  (∀ (s : State) (ctx frame : Nat) (va : DWord) (tier : Bool) (f : Leaf), s.movable ctx va tier = some f → s.hostMode 1 = false → f.lvl = 0 →
    frameOk frame 65536 tier = true → s.moveWaits f frame 65536 = false →
    (∀ k, k < 8 → homeOf (f.pte + k) < frame ∨ frame + 65536 ≤ homeOf (f.pte + k)) →
    ∃ u : State, exec (.tierMigration ctx va tier frame) s = .next u ∧ (∀ k, k < 65536 → u.byte (frame + k) = s.byte (pteFrame f.e + k)) ∧
      (∀ pa, (pa < frame ∨ frame + 65536 ≤ pa) → (∀ k, k < 8 → pa ≠ homeOf (f.pte + k)) → u.byte pa = s.byte pa) ∧
      let e := leDWord ((List.range 8).map fun k => u.byte (homeOf (f.pte + k)))
      pteFrame e = frame ∧ pteTier e = tier ∧ pteV e = pteV f.e ∧ pteKey e = pteKey f.e)

/-! ### The mailbox, contexts, saving and debugging (R306 to R320, R324, R327 to R332, R346 to R350) -/

/-- R101, R291, R307, R324, R327, R328, R332, R346 to R349, R164, R169: what each command of the mailbox does when its arguments are good, and the
status of those that are not: 0 OK, 1 BADARG, 2 DENIED, 3 NORES. The model's own readings: DECLARE_LOST of a lost stack completes with OK
(log 12, DEDUCED); the record of DESTROY_CONTEXT has cause 0, a queue in STOPPED has code 0, and a context number has 16 bits (log 25,
DEDUCED). -/
def Obligations.MailboxCommands : Prop :=
  ∀ s : State, s.dev.mbbusy = true →
    let a := s.arg
    let ends := fun (st : Nat) (o : Host.Outcome State Fault Refusal) (P : State → Prop) =>
      ∃ t : State, o = .next t ∧ t.dev.mbbusy = false ∧ t.dev.mbstatus = st ∧ P t
    let same := fun t : State => t.mem = s.mem ∧ t.groups = s.groups ∧ t.contexts = s.contexts ∧ t.queues = s.queues
    (s.dev.mbcmd = 1 →
      ((a 0).toNat % 64 ≠ 0 ∨ inDevice (a 0).toNat 64 = false ∨ s.readContext (a 0).toNat = none → ends 1 (exec .createContext s) same) ∧
      (∀ c n, (a 0).toNat % 64 = 0 → inDevice (a 0).toNat 64 = true → s.readContext (a 0).toNat = some c → n < 65536 → AMap.get? s.contexts n = none →
        (∀ k < n, (AMap.get? s.contexts k).isSome = true) →
        ends 0 (exec .createContext s) fun t => AMap.get? t.contexts n = some c ∧ t.mem = s.mem ∧ (t.dev.mbarg.length = 6 → t.arg 0 = BitVec.ofNat 64 n))) ∧
    (s.dev.mbcmd = 2 → ∀ c, AMap.get? s.contexts (a 0).toNat = some c →
      (c.dead = false → exec .destroyContext s = .next (s.terminate (a 0).toNat { cause := .halt })) ∧
      (c.dead = true → (∀ e ∈ s.lsq, e.ctx ≠ (a 0).toNat) →
        ends 0 (exec .destroyContext s) fun t => AMap.get? t.contexts (a 0).toNat = none ∧ ∀ e ∈ t.queues, e.2.ctx ≠ (a 0).toNat)) ∧
    (s.dev.mbcmd = 3 → ∀ c u n, AMap.get? s.contexts (a 0).toNat = some c → (a 1).toNat % 64 = 0 → inDevice (a 1).toNat 64 = true →
      s.readQueueDesc (a 0).toNat (a 1).toNat = some u → n < 4096 → AMap.get? s.queues n = none → (∀ k < n, (AMap.get? s.queues k).isSome = true) →
      ends 0 (exec .createQueue s) fun t => AMap.get? t.queues n = some u ∧ u.rdidx = 0 ∧ u.wridx = 0 ∧ u.st = 0) ∧
    (s.dev.mbcmd = 4 → ∀ u, AMap.get? s.queues (a 0).toNat = some u →
      (u.dying = false → ∃ t : State, exec .destroyQueue s = .next t ∧ AMap.get? t.queues (a 0).toNat = some { u with st := 2, code := 0, dying := true }) ∧
      (u.dying = true → s.launchesOf (a 0).toNat = [] → ends 0 (exec .destroyQueue s) fun t => AMap.get? t.queues (a 0).toNat = none ∧ t.mem = s.mem)) ∧
    (s.dev.mbcmd = 5 → ∀ u, AMap.get? s.queues (a 0).toNat = some u →
      (u.st ≠ 0 → u.dying = false → (a 1).toNat < 2 → ends 0 (exec .resetQueue s) fun t =>
        AMap.get? t.queues (a 0).toNat = some { u with st := 0, code := 0, rdidx := u.rdidx + (a 1).toNat }) ∧
      (u.st = 0 ∨ u.dying = true ∨ 2 ≤ (a 1).toNat → ends 1 (exec .resetQueue s) same)) ∧
    (s.dev.mbcmd = 8 → s.hostMode 1 = true → ∀ c f frame, AMap.get? s.contexts (a 0).toNat = some c → (a 2).toNat < 2 →
      s.probeHeld (lpVia (a 0).toNat) (a 1) = false → s.movable (a 0).toNat (a 1) (a 2 == 1) = some f → let n := 2 ^ pageLog f.lvl
      (frameOk frame n (a 2 == 1) = true → s.moveWaits f frame n = false →
        ends 0 (exec (.migrate frame) s) fun t => t.mem = (s.movePage (a 0).toNat (a 1) f frame (a 2 == 1)).mem) ∧
      (frameOk frame n (a 2 == 1) = false → ends 3 (exec (.migrate frame) s) same)) ∧
    (s.dev.mbcmd = 9 → (s.hostMode 2 = false → ends 2 (exec .declareLost s) same) ∧
      (s.hostMode 2 = true → (a 0).toNat < 16 → s.isLost (a 0).toNat = true → ends 0 (exec .declareLost s) same) ∧
      (s.hostMode 2 = true → (a 0).toNat < 16 → (a 0).toNat < s.dev.stkh.length → s.isLost (a 0).toNat = false → s.packets = [] → s.jobs = [] →
        ends 0 (exec .declareLost s) fun t => t.isLost (a 0).toNat = true ∧ t.mem = s.mem)) ∧
    (s.dev.mbcmd = 0xB → s.dev.managed.length = 6 → 0x10 ≤ (a 0).toNat → (a 0).toNat ≤ 0x15 → (a 1).toNat ≤ 1 →
      ends 0 (exec .setMode s) fun t => same t ∧ ∀ i < 6, t.hostMode i = if i = (a 0).toNat - 0x10 then a 1 == 1 else s.hostMode i) ∧
    (s.dev.mbcmd = 0xC → ends 0 (exec .nonce s) fun t => same t ∧ t.dev.nonceLive = true ∧ t.dev.nonces = s.dev.nonces + 1 ∧
      (s.dev.mbarg.length = 6 → t.arg 0 = Config.nonce (s.dev.nonces + 1))) ∧
    (s.dev.mbcmd = 0xD → ∃ st, ends st (exec .token s) fun t => t.dev.nonceLive = false ∧ t.mem = s.mem ∧
      (s.dev.nonceLive = false → t.contexts = s.contexts ∧ t.dev.pendingFw = s.dev.pendingFw ∧ st ≠ 0)) ∧
    (s.dev.mbcmd = 0xD → ∀ n ty body, (a 0).toNat % 8 = 0 → inDevice (a 0).toNat 16 = true → inDevice (a 0).toNat n = true →
      leNat (s.bytes ((a 0).toNat + 8) 4) = n → n % 8 = 0 → 128 ≤ n → n ≤ 2 ^ 26 → s.poisonIn (a 0).toNat n = none →
      let b := s.bytes (a 0).toNat n
      tokenForm b = some (ty, body) → s.dev.nonceLive = true → leNat ((b.drop 0x10).take 8) = (Config.nonce s.dev.nonces).toNat →
      (b.drop 0x18).take 32 = sha256 identityKey →
      (ecdsaOk Config.vendorKey (b.take (n - 64)) (b.drop (n - 64)) = false → ends 2 (exec .token s) same) ∧
      (ecdsaOk Config.vendorKey (b.take (n - 64)) (b.drop (n - 64)) = true → ty = 1 →
        let rb := leNat (body.take 4)
        let img := (body.drop 8).take (leNat ((body.drop 4).take 4))
        ((rb < s.dev.fused ∨ imageOk img = false) → ends 2 (exec .token s) fun t => same t ∧ t.dev.pendingFw = s.dev.pendingFw) ∧
        (s.dev.fused ≤ rb → imageOk img = true → ends 0 (exec .token s) fun t => same t ∧ t.dev.pendingFw = some (rb, img)))) ∧
    (s.dev.mbcmd = 0xE → let r := s.report (a 0)
      ((a 1).toNat % 8 = 0 → r.length ≤ (a 2).toNat → inLocal (a 1).toNat r.length = true →
        s.waveHolds ((List.range r.length).map ((a 1).toNat + ·)) = false → ends 0 (exec .attest s) fun t => t.bytes (a 1).toNat r.length = r) ∧
      ((a 2).toNat < r.length → ends 1 (exec .attest s) same))

/-- R306 to R313, R319, R320, R321, R329, R328, R332: a unit that is asked to save leaves the machine once all it waits for has returned, its
record written at its place with STATE 1 first and 2 last, and none of its copies is ACTIVE once STATE is 1; PREEMPT asks the selected units and completes when none is saving; a resume
begins with STATE 3, places the unit again, gives back its slots and commands and then its groups; an idle context is evicted. The model's
own choices (log 27, DESIGN CHOICE and DEDUCED): a save takes two events, the layout that the format does not hold is kept under the
record's reference, and a record that is not intact ends its context with BAD_HANDLE. -/
def Obligations.SavingAndResuming : Prop :=
  (∀ (s : State) (k pa : Nat) (u : CUnit), AMap.get? s.units k = some u →
    (u.save = none → s.hostMode 4 = false → s.savable u = true → savePaOk pa (unitSize u (s.teamsOf u)) = true →
      ∃ t : State, exec (.save k pa) s = .next t ∧ t.mem = s.mem ∧ t.groups = s.groups ∧ AMap.get? t.units k = some { u with save := some pa }) ∧
    (∀ pb, u.save = some pa → s.saveReady u = true → (∀ e ∈ s.groups, e.2.wave = none) →
      (u.writing = false → ∃ t : State, exec (.save k pb) s = .next t ∧ AMap.get? t.units k = some { u with writing := true } ∧
        leNat ((List.range 4).map fun i => t.byte (homeOf (pa + 4 + i))) = 1 ∧
        (∀ e ∈ s.teamsOf u, ∀ j c, AMap.get? (t.core e.2.core).journal j = some c → c.team = e.1 → c.st ≠ .active) ∧
        ((∀ g G, s.group? g = some G → (G.duesOf 0xFFFFFFFF).length + G.recs.length + (s.recsOut.filter fun e => e.1 == g).length ≤ 8) →
          ∀ a, (∀ i, i < 4 → a ≠ homeOf (pa + 4 + i)) → t.byte a = s.byte a)) ∧
      (u.writing = true → ∃ (t : State) (U : SavedUnit), exec (.save k pb) s = .next t ∧
        AMap.get? t.units k = none ∧ AMap.get? t.saved k = some U ∧ (∀ e ∈ t.teams, e.2.unit = k → ∀ x ∈ U.teams, x.1 ≠ e.1) ∧
        (∀ e ∈ U.teams, ∀ g ∈ e.2.groups, t.group? g = none) ∧
        (pa + (U.bytes k 2).length ≤ remoteBase → t.bytes pa (U.bytes k 2).length = U.bytes k 2))) ∧
    (∀ pb, u.save = some pa → s.saveReady u = false → exec (.save k pb) s = .next s.passOver)) ∧
  (∀ (s : State) (us : List Nat), s.dev.mbbusy = true → s.dev.mbcmd = 6 → s.dev.selected = some us →
    ((∀ k ∈ us, s.asked k = false) → ∃ t : State, exec .preempt s = .next t ∧ t.mem = s.mem ∧ t.groups = s.groups ∧
      t.dev.mbbusy = false ∧ t.dev.mbstatus = 0 ∧ t.dev.selected = none ∧
      (s.dev.mbarg.length = 6 → t.arg 0 = BitVec.ofNat 64 (us.filter fun k => ((AMap.get? s.saved k).map fun U => U.resume.isNone).getD false).length)) ∧
    (∀ k ∈ us, s.asked k = true → exec .preempt s = .next s.passOver)) ∧
  (∀ (s : State), s.dev.mbbusy = true → s.dev.mbcmd = 6 → s.dev.selected = none →
    (s.hostMode 4 = false → ∃ t : State, exec .preempt s = .next t ∧ t.dev.mbbusy = false ∧ t.dev.mbstatus = 2 ∧ t.units = s.units) ∧
    (∀ us as, s.hostMode 4 = true → AMap.get? s.contexts (s.arg 0).toNat ≠ none → (s.arg 2).toNat % 16 = 0 → 1 ≤ (s.arg 3).toNat →
      (s.arg 3).toNat ≤ 1024 → inLocal (s.arg 2).toNat (16 * (s.arg 3).toNat) = true → s.selectUnits (s.arg 0).toNat (s.arg 1) = some us →
      (s.assign us (s.arg 2).toNat (s.arg 3).toNat = none →
        ∃ t : State, exec .preempt s = .next t ∧ t.dev.mbbusy = false ∧ t.dev.mbstatus = 3 ∧ t.units = s.units) ∧
      (s.assign us (s.arg 2).toNat (s.arg 3).toNat = some as →
        ∃ t : State, exec .preempt s = .next t ∧ t.mem = s.mem ∧ t.groups = s.groups ∧ t.dev.mbbusy = true ∧ t.dev.selected = some (as.map (·.1))))) ∧
  (∀ (s : State) (cores : List Nat) (pa : Nat), s.dev.mbbusy = false ∨ s.dev.mbcmd ≠ 7 → s.hostMode 4 = false →
    (∀ e ∈ s.saved, ∀ bs, e.2.resume ≠ some (pa, bs)) →
    (savePaOk pa 0x1000 = false ∨ leNat (s.bytes (pa + 4) 4) ≠ 2 → exec (.resume cores pa) s = .next s) ∧
    (savePaOk pa 0x1000 = true → leNat (s.bytes (pa + 4) 4) = 2 →
      let n := leNat (s.bytes (pa + 8) 8)
      let k := leNat (s.bytes (pa + 0x28) 8)
      let s' := s.devWrite (span (pa + 4) (leBytes 4 3))
      (∀ U, AMap.get? s'.saved k = some U → U.resume = none → n = unitSize U.unit U.teams → inDevice pa n = true → s'.poisonIn pa n = none →
        U.intact k (s'.bytes pa n) = true →
        exec (.resume cores pa) s = .next { s' with saved := AMap.upd s'.saved k fun U => { U with resume := some (pa, s'.bytes pa n) } }) ∧
      (∀ U, AMap.get? s'.saved k = some U → U.intact k (s'.bytes pa n) = false → s'.alive U.unit.ctx = true →
        exec (.resume cores pa) s = .next (s'.terminate U.unit.ctx { cause := .badHandle })))) ∧
  (∀ (s : State) (cores : List Nat) (pa k : Nat) (U : SavedUnit) (bs : List Byte),
    (s.saved.find? fun e => e.2.resume.map (·.1) == some pa && s.dev.resuming != some e.1) = some (k, U) → U.resume = some (pa, bs) →
    (∀ t b, s.resumeStep k U cores pa bs = some (t, b) → exec (.resume cores pa) s = .next t) ∧
    (AMap.get? s.units k = none →
      (s.fitsBack U cores = false → exec (.resume cores pa) s = .next s.passOver) ∧
      (s.fitsBack U cores = true → ∃ (t : State) (v : CUnit), exec (.resume cores pa) s = .next t ∧ AMap.get? t.units k = some v ∧
        v.resume = some pa ∧ v.kind = U.unit.kind ∧ v.teams = U.unit.teams ∧
        ∀ e ∈ U.teams, (U.teams.map (·.1)).Nodup → ∃ T, t.team? e.1 = some T ∧ T.resuming = !e.2.retired ∧ T.idx = e.2.idx)) ∧
    (∀ v, AMap.get? s.units k = some v → AMap.get? s.saved k = some U →
      (∀ e ∈ U.teams, e.2.slot ≠ none → ∃ T i, s.team? e.1 = some T ∧ T.slot = some i) →
      (∀ c cs u, U.copies = c :: cs → s.copyBack c = some u →
        exec (.resume cores pa) s = .next { u with saved := AMap.upd u.saved k fun U => { U with copies := cs } }) ∧
      (∀ c cs, U.copies = c :: cs → s.copyBack c = none → exec (.resume cores pa) s = .next s.passOver) ∧
      (U.teams = [] → U.copies = [] → U.gates = [] → (∀ e ∈ s.groups, e.2.wave = none) →
        ∃ t : State, exec (.resume cores pa) s = .next t ∧ AMap.get? t.saved k = none ∧ AMap.get? t.units k = some { v with resume := none } ∧
          leNat ((List.range 4).map fun i => t.byte (homeOf (pa + 4 + i))) = 4))) ∧
  (∀ (s : State) (cores : List Nat) (pa : Nat), s.dev.mbbusy = true → s.dev.mbcmd = 7 →
    (∀ e ∈ s.saved, ∀ bs, e.2.resume = some (pa, bs) → s.dev.resuming = some e.1) →
    (s.dev.resuming = none → s.hostMode 4 = false → ∃ t : State, exec (.resume cores pa) s = .next t ∧ t.dev.mbbusy = false ∧ t.dev.mbstatus = 2) ∧
    (∀ s' k, s.dev.resuming = none → s.hostMode 4 = true → s.beginResume (s.arg 0).toNat = (s', .inl k) →
      exec (.resume cores pa) s = .next (s'.setDev fun v => { v with resuming := some k })) ∧
    (∀ s' st, s.dev.resuming = none → s.hostMode 4 = true → s.beginResume (s.arg 0).toNat = (s', .inr st) → exec (.resume cores pa) s = .next (s'.mbDone st none)) ∧
    (∀ k U pb bs t, s.dev.resuming = some k → AMap.get? s.saved k = some U → U.resume = some (pb, bs) → s.resumeStep k U cores pb bs = some (t, true) →
      exec (.resume cores pa) s = .next ((t.setDev fun v => { v with resuming := none }).mbDone 0 none))) ∧
  (∀ (s : State) (ctx : Nat) (c : Context), AMap.get? s.contexts ctx = some c →
    (c.evicted = false → s.idle ctx = true → ∃ t : State, exec (.contextEvict ctx) s = .next t ∧ AMap.get? t.contexts ctx = some { c with tensors := [], classes := [], evicted := true } ∧
      (∀ e ∈ t.tlb, e.ctx ≠ ctx) ∧ ∀ k d, k < 256 → AMap.get? c.tensors k = some d →
        (∀ e ∈ s.groups, e.2.wave = none) → c.savearea + 32768 ≤ remoteBase → t.bytes (c.savearea + 64 * k) 64 = fixLen 64 d.record) ∧
    (c.evicted = true ∨ s.idle ctx = false → exec (.contextEvict ctx) s = .next s.passOver))

/-- R350: the debug commands act on a group of a context that a token allows: HALT stops it and records the halt, RUN lets it go on, STEP
lets its ready lanes issue once, SNAP writes its state, NEXTEVT takes the first halt; elsewhere they complete with DENIED or
BADARG. The model's own readings (log 26, DEDUCED): STEP of a running group completes with BADARG, NEXTEVT checks its target as the other
commands do, and SNAP waits until the group has no outstanding result. -/
def Obligations.DebugCommands : Prop :=
  ∀ s : State, s.dev.dbgbusy = true →
    let ok := fun (st : Nat) (t : State) => t.dev.dbgbusy = false ∧ t.dev.dbgstatus = st
    (∀ e, s.dbgTarget = .error e →
      (s.dev.dbgcmd = 1 → exec .halt s = .next (s.dbgDone e)) ∧ (s.dev.dbgcmd = 2 → exec .run s = .next (s.dbgDone e)) ∧
      (s.dev.dbgcmd = 3 → exec .step s = .next (s.dbgDone e)) ∧ (s.dev.dbgcmd = 4 → exec .snap s = .next (s.dbgDone e)) ∧
      (s.dev.dbgcmd = 5 → exec .nextevt s = .next (s.dbgDone e))) ∧
    ((∀ c, AMap.get? s.contexts s.dev.dbgctx = some c → c.debug = false) → s.dbgTarget = .error 2) ∧
    (∀ g G, s.dbgTarget = .ok (g, G) → s.group? g = some G ∧ G.ctx = s.dev.dbgctx ∧
      (s.dev.dbgcmd = 1 → ∃ t : State, exec .halt s = .next t ∧ ok 0 t ∧ t.mem = s.mem ∧ (∃ G', t.group? g = some G' ∧ G'.halted = true ∧ G'.lanes = G.lanes) ∧
        (G.halted = true → t.dev.halts = s.dev.halts) ∧ (G.halted = false → ∃ r : Rec, t.dev.halts = s.dev.halts ++
          [{ ctx := G.ctx, g, team := G.team, gi := G.idx, r }] ∧ r.cause = .halt)) ∧
      (s.dev.dbgcmd = 2 → ∃ t : State, exec .run s = .next t ∧ ok 0 t ∧ t.mem = s.mem ∧ t.group? g = some { G with halted := false, stepping := 0, haltRec := none }) ∧
      (s.dev.dbgcmd = 3 → G.halted = true → ∃ (t : State) (m : Word), exec .step s = .next t ∧ ok 0 t ∧ t.mem = s.mem ∧ t.group? g = some { G with stepping := m } ∧
        ∀ l, l < 32 → inMask m l = s.laneReady g { G with halted := false } (s.now g) l) ∧
      (s.dev.dbgcmd = 3 → G.halted = false → exec .step s = .next (s.dbgDone 1)) ∧
      (s.dev.dbgcmd = 4 → G.halted = true → s.dev.dbgbuf.toNat % 4096 = 0 → inDevice s.dev.dbgbuf.toNat 65536 = true → G.outstanding = false →
        ∃ t : State, exec .snap s = .next t ∧ ok 0 t ∧ (G.bytes.length ≤ 0xE000 → (∀ e ∈ s.groups, e.2.wave = none) → t.bytes s.dev.dbgbuf.toNat G.bytes.length = G.bytes)) ∧
      (s.dev.dbgcmd = 5 → ∃ t : State, exec .nextevt s = .next t ∧ ok 0 t ∧ t.mem = s.mem ∧ t.groups = s.groups ∧ t.dev.halts = s.dev.halts.tail))

/-! ### Registers, CXL, links and power (R166, R180, R322 to R328, R335 to R346) -/

/-- R322, R323, R325, R327, R339: a register write reaches the register it names, word by word; the host's and the fabric's
accesses to device memory are performed at its home, wake the package, and leave every other byte alone; the host's copies of a
line that the device writes go first. That the host keeps a copy of every line it reads is the model's choice (log 13, DESIGN CHOICE). -/
def Obligations.ExternalAccesses : Prop :=
  (∀ (s : State) (src : RegWriter) (pa size : Nat) (v : DWord), src ≠ .thread → (size = 4 ∨ size = 8) → pa % size = 0 →
    (region pa = .regs → exec (.registerWrite src pa size v) s = .next (s.regStore src pa ((words64 v).take (size / 4)))) ∧
    (0xE00006000000 ≤ pa → pa < 0xE00008000000 → exec (.registerWrite .host pa size v) s = .next s)) ∧
  (∀ (s : State) (src : RegWriter) (off : Nat) (w : Word), s.dev.mbarg.length = 6 → s.dev.apertures.length = 32 →
    let base := 0xE00004000000
    (off < 0x30 → off % 4 = 0 → (s.setReg src (base + 0x1000 + off) w).regWord false (base + 0x1000 + off) = w) ∧
    (s.dev.mbbusy = true → (s.setReg src (base + 0x1038) w) = s) ∧
    (s.dev.mbbusy = false → s.dev.recovery = false → 1 ≤ bitsAt w 0 8 → bitsAt w 0 8 ≤ 0xE →
      let t := s.setReg src (base + 0x1038) w
      t.dev.mbbusy = true ∧ t.dev.mbcmd = bitsAt w 0 8 ∧ t.dev.mbstatus = s.dev.mbstatus ∧ t.mem = s.mem) ∧
    (s.dev.recovery = false → off < 0x100 → off % 4 = 0 → (s.setReg src (base + 0x2000 + off) w).regWord false (base + 0x2000 + off) =
      w &&& (if off % 8 = 0 then 0x000000FF else 0x83FF0000)) ∧
    (s.dev.recovery = false → src ≠ .thread → (s.setReg src (base + 0x4000) w).regWord false (base + 0x4000) = (w &&& 0xFFFF)) ∧
    (s.dev.recovery = false → s.setReg .thread (base + 0x4000 + off % 0x30) w = s) ∧
    (s.setReg src (base + 0x10000 + off % 0x6000) w = s)) ∧
  (∀ (s : State) (pa : Nat) (bs : List Byte), bs ≠ [] → s.waveHolds ((List.range bs.length).map (pa + ·)) = false →
    inDevice pa bs.length = true →
    let wrote := fun t : State => t.dev.power = 0 ∧ t.bytes pa bs.length = bs ∧ ∀ a, a < pa ∨ pa + bs.length ≤ a → t.byte a = s.byte a
    (s.dev.recovery = false → ∃ t : State, exec (.cxlMemWrite pa bs) s = .next t ∧ wrote t ∧ t.groups.length = s.groups.length ∧
      (∀ l ∈ t.dev.hostLines, ∀ k, k < bs.length → (pa + k) / 64 ≠ l)) ∧
    (s.dev.recovery = false → ∃ t : State, exec (.fabricWriteArrival pa bs none) s = .next t ∧ wrote t)) ∧
  (∀ (s : State) (pa n : Nat), 0 < n → inDevice pa n = true → s.dev.recovery = false → s.holds ((List.range n).map (pa + ·)) = false →
    ∃ t : State, exec (.cxlMemRead pa n) s = .next t ∧ t.mem = s.mem ∧ t.groups = s.groups ∧ t.dev.power = 0 ∧
      ∀ k, k < n → (pa + k) / 64 ∈ t.dev.hostLines) ∧
  (∀ (s : State) (pa : Nat) (v : DWord), pa % 8 = 0 → inDevice pa 8 = true → s.quayMode (pa / 64) = false → s.waveHolds [pa] = false →
    s.poisonIn pa 8 = none → s.dev.recovery = false →
    ∃ t : State, exec (.fabricWriteArrival 0 [] (some (pa, v))) s = .next t ∧ leDWord (t.bytes pa 8) = leDWord (s.bytes pa 8) + v ∧
      ∀ a, a < pa ∨ pa + 8 ≤ a → t.byte a = s.byte a) ∧
  (∀ (s : State) (line : Nat), (line ∈ s.dev.hostLines → ∃ t : State, exec (.backInvalidate line) s = .next t ∧ t.mem = s.mem ∧
      t.groups = s.groups ∧ line ∉ t.dev.hostLines) ∧
    (line ∉ s.dev.hostLines → exec (.backInvalidate line) s = .next s.passOver))

/-- R336 to R339: a port accepts DATA flits in order and acknowledges them, and answers one that it loses, or that is out of order, as
the link says; an ACK frees the flits it covers and lets new ones go; a NAK sends every buffered flit again; a lane that fails is
replaced by the spare, then by the four best lanes, none of them failed before. The model's own readings (log 28, DEDUCED and DESIGN
CHOICE): an IDLE answers each accepted DATA flit, a replay of the buffer is one event, a port that retrains answers nothing, and the lanes
of the other end's repair are arguments of RETRAIN_FLIT. -/
def Obligations.DyellPorts : Prop :=
  (∀ (s : State) (k : Nat) (p : DPort) (f : List Byte) (v : FlitView), k < 12 → s.dev.ports.length = 12 → s.dev.ports.getD k {} = p →
    viewFlit f = some v → s.dev.recovery = false →
    let port := fun t : State => t.dev.ports.getD k {}
    let rest := fun t : State => t.mem = s.mem ∧ t.groups = s.groups ∧ ∀ j, j ≠ k → t.dev.ports.getD j {} = s.dev.ports.getD j {}
    (v.kind = 0 → v.ack = none → p.retrain = none → v.seq = (p.rxSeq + 1) % 4096 → p.txq = [] →
      ∃ t : State, exec (.dataFlit k f) s = .next t ∧ rest t ∧
        port t = { p with rxSeq := v.seq, rx := p.rx ++ [v.payload], sent := p.sent ++ [mkFlit 1 (some v.seq) 0 []] }) ∧
    (v.kind = 0 → v.ack = none → v.seq ≠ (p.rxSeq + 1) % 4096 → p.txq = [] → ∃ t : State, exec (.dataFlit k f) s = .next t ∧ rest t ∧ port t = p) ∧
    (∀ i a, v.kind = 1 → v.ack = some a → p.replay.findIdx? (fun e => e.1 == a) = some i → p.txq = [] → p.resync = false →
      ∃ t : State, exec (.idleFlit k f) s = .next t ∧ rest t ∧ port t = { p with replay := p.replay.drop (i + 1) }) ∧
    (v.kind = 2 → v.ack = none → p.txq = [] → p.retrain = none → p.resync = false → ∃ t : State, exec (.nakFlit k f) s = .next t ∧ rest t ∧
      port t = { p with sent := p.sent ++ p.replay.map fun e => mkFlit 0 (some p.rxSeq) e.1 e.2 }) ∧
    (v.kind ≠ 1 → exec (.idleFlit k f) s = .next s.passOver) ∧ (v.kind ≠ 2 → exec (.nakFlit k f) s = .next s.passOver)) ∧
  (∀ (s : State) (k : Nat) (f : List Byte), k < 12 → s.dev.ports.length = 12 → f.length = 256 → viewFlit f = none → s.dev.recovery = false →
    let p := s.dev.ports.getD k {}
    ∃ t : State, exec (.dataFlit k f) s = .next t ∧ t.mem = s.mem ∧ t.dev.ports.getD k {} =
      if p.retrain.isSome then p else { p with sent := p.sent ++ [mkFlit 2 (some p.rxSeq) 0 []] }) ∧
  (∀ (kind seq : Nat) (a : Option Nat) (w : List Byte), kind < 4 → seq < 4096 → (∀ x, a = some x → x < 4096) → w.length = 244 →
    viewFlit (mkFlit kind a seq w) = some { kind, ack := a, seq, payload := w } ∧ (mkFlit kind a seq w).length = 256) ∧
  (∀ (p : DPort) (lane : Nat) (best : List Nat), p.spareUsed = true → p.repairable lane best = true →
    best.length = 4 ∧ best.Nodup ∧ ∀ l ∈ best, l < 9 ∧ l ≠ lane ∧ l ≠ p.lanemap.getD 8 9) ∧
  (∀ (s : State) (k lane : Nat) (best : List Nat) (p : DPort), k < 12 → s.dev.ports.length = 12 → s.dev.ports.getD k {} = p →
    (p.repairable lane best = true → s.hostMode 3 = false → ∃ t : State, exec (.laneRepair k lane best) s = .next t ∧ t.mem = s.mem ∧
      t.dev.ports.getD k {} = { p with sent := p.sent ++ [mkFlit 3 (some p.rxSeq) 0 []], retrain := some (lane, best), resync := true }) ∧
    (p.repairable lane best = true → s.hostMode 3 = true →
      ∃ t : State, exec (.laneRepair k lane best) s = .next t ∧ t.dev.ports = s.dev.ports ∧ t.dev.msix.length = s.dev.msix.length + 1) ∧
    (∀ lane' best', s.dev.recovery = false → (p.retrain = some (lane, best) ∨ p.retrain = none ∧ p.repairable lane best = true ∧ lane' = lane ∧ best' = best) →
      (∀ i, p.spareUsed = false → p.logical lane = some i →
        ∃ t : State, exec (.retrainFlit ⟨k, lane', best'⟩) s = .next t ∧ t.mem = s.mem ∧ let q := t.dev.ports.getD k {}
          q.retrain = none ∧ q.spareUsed = true ∧ q.lanemap = (p.lanemap.set i (p.lanemap.getD 8 8)).set 8 lane ∧ q.rxSeq = p.rxSeq ∧
          ∃ e, t.dev.events = s.dev.events ++ [e] ∧ (e.drop 16).take 3 = [2, BitVec.ofNat 8 k, BitVec.ofNat 8 i]) ∧
      (p.spareUsed = true → ∃ t : State, exec (.retrainFlit ⟨k, lane', best'⟩) s = .next t ∧ t.mem = s.mem ∧ let q := t.dev.ports.getD k {}
        q.retrain = none ∧ q.narrowed = true ∧ q.lanemap = best ++ p.lanemap.drop 4 ∧
        ∃ e, t.dev.events = s.dev.events ++ [e] ∧ (e.drop 16).take 2 = [3, BitVec.ofNat 8 k])) ∧
    (s.dev.mbbusy = true → s.dev.mbcmd = 0xA → (s.arg 0).toNat = k → (s.arg 1).toNat = lane → s.dev.repairing = false →
      (s.hostMode 3 = true → p.repairable lane best = true → ∃ t : State, exec (.repairLane best) s = .next t ∧ t.mem = s.mem ∧
        t.dev.repairing = true ∧ (t.dev.ports.getD k {}).retrain = some (lane, best) ∧ t.dev.mbbusy = true) ∧
      (s.hostMode 3 = false → ∃ t : State, exec (.repairLane best) s = .next t ∧ t.dev.ports = s.dev.ports ∧ t.dev.mbbusy = false ∧ t.dev.mbstatus = 2)) ∧
    (s.dev.mbbusy = true → s.dev.mbcmd = 0xA → (s.arg 0).toNat = k → s.dev.repairing = true → p.retrain = none →
      ∃ t : State, exec (.repairLane best) s = .next t ∧ t.dev.repairing = false ∧ t.dev.mbbusy = false ∧ t.dev.mbstatus = 0))

/-- R166, R335, R343 to R346: the power states deepen only as far as the policy aims and the idle package allows, and follow FORCE and LTOL
down; anything that wakes the package ends them; a reset puts the package in its reset state, but for the records that survive it and
the memory of the host and of other packages; the pending update is in place from then on, and a boot ROM that refuses the image leaves
the package in recovery mode. The model's own readings: the links are quiet as the free value Config.linksQuiet says, the deepest state is
entered at once, and a quay's wave is no resident group (log 29, DESIGN CHOICE and DEDUCED); which records survive a reset (log 30,
DEDUCED). -/
def Obligations.PowerAndReset : Prop :=
  (∀ s : State, let next := s.powerNext (Config.linksQuiet s.seq)
    (∀ p, next = some p → ∃ t : State, exec .powerStateEntry s = .next t ∧ t.mem = s.mem ∧ t.groups = s.groups ∧ t.dev.power = p) ∧
    (next = none → exec .powerStateEntry s = .next s.passOver)) ∧
  (∀ (s : State) (quiet : Bool), let d := s.idleDepth quiet
    (s.hostMode 5 = true → s.dev.force ≤ 4 → s.powerLimit = s.dev.force) ∧
    (s.hostMode 5 = false → let l := s.dev.ltol
      (l < 2 → s.powerLimit = 0) ∧ (2 ≤ l → l < 20 → s.powerLimit = 1) ∧ (20 ≤ l → l < 200 → s.powerLimit = 2) ∧
      (200 ≤ l → l < 5000 → s.powerLimit = 3) ∧ (5000 ≤ l → s.powerLimit = 4)) ∧
    ((∃ e ∈ s.groups, e.2.wave = none) → d = 0) ∧ d ≤ 4 ∧ (d = 4 → quiet = true) ∧
    (d ≠ 0 → d ≠ 1 → s.enginesIdle = true) ∧ (3 ≤ d → s.packets = [] ∧ s.lsq = []) ∧
    (s.powerLimit < s.dev.power → s.powerNext quiet = some s.powerLimit) ∧
    (s.dev.power ≤ s.powerLimit → s.hostMode 5 = false →
      s.powerNext quiet = if s.dev.power < min s.powerLimit d then some (min s.powerLimit d) else none) ∧
    (s.dev.power ≤ s.powerLimit → s.hostMode 5 = true →
      s.powerNext quiet = if s.dev.power < s.powerLimit ∧ s.powerLimit ≤ d then some s.powerLimit else none)) ∧
  (∀ (s : State) (w : WakeCause), ∃ t : State, exec (.wakeEvent w) s = .next t ∧ t.dev.power = 0 ∧ t.mem = s.mem ∧ t.groups = s.groups ∧
    t.dev.ports = s.dev.ports) ∧
  (∀ (s : State) (k : Nat), ∃ t : State, exec (.powerThrottle k) s = .next t ∧ t.dev.throttle = k ∧ t.dev.power = s.dev.power ∧
    t.mem = s.mem ∧ t.groups = s.groups ∧ t.teams = s.teams) ∧
  ∀ s : State, ∃ t : State, exec .packageReset s = .next t ∧ t.groups = [] ∧ t.contexts = [] ∧ t.queues = [] ∧ t.l1 = [] ∧ t.tlb = [] ∧
    (∀ k, t.isLost k = s.isLost k) ∧ t.dev.lost = s.dev.lost ∧ t.dev.mbbusy = false ∧ t.dev.nonceLive = false ∧ t.dev.pendingFw = none ∧
    t.dev.fw = s.dev.pendingFw.or s.dev.fw ∧ t.dev.rollback = (s.dev.pendingFw.map (·.1)).getD s.dev.rollback ∧
    t.dev.recovery = !(imageOk t.dev.image.2 && decide (t.dev.fused ≤ t.dev.image.1)) ∧
    (s.dev.pendingFw = none → t.dev.events = s.dev.events) ∧
    (s.dev.pendingFw ≠ none → ∃ e, t.dev.events = s.dev.events ++ [e] ∧ (e.drop 16).take 1 = [4]) ∧
    ∀ a, region a = .host ∨ region a = .fabric → t.byte a = s.byte a

/-! ### The scheduler, the arrays and the packets go on (R114 to R122, R155 to R161, R237, R238, R248, R253, R259) -/

/-- R115 to R117, R119, R120, R155, R156, R159 to R161, R237, R238, R248, R253, R259: an event of the scheduler, of an array or of the memory
below the slices that may happen does, and leaves the coherent memory and, but for the scheduler's, the groups as they are: an active group
that waits is swapped for the pending group that comes first; an aged group displaces; a core with a group takes its cycle; a spent fallback
point moves on; an idle array runs its arbiter; a closed operation whose turn and count have come enters its queue; an operation with its
rows in a tile goes on; a failed fetch ends or suspends it; a store that has landed ends; a request with a free tag goes out; and a packet
that has arrived is taken. -/
def Obligations.EventsTakePlace : Prop :=
  (∀ (s : State) (core out : Nat) (G : Group) (e : Nat × Group), core < 384 → s.group? out = some G → G.active = true → coreOf out = core →
    s.waiting out G = true → s.swapFree core = true → s.nextPending core = some e → e.1 ≠ out → (s.group? e.1).isSome = true →
    ∃ (t : State) (G' H : Group), exec (.groupSwap core out e.1) s = .next t ∧ t.mem = s.mem ∧ t.group? out = some G' ∧ t.group? e.1 = some H ∧
      G'.active = false ∧ G'.age = G.age ∧ G'.lanes = G.lanes ∧ H.active = true ∧ H.age = 0 ∧ H.issueFrom = s.now e.1 + 2 ∧
      ∀ g, g ≠ out → g ≠ e.1 → t.group? g = s.group? g) ∧
  (∀ (s : State) (core : Nat) (a o : Nat × Group), s.agedPending core = some a → s.oldestActive core = some o → s.swapFree core = true → a.1 ≠ o.1 →
    (s.group? a.1).isSome = true → (s.group? o.1).isSome = true →
    ∃ (t : State) (G H : Group), exec (.agedDisplacement core) s = .next t ∧ t.mem = s.mem ∧ t.group? o.1 = some G ∧ t.group? a.1 = some H ∧
      G.active = false ∧ G.age = 0 ∧ H.active = true ∧ H.age = 0 ∧ ∀ g, g ≠ a.1 → g ≠ o.1 → t.group? g = s.group? g) ∧
  (∀ (s : State) (core : Nat) (fresh : BitVec 3), core < 1920 → s.dev.power = 0 ∨ s.residents core ≠ [] →
    ∃ t : State, exec (.bundleSelect core fresh) s = .next t ∧ t.mem = s.mem ∧ (t.core core).cycles = (s.core core).cycles + 1 ∧
      ∀ c, c ≠ core → t.core c = s.core c) ∧
  (∀ (s : State) (g : Nat) (G : Group) (pc : DWord) (n : Nat), s.group? g = some G → G.fallback = some (pc, n) → 256 ≤ n →
    ∃ (t : State) (G' : Group), exec (.fallbackAdvance g) s = .next t ∧ t.mem = s.mem ∧ t.group? g = some G' ∧
      G' = { G with fallback := G'.fallback } ∧ ∀ k, k ≠ g → t.group? k = s.group? k) ∧
  (∀ (s : State) (a : Nat), a < 96 → (s.array a).active = none →
    ∃ t : State, exec (.arrayBoundary a) s = .next t ∧ t.mem = s.mem ∧ t.groups = s.groups ∧ ∀ b, b ≠ a → t.array b = s.array b) ∧
  (∀ (s : State) (a slot i k : Nat) (o : MmaOp), ((s.array a).slots.getD slot {}).closed[i]? = some o → s.opShare o = some k →
    (∀ p ∈ o.parts, s.beingSaved p.team = false) → s.closedBefore k o.conv o.order = false → (s.share k).counts.getD (4 + o.conv) 0 ≠ 0 →
    ∃ t : State, exec (.mmaEnterQueue a slot i) s = .next t ∧ t.mem = s.mem ∧ t.groups = s.groups ∧ ∀ b, b ≠ a → t.array b = s.array b) ∧
  (∀ (s : State) (a i : Nat) (o : MmaOp), (s.array a).active = some (i, o) → (∀ p, o.cur = some p → ∃ h, p.img.a = .tile h) →
    ∃ t : State, exec (.mmaComplete a) s = .next t ∧ t.mem = s.mem ∧ t.groups = s.groups ∧ ∀ b, b ≠ a → t.array b = s.array b) ∧
  (∀ (s : State) (a i c : Nat) (o : MmaOp) (p : MmaPart) (b : Bar'), (s.array a).active = some (i, o) → o.cur = some p → s.nextChunk o p o.chunk = some c →
    (∀ h, p.img.a ≠ .tile h) → p.img.M ≠ 0 → b ≠ .hold →
    (s.bump.fetchA a o.order p (p.addr + BitVec.ofNat 64 (c * chunkBytes p.img.op)) (chunkBytes p.img.op)).2 = .error b →
    ∃ t : State, exec (.mmaFetchFault a) s = .next t ∧ ∀ b, b ≠ a → t.array b = s.array b) ∧
  (∀ (s : State) (i : Nat) (e : BStore), AMap.get? s.bstores i = some e → e.waiting = false → e.out = [] →
    ∃ t : State, exec (.bwrComplete i) s = .next t ∧ t.mem = s.mem ∧ t.groups = s.groups ∧ AMap.get? t.bstores i = none) ∧
  (∀ (s : State) (port tag pa beats : Nat) (src : ReqSource) (errs : List EccState) (late : Bool), requestOk port tag pa beats = true →
    (s.serviceOf src).isSome = true → s.tagBusy port tag = false →
    (∃ t : State, exec (.rd port tag pa beats src ⟨errs, late⟩) s = .next t ∧ t.mem = s.mem ∧ t.groups = s.groups ∧ t.lsq = s.lsq) ∧
    ∀ masks : List Word, masks = (List.range beats).map (fun w => (s.beatOf ((pa + 32 * w) / 64) ((pa + 32 * w) / 32 % 2)).mask) →
      (∀ w, w < beats → ∀ h, h < 2 → (∃ v, v < beats ∧ (pa + 32 * v) / 64 = (pa + 32 * w) / 64 ∧ (pa + 32 * v) / 32 % 2 = h) ∨
        (s.beatOf ((pa + 32 * w) / 64) h).mask = 0) →
      ∃ t : State, exec (.wr port tag pa beats masks src ⟨errs, late⟩) s = .next t ∧ t.mem = s.mem ∧ t.groups = s.groups ∧ t.lsq = s.lsq) ∧
  (∀ (s : State) (i : Nat) (p : Packet) (errs : List EccState), AMap.get? s.packets i = some p →
    let goes := fun (j : Instr) => ∃ t : State, exec j s = .next t ∧ t.mem = s.mem ∧ t.groups = s.groups ∧ t.lsq = s.lsq
    let key := pendKey (p.off / 256) p.target
    (p.ty = .rdr → goes (.rdr i)) ∧ (p.ty = .wack → goes (.wack i)) ∧ (p.ty = .delta → goes (.delta ⟨i, errs⟩)) ∧ (p.ty = .dack → goes (.dack i)) ∧
    (p.ty = .lock → AMap.get? s.locks key = none ∨ AMap.get? s.locks key = some p.job ∧ AMap.getD s.pendPar key 0 = 0 → goes (.lock i)) ∧
    (p.ty = .locked → goes (.locked i)) ∧ (p.ty = .chunkrd → goes (.chunkrd ⟨i, errs⟩)) ∧ (p.ty = .chunk → goes (.chunk i)) ∧
    (p.ty = .unlock → goes (.unlock i)))
end

