-- ==== Sys2Proof/Laws/State.lean ====
section
/-! SUPPORT. What each update of the state does to each of its fields. -/

namespace Sys2Proof.Machine

/-! ### updGroup -/

@[simp] theorem State.updGroup_issueQ (s : State) (g : Nat) (f : Group → Group) : (s.updGroup g f).issueQ = s.issueQ := rfl
@[simp] theorem State.updGroup_cur (s : State) (g : Nat) (f : Group → Group) : (s.updGroup g f).cur = s.cur := rfl
@[simp] theorem State.updGroup_agenda (s : State) (g : Nat) (f : Group → Group) : (s.updGroup g f).agenda = s.agenda := rfl
@[simp] theorem State.updGroup_missed (s : State) (g : Nat) (f : Group → Group) : (s.updGroup g f).missed = s.missed := rfl
@[simp] theorem State.updGroup_seq (s : State) (g : Nat) (f : Group → Group) : (s.updGroup g f).seq = s.seq := rfl
@[simp] theorem State.updGroup_turn (s : State) (g : Nat) (f : Group → Group) : (s.updGroup g f).turn = s.turn := rfl
@[simp] theorem State.updGroup_groups (s : State) (g : Nat) (f : Group → Group) : (s.updGroup g f).groups = AMap.upd s.groups g f := rfl
@[simp] theorem State.updGroup_teams (s : State) (g : Nat) (f : Group → Group) : (s.updGroup g f).teams = s.teams := rfl
@[simp] theorem State.updGroup_shares (s : State) (g : Nat) (f : Group → Group) : (s.updGroup g f).shares = s.shares := rfl
@[simp] theorem State.updGroup_units (s : State) (g : Nat) (f : Group → Group) : (s.updGroup g f).units = s.units := rfl
@[simp] theorem State.updGroup_saved (s : State) (g : Nat) (f : Group → Group) : (s.updGroup g f).saved = s.saved := rfl
@[simp] theorem State.updGroup_launches (s : State) (g : Nat) (f : Group → Group) : (s.updGroup g f).launches = s.launches := rfl
@[simp] theorem State.updGroup_launchLists (s : State) (g : Nat) (f : Group → Group) : (s.updGroup g f).launchLists = s.launchLists := rfl
@[simp] theorem State.updGroup_queues (s : State) (g : Nat) (f : Group → Group) : (s.updGroup g f).queues = s.queues := rfl
@[simp] theorem State.updGroup_contexts (s : State) (g : Nat) (f : Group → Group) : (s.updGroup g f).contexts = s.contexts := rfl
@[simp] theorem State.updGroup_cores (s : State) (g : Nat) (f : Group → Group) : (s.updGroup g f).cores = s.cores := rfl
@[simp] theorem State.updGroup_gates (s : State) (g : Nat) (f : Group → Group) : (s.updGroup g f).gates = s.gates := rfl
@[simp] theorem State.updGroup_gateStage (s : State) (g : Nat) (f : Group → Group) : (s.updGroup g f).gateStage = s.gateStage := rfl
@[simp] theorem State.updGroup_arrays (s : State) (g : Nat) (f : Group → Group) : (s.updGroup g f).arrays = s.arrays := rfl
@[simp] theorem State.updGroup_bstores (s : State) (g : Nat) (f : Group → Group) : (s.updGroup g f).bstores = s.bstores := rfl
@[simp] theorem State.updGroup_quays (s : State) (g : Nat) (f : Group → Group) : (s.updGroup g f).quays = s.quays := rfl
@[simp] theorem State.updGroup_qreplies (s : State) (g : Nat) (f : Group → Group) : (s.updGroup g f).qreplies = s.qreplies := rfl
@[simp] theorem State.updGroup_recsOut (s : State) (g : Nat) (f : Group → Group) : (s.updGroup g f).recsOut = s.recsOut := rfl
@[simp] theorem State.updGroup_mem (s : State) (g : Nat) (f : Group → Group) : (s.updGroup g f).mem = s.mem := rfl
@[simp] theorem State.updGroup_pois (s : State) (g : Nat) (f : Group → Group) : (s.updGroup g f).pois = s.pois := rfl
@[simp] theorem State.updGroup_late (s : State) (g : Nat) (f : Group → Group) : (s.updGroup g f).late = s.late := rfl
@[simp] theorem State.updGroup_lateLog (s : State) (g : Nat) (f : Group → Group) : (s.updGroup g f).lateLog = s.lateLog := rfl
@[simp] theorem State.updGroup_lsq (s : State) (g : Nat) (f : Group → Group) : (s.updGroup g f).lsq = s.lsq := rfl
@[simp] theorem State.updGroup_l1 (s : State) (g : Nat) (f : Group → Group) : (s.updGroup g f).l1 = s.l1 := rfl
@[simp] theorem State.updGroup_icache (s : State) (g : Nat) (f : Group → Group) : (s.updGroup g f).icache = s.icache := rfl
@[simp] theorem State.updGroup_l2 (s : State) (g : Nat) (f : Group → Group) : (s.updGroup g f).l2 = s.l2 := rfl
@[simp] theorem State.updGroup_tlb (s : State) (g : Nat) (f : Group → Group) : (s.updGroup g f).tlb = s.tlb := rfl
@[simp] theorem State.updGroup_tcache (s : State) (g : Nat) (f : Group → Group) : (s.updGroup g f).tcache = s.tcache := rfl
@[simp] theorem State.updGroup_faults (s : State) (g : Nat) (f : Group → Group) : (s.updGroup g f).faults = s.faults := rfl
@[simp] theorem State.updGroup_dram (s : State) (g : Nat) (f : Group → Group) : (s.updGroup g f).dram = s.dram := rfl
@[simp] theorem State.updGroup_dramPois (s : State) (g : Nat) (f : Group → Group) : (s.updGroup g f).dramPois = s.dramPois := rfl
@[simp] theorem State.updGroup_dramUe (s : State) (g : Nat) (f : Group → Group) : (s.updGroup g f).dramUe = s.dramUe := rfl
@[simp] theorem State.updGroup_packets (s : State) (g : Nat) (f : Group → Group) : (s.updGroup g f).packets = s.packets := rfl
@[simp] theorem State.updGroup_writes (s : State) (g : Nat) (f : Group → Group) : (s.updGroup g f).writes = s.writes := rfl
@[simp] theorem State.updGroup_portQ (s : State) (g : Nat) (f : Group → Group) : (s.updGroup g f).portQ = s.portQ := rfl
@[simp] theorem State.updGroup_pendPar (s : State) (g : Nat) (f : Group → Group) : (s.updGroup g f).pendPar = s.pendPar := rfl
@[simp] theorem State.updGroup_jobs (s : State) (g : Nat) (f : Group → Group) : (s.updGroup g f).jobs = s.jobs := rfl
@[simp] theorem State.updGroup_locks (s : State) (g : Nat) (f : Group → Group) : (s.updGroup g f).locks = s.locks := rfl
@[simp] theorem State.updGroup_dev (s : State) (g : Nat) (f : Group → Group) : (s.updGroup g f).dev = s.dev := rfl

/-! ### updTeam -/

@[simp] theorem State.updTeam_issueQ (s : State) (t : Nat) (f : Team → Team) : (s.updTeam t f).issueQ = s.issueQ := rfl
@[simp] theorem State.updTeam_cur (s : State) (t : Nat) (f : Team → Team) : (s.updTeam t f).cur = s.cur := rfl
@[simp] theorem State.updTeam_agenda (s : State) (t : Nat) (f : Team → Team) : (s.updTeam t f).agenda = s.agenda := rfl
@[simp] theorem State.updTeam_missed (s : State) (t : Nat) (f : Team → Team) : (s.updTeam t f).missed = s.missed := rfl
@[simp] theorem State.updTeam_seq (s : State) (t : Nat) (f : Team → Team) : (s.updTeam t f).seq = s.seq := rfl
@[simp] theorem State.updTeam_turn (s : State) (t : Nat) (f : Team → Team) : (s.updTeam t f).turn = s.turn := rfl
@[simp] theorem State.updTeam_groups (s : State) (t : Nat) (f : Team → Team) : (s.updTeam t f).groups = s.groups := rfl
@[simp] theorem State.updTeam_teams (s : State) (t : Nat) (f : Team → Team) : (s.updTeam t f).teams = AMap.upd s.teams t f := rfl
@[simp] theorem State.updTeam_shares (s : State) (t : Nat) (f : Team → Team) : (s.updTeam t f).shares = s.shares := rfl
@[simp] theorem State.updTeam_units (s : State) (t : Nat) (f : Team → Team) : (s.updTeam t f).units = s.units := rfl
@[simp] theorem State.updTeam_saved (s : State) (t : Nat) (f : Team → Team) : (s.updTeam t f).saved = s.saved := rfl
@[simp] theorem State.updTeam_launches (s : State) (t : Nat) (f : Team → Team) : (s.updTeam t f).launches = s.launches := rfl
@[simp] theorem State.updTeam_launchLists (s : State) (t : Nat) (f : Team → Team) : (s.updTeam t f).launchLists = s.launchLists := rfl
@[simp] theorem State.updTeam_queues (s : State) (t : Nat) (f : Team → Team) : (s.updTeam t f).queues = s.queues := rfl
@[simp] theorem State.updTeam_contexts (s : State) (t : Nat) (f : Team → Team) : (s.updTeam t f).contexts = s.contexts := rfl
@[simp] theorem State.updTeam_cores (s : State) (t : Nat) (f : Team → Team) : (s.updTeam t f).cores = s.cores := rfl
@[simp] theorem State.updTeam_gates (s : State) (t : Nat) (f : Team → Team) : (s.updTeam t f).gates = s.gates := rfl
@[simp] theorem State.updTeam_gateStage (s : State) (t : Nat) (f : Team → Team) : (s.updTeam t f).gateStage = s.gateStage := rfl
@[simp] theorem State.updTeam_arrays (s : State) (t : Nat) (f : Team → Team) : (s.updTeam t f).arrays = s.arrays := rfl
@[simp] theorem State.updTeam_bstores (s : State) (t : Nat) (f : Team → Team) : (s.updTeam t f).bstores = s.bstores := rfl
@[simp] theorem State.updTeam_quays (s : State) (t : Nat) (f : Team → Team) : (s.updTeam t f).quays = s.quays := rfl
@[simp] theorem State.updTeam_qreplies (s : State) (t : Nat) (f : Team → Team) : (s.updTeam t f).qreplies = s.qreplies := rfl
@[simp] theorem State.updTeam_recsOut (s : State) (t : Nat) (f : Team → Team) : (s.updTeam t f).recsOut = s.recsOut := rfl
@[simp] theorem State.updTeam_mem (s : State) (t : Nat) (f : Team → Team) : (s.updTeam t f).mem = s.mem := rfl
@[simp] theorem State.updTeam_pois (s : State) (t : Nat) (f : Team → Team) : (s.updTeam t f).pois = s.pois := rfl
@[simp] theorem State.updTeam_late (s : State) (t : Nat) (f : Team → Team) : (s.updTeam t f).late = s.late := rfl
@[simp] theorem State.updTeam_lateLog (s : State) (t : Nat) (f : Team → Team) : (s.updTeam t f).lateLog = s.lateLog := rfl
@[simp] theorem State.updTeam_lsq (s : State) (t : Nat) (f : Team → Team) : (s.updTeam t f).lsq = s.lsq := rfl
@[simp] theorem State.updTeam_l1 (s : State) (t : Nat) (f : Team → Team) : (s.updTeam t f).l1 = s.l1 := rfl
@[simp] theorem State.updTeam_icache (s : State) (t : Nat) (f : Team → Team) : (s.updTeam t f).icache = s.icache := rfl
@[simp] theorem State.updTeam_l2 (s : State) (t : Nat) (f : Team → Team) : (s.updTeam t f).l2 = s.l2 := rfl
@[simp] theorem State.updTeam_tlb (s : State) (t : Nat) (f : Team → Team) : (s.updTeam t f).tlb = s.tlb := rfl
@[simp] theorem State.updTeam_tcache (s : State) (t : Nat) (f : Team → Team) : (s.updTeam t f).tcache = s.tcache := rfl
@[simp] theorem State.updTeam_faults (s : State) (t : Nat) (f : Team → Team) : (s.updTeam t f).faults = s.faults := rfl
@[simp] theorem State.updTeam_dram (s : State) (t : Nat) (f : Team → Team) : (s.updTeam t f).dram = s.dram := rfl
@[simp] theorem State.updTeam_dramPois (s : State) (t : Nat) (f : Team → Team) : (s.updTeam t f).dramPois = s.dramPois := rfl
@[simp] theorem State.updTeam_dramUe (s : State) (t : Nat) (f : Team → Team) : (s.updTeam t f).dramUe = s.dramUe := rfl
@[simp] theorem State.updTeam_packets (s : State) (t : Nat) (f : Team → Team) : (s.updTeam t f).packets = s.packets := rfl
@[simp] theorem State.updTeam_writes (s : State) (t : Nat) (f : Team → Team) : (s.updTeam t f).writes = s.writes := rfl
@[simp] theorem State.updTeam_portQ (s : State) (t : Nat) (f : Team → Team) : (s.updTeam t f).portQ = s.portQ := rfl
@[simp] theorem State.updTeam_pendPar (s : State) (t : Nat) (f : Team → Team) : (s.updTeam t f).pendPar = s.pendPar := rfl
@[simp] theorem State.updTeam_jobs (s : State) (t : Nat) (f : Team → Team) : (s.updTeam t f).jobs = s.jobs := rfl
@[simp] theorem State.updTeam_locks (s : State) (t : Nat) (f : Team → Team) : (s.updTeam t f).locks = s.locks := rfl
@[simp] theorem State.updTeam_dev (s : State) (t : Nat) (f : Team → Team) : (s.updTeam t f).dev = s.dev := rfl

/-! ### updShare -/

@[simp] theorem State.updShare_issueQ (s : State) (k : Nat) (f : Share → Share) : (s.updShare k f).issueQ = s.issueQ := rfl
@[simp] theorem State.updShare_cur (s : State) (k : Nat) (f : Share → Share) : (s.updShare k f).cur = s.cur := rfl
@[simp] theorem State.updShare_agenda (s : State) (k : Nat) (f : Share → Share) : (s.updShare k f).agenda = s.agenda := rfl
@[simp] theorem State.updShare_missed (s : State) (k : Nat) (f : Share → Share) : (s.updShare k f).missed = s.missed := rfl
@[simp] theorem State.updShare_seq (s : State) (k : Nat) (f : Share → Share) : (s.updShare k f).seq = s.seq := rfl
@[simp] theorem State.updShare_turn (s : State) (k : Nat) (f : Share → Share) : (s.updShare k f).turn = s.turn := rfl
@[simp] theorem State.updShare_groups (s : State) (k : Nat) (f : Share → Share) : (s.updShare k f).groups = s.groups := rfl
@[simp] theorem State.updShare_teams (s : State) (k : Nat) (f : Share → Share) : (s.updShare k f).teams = s.teams := rfl
@[simp] theorem State.updShare_shares (s : State) (k : Nat) (f : Share → Share) : (s.updShare k f).shares = AMap.upd s.shares k f := rfl
@[simp] theorem State.updShare_units (s : State) (k : Nat) (f : Share → Share) : (s.updShare k f).units = s.units := rfl
@[simp] theorem State.updShare_saved (s : State) (k : Nat) (f : Share → Share) : (s.updShare k f).saved = s.saved := rfl
@[simp] theorem State.updShare_launches (s : State) (k : Nat) (f : Share → Share) : (s.updShare k f).launches = s.launches := rfl
@[simp] theorem State.updShare_launchLists (s : State) (k : Nat) (f : Share → Share) : (s.updShare k f).launchLists = s.launchLists := rfl
@[simp] theorem State.updShare_queues (s : State) (k : Nat) (f : Share → Share) : (s.updShare k f).queues = s.queues := rfl
@[simp] theorem State.updShare_contexts (s : State) (k : Nat) (f : Share → Share) : (s.updShare k f).contexts = s.contexts := rfl
@[simp] theorem State.updShare_cores (s : State) (k : Nat) (f : Share → Share) : (s.updShare k f).cores = s.cores := rfl
@[simp] theorem State.updShare_gates (s : State) (k : Nat) (f : Share → Share) : (s.updShare k f).gates = s.gates := rfl
@[simp] theorem State.updShare_gateStage (s : State) (k : Nat) (f : Share → Share) : (s.updShare k f).gateStage = s.gateStage := rfl
@[simp] theorem State.updShare_arrays (s : State) (k : Nat) (f : Share → Share) : (s.updShare k f).arrays = s.arrays := rfl
@[simp] theorem State.updShare_bstores (s : State) (k : Nat) (f : Share → Share) : (s.updShare k f).bstores = s.bstores := rfl
@[simp] theorem State.updShare_quays (s : State) (k : Nat) (f : Share → Share) : (s.updShare k f).quays = s.quays := rfl
@[simp] theorem State.updShare_qreplies (s : State) (k : Nat) (f : Share → Share) : (s.updShare k f).qreplies = s.qreplies := rfl
@[simp] theorem State.updShare_recsOut (s : State) (k : Nat) (f : Share → Share) : (s.updShare k f).recsOut = s.recsOut := rfl
@[simp] theorem State.updShare_mem (s : State) (k : Nat) (f : Share → Share) : (s.updShare k f).mem = s.mem := rfl
@[simp] theorem State.updShare_pois (s : State) (k : Nat) (f : Share → Share) : (s.updShare k f).pois = s.pois := rfl
@[simp] theorem State.updShare_late (s : State) (k : Nat) (f : Share → Share) : (s.updShare k f).late = s.late := rfl
@[simp] theorem State.updShare_lateLog (s : State) (k : Nat) (f : Share → Share) : (s.updShare k f).lateLog = s.lateLog := rfl
@[simp] theorem State.updShare_lsq (s : State) (k : Nat) (f : Share → Share) : (s.updShare k f).lsq = s.lsq := rfl
@[simp] theorem State.updShare_l1 (s : State) (k : Nat) (f : Share → Share) : (s.updShare k f).l1 = s.l1 := rfl
@[simp] theorem State.updShare_icache (s : State) (k : Nat) (f : Share → Share) : (s.updShare k f).icache = s.icache := rfl
@[simp] theorem State.updShare_l2 (s : State) (k : Nat) (f : Share → Share) : (s.updShare k f).l2 = s.l2 := rfl
@[simp] theorem State.updShare_tlb (s : State) (k : Nat) (f : Share → Share) : (s.updShare k f).tlb = s.tlb := rfl
@[simp] theorem State.updShare_tcache (s : State) (k : Nat) (f : Share → Share) : (s.updShare k f).tcache = s.tcache := rfl
@[simp] theorem State.updShare_faults (s : State) (k : Nat) (f : Share → Share) : (s.updShare k f).faults = s.faults := rfl
@[simp] theorem State.updShare_dram (s : State) (k : Nat) (f : Share → Share) : (s.updShare k f).dram = s.dram := rfl
@[simp] theorem State.updShare_dramPois (s : State) (k : Nat) (f : Share → Share) : (s.updShare k f).dramPois = s.dramPois := rfl
@[simp] theorem State.updShare_dramUe (s : State) (k : Nat) (f : Share → Share) : (s.updShare k f).dramUe = s.dramUe := rfl
@[simp] theorem State.updShare_packets (s : State) (k : Nat) (f : Share → Share) : (s.updShare k f).packets = s.packets := rfl
@[simp] theorem State.updShare_writes (s : State) (k : Nat) (f : Share → Share) : (s.updShare k f).writes = s.writes := rfl
@[simp] theorem State.updShare_portQ (s : State) (k : Nat) (f : Share → Share) : (s.updShare k f).portQ = s.portQ := rfl
@[simp] theorem State.updShare_pendPar (s : State) (k : Nat) (f : Share → Share) : (s.updShare k f).pendPar = s.pendPar := rfl
@[simp] theorem State.updShare_jobs (s : State) (k : Nat) (f : Share → Share) : (s.updShare k f).jobs = s.jobs := rfl
@[simp] theorem State.updShare_locks (s : State) (k : Nat) (f : Share → Share) : (s.updShare k f).locks = s.locks := rfl
@[simp] theorem State.updShare_dev (s : State) (k : Nat) (f : Share → Share) : (s.updShare k f).dev = s.dev := rfl

/-! ### updUnit -/

@[simp] theorem State.updUnit_issueQ (s : State) (k : Nat) (f : CUnit → CUnit) : (s.updUnit k f).issueQ = s.issueQ := rfl
@[simp] theorem State.updUnit_cur (s : State) (k : Nat) (f : CUnit → CUnit) : (s.updUnit k f).cur = s.cur := rfl
@[simp] theorem State.updUnit_agenda (s : State) (k : Nat) (f : CUnit → CUnit) : (s.updUnit k f).agenda = s.agenda := rfl
@[simp] theorem State.updUnit_missed (s : State) (k : Nat) (f : CUnit → CUnit) : (s.updUnit k f).missed = s.missed := rfl
@[simp] theorem State.updUnit_seq (s : State) (k : Nat) (f : CUnit → CUnit) : (s.updUnit k f).seq = s.seq := rfl
@[simp] theorem State.updUnit_turn (s : State) (k : Nat) (f : CUnit → CUnit) : (s.updUnit k f).turn = s.turn := rfl
@[simp] theorem State.updUnit_groups (s : State) (k : Nat) (f : CUnit → CUnit) : (s.updUnit k f).groups = s.groups := rfl
@[simp] theorem State.updUnit_teams (s : State) (k : Nat) (f : CUnit → CUnit) : (s.updUnit k f).teams = s.teams := rfl
@[simp] theorem State.updUnit_shares (s : State) (k : Nat) (f : CUnit → CUnit) : (s.updUnit k f).shares = s.shares := rfl
@[simp] theorem State.updUnit_units (s : State) (k : Nat) (f : CUnit → CUnit) : (s.updUnit k f).units = AMap.upd s.units k f := rfl
@[simp] theorem State.updUnit_saved (s : State) (k : Nat) (f : CUnit → CUnit) : (s.updUnit k f).saved = s.saved := rfl
@[simp] theorem State.updUnit_launches (s : State) (k : Nat) (f : CUnit → CUnit) : (s.updUnit k f).launches = s.launches := rfl
@[simp] theorem State.updUnit_launchLists (s : State) (k : Nat) (f : CUnit → CUnit) : (s.updUnit k f).launchLists = s.launchLists := rfl
@[simp] theorem State.updUnit_queues (s : State) (k : Nat) (f : CUnit → CUnit) : (s.updUnit k f).queues = s.queues := rfl
@[simp] theorem State.updUnit_contexts (s : State) (k : Nat) (f : CUnit → CUnit) : (s.updUnit k f).contexts = s.contexts := rfl
@[simp] theorem State.updUnit_cores (s : State) (k : Nat) (f : CUnit → CUnit) : (s.updUnit k f).cores = s.cores := rfl
@[simp] theorem State.updUnit_gates (s : State) (k : Nat) (f : CUnit → CUnit) : (s.updUnit k f).gates = s.gates := rfl
@[simp] theorem State.updUnit_gateStage (s : State) (k : Nat) (f : CUnit → CUnit) : (s.updUnit k f).gateStage = s.gateStage := rfl
@[simp] theorem State.updUnit_arrays (s : State) (k : Nat) (f : CUnit → CUnit) : (s.updUnit k f).arrays = s.arrays := rfl
@[simp] theorem State.updUnit_bstores (s : State) (k : Nat) (f : CUnit → CUnit) : (s.updUnit k f).bstores = s.bstores := rfl
@[simp] theorem State.updUnit_quays (s : State) (k : Nat) (f : CUnit → CUnit) : (s.updUnit k f).quays = s.quays := rfl
@[simp] theorem State.updUnit_qreplies (s : State) (k : Nat) (f : CUnit → CUnit) : (s.updUnit k f).qreplies = s.qreplies := rfl
@[simp] theorem State.updUnit_recsOut (s : State) (k : Nat) (f : CUnit → CUnit) : (s.updUnit k f).recsOut = s.recsOut := rfl
@[simp] theorem State.updUnit_mem (s : State) (k : Nat) (f : CUnit → CUnit) : (s.updUnit k f).mem = s.mem := rfl
@[simp] theorem State.updUnit_pois (s : State) (k : Nat) (f : CUnit → CUnit) : (s.updUnit k f).pois = s.pois := rfl
@[simp] theorem State.updUnit_late (s : State) (k : Nat) (f : CUnit → CUnit) : (s.updUnit k f).late = s.late := rfl
@[simp] theorem State.updUnit_lateLog (s : State) (k : Nat) (f : CUnit → CUnit) : (s.updUnit k f).lateLog = s.lateLog := rfl
@[simp] theorem State.updUnit_lsq (s : State) (k : Nat) (f : CUnit → CUnit) : (s.updUnit k f).lsq = s.lsq := rfl
@[simp] theorem State.updUnit_l1 (s : State) (k : Nat) (f : CUnit → CUnit) : (s.updUnit k f).l1 = s.l1 := rfl
@[simp] theorem State.updUnit_icache (s : State) (k : Nat) (f : CUnit → CUnit) : (s.updUnit k f).icache = s.icache := rfl
@[simp] theorem State.updUnit_l2 (s : State) (k : Nat) (f : CUnit → CUnit) : (s.updUnit k f).l2 = s.l2 := rfl
@[simp] theorem State.updUnit_tlb (s : State) (k : Nat) (f : CUnit → CUnit) : (s.updUnit k f).tlb = s.tlb := rfl
@[simp] theorem State.updUnit_tcache (s : State) (k : Nat) (f : CUnit → CUnit) : (s.updUnit k f).tcache = s.tcache := rfl
@[simp] theorem State.updUnit_faults (s : State) (k : Nat) (f : CUnit → CUnit) : (s.updUnit k f).faults = s.faults := rfl
@[simp] theorem State.updUnit_dram (s : State) (k : Nat) (f : CUnit → CUnit) : (s.updUnit k f).dram = s.dram := rfl
@[simp] theorem State.updUnit_dramPois (s : State) (k : Nat) (f : CUnit → CUnit) : (s.updUnit k f).dramPois = s.dramPois := rfl
@[simp] theorem State.updUnit_dramUe (s : State) (k : Nat) (f : CUnit → CUnit) : (s.updUnit k f).dramUe = s.dramUe := rfl
@[simp] theorem State.updUnit_packets (s : State) (k : Nat) (f : CUnit → CUnit) : (s.updUnit k f).packets = s.packets := rfl
@[simp] theorem State.updUnit_writes (s : State) (k : Nat) (f : CUnit → CUnit) : (s.updUnit k f).writes = s.writes := rfl
@[simp] theorem State.updUnit_portQ (s : State) (k : Nat) (f : CUnit → CUnit) : (s.updUnit k f).portQ = s.portQ := rfl
@[simp] theorem State.updUnit_pendPar (s : State) (k : Nat) (f : CUnit → CUnit) : (s.updUnit k f).pendPar = s.pendPar := rfl
@[simp] theorem State.updUnit_jobs (s : State) (k : Nat) (f : CUnit → CUnit) : (s.updUnit k f).jobs = s.jobs := rfl
@[simp] theorem State.updUnit_locks (s : State) (k : Nat) (f : CUnit → CUnit) : (s.updUnit k f).locks = s.locks := rfl
@[simp] theorem State.updUnit_dev (s : State) (k : Nat) (f : CUnit → CUnit) : (s.updUnit k f).dev = s.dev := rfl

/-! ### updCtx -/

@[simp] theorem State.updCtx_issueQ (s : State) (k : Nat) (f : Context → Context) : (s.updCtx k f).issueQ = s.issueQ := rfl
@[simp] theorem State.updCtx_cur (s : State) (k : Nat) (f : Context → Context) : (s.updCtx k f).cur = s.cur := rfl
@[simp] theorem State.updCtx_agenda (s : State) (k : Nat) (f : Context → Context) : (s.updCtx k f).agenda = s.agenda := rfl
@[simp] theorem State.updCtx_missed (s : State) (k : Nat) (f : Context → Context) : (s.updCtx k f).missed = s.missed := rfl
@[simp] theorem State.updCtx_seq (s : State) (k : Nat) (f : Context → Context) : (s.updCtx k f).seq = s.seq := rfl
@[simp] theorem State.updCtx_turn (s : State) (k : Nat) (f : Context → Context) : (s.updCtx k f).turn = s.turn := rfl
@[simp] theorem State.updCtx_groups (s : State) (k : Nat) (f : Context → Context) : (s.updCtx k f).groups = s.groups := rfl
@[simp] theorem State.updCtx_teams (s : State) (k : Nat) (f : Context → Context) : (s.updCtx k f).teams = s.teams := rfl
@[simp] theorem State.updCtx_shares (s : State) (k : Nat) (f : Context → Context) : (s.updCtx k f).shares = s.shares := rfl
@[simp] theorem State.updCtx_units (s : State) (k : Nat) (f : Context → Context) : (s.updCtx k f).units = s.units := rfl
@[simp] theorem State.updCtx_saved (s : State) (k : Nat) (f : Context → Context) : (s.updCtx k f).saved = s.saved := rfl
@[simp] theorem State.updCtx_launches (s : State) (k : Nat) (f : Context → Context) : (s.updCtx k f).launches = s.launches := rfl
@[simp] theorem State.updCtx_launchLists (s : State) (k : Nat) (f : Context → Context) : (s.updCtx k f).launchLists = s.launchLists := rfl
@[simp] theorem State.updCtx_queues (s : State) (k : Nat) (f : Context → Context) : (s.updCtx k f).queues = s.queues := rfl
@[simp] theorem State.updCtx_contexts (s : State) (k : Nat) (f : Context → Context) : (s.updCtx k f).contexts = AMap.upd s.contexts k f := rfl
@[simp] theorem State.updCtx_cores (s : State) (k : Nat) (f : Context → Context) : (s.updCtx k f).cores = s.cores := rfl
@[simp] theorem State.updCtx_gates (s : State) (k : Nat) (f : Context → Context) : (s.updCtx k f).gates = s.gates := rfl
@[simp] theorem State.updCtx_gateStage (s : State) (k : Nat) (f : Context → Context) : (s.updCtx k f).gateStage = s.gateStage := rfl
@[simp] theorem State.updCtx_arrays (s : State) (k : Nat) (f : Context → Context) : (s.updCtx k f).arrays = s.arrays := rfl
@[simp] theorem State.updCtx_bstores (s : State) (k : Nat) (f : Context → Context) : (s.updCtx k f).bstores = s.bstores := rfl
@[simp] theorem State.updCtx_quays (s : State) (k : Nat) (f : Context → Context) : (s.updCtx k f).quays = s.quays := rfl
@[simp] theorem State.updCtx_qreplies (s : State) (k : Nat) (f : Context → Context) : (s.updCtx k f).qreplies = s.qreplies := rfl
@[simp] theorem State.updCtx_recsOut (s : State) (k : Nat) (f : Context → Context) : (s.updCtx k f).recsOut = s.recsOut := rfl
@[simp] theorem State.updCtx_mem (s : State) (k : Nat) (f : Context → Context) : (s.updCtx k f).mem = s.mem := rfl
@[simp] theorem State.updCtx_pois (s : State) (k : Nat) (f : Context → Context) : (s.updCtx k f).pois = s.pois := rfl
@[simp] theorem State.updCtx_late (s : State) (k : Nat) (f : Context → Context) : (s.updCtx k f).late = s.late := rfl
@[simp] theorem State.updCtx_lateLog (s : State) (k : Nat) (f : Context → Context) : (s.updCtx k f).lateLog = s.lateLog := rfl
@[simp] theorem State.updCtx_lsq (s : State) (k : Nat) (f : Context → Context) : (s.updCtx k f).lsq = s.lsq := rfl
@[simp] theorem State.updCtx_l1 (s : State) (k : Nat) (f : Context → Context) : (s.updCtx k f).l1 = s.l1 := rfl
@[simp] theorem State.updCtx_icache (s : State) (k : Nat) (f : Context → Context) : (s.updCtx k f).icache = s.icache := rfl
@[simp] theorem State.updCtx_l2 (s : State) (k : Nat) (f : Context → Context) : (s.updCtx k f).l2 = s.l2 := rfl
@[simp] theorem State.updCtx_tlb (s : State) (k : Nat) (f : Context → Context) : (s.updCtx k f).tlb = s.tlb := rfl
@[simp] theorem State.updCtx_tcache (s : State) (k : Nat) (f : Context → Context) : (s.updCtx k f).tcache = s.tcache := rfl
@[simp] theorem State.updCtx_faults (s : State) (k : Nat) (f : Context → Context) : (s.updCtx k f).faults = s.faults := rfl
@[simp] theorem State.updCtx_dram (s : State) (k : Nat) (f : Context → Context) : (s.updCtx k f).dram = s.dram := rfl
@[simp] theorem State.updCtx_dramPois (s : State) (k : Nat) (f : Context → Context) : (s.updCtx k f).dramPois = s.dramPois := rfl
@[simp] theorem State.updCtx_dramUe (s : State) (k : Nat) (f : Context → Context) : (s.updCtx k f).dramUe = s.dramUe := rfl
@[simp] theorem State.updCtx_packets (s : State) (k : Nat) (f : Context → Context) : (s.updCtx k f).packets = s.packets := rfl
@[simp] theorem State.updCtx_writes (s : State) (k : Nat) (f : Context → Context) : (s.updCtx k f).writes = s.writes := rfl
@[simp] theorem State.updCtx_portQ (s : State) (k : Nat) (f : Context → Context) : (s.updCtx k f).portQ = s.portQ := rfl
@[simp] theorem State.updCtx_pendPar (s : State) (k : Nat) (f : Context → Context) : (s.updCtx k f).pendPar = s.pendPar := rfl
@[simp] theorem State.updCtx_jobs (s : State) (k : Nat) (f : Context → Context) : (s.updCtx k f).jobs = s.jobs := rfl
@[simp] theorem State.updCtx_locks (s : State) (k : Nat) (f : Context → Context) : (s.updCtx k f).locks = s.locks := rfl
@[simp] theorem State.updCtx_dev (s : State) (k : Nat) (f : Context → Context) : (s.updCtx k f).dev = s.dev := rfl

/-! ### updLaunch -/

@[simp] theorem State.updLaunch_issueQ (s : State) (k : Nat) (f : Launch → Launch) : (s.updLaunch k f).issueQ = s.issueQ := rfl
@[simp] theorem State.updLaunch_cur (s : State) (k : Nat) (f : Launch → Launch) : (s.updLaunch k f).cur = s.cur := rfl
@[simp] theorem State.updLaunch_agenda (s : State) (k : Nat) (f : Launch → Launch) : (s.updLaunch k f).agenda = s.agenda := rfl
@[simp] theorem State.updLaunch_missed (s : State) (k : Nat) (f : Launch → Launch) : (s.updLaunch k f).missed = s.missed := rfl
@[simp] theorem State.updLaunch_seq (s : State) (k : Nat) (f : Launch → Launch) : (s.updLaunch k f).seq = s.seq := rfl
@[simp] theorem State.updLaunch_turn (s : State) (k : Nat) (f : Launch → Launch) : (s.updLaunch k f).turn = s.turn := rfl
@[simp] theorem State.updLaunch_groups (s : State) (k : Nat) (f : Launch → Launch) : (s.updLaunch k f).groups = s.groups := rfl
@[simp] theorem State.updLaunch_teams (s : State) (k : Nat) (f : Launch → Launch) : (s.updLaunch k f).teams = s.teams := rfl
@[simp] theorem State.updLaunch_shares (s : State) (k : Nat) (f : Launch → Launch) : (s.updLaunch k f).shares = s.shares := rfl
@[simp] theorem State.updLaunch_units (s : State) (k : Nat) (f : Launch → Launch) : (s.updLaunch k f).units = s.units := rfl
@[simp] theorem State.updLaunch_saved (s : State) (k : Nat) (f : Launch → Launch) : (s.updLaunch k f).saved = s.saved := rfl
@[simp] theorem State.updLaunch_launches (s : State) (k : Nat) (f : Launch → Launch) : (s.updLaunch k f).launches = AMap.upd s.launches k f := rfl
@[simp] theorem State.updLaunch_launchLists (s : State) (k : Nat) (f : Launch → Launch) : (s.updLaunch k f).launchLists = s.launchLists := rfl
@[simp] theorem State.updLaunch_queues (s : State) (k : Nat) (f : Launch → Launch) : (s.updLaunch k f).queues = s.queues := rfl
@[simp] theorem State.updLaunch_contexts (s : State) (k : Nat) (f : Launch → Launch) : (s.updLaunch k f).contexts = s.contexts := rfl
@[simp] theorem State.updLaunch_cores (s : State) (k : Nat) (f : Launch → Launch) : (s.updLaunch k f).cores = s.cores := rfl
@[simp] theorem State.updLaunch_gates (s : State) (k : Nat) (f : Launch → Launch) : (s.updLaunch k f).gates = s.gates := rfl
@[simp] theorem State.updLaunch_gateStage (s : State) (k : Nat) (f : Launch → Launch) : (s.updLaunch k f).gateStage = s.gateStage := rfl
@[simp] theorem State.updLaunch_arrays (s : State) (k : Nat) (f : Launch → Launch) : (s.updLaunch k f).arrays = s.arrays := rfl
@[simp] theorem State.updLaunch_bstores (s : State) (k : Nat) (f : Launch → Launch) : (s.updLaunch k f).bstores = s.bstores := rfl
@[simp] theorem State.updLaunch_quays (s : State) (k : Nat) (f : Launch → Launch) : (s.updLaunch k f).quays = s.quays := rfl
@[simp] theorem State.updLaunch_qreplies (s : State) (k : Nat) (f : Launch → Launch) : (s.updLaunch k f).qreplies = s.qreplies := rfl
@[simp] theorem State.updLaunch_recsOut (s : State) (k : Nat) (f : Launch → Launch) : (s.updLaunch k f).recsOut = s.recsOut := rfl
@[simp] theorem State.updLaunch_mem (s : State) (k : Nat) (f : Launch → Launch) : (s.updLaunch k f).mem = s.mem := rfl
@[simp] theorem State.updLaunch_pois (s : State) (k : Nat) (f : Launch → Launch) : (s.updLaunch k f).pois = s.pois := rfl
@[simp] theorem State.updLaunch_late (s : State) (k : Nat) (f : Launch → Launch) : (s.updLaunch k f).late = s.late := rfl
@[simp] theorem State.updLaunch_lateLog (s : State) (k : Nat) (f : Launch → Launch) : (s.updLaunch k f).lateLog = s.lateLog := rfl
@[simp] theorem State.updLaunch_lsq (s : State) (k : Nat) (f : Launch → Launch) : (s.updLaunch k f).lsq = s.lsq := rfl
@[simp] theorem State.updLaunch_l1 (s : State) (k : Nat) (f : Launch → Launch) : (s.updLaunch k f).l1 = s.l1 := rfl
@[simp] theorem State.updLaunch_icache (s : State) (k : Nat) (f : Launch → Launch) : (s.updLaunch k f).icache = s.icache := rfl
@[simp] theorem State.updLaunch_l2 (s : State) (k : Nat) (f : Launch → Launch) : (s.updLaunch k f).l2 = s.l2 := rfl
@[simp] theorem State.updLaunch_tlb (s : State) (k : Nat) (f : Launch → Launch) : (s.updLaunch k f).tlb = s.tlb := rfl
@[simp] theorem State.updLaunch_tcache (s : State) (k : Nat) (f : Launch → Launch) : (s.updLaunch k f).tcache = s.tcache := rfl
@[simp] theorem State.updLaunch_faults (s : State) (k : Nat) (f : Launch → Launch) : (s.updLaunch k f).faults = s.faults := rfl
@[simp] theorem State.updLaunch_dram (s : State) (k : Nat) (f : Launch → Launch) : (s.updLaunch k f).dram = s.dram := rfl
@[simp] theorem State.updLaunch_dramPois (s : State) (k : Nat) (f : Launch → Launch) : (s.updLaunch k f).dramPois = s.dramPois := rfl
@[simp] theorem State.updLaunch_dramUe (s : State) (k : Nat) (f : Launch → Launch) : (s.updLaunch k f).dramUe = s.dramUe := rfl
@[simp] theorem State.updLaunch_packets (s : State) (k : Nat) (f : Launch → Launch) : (s.updLaunch k f).packets = s.packets := rfl
@[simp] theorem State.updLaunch_writes (s : State) (k : Nat) (f : Launch → Launch) : (s.updLaunch k f).writes = s.writes := rfl
@[simp] theorem State.updLaunch_portQ (s : State) (k : Nat) (f : Launch → Launch) : (s.updLaunch k f).portQ = s.portQ := rfl
@[simp] theorem State.updLaunch_pendPar (s : State) (k : Nat) (f : Launch → Launch) : (s.updLaunch k f).pendPar = s.pendPar := rfl
@[simp] theorem State.updLaunch_jobs (s : State) (k : Nat) (f : Launch → Launch) : (s.updLaunch k f).jobs = s.jobs := rfl
@[simp] theorem State.updLaunch_locks (s : State) (k : Nat) (f : Launch → Launch) : (s.updLaunch k f).locks = s.locks := rfl
@[simp] theorem State.updLaunch_dev (s : State) (k : Nat) (f : Launch → Launch) : (s.updLaunch k f).dev = s.dev := rfl

/-! ### setCore -/

@[simp] theorem State.setCore_issueQ (s : State) (c : Nat) (x : Core) : (s.setCore c x).issueQ = s.issueQ := rfl
@[simp] theorem State.setCore_cur (s : State) (c : Nat) (x : Core) : (s.setCore c x).cur = s.cur := rfl
@[simp] theorem State.setCore_agenda (s : State) (c : Nat) (x : Core) : (s.setCore c x).agenda = s.agenda := rfl
@[simp] theorem State.setCore_missed (s : State) (c : Nat) (x : Core) : (s.setCore c x).missed = s.missed := rfl
@[simp] theorem State.setCore_seq (s : State) (c : Nat) (x : Core) : (s.setCore c x).seq = s.seq := rfl
@[simp] theorem State.setCore_turn (s : State) (c : Nat) (x : Core) : (s.setCore c x).turn = s.turn := rfl
@[simp] theorem State.setCore_groups (s : State) (c : Nat) (x : Core) : (s.setCore c x).groups = s.groups := rfl
@[simp] theorem State.setCore_teams (s : State) (c : Nat) (x : Core) : (s.setCore c x).teams = s.teams := rfl
@[simp] theorem State.setCore_shares (s : State) (c : Nat) (x : Core) : (s.setCore c x).shares = s.shares := rfl
@[simp] theorem State.setCore_units (s : State) (c : Nat) (x : Core) : (s.setCore c x).units = s.units := rfl
@[simp] theorem State.setCore_saved (s : State) (c : Nat) (x : Core) : (s.setCore c x).saved = s.saved := rfl
@[simp] theorem State.setCore_launches (s : State) (c : Nat) (x : Core) : (s.setCore c x).launches = s.launches := rfl
@[simp] theorem State.setCore_launchLists (s : State) (c : Nat) (x : Core) : (s.setCore c x).launchLists = s.launchLists := rfl
@[simp] theorem State.setCore_queues (s : State) (c : Nat) (x : Core) : (s.setCore c x).queues = s.queues := rfl
@[simp] theorem State.setCore_contexts (s : State) (c : Nat) (x : Core) : (s.setCore c x).contexts = s.contexts := rfl
@[simp] theorem State.setCore_cores (s : State) (c : Nat) (x : Core) : (s.setCore c x).cores = AMap.put s.cores c x := rfl
@[simp] theorem State.setCore_gates (s : State) (c : Nat) (x : Core) : (s.setCore c x).gates = s.gates := rfl
@[simp] theorem State.setCore_gateStage (s : State) (c : Nat) (x : Core) : (s.setCore c x).gateStage = s.gateStage := rfl
@[simp] theorem State.setCore_arrays (s : State) (c : Nat) (x : Core) : (s.setCore c x).arrays = s.arrays := rfl
@[simp] theorem State.setCore_bstores (s : State) (c : Nat) (x : Core) : (s.setCore c x).bstores = s.bstores := rfl
@[simp] theorem State.setCore_quays (s : State) (c : Nat) (x : Core) : (s.setCore c x).quays = s.quays := rfl
@[simp] theorem State.setCore_qreplies (s : State) (c : Nat) (x : Core) : (s.setCore c x).qreplies = s.qreplies := rfl
@[simp] theorem State.setCore_recsOut (s : State) (c : Nat) (x : Core) : (s.setCore c x).recsOut = s.recsOut := rfl
@[simp] theorem State.setCore_mem (s : State) (c : Nat) (x : Core) : (s.setCore c x).mem = s.mem := rfl
@[simp] theorem State.setCore_pois (s : State) (c : Nat) (x : Core) : (s.setCore c x).pois = s.pois := rfl
@[simp] theorem State.setCore_late (s : State) (c : Nat) (x : Core) : (s.setCore c x).late = s.late := rfl
@[simp] theorem State.setCore_lateLog (s : State) (c : Nat) (x : Core) : (s.setCore c x).lateLog = s.lateLog := rfl
@[simp] theorem State.setCore_lsq (s : State) (c : Nat) (x : Core) : (s.setCore c x).lsq = s.lsq := rfl
@[simp] theorem State.setCore_l1 (s : State) (c : Nat) (x : Core) : (s.setCore c x).l1 = s.l1 := rfl
@[simp] theorem State.setCore_icache (s : State) (c : Nat) (x : Core) : (s.setCore c x).icache = s.icache := rfl
@[simp] theorem State.setCore_l2 (s : State) (c : Nat) (x : Core) : (s.setCore c x).l2 = s.l2 := rfl
@[simp] theorem State.setCore_tlb (s : State) (c : Nat) (x : Core) : (s.setCore c x).tlb = s.tlb := rfl
@[simp] theorem State.setCore_tcache (s : State) (c : Nat) (x : Core) : (s.setCore c x).tcache = s.tcache := rfl
@[simp] theorem State.setCore_faults (s : State) (c : Nat) (x : Core) : (s.setCore c x).faults = s.faults := rfl
@[simp] theorem State.setCore_dram (s : State) (c : Nat) (x : Core) : (s.setCore c x).dram = s.dram := rfl
@[simp] theorem State.setCore_dramPois (s : State) (c : Nat) (x : Core) : (s.setCore c x).dramPois = s.dramPois := rfl
@[simp] theorem State.setCore_dramUe (s : State) (c : Nat) (x : Core) : (s.setCore c x).dramUe = s.dramUe := rfl
@[simp] theorem State.setCore_packets (s : State) (c : Nat) (x : Core) : (s.setCore c x).packets = s.packets := rfl
@[simp] theorem State.setCore_writes (s : State) (c : Nat) (x : Core) : (s.setCore c x).writes = s.writes := rfl
@[simp] theorem State.setCore_portQ (s : State) (c : Nat) (x : Core) : (s.setCore c x).portQ = s.portQ := rfl
@[simp] theorem State.setCore_pendPar (s : State) (c : Nat) (x : Core) : (s.setCore c x).pendPar = s.pendPar := rfl
@[simp] theorem State.setCore_jobs (s : State) (c : Nat) (x : Core) : (s.setCore c x).jobs = s.jobs := rfl
@[simp] theorem State.setCore_locks (s : State) (c : Nat) (x : Core) : (s.setCore c x).locks = s.locks := rfl
@[simp] theorem State.setCore_dev (s : State) (c : Nat) (x : Core) : (s.setCore c x).dev = s.dev := rfl

/-! ### setArray -/

@[simp] theorem State.setArray_issueQ (s : State) (a : Nat) (x : Arr) : (s.setArray a x).issueQ = s.issueQ := rfl
@[simp] theorem State.setArray_cur (s : State) (a : Nat) (x : Arr) : (s.setArray a x).cur = s.cur := rfl
@[simp] theorem State.setArray_agenda (s : State) (a : Nat) (x : Arr) : (s.setArray a x).agenda = s.agenda := rfl
@[simp] theorem State.setArray_missed (s : State) (a : Nat) (x : Arr) : (s.setArray a x).missed = s.missed := rfl
@[simp] theorem State.setArray_seq (s : State) (a : Nat) (x : Arr) : (s.setArray a x).seq = s.seq := rfl
@[simp] theorem State.setArray_turn (s : State) (a : Nat) (x : Arr) : (s.setArray a x).turn = s.turn := rfl
@[simp] theorem State.setArray_groups (s : State) (a : Nat) (x : Arr) : (s.setArray a x).groups = s.groups := rfl
@[simp] theorem State.setArray_teams (s : State) (a : Nat) (x : Arr) : (s.setArray a x).teams = s.teams := rfl
@[simp] theorem State.setArray_shares (s : State) (a : Nat) (x : Arr) : (s.setArray a x).shares = s.shares := rfl
@[simp] theorem State.setArray_units (s : State) (a : Nat) (x : Arr) : (s.setArray a x).units = s.units := rfl
@[simp] theorem State.setArray_saved (s : State) (a : Nat) (x : Arr) : (s.setArray a x).saved = s.saved := rfl
@[simp] theorem State.setArray_launches (s : State) (a : Nat) (x : Arr) : (s.setArray a x).launches = s.launches := rfl
@[simp] theorem State.setArray_launchLists (s : State) (a : Nat) (x : Arr) : (s.setArray a x).launchLists = s.launchLists := rfl
@[simp] theorem State.setArray_queues (s : State) (a : Nat) (x : Arr) : (s.setArray a x).queues = s.queues := rfl
@[simp] theorem State.setArray_contexts (s : State) (a : Nat) (x : Arr) : (s.setArray a x).contexts = s.contexts := rfl
@[simp] theorem State.setArray_cores (s : State) (a : Nat) (x : Arr) : (s.setArray a x).cores = s.cores := rfl
@[simp] theorem State.setArray_gates (s : State) (a : Nat) (x : Arr) : (s.setArray a x).gates = s.gates := rfl
@[simp] theorem State.setArray_gateStage (s : State) (a : Nat) (x : Arr) : (s.setArray a x).gateStage = s.gateStage := rfl
@[simp] theorem State.setArray_arrays (s : State) (a : Nat) (x : Arr) : (s.setArray a x).arrays = AMap.put s.arrays a x := rfl
@[simp] theorem State.setArray_bstores (s : State) (a : Nat) (x : Arr) : (s.setArray a x).bstores = s.bstores := rfl
@[simp] theorem State.setArray_quays (s : State) (a : Nat) (x : Arr) : (s.setArray a x).quays = s.quays := rfl
@[simp] theorem State.setArray_qreplies (s : State) (a : Nat) (x : Arr) : (s.setArray a x).qreplies = s.qreplies := rfl
@[simp] theorem State.setArray_recsOut (s : State) (a : Nat) (x : Arr) : (s.setArray a x).recsOut = s.recsOut := rfl
@[simp] theorem State.setArray_mem (s : State) (a : Nat) (x : Arr) : (s.setArray a x).mem = s.mem := rfl
@[simp] theorem State.setArray_pois (s : State) (a : Nat) (x : Arr) : (s.setArray a x).pois = s.pois := rfl
@[simp] theorem State.setArray_late (s : State) (a : Nat) (x : Arr) : (s.setArray a x).late = s.late := rfl
@[simp] theorem State.setArray_lateLog (s : State) (a : Nat) (x : Arr) : (s.setArray a x).lateLog = s.lateLog := rfl
@[simp] theorem State.setArray_lsq (s : State) (a : Nat) (x : Arr) : (s.setArray a x).lsq = s.lsq := rfl
@[simp] theorem State.setArray_l1 (s : State) (a : Nat) (x : Arr) : (s.setArray a x).l1 = s.l1 := rfl
@[simp] theorem State.setArray_icache (s : State) (a : Nat) (x : Arr) : (s.setArray a x).icache = s.icache := rfl
@[simp] theorem State.setArray_l2 (s : State) (a : Nat) (x : Arr) : (s.setArray a x).l2 = s.l2 := rfl
@[simp] theorem State.setArray_tlb (s : State) (a : Nat) (x : Arr) : (s.setArray a x).tlb = s.tlb := rfl
@[simp] theorem State.setArray_tcache (s : State) (a : Nat) (x : Arr) : (s.setArray a x).tcache = s.tcache := rfl
@[simp] theorem State.setArray_faults (s : State) (a : Nat) (x : Arr) : (s.setArray a x).faults = s.faults := rfl
@[simp] theorem State.setArray_dram (s : State) (a : Nat) (x : Arr) : (s.setArray a x).dram = s.dram := rfl
@[simp] theorem State.setArray_dramPois (s : State) (a : Nat) (x : Arr) : (s.setArray a x).dramPois = s.dramPois := rfl
@[simp] theorem State.setArray_dramUe (s : State) (a : Nat) (x : Arr) : (s.setArray a x).dramUe = s.dramUe := rfl
@[simp] theorem State.setArray_packets (s : State) (a : Nat) (x : Arr) : (s.setArray a x).packets = s.packets := rfl
@[simp] theorem State.setArray_writes (s : State) (a : Nat) (x : Arr) : (s.setArray a x).writes = s.writes := rfl
@[simp] theorem State.setArray_portQ (s : State) (a : Nat) (x : Arr) : (s.setArray a x).portQ = s.portQ := rfl
@[simp] theorem State.setArray_pendPar (s : State) (a : Nat) (x : Arr) : (s.setArray a x).pendPar = s.pendPar := rfl
@[simp] theorem State.setArray_jobs (s : State) (a : Nat) (x : Arr) : (s.setArray a x).jobs = s.jobs := rfl
@[simp] theorem State.setArray_locks (s : State) (a : Nat) (x : Arr) : (s.setArray a x).locks = s.locks := rfl
@[simp] theorem State.setArray_dev (s : State) (a : Nat) (x : Arr) : (s.setArray a x).dev = s.dev := rfl

/-! ### setGate -/

@[simp] theorem State.setGate_issueQ (s : State) (u : Nat) (q : List Gate) : (s.setGate u q).issueQ = s.issueQ := rfl
@[simp] theorem State.setGate_cur (s : State) (u : Nat) (q : List Gate) : (s.setGate u q).cur = s.cur := rfl
@[simp] theorem State.setGate_agenda (s : State) (u : Nat) (q : List Gate) : (s.setGate u q).agenda = s.agenda := rfl
@[simp] theorem State.setGate_missed (s : State) (u : Nat) (q : List Gate) : (s.setGate u q).missed = s.missed := rfl
@[simp] theorem State.setGate_seq (s : State) (u : Nat) (q : List Gate) : (s.setGate u q).seq = s.seq := rfl
@[simp] theorem State.setGate_turn (s : State) (u : Nat) (q : List Gate) : (s.setGate u q).turn = s.turn := rfl
@[simp] theorem State.setGate_groups (s : State) (u : Nat) (q : List Gate) : (s.setGate u q).groups = s.groups := rfl
@[simp] theorem State.setGate_teams (s : State) (u : Nat) (q : List Gate) : (s.setGate u q).teams = s.teams := rfl
@[simp] theorem State.setGate_shares (s : State) (u : Nat) (q : List Gate) : (s.setGate u q).shares = s.shares := rfl
@[simp] theorem State.setGate_units (s : State) (u : Nat) (q : List Gate) : (s.setGate u q).units = s.units := rfl
@[simp] theorem State.setGate_saved (s : State) (u : Nat) (q : List Gate) : (s.setGate u q).saved = s.saved := rfl
@[simp] theorem State.setGate_launches (s : State) (u : Nat) (q : List Gate) : (s.setGate u q).launches = s.launches := rfl
@[simp] theorem State.setGate_launchLists (s : State) (u : Nat) (q : List Gate) : (s.setGate u q).launchLists = s.launchLists := rfl
@[simp] theorem State.setGate_queues (s : State) (u : Nat) (q : List Gate) : (s.setGate u q).queues = s.queues := rfl
@[simp] theorem State.setGate_contexts (s : State) (u : Nat) (q : List Gate) : (s.setGate u q).contexts = s.contexts := rfl
@[simp] theorem State.setGate_cores (s : State) (u : Nat) (q : List Gate) : (s.setGate u q).cores = s.cores := rfl
@[simp] theorem State.setGate_gates (s : State) (u : Nat) (q : List Gate) : (s.setGate u q).gates = AMap.put s.gates u q := rfl
@[simp] theorem State.setGate_gateStage (s : State) (u : Nat) (q : List Gate) : (s.setGate u q).gateStage = s.gateStage := rfl
@[simp] theorem State.setGate_arrays (s : State) (u : Nat) (q : List Gate) : (s.setGate u q).arrays = s.arrays := rfl
@[simp] theorem State.setGate_bstores (s : State) (u : Nat) (q : List Gate) : (s.setGate u q).bstores = s.bstores := rfl
@[simp] theorem State.setGate_quays (s : State) (u : Nat) (q : List Gate) : (s.setGate u q).quays = s.quays := rfl
@[simp] theorem State.setGate_qreplies (s : State) (u : Nat) (q : List Gate) : (s.setGate u q).qreplies = s.qreplies := rfl
@[simp] theorem State.setGate_recsOut (s : State) (u : Nat) (q : List Gate) : (s.setGate u q).recsOut = s.recsOut := rfl
@[simp] theorem State.setGate_mem (s : State) (u : Nat) (q : List Gate) : (s.setGate u q).mem = s.mem := rfl
@[simp] theorem State.setGate_pois (s : State) (u : Nat) (q : List Gate) : (s.setGate u q).pois = s.pois := rfl
@[simp] theorem State.setGate_late (s : State) (u : Nat) (q : List Gate) : (s.setGate u q).late = s.late := rfl
@[simp] theorem State.setGate_lateLog (s : State) (u : Nat) (q : List Gate) : (s.setGate u q).lateLog = s.lateLog := rfl
@[simp] theorem State.setGate_lsq (s : State) (u : Nat) (q : List Gate) : (s.setGate u q).lsq = s.lsq := rfl
@[simp] theorem State.setGate_l1 (s : State) (u : Nat) (q : List Gate) : (s.setGate u q).l1 = s.l1 := rfl
@[simp] theorem State.setGate_icache (s : State) (u : Nat) (q : List Gate) : (s.setGate u q).icache = s.icache := rfl
@[simp] theorem State.setGate_l2 (s : State) (u : Nat) (q : List Gate) : (s.setGate u q).l2 = s.l2 := rfl
@[simp] theorem State.setGate_tlb (s : State) (u : Nat) (q : List Gate) : (s.setGate u q).tlb = s.tlb := rfl
@[simp] theorem State.setGate_tcache (s : State) (u : Nat) (q : List Gate) : (s.setGate u q).tcache = s.tcache := rfl
@[simp] theorem State.setGate_faults (s : State) (u : Nat) (q : List Gate) : (s.setGate u q).faults = s.faults := rfl
@[simp] theorem State.setGate_dram (s : State) (u : Nat) (q : List Gate) : (s.setGate u q).dram = s.dram := rfl
@[simp] theorem State.setGate_dramPois (s : State) (u : Nat) (q : List Gate) : (s.setGate u q).dramPois = s.dramPois := rfl
@[simp] theorem State.setGate_dramUe (s : State) (u : Nat) (q : List Gate) : (s.setGate u q).dramUe = s.dramUe := rfl
@[simp] theorem State.setGate_packets (s : State) (u : Nat) (q : List Gate) : (s.setGate u q).packets = s.packets := rfl
@[simp] theorem State.setGate_writes (s : State) (u : Nat) (q : List Gate) : (s.setGate u q).writes = s.writes := rfl
@[simp] theorem State.setGate_portQ (s : State) (u : Nat) (q : List Gate) : (s.setGate u q).portQ = s.portQ := rfl
@[simp] theorem State.setGate_pendPar (s : State) (u : Nat) (q : List Gate) : (s.setGate u q).pendPar = s.pendPar := rfl
@[simp] theorem State.setGate_jobs (s : State) (u : Nat) (q : List Gate) : (s.setGate u q).jobs = s.jobs := rfl
@[simp] theorem State.setGate_locks (s : State) (u : Nat) (q : List Gate) : (s.setGate u q).locks = s.locks := rfl
@[simp] theorem State.setGate_dev (s : State) (u : Nat) (q : List Gate) : (s.setGate u q).dev = s.dev := rfl

/-! ### setQuay -/

@[simp] theorem State.setQuay_issueQ (s : State) (q : Nat) (x : Quay) : (s.setQuay q x).issueQ = s.issueQ := rfl
@[simp] theorem State.setQuay_cur (s : State) (q : Nat) (x : Quay) : (s.setQuay q x).cur = s.cur := rfl
@[simp] theorem State.setQuay_agenda (s : State) (q : Nat) (x : Quay) : (s.setQuay q x).agenda = s.agenda := rfl
@[simp] theorem State.setQuay_missed (s : State) (q : Nat) (x : Quay) : (s.setQuay q x).missed = s.missed := rfl
@[simp] theorem State.setQuay_seq (s : State) (q : Nat) (x : Quay) : (s.setQuay q x).seq = s.seq := rfl
@[simp] theorem State.setQuay_turn (s : State) (q : Nat) (x : Quay) : (s.setQuay q x).turn = s.turn := rfl
@[simp] theorem State.setQuay_groups (s : State) (q : Nat) (x : Quay) : (s.setQuay q x).groups = s.groups := rfl
@[simp] theorem State.setQuay_teams (s : State) (q : Nat) (x : Quay) : (s.setQuay q x).teams = s.teams := rfl
@[simp] theorem State.setQuay_shares (s : State) (q : Nat) (x : Quay) : (s.setQuay q x).shares = s.shares := rfl
@[simp] theorem State.setQuay_units (s : State) (q : Nat) (x : Quay) : (s.setQuay q x).units = s.units := rfl
@[simp] theorem State.setQuay_saved (s : State) (q : Nat) (x : Quay) : (s.setQuay q x).saved = s.saved := rfl
@[simp] theorem State.setQuay_launches (s : State) (q : Nat) (x : Quay) : (s.setQuay q x).launches = s.launches := rfl
@[simp] theorem State.setQuay_launchLists (s : State) (q : Nat) (x : Quay) : (s.setQuay q x).launchLists = s.launchLists := rfl
@[simp] theorem State.setQuay_queues (s : State) (q : Nat) (x : Quay) : (s.setQuay q x).queues = s.queues := rfl
@[simp] theorem State.setQuay_contexts (s : State) (q : Nat) (x : Quay) : (s.setQuay q x).contexts = s.contexts := rfl
@[simp] theorem State.setQuay_cores (s : State) (q : Nat) (x : Quay) : (s.setQuay q x).cores = s.cores := rfl
@[simp] theorem State.setQuay_gates (s : State) (q : Nat) (x : Quay) : (s.setQuay q x).gates = s.gates := rfl
@[simp] theorem State.setQuay_gateStage (s : State) (q : Nat) (x : Quay) : (s.setQuay q x).gateStage = s.gateStage := rfl
@[simp] theorem State.setQuay_arrays (s : State) (q : Nat) (x : Quay) : (s.setQuay q x).arrays = s.arrays := rfl
@[simp] theorem State.setQuay_bstores (s : State) (q : Nat) (x : Quay) : (s.setQuay q x).bstores = s.bstores := rfl
@[simp] theorem State.setQuay_quays (s : State) (q : Nat) (x : Quay) : (s.setQuay q x).quays = AMap.put s.quays q x := rfl
@[simp] theorem State.setQuay_qreplies (s : State) (q : Nat) (x : Quay) : (s.setQuay q x).qreplies = s.qreplies := rfl
@[simp] theorem State.setQuay_recsOut (s : State) (q : Nat) (x : Quay) : (s.setQuay q x).recsOut = s.recsOut := rfl
@[simp] theorem State.setQuay_mem (s : State) (q : Nat) (x : Quay) : (s.setQuay q x).mem = s.mem := rfl
@[simp] theorem State.setQuay_pois (s : State) (q : Nat) (x : Quay) : (s.setQuay q x).pois = s.pois := rfl
@[simp] theorem State.setQuay_late (s : State) (q : Nat) (x : Quay) : (s.setQuay q x).late = s.late := rfl
@[simp] theorem State.setQuay_lateLog (s : State) (q : Nat) (x : Quay) : (s.setQuay q x).lateLog = s.lateLog := rfl
@[simp] theorem State.setQuay_lsq (s : State) (q : Nat) (x : Quay) : (s.setQuay q x).lsq = s.lsq := rfl
@[simp] theorem State.setQuay_l1 (s : State) (q : Nat) (x : Quay) : (s.setQuay q x).l1 = s.l1 := rfl
@[simp] theorem State.setQuay_icache (s : State) (q : Nat) (x : Quay) : (s.setQuay q x).icache = s.icache := rfl
@[simp] theorem State.setQuay_l2 (s : State) (q : Nat) (x : Quay) : (s.setQuay q x).l2 = s.l2 := rfl
@[simp] theorem State.setQuay_tlb (s : State) (q : Nat) (x : Quay) : (s.setQuay q x).tlb = s.tlb := rfl
@[simp] theorem State.setQuay_tcache (s : State) (q : Nat) (x : Quay) : (s.setQuay q x).tcache = s.tcache := rfl
@[simp] theorem State.setQuay_faults (s : State) (q : Nat) (x : Quay) : (s.setQuay q x).faults = s.faults := rfl
@[simp] theorem State.setQuay_dram (s : State) (q : Nat) (x : Quay) : (s.setQuay q x).dram = s.dram := rfl
@[simp] theorem State.setQuay_dramPois (s : State) (q : Nat) (x : Quay) : (s.setQuay q x).dramPois = s.dramPois := rfl
@[simp] theorem State.setQuay_dramUe (s : State) (q : Nat) (x : Quay) : (s.setQuay q x).dramUe = s.dramUe := rfl
@[simp] theorem State.setQuay_packets (s : State) (q : Nat) (x : Quay) : (s.setQuay q x).packets = s.packets := rfl
@[simp] theorem State.setQuay_writes (s : State) (q : Nat) (x : Quay) : (s.setQuay q x).writes = s.writes := rfl
@[simp] theorem State.setQuay_portQ (s : State) (q : Nat) (x : Quay) : (s.setQuay q x).portQ = s.portQ := rfl
@[simp] theorem State.setQuay_pendPar (s : State) (q : Nat) (x : Quay) : (s.setQuay q x).pendPar = s.pendPar := rfl
@[simp] theorem State.setQuay_jobs (s : State) (q : Nat) (x : Quay) : (s.setQuay q x).jobs = s.jobs := rfl
@[simp] theorem State.setQuay_locks (s : State) (q : Nat) (x : Quay) : (s.setQuay q x).locks = s.locks := rfl
@[simp] theorem State.setQuay_dev (s : State) (q : Nat) (x : Quay) : (s.setQuay q x).dev = s.dev := rfl

/-! ### setDev -/

@[simp] theorem State.setDev_issueQ (s : State) (f : Dev → Dev) : (s.setDev f).issueQ = s.issueQ := rfl
@[simp] theorem State.setDev_cur (s : State) (f : Dev → Dev) : (s.setDev f).cur = s.cur := rfl
@[simp] theorem State.setDev_agenda (s : State) (f : Dev → Dev) : (s.setDev f).agenda = s.agenda := rfl
@[simp] theorem State.setDev_missed (s : State) (f : Dev → Dev) : (s.setDev f).missed = s.missed := rfl
@[simp] theorem State.setDev_seq (s : State) (f : Dev → Dev) : (s.setDev f).seq = s.seq := rfl
@[simp] theorem State.setDev_turn (s : State) (f : Dev → Dev) : (s.setDev f).turn = s.turn := rfl
@[simp] theorem State.setDev_groups (s : State) (f : Dev → Dev) : (s.setDev f).groups = s.groups := rfl
@[simp] theorem State.setDev_teams (s : State) (f : Dev → Dev) : (s.setDev f).teams = s.teams := rfl
@[simp] theorem State.setDev_shares (s : State) (f : Dev → Dev) : (s.setDev f).shares = s.shares := rfl
@[simp] theorem State.setDev_units (s : State) (f : Dev → Dev) : (s.setDev f).units = s.units := rfl
@[simp] theorem State.setDev_saved (s : State) (f : Dev → Dev) : (s.setDev f).saved = s.saved := rfl
@[simp] theorem State.setDev_launches (s : State) (f : Dev → Dev) : (s.setDev f).launches = s.launches := rfl
@[simp] theorem State.setDev_launchLists (s : State) (f : Dev → Dev) : (s.setDev f).launchLists = s.launchLists := rfl
@[simp] theorem State.setDev_queues (s : State) (f : Dev → Dev) : (s.setDev f).queues = s.queues := rfl
@[simp] theorem State.setDev_contexts (s : State) (f : Dev → Dev) : (s.setDev f).contexts = s.contexts := rfl
@[simp] theorem State.setDev_cores (s : State) (f : Dev → Dev) : (s.setDev f).cores = s.cores := rfl
@[simp] theorem State.setDev_gates (s : State) (f : Dev → Dev) : (s.setDev f).gates = s.gates := rfl
@[simp] theorem State.setDev_gateStage (s : State) (f : Dev → Dev) : (s.setDev f).gateStage = s.gateStage := rfl
@[simp] theorem State.setDev_arrays (s : State) (f : Dev → Dev) : (s.setDev f).arrays = s.arrays := rfl
@[simp] theorem State.setDev_bstores (s : State) (f : Dev → Dev) : (s.setDev f).bstores = s.bstores := rfl
@[simp] theorem State.setDev_quays (s : State) (f : Dev → Dev) : (s.setDev f).quays = s.quays := rfl
@[simp] theorem State.setDev_qreplies (s : State) (f : Dev → Dev) : (s.setDev f).qreplies = s.qreplies := rfl
@[simp] theorem State.setDev_recsOut (s : State) (f : Dev → Dev) : (s.setDev f).recsOut = s.recsOut := rfl
@[simp] theorem State.setDev_mem (s : State) (f : Dev → Dev) : (s.setDev f).mem = s.mem := rfl
@[simp] theorem State.setDev_pois (s : State) (f : Dev → Dev) : (s.setDev f).pois = s.pois := rfl
@[simp] theorem State.setDev_late (s : State) (f : Dev → Dev) : (s.setDev f).late = s.late := rfl
@[simp] theorem State.setDev_lateLog (s : State) (f : Dev → Dev) : (s.setDev f).lateLog = s.lateLog := rfl
@[simp] theorem State.setDev_lsq (s : State) (f : Dev → Dev) : (s.setDev f).lsq = s.lsq := rfl
@[simp] theorem State.setDev_l1 (s : State) (f : Dev → Dev) : (s.setDev f).l1 = s.l1 := rfl
@[simp] theorem State.setDev_icache (s : State) (f : Dev → Dev) : (s.setDev f).icache = s.icache := rfl
@[simp] theorem State.setDev_l2 (s : State) (f : Dev → Dev) : (s.setDev f).l2 = s.l2 := rfl
@[simp] theorem State.setDev_tlb (s : State) (f : Dev → Dev) : (s.setDev f).tlb = s.tlb := rfl
@[simp] theorem State.setDev_tcache (s : State) (f : Dev → Dev) : (s.setDev f).tcache = s.tcache := rfl
@[simp] theorem State.setDev_faults (s : State) (f : Dev → Dev) : (s.setDev f).faults = s.faults := rfl
@[simp] theorem State.setDev_dram (s : State) (f : Dev → Dev) : (s.setDev f).dram = s.dram := rfl
@[simp] theorem State.setDev_dramPois (s : State) (f : Dev → Dev) : (s.setDev f).dramPois = s.dramPois := rfl
@[simp] theorem State.setDev_dramUe (s : State) (f : Dev → Dev) : (s.setDev f).dramUe = s.dramUe := rfl
@[simp] theorem State.setDev_packets (s : State) (f : Dev → Dev) : (s.setDev f).packets = s.packets := rfl
@[simp] theorem State.setDev_writes (s : State) (f : Dev → Dev) : (s.setDev f).writes = s.writes := rfl
@[simp] theorem State.setDev_portQ (s : State) (f : Dev → Dev) : (s.setDev f).portQ = s.portQ := rfl
@[simp] theorem State.setDev_pendPar (s : State) (f : Dev → Dev) : (s.setDev f).pendPar = s.pendPar := rfl
@[simp] theorem State.setDev_jobs (s : State) (f : Dev → Dev) : (s.setDev f).jobs = s.jobs := rfl
@[simp] theorem State.setDev_locks (s : State) (f : Dev → Dev) : (s.setDev f).locks = s.locks := rfl
@[simp] theorem State.setDev_dev (s : State) (f : Dev → Dev) : (s.setDev f).dev = f s.dev := rfl

/-! ### setByte -/

@[simp] theorem State.setByte_issueQ (s : State) (pa : Nat) (b : Byte) : (s.setByte pa b).issueQ = s.issueQ := rfl
@[simp] theorem State.setByte_cur (s : State) (pa : Nat) (b : Byte) : (s.setByte pa b).cur = s.cur := rfl
@[simp] theorem State.setByte_agenda (s : State) (pa : Nat) (b : Byte) : (s.setByte pa b).agenda = s.agenda := rfl
@[simp] theorem State.setByte_missed (s : State) (pa : Nat) (b : Byte) : (s.setByte pa b).missed = s.missed := rfl
@[simp] theorem State.setByte_seq (s : State) (pa : Nat) (b : Byte) : (s.setByte pa b).seq = s.seq := rfl
@[simp] theorem State.setByte_turn (s : State) (pa : Nat) (b : Byte) : (s.setByte pa b).turn = s.turn := rfl
@[simp] theorem State.setByte_groups (s : State) (pa : Nat) (b : Byte) : (s.setByte pa b).groups = s.groups := rfl
@[simp] theorem State.setByte_teams (s : State) (pa : Nat) (b : Byte) : (s.setByte pa b).teams = s.teams := rfl
@[simp] theorem State.setByte_shares (s : State) (pa : Nat) (b : Byte) : (s.setByte pa b).shares = s.shares := rfl
@[simp] theorem State.setByte_units (s : State) (pa : Nat) (b : Byte) : (s.setByte pa b).units = s.units := rfl
@[simp] theorem State.setByte_saved (s : State) (pa : Nat) (b : Byte) : (s.setByte pa b).saved = s.saved := rfl
@[simp] theorem State.setByte_launches (s : State) (pa : Nat) (b : Byte) : (s.setByte pa b).launches = s.launches := rfl
@[simp] theorem State.setByte_launchLists (s : State) (pa : Nat) (b : Byte) : (s.setByte pa b).launchLists = s.launchLists := rfl
@[simp] theorem State.setByte_queues (s : State) (pa : Nat) (b : Byte) : (s.setByte pa b).queues = s.queues := rfl
@[simp] theorem State.setByte_contexts (s : State) (pa : Nat) (b : Byte) : (s.setByte pa b).contexts = s.contexts := rfl
@[simp] theorem State.setByte_cores (s : State) (pa : Nat) (b : Byte) : (s.setByte pa b).cores = s.cores := rfl
@[simp] theorem State.setByte_gates (s : State) (pa : Nat) (b : Byte) : (s.setByte pa b).gates = s.gates := rfl
@[simp] theorem State.setByte_gateStage (s : State) (pa : Nat) (b : Byte) : (s.setByte pa b).gateStage = s.gateStage := rfl
@[simp] theorem State.setByte_arrays (s : State) (pa : Nat) (b : Byte) : (s.setByte pa b).arrays = s.arrays := rfl
@[simp] theorem State.setByte_bstores (s : State) (pa : Nat) (b : Byte) : (s.setByte pa b).bstores = s.bstores := rfl
@[simp] theorem State.setByte_quays (s : State) (pa : Nat) (b : Byte) : (s.setByte pa b).quays = s.quays := rfl
@[simp] theorem State.setByte_qreplies (s : State) (pa : Nat) (b : Byte) : (s.setByte pa b).qreplies = s.qreplies := rfl
@[simp] theorem State.setByte_recsOut (s : State) (pa : Nat) (b : Byte) : (s.setByte pa b).recsOut = s.recsOut := rfl
@[simp] theorem State.setByte_mem (s : State) (pa : Nat) (b : Byte) : (s.setByte pa b).mem = AMap.set 0 s.mem pa b := rfl
@[simp] theorem State.setByte_pois (s : State) (pa : Nat) (b : Byte) : (s.setByte pa b).pois = s.pois := rfl
@[simp] theorem State.setByte_late (s : State) (pa : Nat) (b : Byte) : (s.setByte pa b).late = s.late := rfl
@[simp] theorem State.setByte_lateLog (s : State) (pa : Nat) (b : Byte) : (s.setByte pa b).lateLog = s.lateLog := rfl
@[simp] theorem State.setByte_lsq (s : State) (pa : Nat) (b : Byte) : (s.setByte pa b).lsq = s.lsq := rfl
@[simp] theorem State.setByte_l1 (s : State) (pa : Nat) (b : Byte) : (s.setByte pa b).l1 = s.l1 := rfl
@[simp] theorem State.setByte_icache (s : State) (pa : Nat) (b : Byte) : (s.setByte pa b).icache = s.icache := rfl
@[simp] theorem State.setByte_l2 (s : State) (pa : Nat) (b : Byte) : (s.setByte pa b).l2 = s.l2 := rfl
@[simp] theorem State.setByte_tlb (s : State) (pa : Nat) (b : Byte) : (s.setByte pa b).tlb = s.tlb := rfl
@[simp] theorem State.setByte_tcache (s : State) (pa : Nat) (b : Byte) : (s.setByte pa b).tcache = s.tcache := rfl
@[simp] theorem State.setByte_faults (s : State) (pa : Nat) (b : Byte) : (s.setByte pa b).faults = s.faults := rfl
@[simp] theorem State.setByte_dram (s : State) (pa : Nat) (b : Byte) : (s.setByte pa b).dram = s.dram := rfl
@[simp] theorem State.setByte_dramPois (s : State) (pa : Nat) (b : Byte) : (s.setByte pa b).dramPois = s.dramPois := rfl
@[simp] theorem State.setByte_dramUe (s : State) (pa : Nat) (b : Byte) : (s.setByte pa b).dramUe = s.dramUe := rfl
@[simp] theorem State.setByte_packets (s : State) (pa : Nat) (b : Byte) : (s.setByte pa b).packets = s.packets := rfl
@[simp] theorem State.setByte_writes (s : State) (pa : Nat) (b : Byte) : (s.setByte pa b).writes = s.writes := rfl
@[simp] theorem State.setByte_portQ (s : State) (pa : Nat) (b : Byte) : (s.setByte pa b).portQ = s.portQ := rfl
@[simp] theorem State.setByte_pendPar (s : State) (pa : Nat) (b : Byte) : (s.setByte pa b).pendPar = s.pendPar := rfl
@[simp] theorem State.setByte_jobs (s : State) (pa : Nat) (b : Byte) : (s.setByte pa b).jobs = s.jobs := rfl
@[simp] theorem State.setByte_locks (s : State) (pa : Nat) (b : Byte) : (s.setByte pa b).locks = s.locks := rfl
@[simp] theorem State.setByte_dev (s : State) (pa : Nat) (b : Byte) : (s.setByte pa b).dev = s.dev := rfl

/-! ### bump -/

@[simp] theorem State.bump_issueQ (s : State) : s.bump.issueQ = s.issueQ := rfl
@[simp] theorem State.bump_cur (s : State) : s.bump.cur = s.cur := rfl
@[simp] theorem State.bump_agenda (s : State) : s.bump.agenda = s.agenda := rfl
@[simp] theorem State.bump_missed (s : State) : s.bump.missed = s.missed := rfl
@[simp] theorem State.bump_seq (s : State) : s.bump.seq = s.seq + 1 := rfl
@[simp] theorem State.bump_turn (s : State) : s.bump.turn = s.turn := rfl
@[simp] theorem State.bump_groups (s : State) : s.bump.groups = s.groups := rfl
@[simp] theorem State.bump_teams (s : State) : s.bump.teams = s.teams := rfl
@[simp] theorem State.bump_shares (s : State) : s.bump.shares = s.shares := rfl
@[simp] theorem State.bump_units (s : State) : s.bump.units = s.units := rfl
@[simp] theorem State.bump_saved (s : State) : s.bump.saved = s.saved := rfl
@[simp] theorem State.bump_launches (s : State) : s.bump.launches = s.launches := rfl
@[simp] theorem State.bump_launchLists (s : State) : s.bump.launchLists = s.launchLists := rfl
@[simp] theorem State.bump_queues (s : State) : s.bump.queues = s.queues := rfl
@[simp] theorem State.bump_contexts (s : State) : s.bump.contexts = s.contexts := rfl
@[simp] theorem State.bump_cores (s : State) : s.bump.cores = s.cores := rfl
@[simp] theorem State.bump_gates (s : State) : s.bump.gates = s.gates := rfl
@[simp] theorem State.bump_gateStage (s : State) : s.bump.gateStage = s.gateStage := rfl
@[simp] theorem State.bump_arrays (s : State) : s.bump.arrays = s.arrays := rfl
@[simp] theorem State.bump_bstores (s : State) : s.bump.bstores = s.bstores := rfl
@[simp] theorem State.bump_quays (s : State) : s.bump.quays = s.quays := rfl
@[simp] theorem State.bump_qreplies (s : State) : s.bump.qreplies = s.qreplies := rfl
@[simp] theorem State.bump_recsOut (s : State) : s.bump.recsOut = s.recsOut := rfl
@[simp] theorem State.bump_mem (s : State) : s.bump.mem = s.mem := rfl
@[simp] theorem State.bump_pois (s : State) : s.bump.pois = s.pois := rfl
@[simp] theorem State.bump_late (s : State) : s.bump.late = s.late := rfl
@[simp] theorem State.bump_lateLog (s : State) : s.bump.lateLog = s.lateLog := rfl
@[simp] theorem State.bump_lsq (s : State) : s.bump.lsq = s.lsq := rfl
@[simp] theorem State.bump_l1 (s : State) : s.bump.l1 = s.l1 := rfl
@[simp] theorem State.bump_icache (s : State) : s.bump.icache = s.icache := rfl
@[simp] theorem State.bump_l2 (s : State) : s.bump.l2 = s.l2 := rfl
@[simp] theorem State.bump_tlb (s : State) : s.bump.tlb = s.tlb := rfl
@[simp] theorem State.bump_tcache (s : State) : s.bump.tcache = s.tcache := rfl
@[simp] theorem State.bump_faults (s : State) : s.bump.faults = s.faults := rfl
@[simp] theorem State.bump_dram (s : State) : s.bump.dram = s.dram := rfl
@[simp] theorem State.bump_dramPois (s : State) : s.bump.dramPois = s.dramPois := rfl
@[simp] theorem State.bump_dramUe (s : State) : s.bump.dramUe = s.dramUe := rfl
@[simp] theorem State.bump_packets (s : State) : s.bump.packets = s.packets := rfl
@[simp] theorem State.bump_writes (s : State) : s.bump.writes = s.writes := rfl
@[simp] theorem State.bump_portQ (s : State) : s.bump.portQ = s.portQ := rfl
@[simp] theorem State.bump_pendPar (s : State) : s.bump.pendPar = s.pendPar := rfl
@[simp] theorem State.bump_jobs (s : State) : s.bump.jobs = s.jobs := rfl
@[simp] theorem State.bump_locks (s : State) : s.bump.locks = s.locks := rfl
@[simp] theorem State.bump_dev (s : State) : s.bump.dev = s.dev := rfl

end Sys2Proof.Machine
end

