-- ==== Sys2Proof/Laws/Tables.lean ====
section
/-! SUPPORT. What the tables and the byte order do: a read after a write, and the canonical form that every write keeps. -/

namespace Sys2Proof.Machine

variable {β : Type}

@[simp] theorem AMap.get?_nil (a : Nat) : AMap.get? ([] : AMap β) a = none := rfl

theorem AMap.get?_put (m : AMap β) (a b : Nat) (x : β) :
    AMap.get? (AMap.put m a x) b = if a = b then some x else AMap.get? m b := by
  induction m with
  | nil => simp [AMap.put, AMap.get?, eq_comm]
  | cons e m ih =>
    obtain ⟨k, v⟩ := e
    simp only [AMap.put]
    split
    · simp [AMap.get?, eq_comm]
    · split
      · subst_vars
        by_cases h : b = k <;> simp [AMap.get?, eq_comm, h]
      · simp only [AMap.get?, ih]
        by_cases h : b = k
        · subst h; simp [*]
        · simp [h]

@[simp] theorem AMap.get?_put_self (m : AMap β) (a : Nat) (x : β) : AMap.get? (AMap.put m a x) a = some x := by
  simp [AMap.get?_put]

theorem AMap.get?_put_ne (m : AMap β) {a b : Nat} (x : β) (h : a ≠ b) :
    AMap.get? (AMap.put m a x) b = AMap.get? m b := by
  simp [AMap.get?_put, h]

@[simp] theorem AMap.put_put (m : AMap β) (a : Nat) (x y : β) : AMap.put (AMap.put m a x) a y = AMap.put m a y := by
  induction m with
  | nil => simp [AMap.put]
  | cons e m ih =>
    obtain ⟨k, v⟩ := e
    simp only [AMap.put]
    by_cases h1 : a < k
    · simp [h1, AMap.put]
    · by_cases h2 : a = k
      · simp [h2, AMap.put]
      · simp [h1, h2, AMap.put, ih]

theorem AMap.get?_del (m : AMap β) (a b : Nat) :
    AMap.get? (AMap.del m a) b = if a = b then none else AMap.get? m b := by
  induction m with
  | nil => simp [AMap.del]
  | cons e m ih =>
    obtain ⟨k, v⟩ := e
    simp only [AMap.del, List.filter_cons]
    by_cases hk : k = a
    · subst hk
      by_cases hb : k = b
      · subst hb; simpa [AMap.del] using ih
      · simpa [AMap.del, AMap.get?, Ne.symm hb, hb] using ih
    · by_cases hb : b = k
      · subst hb; simp [AMap.get?, hk, Ne.symm hk]
      · simpa [AMap.del, AMap.get?, hk, hb] using ih

theorem AMap.get?_upd (m : AMap β) (a b : Nat) (f : β → β) :
    AMap.get? (AMap.upd m a f) b = if a = b then (AMap.get? m b).map f else AMap.get? m b := by
  unfold AMap.upd
  by_cases h : a = b
  · subst h
    cases e : AMap.get? m a <;> simp [e]
  · cases e : AMap.get? m a <;> simp [h, AMap.get?_put]

theorem AMap.upd_upd (m : AMap β) (a : Nat) (f g : β → β) :
    AMap.upd (AMap.upd m a f) a g = AMap.upd m a fun x => g (f x) := by
  unfold AMap.upd
  cases e : AMap.get? m a <;> simp [e]

/-- A table read after a write that removes defaults. -/
theorem AMap.getD_set [DecidableEq β] (d : β) (m : AMap β) (a b : Nat) (x : β) :
    AMap.getD (AMap.set d m a x) b d = if a = b then x else AMap.getD m b d := by
  unfold AMap.set AMap.getD
  by_cases hx : x = d
  · subst hx; simp only [if_true, AMap.get?_del]; split <;> simp
  · simp only [hx, if_false, AMap.get?_put]; split <;> simp

/-! ### Canonical form -/

theorem AMap.sortedFrom_mono {lo lo' : Nat} (h : lo' ≤ lo) {m : AMap β} (hs : AMap.sortedFrom lo m = true) :
    AMap.sortedFrom lo' m = true := by
  cases m with
  | nil => rfl
  | cons e m =>
    simp only [AMap.sortedFrom, Bool.and_eq_true, decide_eq_true_eq] at *
    exact ⟨h.trans hs.1, hs.2⟩

theorem AMap.sortedFrom_put {lo : Nat} {m : AMap β} (a : Nat) (x : β) (ha : lo ≤ a)
    (hs : AMap.sortedFrom lo m = true) : AMap.sortedFrom lo (AMap.put m a x) = true := by
  induction m generalizing lo with
  | nil => simp [AMap.put, AMap.sortedFrom, ha]
  | cons e m ih =>
    obtain ⟨k, v⟩ := e
    simp only [AMap.sortedFrom, Bool.and_eq_true, decide_eq_true_eq] at hs
    simp only [AMap.put]
    split
    · simp only [AMap.sortedFrom, Bool.and_eq_true, decide_eq_true_eq]; exact ⟨ha, by omega, hs.2⟩
    · split
      · subst_vars; simpa [AMap.sortedFrom] using ⟨ha, hs.2⟩
      · simp only [AMap.sortedFrom, Bool.and_eq_true, decide_eq_true_eq]
        exact ⟨hs.1, ih (by omega) hs.2⟩

theorem AMap.sortedFrom_del {lo : Nat} {m : AMap β} (a : Nat) (hs : AMap.sortedFrom lo m = true) :
    AMap.sortedFrom lo (AMap.del m a) = true := by
  induction m generalizing lo with
  | nil => rfl
  | cons e m ih =>
    obtain ⟨k, v⟩ := e
    simp only [AMap.sortedFrom, Bool.and_eq_true, decide_eq_true_eq] at hs
    simp only [AMap.del, List.filter_cons]
    split
    · simp only [AMap.sortedFrom, Bool.and_eq_true, decide_eq_true_eq]; exact ⟨hs.1, ih hs.2⟩
    · exact AMap.sortedFrom_mono (by omega) (ih hs.2)

theorem AMap.mem_put {m : AMap β} {a : Nat} {x : β} {e : Nat × β} (h : e ∈ AMap.put m a x) : e = (a, x) ∨ e ∈ m := by
  induction m with
  | nil => simpa [AMap.put] using h
  | cons f m ih =>
    obtain ⟨k, v⟩ := f
    simp only [AMap.put] at h
    split at h
    · simpa using h
    · split at h
      · rcases List.mem_cons.1 h with h | h
        · exact .inl h
        · exact .inr (List.mem_cons_of_mem _ h)
      · rcases List.mem_cons.1 h with h | h
        · exact .inr (h ▸ List.mem_cons_self)
        · exact (ih h).imp_right (List.mem_cons_of_mem _)

/-- A byte written keeps the memory's canonical form. -/
theorem Memory.wf_set (m : AMap Byte) (a : Nat) (x : Byte) (h : Memory.wf m = true) :
    Memory.wf (AMap.set 0 m a x) = true := by
  simp only [Memory.wf, AMap.sorted, Bool.and_eq_true, List.all_eq_true, bne_iff_ne, ne_eq] at *
  unfold AMap.set
  split
  · exact ⟨AMap.sortedFrom_del a h.1, fun e he => h.2 e (List.mem_of_mem_filter he)⟩
  · refine ⟨AMap.sortedFrom_put a x (Nat.zero_le _) h.1, fun e he => ?_⟩
    rcases AMap.mem_put he with rfl | he
    · assumption
    · exact h.2 e he

/-! ### Bytes -/

@[simp] theorem leBytes_length (n x : Nat) : (leBytes n x).length = n := by
  induction n generalizing x with
  | zero => rfl
  | succ n ih => simp [leBytes, ih]

theorem leNat_leBytes (n x : Nat) : leNat (leBytes n x) = x % 256 ^ n := by
  induction n generalizing x with
  | zero => simp [leBytes, leNat, Nat.mod_one]
  | succ n ih =>
    rw [leBytes, leNat, ih, BitVec.toNat_ofNat, show 256 ^ (n + 1) = 256 * 256 ^ n by ring, Nat.mod_mul]

@[simp] theorem leWord_leBytes (w : Word) : leWord (leBytes 4 w.toNat) = w := by
  simp only [leWord, leNat_leBytes]
  apply BitVec.eq_of_toNat_eq
  simpa using w.isLt

end Sys2Proof.Machine
end

