-- ==== Sys2Proof/Laws/Memory.lean ====
section
/-! SUPPORT. The operations on memory keep its canonical form, and what each of them leaves alone (R150 to R163, R171). -/

namespace Sys2Proof.Machine

/-- Reset memory is canonical. -/
theorem reset_wf : Memory.wf State.reset.mem = true ∧ Memory.wf State.reset.dram = true := by decide

theorem State.byte_setByte (s : State) (a b : Nat) (x : Byte) : (s.setByte a x).byte b = if a = b then x else s.byte b := by
  simp only [State.byte, State.setByte, AMap.getD_set]

theorem Memory.wf_setByte (s : State) (a : Nat) (x : Byte) (h : Memory.wf s.mem = true) : Memory.wf (s.setByte a x).mem = true :=
  Memory.wf_set s.mem a x h

/-! ### Writes at the home -/

theorem State.writeByte_mem (s : State) (a : Nat) (x : Byte) : (s.writeByte a x).mem = AMap.set 0 s.mem a x := by
  simp only [State.writeByte]; split <;> split <;> (try split) <;> rfl

/-! ### What keeps the coherent memory (R151, R159, R171) -/

/-- What the memory side of the package never changes by itself: the coherent bytes, and what runs. -/
def State.front (s : State) : AMap Byte × AMap Group × List LsOp × AMap Team × AMap Share × AMap CUnit × AMap Context × AMap UQueue × AMap Launch × Nat × List (List FaultEntry) :=
  (s.mem, s.groups, s.lsq, s.teams, s.shares, s.units, s.contexts, s.queues, s.launches, s.seq, s.faults)

/-- The coherent bytes and what runs are untouched, and the cells stay canonical. -/
def State.KeepsMem (s u : State) : Prop := u.front = s.front ∧ (Memory.wf s.dram = true → Memory.wf u.dram = true)

theorem State.KeepsMem.refl (s : State) : s.KeepsMem s := ⟨rfl, id⟩

/-- A step that touches neither. -/
theorem State.KeepsMem.of_eq {s u : State} (hm : u.front = s.front) (hd : u.dram = s.dram) : s.KeepsMem u := ⟨hm, fun h => hd ▸ h⟩

theorem State.KeepsMem.mem {s u : State} (h : s.KeepsMem u) : u.mem = s.mem := congrArg (·.1) h.1
theorem State.KeepsMem.groups {s u : State} (h : s.KeepsMem u) : u.groups = s.groups := congrArg (·.2.1) h.1
theorem State.KeepsMem.lsq {s u : State} (h : s.KeepsMem u) : u.lsq = s.lsq := congrArg (·.2.2.1) h.1

theorem State.KeepsMem.trans {s t u : State} (h : s.KeepsMem t) (g : t.KeepsMem u) : s.KeepsMem u :=
  ⟨g.1.trans h.1, fun w => g.2 (h.2 w)⟩

theorem State.KeepsMem.foldl {α : Type} {f : State → α → State} (h : ∀ (s : State) (a : α), s.KeepsMem (f s a)) :
    ∀ (l : List α) (s : State), s.KeepsMem (l.foldl f s)
  | [], s => .refl s
  | a :: l, s => (h s a).trans (State.KeepsMem.foldl h l _)

theorem State.setDram_keeps : ∀ (bs : List Byte) (s : State) (t off : Nat), s.KeepsMem (s.setDram t off bs)
  | [], s, _, _ => .refl s
  | b :: bs, s, t, off =>
    State.KeepsMem.trans (t := { s with dram := AMap.set 0 s.dram (dramKey t off) b }) ⟨rfl, fun h => Memory.wf_set _ _ _ h⟩
      (State.setDram_keeps bs _ t (off + 1))

theorem State.markWord_keeps (s : State) (t off : Nat) (b : Bool) : s.KeepsMem (s.markWord t off b) := .of_eq rfl rfl

theorem State.writeWord_keeps (s : State) (t off : Nat) (bs : List Byte) : s.KeepsMem (s.writeWord t off bs) :=
  (State.setDram_keeps bs s t off).trans (State.markWord_keeps _ t off false)

theorem State.setStack_keeps (s : State) (t : Nat) (f : StackHealth → StackHealth) : s.KeepsMem (s.setStack t f) := by
  simp only [State.setStack]; split <;> exact .of_eq rfl rfl

theorem State.meet_keeps (s : State) (t off : Nat) (e : EccState) : s.KeepsMem (s.meet t off e) := by
  simp only [State.meet]; split
  · exact .refl s
  · cases e
    · exact .refl s
    · exact State.setStack_keeps s t _
    · exact State.KeepsMem.trans (t := { s with dramUe := setIns (eccKey t off) s.dramUe }) (.of_eq rfl rfl) (State.setStack_keeps _ t _)

theorem State.meetAll_keeps (s : State) (t : Nat) (offs : List Nat) (es : List EccState) : s.KeepsMem (s.meetAll t offs es) :=
  State.KeepsMem.foldl (f := fun (s : State) (e : Nat × EccState) => s.meet t e.1 e.2) (fun s e => State.meet_keeps s t e.1 e.2) _ s

theorem State.rebuild_keeps (s : State) (t off : Nat) : s.KeepsMem (s.rebuild t off) := by
  simp only [State.rebuild]; split
  · exact .refl s
  · split
    · exact State.markWord_keeps s t off true
    · split
      · exact State.writeWord_keeps s t off _
      · exact State.markWord_keeps s t off true

theorem State.failPartners_keeps (s : State) (ps : List Nat) (off : Nat) : s.KeepsMem (s.failPartners ps off) :=
  State.KeepsMem.foldl (fun s k => by split; exacts [.refl s, State.markWord_keeps s k off true]) _ s

theorem State.parityOnly_keeps (s : State) (t off : Nat) (b : Beat) : s.KeepsMem (s.parityOnly t off b) := by
  simp only [State.parityOnly]
  have fail := fun ps => (State.failPartners_keeps s ps off).trans (State.markWord_keeps _ (parityStack (off / 256)) off true)
  split
  · exact .refl s
  · split
    · exact State.markWord_keeps s _ off true
    · split
      · split
        · exact State.writeWord_keeps s _ off _
        · exact fail _
      · split
        · exact State.writeWord_keeps s _ off _
        · exact fail _

theorem State.putWord_keeps (s : State) (t off : Nat) (b : Beat) : s.KeepsMem (s.putWord t off b) := by
  have hr := State.rebuild_keeps s t off
  simp only [State.putWord]
  split
  · split
    · exact hr.trans (State.markWord_keeps _ t off true)
    · split
      · exact hr
      · exact hr.trans (State.writeWord_keeps _ t off _)
  · split
    · split
      · exact .refl s
      · exact State.parityOnly_keeps s t off b
    · split
      · exact hr.trans (State.markWord_keeps _ t off true)
      · split
        · split
          · exact hr
          · split
            · exact hr.trans (State.writeWord_keeps _ t off _)
            · split
              · exact hr.trans ((State.writeWord_keeps _ _ off _).trans (State.writeWord_keeps _ t off _))
              · exact hr.trans ((State.markWord_keeps _ _ off true).trans (State.writeWord_keeps _ t off _))
        · split
          · exact hr.trans (State.setDram_keeps _ _ t off)
          · exact hr.trans ((State.setDram_keeps _ _ t off).trans (State.setDram_keeps _ _ _ off))

theorem State.send_keeps (s : State) (p : Packet) : s.KeepsMem (s.send p) := .of_eq rfl rfl

theorem State.sendLocks_keeps (s : State) (j : Nat) (J : StripeJob) : s.KeepsMem (s.sendLocks j J) :=
  State.KeepsMem.trans (t := { s with jobs := AMap.put s.jobs j { J with started := true } }) (.of_eq rfl rfl)
    (State.KeepsMem.foldl (fun s _ => State.send_keeps s _) _ _)

theorem State.startJob_keeps (s : State) (t : Nat) (p : Packet) (e : Option Nat) : s.KeepsMem (s.startJob t p e) := by
  simp only [State.startJob]; split
  · exact .of_eq rfl rfl
  · exact State.sendLocks_keeps s _ _

theorem State.repair_keeps (s : State) (t : Nat) (offs : List Nat) : s.KeepsMem (s.repair t offs) := by
  simp only [State.repair]; split
  · exact .refl s
  · split
    · exact State.KeepsMem.foldl (fun s off => State.rebuild_keeps s t off) _ s
    · split
      · exact .refl s
      · exact State.startJob_keeps s t _ none

theorem State.serveRead_keeps (s : State) (p : Packet) : s.KeepsMem (s.serveRead p) := by
  simp only [State.serveRead]
  generalize hu : (if (decide (p.target < 16) && s.isLost p.target) = true then s else _) = u
  have hk : s.KeepsMem u := by
    rw [← hu]; split
    · exact .refl s
    · exact State.meetAll_keeps s _ _ _
  split
  · exact hk.trans (State.startJob_keeps u _ _ none)
  · refine hk.trans (State.KeepsMem.trans ?_ (State.send_keeps _ _))
    split
    · exact .refl u
    · exact State.repair_keeps u _ _

theorem State.ackWrite_keeps (s : State) (k : Nat) (p : Packet) : s.KeepsMem (s.ackWrite k p) := .of_eq rfl rfl

theorem State.foldl_putWord_keeps (s : State) (t : Nat) (p : Packet) :
    s.KeepsMem (p.words.foldl (fun (s : State) w => s.putWord t w.2 (p.beat w.1)) s) :=
  State.KeepsMem.foldl (fun s (w : Nat × Nat) => State.putWord_keeps s t w.2 (p.beat w.1)) _ s

theorem State.applyWrite_keeps (s : State) (k : Nat) (p : Packet) : s.KeepsMem (s.applyWrite k p) := by
  have hw : ∀ news : List (List Byte), s.KeepsMem
      (p.words.foldl (fun s w => if (p.beat w.1).pois = true then s.markWord p.target w.2 true else s.setDram p.target w.2 (news.getD w.1 [])) s) :=
    fun news => State.KeepsMem.foldl (fun s w => by split; exacts [State.markWord_keeps s _ _ true, State.setDram_keeps _ s _ _]) _ s
  simp only [State.applyWrite]
  split
  · exact (State.foldl_putWord_keeps s p.target p).trans (State.ackWrite_keeps _ k p)
  · split
    · exact (hw _).trans (State.ackWrite_keeps _ k p)
    · exact (hw _).trans (.of_eq rfl rfl)

theorem State.serveWrite_keeps (s : State) (k : Nat) : s.KeepsMem (s.serveWrite k) := by
  simp only [State.serveWrite]
  split
  · exact .refl s
  · split
    · exact .refl s
    · split
      · exact (State.meetAll_keeps s _ _ _).trans (State.applyWrite_keeps _ k _)
      · split
        · split
          · exact State.ackWrite_keeps s k _
          · exact State.startJob_keeps s _ _ _
        · split
          · exact .refl s
          · split
            · exact (State.meetAll_keeps s _ _ _).trans (State.applyWrite_keeps _ k _)
            · split
              · exact (State.meetAll_keeps s _ _ _).trans ((State.foldl_putWord_keeps _ _ _).trans (State.ackWrite_keeps _ k _))
              · exact (State.meetAll_keeps s _ _ _).trans (State.startJob_keeps _ _ _ _)

theorem State.accept_keeps (s : State) (p : Packet) : s.KeepsMem (s.accept p) := by
  have hm : ∀ c : Bool, s.KeepsMem (if c = true then s.countMiss p.port else s) := fun c => by cases c <;> exact .of_eq rfl rfl
  simp only [State.accept]
  split
  · exact (hm _).trans (State.KeepsMem.trans (.of_eq rfl rfl) (State.serveWrite_keeps _ _))
  · exact (hm _).trans (State.serveRead_keeps _ _)

/-- A request of a port leaves the coherent bytes alone. -/
theorem State.request_keeps (s : State) (p : Packet) : s.KeepsMem (s.request p) := by
  simp only [State.request]; split
  · exact State.accept_keeps s p
  · exact .of_eq rfl rfl

theorem State.writeBack_keeps (s : State) (line : Nat) : s.KeepsMem (s.writeBack line) := by
  simp only [State.writeBack]
  split
  · exact .refl s
  · split
    · exact .refl s
    · split
      · exact State.KeepsMem.trans (.of_eq rfl rfl) (State.request_keeps _ _)
      · exact State.KeepsMem.trans (.of_eq rfl rfl) (State.request_keeps _ _)
      · exact .of_eq rfl rfl

theorem State.dropTag_keeps (s : State) (sb : Nat) : s.KeepsMem (s.dropTag sb) :=
  State.KeepsMem.foldl (f := fun s line => (s.writeBack line).dropLine line)
    (fun s line => (State.writeBack_keeps s line).trans (.of_eq rfl rfl)) _ s

theorem State.makeRoom_keeps (s : State) (line : Nat) : s.KeepsMem (s.makeRoom line) := by
  simp only [State.makeRoom]
  split
  · exact .refl s
  · split
    · exact .refl s
    · exact State.dropTag_keeps s _

/-- A line that is brought in or takes a place leaves the coherent bytes alone. -/
theorem State.alloc_keeps (s : State) (pa : Nat) (m : Half) : s.KeepsMem (s.alloc pa m) := by
  simp only [State.alloc]
  split
  · exact .refl s
  · split
    · split
      · exact .refl s
      · refine State.KeepsMem.trans (t := { s with l2 := _ }) (.of_eq rfl rfl) (State.KeepsMem.foldl (fun s i => ?_) _ _)
        split
        · exact .of_eq rfl rfl
        · exact .refl s
    · refine (State.makeRoom_keeps s (pa / 64)).trans (.of_eq ?_ ?_) <;> (split <;> split <;> rfl)

theorem State.fillRange_keeps (s : State) (pa n : Nat) : s.KeepsMem (s.fillRange pa n) :=
  State.KeepsMem.foldl (fun s i => State.alloc_keeps s (pa + 64 * i) 0xFFFF) _ s

theorem State.allocAll_keeps (s : State) (pas : List Nat) : s.KeepsMem (s.allocAll pas) :=
  State.KeepsMem.foldl (fun s pa => State.alloc_keeps s pa _) _ s

/-! ### Writes at the home -/

theorem State.writeByte_dram (s : State) (a : Nat) (x : Byte) : (s.writeByte a x).dram = s.dram := by
  simp only [State.writeByte]; split <;> split <;> (try split) <;> rfl

theorem State.writeList_wf : ∀ (es : List (Nat × Byte)) (s : State), Memory.wf s.mem = true →
    Memory.wf (s.writeList es).mem = true ∧ (s.writeList es).dram = s.dram
  | [], _, h => ⟨h, rfl⟩
  | e :: es, s, h => by
    have hw : Memory.wf (s.writeByte e.1 e.2).mem = true := by rw [State.writeByte_mem]; exact Memory.wf_set _ _ _ h
    obtain ⟨h1, h2⟩ := State.writeList_wf es _ hw
    exact ⟨h1, h2.trans (State.writeByte_dram s e.1 e.2)⟩

/-- A byte that a write does not name keeps its value. -/
theorem State.writeList_byte_of_not_mem : ∀ (es : List (Nat × Byte)) (s : State) (a : Nat), a ∉ es.map (·.1) →
    (s.writeList es).byte a = s.byte a
  | [], _, _, _ => rfl
  | e :: es, s, a, h => by
    simp only [List.map_cons, List.mem_cons, not_or] at h
    rw [State.writeList, State.writeList_byte_of_not_mem es _ a h.2, State.byte, State.writeByte_mem, AMap.getD_set, if_neg (Ne.symm h.1)]; rfl

theorem State.writeByte_rest (s : State) (a : Nat) (x : Byte) : (s.writeByte a x).lsq = s.lsq ∧ (s.writeByte a x).groups = s.groups := by
  simp only [State.writeByte]; split <;> split <;> (try split) <;> exact ⟨rfl, rfl⟩

theorem State.writeList_rest : ∀ (es : List (Nat × Byte)) (s : State), (s.writeList es).lsq = s.lsq ∧ (s.writeList es).groups = s.groups
  | [], _ => ⟨rfl, rfl⟩
  | e :: es, s =>
    ⟨(State.writeList_rest es _).1.trans (State.writeByte_rest s e.1 e.2).1, (State.writeList_rest es _).2.trans (State.writeByte_rest s e.1 e.2).2⟩

/-- What a write at the home does: the list of bytes, each at its home, over a state with the same coherent memory; then ownership goes and
the monitors examine what was written. -/
theorem State.homeWrite_eq (s : State) (k : Option Nat) (d : List Nat) (es : List (Nat × Byte)) :
    ∃ (v : State) (k' : Option Nat), s.KeepsMem v ∧
      s.homeWrite k d es = ((v.writeList (homed es)).revoke k' d ((homed es).map (·.1))).observeAll ((homed es).map (·.1)) := by
  have key : ∀ u : State, s.KeepsMem u → s.KeepsMem ((u.backInv ((homed es).map (·.1))).allocAll ((homed es).map (·.1))) :=
    fun u h => h.trans (State.KeepsMem.trans (.of_eq rfl rfl) (State.allocAll_keeps _ _))
  simp only [State.homeWrite]
  split
  · next pa _ => exact ⟨_, _, key (s.fabricSend pa) (.of_eq rfl rfl), rfl⟩
  · exact ⟨_, _, key s (.refl s), rfl⟩

/-- A write at the home leaves the store queues alone, and of the groups only monitors change. -/
theorem State.homeWrite_rest (s : State) (k : Option Nat) (d : List Nat) (es : List (Nat × Byte)) :
    (s.homeWrite k d es).lsq = s.lsq ∧ ∃ u : State, (s.homeWrite k d es).groups = s.groups.map fun e => (e.1, e.2.observe u ((homed es).map (·.1))) := by
  obtain ⟨v, k', hk, e⟩ := State.homeWrite_eq s k d es
  rw [e]
  refine ⟨(State.writeList_rest _ v).1.trans hk.lsq, (v.writeList (homed es)).revoke k' d ((homed es).map (·.1)), ?_⟩
  rw [State.observeAll]
  exact congrArg (List.map _) ((State.writeList_rest _ v).2.trans hk.groups)

/-- A write at the home keeps the canonical form of memory and of the cells. -/
theorem State.homeWrite_wf (s : State) (k : Option Nat) (d : List Nat) (es : List (Nat × Byte)) (h : Memory.wf s.mem = true) :
    Memory.wf (s.homeWrite k d es).mem = true ∧ (Memory.wf s.dram = true → Memory.wf (s.homeWrite k d es).dram = true) := by
  obtain ⟨v, k', hk, e⟩ := State.homeWrite_eq s k d es
  obtain ⟨a, b⟩ := State.writeList_wf (homed es) v (by rw [hk.mem]; exact h)
  rw [e]
  exact ⟨a, fun w => (congrArg Memory.wf b).trans (hk.2 w)⟩

/-- A byte that a write at the home does not name keeps its value. -/
theorem State.homeWrite_byte_of_not_mem (s : State) (k : Option Nat) (d : List Nat) (es : List (Nat × Byte)) (a : Nat)
    (h : a ∉ es.map fun e => homeOf e.1) : (s.homeWrite k d es).byte a = s.byte a := by
  obtain ⟨v, k', hk, e⟩ := State.homeWrite_eq s k d es
  have hl : a ∉ (homed es).map (·.1) := by simpa [homed] using h
  have := State.writeList_byte_of_not_mem (homed es) v a hl
  rw [e]
  exact this.trans (congrArg (AMap.getD · a 0) hk.mem)

/-! ### The memory cells -/

theorem State.setDram_wf : ∀ (bs : List Byte) (s : State) (t off : Nat), Memory.wf s.dram = true →
    Memory.wf (s.setDram t off bs).dram = true ∧ (s.setDram t off bs).mem = s.mem
  | [], _, _, _, h => ⟨h, rfl⟩
  | b :: bs, s, t, off, h => by
    obtain ⟨h1, h2⟩ := State.setDram_wf bs { s with dram := AMap.set 0 s.dram (dramKey t off) b } t (off + 1) (Memory.wf_set _ _ _ h)
    exact ⟨h1, h2⟩

end Sys2Proof.Machine
end

