-- ==== Sys2Proof/Laws/Crypto.lean ====
section
/-! SUPPORT. How long digests, keys and signatures are, whatever they are of (R346 to R349). -/

namespace Sys2Proof.Machine

@[simp] theorem beBytes_length (n x : Nat) : (beBytes n x).length = n := by simp [beBytes, leBytes_length]

@[simp] theorem sha256_length (m : List Byte) : (sha256 m).length = 32 := by simp [sha256]

@[simp] theorem publicKey_length (k : Nat) : (publicKey k).length = 64 := by
  unfold publicKey
  split <;> simp

@[simp] theorem ecdsaSign_length (d k : Nat) (m : List Byte) : (ecdsaSign d k m).length = 64 := by simp [ecdsaSign]

end Sys2Proof.Machine
end

