-- ==== Sys2Proof/Laws/Encoding.lean ====
section
/-! SUPPORT. The words of R27: each bit of an encoded word, and that its fields are read back as they were written. -/

namespace Sys2Proof

/-- Bit `i` of an encoded word (R27). -/
theorem getLsbD_toWord (r : Raw) (i : Nat) : r.toWord.getLsbD i =
    if i < 12 then r.op.getLsbD i
    else if i < 15 then (BitVec.ofNat 3 r.h.g.val).getLsbD (i - 12)
    else if i < 16 then (bit r.h.gn).getLsbD (i - 15)
    else if i < 26 then r.d.getLsbD (i - 16)
    else if i < 36 then r.a.getLsbD (i - 26)
    else if i < 46 then r.b.getLsbD (i - 36)
    else if i < 78 then r.imm.getLsbD (i - 46)
    else if i < 88 then (0 : BitVec 10).getLsbD (i - 78)
    else if i < 90 then r.h.reuse.getLsbD (i - 88)
    else if i < 91 then (bit r.h.yld).getLsbD (i - 90)
    else if i < 95 then r.h.delay.getLsbD (i - 91)
    else (bit r.h.mark).getLsbD (i - 95) := by
  change BitVec.getLsbD (w := 1 + 4 + 1 + 2 + 10 + 32 + 10 + 10 + 10 + 1 + 3 + 12) (bit r.h.mark ++ r.h.delay ++ bit r.h.yld ++ r.h.reuse ++ (0 : BitVec 10) ++ r.imm ++ r.b ++ r.a ++ r.d
    ++ bit r.h.gn ++ BitVec.ofNat 3 r.h.g.val ++ r.op) i = _
  simp only [BitVec.getLsbD_append, Nat.sub_sub]
  by_cases h12 : i < 12
  · rw [if_pos (show i < 12 by omega), if_pos h12]
  rw [if_neg (show ¬ i < 12 by omega), if_neg h12]
  by_cases h15 : i < 15
  · rw [if_pos (show i - 12 < 3 by omega), if_pos h15]
  rw [if_neg (show ¬ i - 12 < 3 by omega), if_neg h15]
  by_cases h16 : i < 16
  · rw [if_pos (show i - 15 < 1 by omega), if_pos h16]
  rw [if_neg (show ¬ i - 15 < 1 by omega), if_neg h16]
  by_cases h26 : i < 26
  · rw [if_pos (show i - 16 < 10 by omega), if_pos h26]
  rw [if_neg (show ¬ i - 16 < 10 by omega), if_neg h26]
  by_cases h36 : i < 36
  · rw [if_pos (show i - 26 < 10 by omega), if_pos h36]
  rw [if_neg (show ¬ i - 26 < 10 by omega), if_neg h36]
  by_cases h46 : i < 46
  · rw [if_pos (show i - 36 < 10 by omega), if_pos h46]
  rw [if_neg (show ¬ i - 36 < 10 by omega), if_neg h46]
  by_cases h78 : i < 78
  · rw [if_pos (show i - 46 < 32 by omega), if_pos h78]
  rw [if_neg (show ¬ i - 46 < 32 by omega), if_neg h78]
  by_cases h88 : i < 88
  · rw [if_pos (show i - 78 < 10 by omega), if_pos h88]
  rw [if_neg (show ¬ i - 78 < 10 by omega), if_neg h88]
  by_cases h90 : i < 90
  · rw [if_pos (show i - 88 < 2 by omega), if_pos h90]
  rw [if_neg (show ¬ i - 88 < 2 by omega), if_neg h90]
  by_cases h91 : i < 91
  · rw [if_pos (show i - 90 < 1 by omega), if_pos h91]
  rw [if_neg (show ¬ i - 90 < 1 by omega), if_neg h91]
  by_cases h95 : i < 95
  · rw [if_pos (show i - 91 < 4 by omega), if_pos h95]
  rw [if_neg (show ¬ i - 91 < 4 by omega), if_neg h95]

/-- The reserved field of an encoded word is 0 (R36). -/
theorem reservedField_toWord (r : Raw) : reservedField r.toWord = 0 := by
  apply BitVec.eq_of_getLsbD_eq; intro i hi
  rw [reservedField, BitVec.getLsbD_extractLsb', getLsbD_toWord]
  repeat rw [if_neg (by omega)]
  rw [if_pos (by omega)]; simp


/-- The bits of a word that hold a field are that field. -/
theorem toWord_field (r : Raw) (lo n : Nat) (x : BitVec n) (h : ∀ i, i < n → r.toWord.getLsbD (lo + i) = x.getLsbD i) :
    r.toWord.extractLsb' lo n = x := by
  apply BitVec.eq_of_getLsbD_eq; intro i hi
  rw [BitVec.getLsbD_extractLsb', h i hi]; simp [hi]

/-- The fields of an encoded word are read back. -/
theorem ofWord_toWord (r : Raw) : Raw.ofWord r.toWord = r := by
  have hg : r.toWord.extractLsb' 12 3 = BitVec.ofNat 3 r.h.g.val := by
    apply toWord_field; intro i hi
    rw [getLsbD_toWord]; repeat rw [if_neg (by omega)]
    rw [if_pos (by omega)]; simp
  have h1 : r.toWord.extractLsb' 0 12 = r.op := by
    apply toWord_field; intro i hi
    rw [getLsbD_toWord, if_pos (by omega)]; simp
  have h2 : r.toWord.extractLsb' 91 4 = r.h.delay := by
    apply toWord_field; intro i hi
    rw [getLsbD_toWord]; repeat rw [if_neg (by omega)]
    rw [if_pos (by omega)]; simp
  have h3 : r.toWord.extractLsb' 88 2 = r.h.reuse := by
    apply toWord_field; intro i hi
    rw [getLsbD_toWord]; repeat rw [if_neg (by omega)]
    rw [if_pos (by omega)]; simp
  have h4 : r.toWord.extractLsb' 16 10 = r.d := by
    apply toWord_field; intro i hi
    rw [getLsbD_toWord]; repeat rw [if_neg (by omega)]
    rw [if_pos (by omega)]; simp
  have h5 : r.toWord.extractLsb' 26 10 = r.a := by
    apply toWord_field; intro i hi
    rw [getLsbD_toWord]; repeat rw [if_neg (by omega)]
    rw [if_pos (by omega)]; simp
  have h6 : r.toWord.extractLsb' 36 10 = r.b := by
    apply toWord_field; intro i hi
    rw [getLsbD_toWord]; repeat rw [if_neg (by omega)]
    rw [if_pos (by omega)]; simp
  have h7 : r.toWord.extractLsb' 46 32 = r.imm := by
    apply toWord_field; intro i hi
    rw [getLsbD_toWord]; repeat rw [if_neg (by omega)]
    rw [if_pos (by omega)]; simp
  have b1 : r.toWord.getLsbD 15 = r.h.gn := by rw [getLsbD_toWord]; simp [bit]
  have b2 : r.toWord.getLsbD 95 = r.h.mark := by rw [getLsbD_toWord]; simp [bit]
  have b3 : r.toWord.getLsbD 90 = r.h.yld := by rw [getLsbD_toWord]; simp [bit]
  have g1 : fin8 (BitVec.ofNat 3 r.h.g.val) = r.h.g := by
    apply Fin.ext; simp only [fin8, BitVec.toNat_ofNat]; omega
  simp only [Raw.ofWord, hg, h1, h2, h3, h4, h5, h6, h7, b1, b2, b3, g1]

/-- A word of encoded fields decodes as the fields do. -/
theorem decode_toWord (r : Raw) : decode r.toWord = r.decode := by
  simp only [decode, reservedField_toWord, ofWord_toWord, beq_self_eq_true, if_true]

end Sys2Proof
end

