-- ==== Sys2Proof/Laws/Lanes.lean ====
section
/-! SUPPORT. Masks and lanes: what a change to the lanes of a mask does to each lane, and what the tables of the state
answer after a change. -/

namespace Sys2Proof.Machine

/-! ### Masks -/

theorem getLsbD_one_bit (k l : Nat) (hl : l < 32) : ((1 <<< k : Nat) : Word).getLsbD l = decide (k = l) := by
  simp only [BitVec.natCast_eq_ofNat, BitVec.getLsbD_ofNat, hl, decide_true, Bool.true_and, Nat.one_shiftLeft]
  exact Nat.testBit_two_pow

theorem getLsbD_fold_or (f : Nat → Bool) (ls : List Nat) (m : Word) (l : Nat) (hl : l < 32) :
    (ls.foldl (fun m l => if f l then m ||| (1 <<< l : Word) else m) m).getLsbD l
      = (m.getLsbD l || ls.any fun k => decide (k = l) && f k) := by
  induction ls generalizing m with
  | nil => simp
  | cons k ls ih =>
    rw [List.foldl_cons, ih, List.any_cons]
    by_cases hf : f k = true
    · simp only [hf, if_true, BitVec.getLsbD_or, getLsbD_one_bit k l hl, Bool.and_true, Bool.or_assoc]
    · simp [hf]

@[simp] theorem inMask_maskOf (f : Nat → Bool) (l : Nat) : inMask (maskOf f) l = (decide (l < 32) && f l) := by
  unfold inMask maskOf
  by_cases hl : l < 32
  · rw [getLsbD_fold_or f _ _ l hl, Bool.eq_iff_iff]
    simp only [BitVec.ofNat_eq_ofNat, BitVec.getLsbD_zero, Bool.false_or, List.any_eq_true, List.mem_range,
      Bool.and_eq_true, decide_eq_true_eq]
    exact ⟨fun ⟨k, _, hk, h⟩ => ⟨hl, hk ▸ h⟩, fun h => ⟨l, hl, rfl, h.2⟩⟩
  · simp [hl, BitVec.getLsbD_of_ge _ _ (Nat.le_of_not_lt hl)]

theorem inMask_lt {m : Word} {l : Nat} (h : inMask m l = true) : l < 32 := by
  by_contra hl
  simp [inMask, BitVec.getLsbD_of_ge _ _ (Nat.le_of_not_lt hl)] at h

theorem mask_ext {m n : Word} (h : ∀ l, l < 32 → inMask m l = inMask n l) : m = n := by
  apply BitVec.eq_of_getLsbD_eq
  intro l hl
  exact h l hl

/-- The lanes that satisfy what every lane of a mask satisfies are the mask. -/
theorem maskOf_eq {m : Word} {f : Nat → Bool} (h : ∀ l, inMask m l = true → f l = true)
    (h' : ∀ l, f l = true → inMask m l = true) : maskOf f = m := by
  apply mask_ext
  intro l hl
  simp only [inMask_maskOf, hl, decide_true, Bool.true_and]
  exact Bool.eq_iff_iff.2 ⟨h' l, h l⟩

@[simp] theorem inMask_and (m n : Word) (l : Nat) : inMask (m &&& n) l = (inMask m l && inMask n l) := by
  simp [inMask]

@[simp] theorem inMask_or (m n : Word) (l : Nat) : inMask (m ||| n) l = (inMask m l || inMask n l) := by
  simp [inMask]

@[simp] theorem inMask_zero (l : Nat) : inMask 0 l = false := by simp [inMask]

theorem inMask_and_not (m n : Word) (l : Nat) : inMask (m &&& ~~~n) l = (inMask m l && !inMask n l) := by
  by_cases h : l < 32
  · simp [inMask, h]
  · simp [inMask, BitVec.getLsbD_of_ge _ _ (Nat.le_of_not_lt h)]

@[simp] theorem mem_lanesOf {m : Word} {l : Nat} : l ∈ lanesOf m ↔ inMask m l = true := by
  simp only [lanesOf, List.mem_filter, List.mem_range, and_iff_right_iff_imp]
  exact inMask_lt

theorem lowest_inMask {m : Word} {l : Nat} (h : lowest m = some l) : inMask m l = true := by
  unfold lowest at h
  exact mem_lanesOf.1 (List.mem_of_head? h)

/-! ### Lanes -/

theorem Group.lane_updLanes (G : Group) (m : Word) (f : Nat → Lane → Lane) (l : Nat) (hl : l < G.lanes.length) :
    (G.updLanes m f).lane l = if inMask m l then f l (G.lane l) else G.lane l := by
  simp only [Group.updLanes, Group.lane, List.getD_eq_getElem?_getD, List.getElem?_mapIdx]
  simp only [List.getElem?_eq_getElem hl, Option.map_some, Option.getD_some]

theorem Group.lane_of_ge (G : Group) {l : Nat} (hl : G.lanes.length ≤ l) : G.lane l = {} := by
  simp [Group.lane, List.getD_eq_getElem?_getD, List.getElem?_eq_none hl]

@[simp] theorem Group.length_updLanes (G : Group) (m : Word) (f : Nat → Lane → Lane) :
    (G.updLanes m f).lanes.length = G.lanes.length := by
  simp [Group.updLanes]

/-- A group whose lanes are set aside equals the old one. -/
@[simp] theorem Group.updLanes_lanes (G : Group) (m : Word) (f : Nat → Lane → Lane) :
    { G.updLanes m f with lanes := G.lanes } = G := rfl

theorem Group.updLanes_updLanes (G : Group) (m n : Word) (f g : Nat → Lane → Lane) :
    (G.updLanes m f).updLanes n g =
      G.updLanes (m ||| n) fun l L => if inMask n l then g l (if inMask m l then f l L else L) else f l L := by
  simp only [Group.updLanes, Group.mk.injEq, true_and, and_true]
  refine List.ext_getElem? fun i => ?_
  simp only [List.getElem?_mapIdx, Option.map_map]
  congr 1
  funext L
  simp only [Function.comp, inMask_or]
  cases inMask m i <;> cases inMask n i <;> simp

theorem Group.updLanes_congr {G : Group} {m : Word} {f g : Nat → Lane → Lane}
    (h : ∀ l, inMask m l = true → f l (G.lane l) = g l (G.lane l)) : G.updLanes m f = G.updLanes m g := by
  simp only [Group.updLanes, Group.mk.injEq, true_and, and_true]
  refine List.ext_getElem (by simp) fun i h1 h2 => ?_
  simp only [List.getElem_mapIdx]
  split
  · have := h i ‹_›
    simp only [List.length_mapIdx] at h1
    simpa [Group.lane, List.getD_eq_getElem?_getD, List.getElem?_eq_getElem h1] using this
  · rfl

/-! ### Tables of the state -/

theorem State.group?_updGroup (s : State) (g k : Nat) (f : Group → Group) :
    (s.updGroup g f).group? k = if g = k then (s.group? k).map f else s.group? k := by
  simp only [State.updGroup, State.group?, AMap.get?_upd]

@[simp] theorem State.group?_updGroup_self (s : State) (g : Nat) (f : Group → Group) :
    (s.updGroup g f).group? g = (s.group? g).map f := by simp [State.group?_updGroup]

end Sys2Proof.Machine
end

