-- ==== Sys2Proof/Laws/Issue.lean ====
section
/-! SUPPORT. What an issue does: the spec lemmas of `issue`, `advance`, `close`, and of the fixed-latency shapes over them. -/

namespace Sys2Proof.Machine

/-! ### The bundle -/

/-- What `at?` answers. -/
structure AtOf (s : State) (hd : Hdr) (G : Group) (x : At) : Prop where
  group : s.group? s.cur.g = some G
  g : x.g = s.cur.g
  seq : x.seq = s.seq + 1
  h : x.h = hd
  T : ∀ l, inMask x.T l = (inMask x.B l && (G.lane l).takes hd)
  N : x.N = x.T &&& ~~~G.helpers
  B : ∀ l, inMask x.B l = true → inMask s.cur.lanes l = true ∧ (G.lane l).issuable = true ∧ (G.lane l).pc = x.pc

theorem atOf {s : State} {h : Hdr} {G : Group} {x : At} (hs : s.at? h = some (G, x)) : AtOf s h G x := by
  unfold State.at? at hs
  split at hs
  · cases hs
  · rename_i G' hG
    simp only at hs
    split at hs
    · cases hs
    · simp only [Option.some.injEq, Prod.mk.injEq] at hs
      obtain ⟨rfl, rfl⟩ := hs
      refine ⟨hG, rfl, rfl, rfl, ?_, rfl, ?_⟩
      · intro l
        simp only [inMask_maskOf]
        by_cases hl : l < 32 <;> simp [hl]
      · intro l hl
        simp only [inMask_maskOf, Bool.and_eq_true, decide_eq_true_eq, beq_iff_eq] at hl
        exact ⟨hl.2.1.1.2.1, hl.2.1.1.2.2, hl.2.1.2⟩

theorem AtOf.inB {s : State} {h : Hdr} {G : Group} {x : At} (a : AtOf s h G x) {l : Nat} (hl : inMask x.T l = true) :
    inMask x.B l = true := by
  rw [a.T] at hl; simp_all

theorem AtOf.inT {s : State} {h : Hdr} {G : Group} {x : At} (a : AtOf s h G x) {l : Nat} (hl : inMask x.N l = true) :
    inMask x.T l = true := by
  rw [a.N, inMask_and_not] at hl; simp_all

theorem Lane.live_of_issuable {L : Lane} (h : L.issuable = true) : L.live = true := by
  simp only [Lane.issuable, Bool.and_eq_true] at h; exact h.1

theorem AtOf.length {s : State} {h : Hdr} {G : Group} {x : At} (a : AtOf s h G x) {l : Nat} (hl : inMask x.B l = true) :
    l < G.lanes.length := by
  by_contra hn
  have := Lane.live_of_issuable (a.B l hl).2.1
  rw [Group.lane_of_ge _ (Nat.le_of_not_lt hn)] at this
  cases this

/-! ### Issue -/

/-- An instruction whose decode checks pass answers the next state that its body gives. -/
theorem issue_next {s : State} {h : Hdr} {site : Site} {regs : List (Reg × Nat)}
    {handles : State → Group → List (Nat × Bool)} {G : Group} {x : At} (i : Issues s h site regs handles G x)
    (body : State → At → State) :
    issue s h site regs handles body = .next ((body (s.advance x) x).close x G) := by
  unfold issue
  rw [i.bundle]
  have h1 : (!(site == .both || (site == .quay) == isWave x.g) || !(regs.all (regOk (isWave x.g) G.regs))) = false := by
    rw [Bool.or_eq_false_iff]
    constructor
    · rcases i.place with h | h
      · simp [h]
      · cases hw : isWave x.g <;> cases site <;> simp_all
    · simpa using i.named
  have h2 : ((handles s G).find? fun e => !e.2) = none := by
    simpa [List.find?_eq_none] using i.known
  simp only [i.within, h1, h2, Bool.false_eq_true, if_false]

@[simp] theorem State.now_groups (s : State) (gs : AMap Group) (n g : Nat) :
    ({ s with groups := gs, seq := n } : State).now g = s.now g := rfl

@[simp] theorem State.now_updGroup (s : State) (k g : Nat) (f : Group → Group) : (s.updGroup k f).now g = s.now g := rfl

@[simp] theorem State.now_bump (s : State) (g : Nat) : s.bump.now g = s.now g := rfl

@[simp] theorem State.now_advance (s : State) (x : At) (g : Nat) : (s.advance x).now g = s.now g := rfl

/-- The group after its lanes have moved on, as `advance` leaves it. -/
def advanced (s : State) (x : At) (G : Group) : Group :=
  { (G.updLanes x.B fun _ L => L.moveOn x (s.now x.g)) with age := 0, stepping := G.stepping &&& ~~~x.B }

theorem State.advance_eq (s : State) (x : At) : s.advance x = (s.bump).updGroup x.g (advanced s x) := rfl

/-! ### Straight-line issues: the lanes of the bundle stay together -/

theorem Group.resplit_together {G : Group} {pc : DWord} : ∀ (fuel : Nat) {m : Word},
    (∀ l, inMask m l = true → (G.lane l).pc = pc ∧ (G.lane l).wait = .none) → G.resplit m fuel = G
  | 0, _, _ => rfl
  | fuel + 1, m, hm => by
    unfold Group.resplit
    split
    · rfl
    · rename_i l hl
      have h0 := hm l (lowest_inMask hl)
      simp only
      set same := maskOf fun k => inMask m k && (G.lane k).jset == (G.lane l).jset && (G.lane k).pc == (G.lane l).pc
        && (G.lane k).going == (G.lane l).going with hsame
      have hrest : (maskOf fun k => inMask m k && (G.lane k).jset == (G.lane l).jset && !inMask same k) = 0 := by
        apply mask_ext
        intro k hk
        simp only [inMask_maskOf, hsame, hk, decide_true, Bool.true_and, inMask_zero]
        by_cases hmk : inMask m k = true
        · have h1 := hm k hmk
          simp only [hmk, h1.1, h1.2, h0.1, h0.2, Lane.going, beq_self_eq_true, Bool.true_and, Bool.and_true]
          cases (G.lane k).jset == (G.lane l).jset <;> rfl
        · simp [hmk]
      simp only [hrest, if_true]
      exact Group.resplit_together fuel fun k hk => hm k (by rw [inMask_and_not] at hk; simp_all)

theorem State.updGroup_updGroup (s : State) (g : Nat) (f f' : Group → Group) :
    (s.updGroup g f).updGroup g f' = s.updGroup g fun G => f' (f G) := by
  simp only [State.updGroup, AMap.upd_upd]

theorem State.updGroup_congr {s : State} {g : Nat} {G : Group} {f f' : Group → Group} (hG : s.group? g = some G)
    (h : f G = f' G) : s.updGroup g f = s.updGroup g f' := by
  simp only [State.group?] at hG
  simp only [State.updGroup, AMap.upd, hG, h]

/-- The lanes of the bundle as a straight-line instruction leaves them before `close`. -/
structure Straight (x : At) (G G1 : Group) : Prop where
  pc : ∀ l, inMask x.B l = true → (G1.lane l).pc = x.pc + 12
  wait : ∀ l, inMask x.B l = true → (G1.lane l).wait = .none
  live : ∀ l, inMask x.B l = true → (G1.lane l).live = true
  traps : ∀ l, inMask x.B l = true → (G1.lane l).traps = (G.lane l).traps

theorem Group.updLanes_zero (G : Group) (f : Nat → Lane → Lane) : G.updLanes 0 f = G := by
  simp only [Group.updLanes, inMask_zero, Bool.false_eq_true, if_false]
  congr
  exact List.mapIdx_eq_iff.2 fun i => by simp

theorem State.updGroup_id {s : State} {g : Nat} {G : Group} {f : Group → Group} (hG : s.group? g = some G)
    (h : f G = G) : s.updGroup g f = { s with groups := AMap.put s.groups g G } := by
  simp only [State.group?] at hG
  simp only [State.updGroup, AMap.upd, hG, h]

/-- `close` after a straight-line effect on the issue's own group: the marker acts. -/
theorem close_straight {s : State} {x : At} {G G1 : Group} (hG : s.group? x.g = some G1) (st : Straight x G G1) :
    s.close x G = (s.updGroup x.g id).marked x := by
  have e : G1.resplit x.B 32 = id G1 :=
    Group.resplit_together (pc := x.pc + 12) 32 fun l hb => ⟨st.pc l hb, st.wait l hb⟩
  have hB : (maskOf fun l => inMask x.B l && (G1.lane l).live && (G1.lane l).wait == .none &&
      (G1.lane l).traps.length == (G.lane l).traps.length) = x.B := by
    apply maskOf_eq
    · intro l hb; simp [hb, st.wait l hb, st.live l hb, st.traps l hb]
    · intro l hb; simp only [Bool.and_eq_true] at hb; exact hb.1.1.1
  have hW : (maskOf fun l => inMask x.B l && (G1.lane l).waitsElse) = 0 := by
    apply mask_ext
    intro l hl'
    simp only [inMask_maskOf, inMask_zero]
    by_cases hb : inMask x.B l = true
    · simp [Lane.waitsElse, st.wait l hb]
    · simp [hb]
  unfold State.close State.marked
  rw [hG]
  have hu : (s.updGroup x.g fun G => G.resplit x.B 32) = s.updGroup x.g id := State.updGroup_congr (f' := id) hG e
  have ho : x.B ||| (0 : Word) = x.B := by simp
  simp only [hB, hW, hu, ho, if_true]
  cases x.h.mark <;> rfl

/-- A body that changes only the issue's own group, on a straight line. -/
theorem issue_straight {s : State} {h : Hdr} {site : Site} {regs : List (Reg × Nat)}
    {handles : State → Group → List (Nat × Bool)} {G : Group} {x : At} (i : Issues s h site regs handles G x)
    {body : State → At → State} {F : Group → Group}
    (hb : body (s.advance x) x = (s.advance x).updGroup x.g F) (st : Straight x G (F (advanced s x G))) :
    issue s h site regs handles body = .next (((s.bump).updGroup x.g fun G => F (advanced s x G)).marked x) := by
  have a := atOf i.bundle
  have hG : s.group? x.g = some G := by rw [a.g]; exact a.group
  rw [issue_next i, hb, State.advance_eq, State.updGroup_updGroup]
  rw [close_straight (G1 := F (advanced s x G)) (by rw [State.group?_updGroup_self]; simp only [State.group?, State.bump] at *; rw [hG]; rfl) st]
  rw [State.updGroup_updGroup]
  rfl

/-! ### Registers that an issue's lanes read are those before it -/

theorem advanced_lane (s : State) (x : At) (G : Group) (l : Nat) :
    ((advanced s x G).lane l).v = (G.lane l).v ∧ ((advanced s x G).lane l).p = (G.lane l).p ∧
      ((advanced s x G).lane l).helper = (G.lane l).helper := by
  by_cases hl : l < G.lanes.length
  · simp only [advanced, Group.lane]
    have := Group.lane_updLanes G x.B (fun _ L => L.moveOn x (s.now x.g)) l hl
    simp only [Group.lane] at this
    rw [this]
    split <;> simp [Lane.moveOn]
  · have h1 := Group.lane_of_ge G (Nat.le_of_not_lt hl)
    have h2 := Group.lane_of_ge (advanced s x G) (l := l) (by simpa [advanced] using hl)
    rw [h1, h2]; simp

@[simp] theorem advanced_vreg (s : State) (x : At) (G : Group) (l n : Nat) :
    ((advanced s x G).lane l).vreg n = (G.lane l).vreg n := by simp [Lane.vreg, (advanced_lane s x G l).1]
@[simp] theorem advanced_sreg (s : State) (x : At) (G : Group) (n : Nat) : (advanced s x G).sreg n = G.sreg n := rfl
@[simp] theorem advanced_pred (s : State) (x : At) (G : Group) (l : Nat) (p : PReg) :
    ((advanced s x G).lane l).pred p = (G.lane l).pred p := by simp [Lane.pred, (advanced_lane s x G l).2.1]
@[simp] theorem advanced_predWord (s : State) (x : At) (G : Group) (l : Nat) :
    ((advanced s x G).lane l).predWord = (G.lane l).predWord := by simp [Lane.predWord, (advanced_lane s x G l).2.1]
@[simp] theorem advanced_reg (s : State) (x : At) (G : Group) (l : Nat) (r : Reg) (i : Nat) :
    (advanced s x G).reg l r i = G.reg l r i := by cases r <;> simp [Group.reg]
@[simp] theorem advanced_regs' (s : State) (x : At) (G : Group) (l : Nat) (r : Reg) (w : Nat) :
    (advanced s x G).regs' l r w = G.regs' l r w := by simp [Group.regs']
@[simp] theorem advanced_reg64 (s : State) (x : At) (G : Group) (l : Nat) (r : Reg) :
    (advanced s x G).reg64 l r = G.reg64 l r := by simp [Group.reg64]
@[simp] theorem advanced_src (s : State) (x : At) (G : Group) (l : Nat) (a : Src) :
    (advanced s x G).src l a = G.src l a := by cases a <;> simp [Group.src]
@[simp] theorem advanced_ssrc (s : State) (x : At) (G : Group) (a : SSrc) :
    (advanced s x G).ssrc a = G.ssrc a := by cases a <;> simp [Group.ssrc]
@[simp] theorem advanced_src64 (s : State) (x : At) (G : Group) (l : Nat) (a : Src) :
    (advanced s x G).src64 l a = G.src64 l a := by cases a <;> simp [Group.src64]

end Sys2Proof.Machine
end

