-- ==== Sys2Proof/Laws/PerInstr.lean ====
section
/-! SUPPORT. Facts that hold of every instruction as syntax, one lemma for each constructor. -/

namespace Sys2Proof.Laws.EncodesAsWord

/-- The word of an instruction, if it has one, holds its fields and nothing else: they are read back from it, its reserved field is 0, and it
decodes as they do (R27, R36). -/
def Statement (i : Instr) : Prop :=
  ∀ w, encode i = some w → ∃ r, i.toRaw = some r ∧ Raw.ofWord w = r ∧ reservedField w = 0 ∧ decode w = r.decode

/-- The statement holds, whatever the fields are. -/
theorem holds (i : Instr) : Statement i := by
  intro w h
  obtain ⟨r, hr, rfl⟩ := Option.map_eq_some_iff.mp h
  exact ⟨r, hr, ofWord_toWord r, reservedField_toWord r, decode_toWord r⟩

theorem parkComplete : ∀ (g : Nat), Statement (.parkComplete g) := fun _ => holds _
theorem variableResultReturn : ∀ (g idx : Nat) (lanes : Word) (how : ReadHow), Statement (.variableResultReturn g idx lanes how) := fun _ _ _ _ => holds _
theorem gathLaneArrival : ∀ (g idx : Nat) (lanes : Word) (how : ReadHow), Statement (.gathLaneArrival g idx lanes how) := fun _ _ _ _ => holds _
theorem asyncRecordArrival : ∀ (i : Nat), Statement (.asyncRecordArrival i) := fun _ => holds _
theorem faultReply : ∀ (die i : Nat) (resolved : Bool), Statement (.faultReply die i resolved) := fun _ _ _ => holds _
theorem zeroFill : ∀ (die i : Nat) (frame : Option Nat), Statement (.zeroFill die i frame) := fun _ _ _ => holds _
theorem monitorWriteObserved : ∀ (g lane : Nat), Statement (.monitorWriteObserved g lane) := fun _ _ => holds _
theorem mwaitBudgetExpiry : ∀ (g lane : Nat), Statement (.mwaitBudgetExpiry g lane) := fun _ _ => holds _
theorem storeRegistration : ∀ (i : Nat), Statement (.storeRegistration i) := fun _ => holds _
theorem homeAtomicPerform : ∀ (i : Nat) (how : AtomicHow), Statement (.homeAtomicPerform i how) := fun _ _ => holds _
theorem ackCountZero : ∀ (g : Nat), Statement (.ackCountZero g) := fun _ => holds _
theorem discardPerform : ∀ (i : Nat), Statement (.discardPerform i) := fun _ => holds _
theorem quayRequestArrival : ∀ (i : Nat), Statement (.quayRequestArrival i) := fun _ => holds _
theorem quayWaveForm : ∀ (quay : Nat), Statement (.quayWaveForm quay) := fun _ => holds _
theorem quayWaveEnd : ∀ (w : Nat), Statement (.quayWaveEnd w) := fun _ => holds _
theorem quayReply : ∀ (i : Nat), Statement (.quayReply i) := fun _ => holds _
theorem notify : ∀ (q : Nat) (value : DWord), Statement (.notify q value) := fun _ _ => holds _
theorem packetRead : ∀ (q : Nat), Statement (.packetRead q) := fun _ => holds _
theorem grid : ∀ (i : Nat), Statement (.grid i) := fun _ => holds _
theorem gang : ∀ (i : Nat), Statement (.gang i) := fun _ => holds _
theorem graph : ∀ (i : Nat), Statement (.graph i) := fun _ => holds _
theorem depend : ∀ (i : Nat), Statement (.depend i) := fun _ => holds _
theorem barrierAnd : ∀ (i : Nat), Statement (.barrierAnd i) := fun _ => holds _
theorem dependConditionHolds : ∀ (i : Nat), Statement (.dependConditionHolds i) := fun _ => holds _
theorem clusterPlacement : ∀ (l : Nat) (cores : List Nat), Statement (.clusterPlacement l cores) := fun _ _ => holds _
theorem teamStart : ∀ (t : Nat), Statement (.teamStart t) := fun _ => holds _
theorem teamRetire : ∀ (t : Nat), Statement (.teamRetire t) := fun _ => holds _
theorem groupSwap : ∀ (core out inn : Nat), Statement (.groupSwap core out inn) := fun _ _ _ => holds _
theorem agedDisplacement : ∀ (core : Nat), Statement (.agedDisplacement core) := fun _ => holds _
theorem bundleSelect : ∀ (core : Nat) (fresh : BitVec 3), Statement (.bundleSelect core fresh) := fun _ _ => holds _
theorem fallbackAdvance : ∀ (g : Nat), Statement (.fallbackAdvance g) := fun _ => holds _
theorem copy : ∀ (g : Nat), Statement (.copy g) := fun _ => holds _
theorem copyResume : ∀ (g : Nat), Statement (.copyResume g) := fun _ => holds _
theorem copyCancel : ∀ (g : Nat), Statement (.copyCancel g) := fun _ => holds _
theorem copyStart : ∀ (core j : Nat) (fromBuf : Bool), Statement (.copyStart core j fromBuf) := fun _ _ _ => holds _
theorem copyComplete : ∀ (core j : Nat), Statement (.copyComplete core j) := fun _ _ => holds _
theorem copyStop : ∀ (core j : Nat), Statement (.copyStop core j) := fun _ _ => holds _
theorem topk : ∀ (unit : Nat), Statement (.topk unit) := fun _ => holds _
theorem hist : ∀ (unit : Nat), Statement (.hist unit) := fun _ => holds _
theorem psum : ∀ (unit : Nat), Statement (.psum unit) := fun _ => holds _
theorem perm : ∀ (unit : Nat), Statement (.perm unit) := fun _ => holds _
theorem gateCommandComplete : ∀ (unit : Nat), Statement (.gateCommandComplete unit) := fun _ => holds _
theorem arrayBoundary : ∀ (array : Nat), Statement (.arrayBoundary array) := fun _ => holds _
theorem mmaEnterQueue : ∀ (array slot i : Nat), Statement (.mmaEnterQueue array slot i) := fun _ _ _ => holds _
theorem mmaComplete : ∀ (array : Nat), Statement (.mmaComplete array) := fun _ => holds _
theorem mmaFetchFault : ∀ (array : Nat), Statement (.mmaFetchFault array) := fun _ => holds _
theorem bwrComplete : ∀ (i : Nat), Statement (.bwrComplete i) := fun _ => holds _
theorem binCountTrigger : ∀ (graph die node core : Nat), Statement (.binCountTrigger graph die node core) := fun _ _ _ _ => holds _
theorem binTimerExpiry : ∀ (graph die node : Nat), Statement (.binTimerExpiry graph die node) := fun _ _ _ => holds _
theorem seedEntry : ∀ (graph node : Nat), Statement (.seedEntry graph node) := fun _ _ => holds _
theorem launchListStart : ∀ (die : Nat), Statement (.launchListStart die) := fun _ => holds _
theorem rd : ∀ (port tag : Nat) (pa beats : Nat) (src : ReqSource) (met : Met), Statement (.rd port tag pa beats src met) := fun _ _ _ _ _ _ => holds _
theorem wr : ∀ (port tag : Nat) (pa beats : Nat) (masks : List Word) (src : ReqSource) (met : Met), Statement (.wr port tag pa beats masks src met) := fun _ _ _ _ _ _ _ => holds _
theorem rdr : ∀ (i : Nat), Statement (.rdr i) := fun _ => holds _
theorem wack : ∀ (i : Nat), Statement (.wack i) := fun _ => holds _
theorem delta : ∀ (r : PacketRead), Statement (.delta r) := fun _ => holds _
theorem dack : ∀ (i : Nat), Statement (.dack i) := fun _ => holds _
theorem lock : ∀ (i : Nat), Statement (.lock i) := fun _ => holds _
theorem locked : ∀ (i : Nat), Statement (.locked i) := fun _ => holds _
theorem chunkrd : ∀ (r : PacketRead), Statement (.chunkrd r) := fun _ => holds _
theorem chunk : ∀ (i : Nat), Statement (.chunk i) := fun _ => holds _
theorem unlock : ∀ (i : Nat), Statement (.unlock i) := fun _ => holds _
theorem stackLoss : ∀ (stack : Nat), Statement (.stackLoss stack) := fun _ => holds _
theorem tierMigration : ∀ (ctx : Nat) (va : DWord) (tier : Bool) (frame : Nat), Statement (.tierMigration ctx va tier frame) := fun _ _ _ _ => holds _
theorem save : ∀ (u pa : Nat), Statement (.save u pa) := fun _ _ => holds _
theorem contextEvict : ∀ (ctx : Nat), Statement (.contextEvict ctx) := fun _ => holds _
theorem createContext : Statement .createContext := holds _
theorem destroyContext : Statement .destroyContext := holds _
theorem createQueue : Statement .createQueue := holds _
theorem destroyQueue : Statement .destroyQueue := holds _
theorem resetQueue : Statement .resetQueue := holds _
theorem preempt : Statement .preempt := holds _
theorem resume : ∀ (cores : List Nat) (pa : Nat), Statement (.resume cores pa) := fun _ _ => holds _
theorem migrate : ∀ (frame : Nat), Statement (.migrate frame) := fun _ => holds _
theorem declareLost : Statement .declareLost := holds _
theorem repairLane : ∀ (best : List Nat), Statement (.repairLane best) := fun _ => holds _
theorem setMode : Statement .setMode := holds _
theorem nonce : Statement .nonce := holds _
theorem token : Statement .token := holds _
theorem attest : Statement .attest := holds _
theorem halt : Statement .halt := holds _
theorem run : Statement .run := holds _
theorem step : Statement .step := holds _
theorem snap : Statement .snap := holds _
theorem nextevt : Statement .nextevt := holds _
theorem registerWrite : ∀ (src : RegWriter) (pa size : Nat) (value : DWord), Statement (.registerWrite src pa size value) := fun _ _ _ _ => holds _
theorem cxlMemRead : ∀ (pa n : Nat), Statement (.cxlMemRead pa n) := fun _ _ => holds _
theorem cxlMemWrite : ∀ (pa : Nat) (bytes : List Byte), Statement (.cxlMemWrite pa bytes) := fun _ _ => holds _
theorem backInvalidate : ∀ (line : Nat), Statement (.backInvalidate line) := fun _ => holds _
theorem fabricWriteArrival : ∀ (pa : Nat) (bytes : List Byte) (signal : Option (Nat × DWord)), Statement (.fabricWriteArrival pa bytes signal) := fun _ _ _ => holds _
theorem dataFlit : ∀ (port : Nat) (flit : List Byte), Statement (.dataFlit port flit) := fun _ _ => holds _
theorem idleFlit : ∀ (port : Nat) (flit : List Byte), Statement (.idleFlit port flit) := fun _ _ => holds _
theorem nakFlit : ∀ (port : Nat) (flit : List Byte), Statement (.nakFlit port flit) := fun _ _ => holds _
theorem retrainFlit : ∀ (r : Retrain), Statement (.retrainFlit r) := fun _ => holds _
theorem laneRepair : ∀ (port lane : Nat) (best : List Nat), Statement (.laneRepair port lane best) := fun _ _ _ => holds _
theorem powerStateEntry : Statement .powerStateEntry := holds _
theorem wakeEvent : ∀ (w : WakeCause), Statement (.wakeEvent w) := fun _ => holds _
theorem powerThrottle : ∀ (step : Nat), Statement (.powerThrottle step) := fun _ => holds _
theorem packageReset : Statement .packageReset := holds _
theorem unlistedOpcode : ∀ (w : BitVec 96), Statement (.unlistedOpcode w) := fun _ => holds _
theorem fetchFault : ∀ (f : FetchFail), Statement (.fetchFault f) := fun _ => holds _
theorem patrolScrub : ∀ (stack word : Nat) (found : EccState), Statement (.patrolScrub stack word found) := fun _ _ _ => holds _
theorem deviceDoesNotAnswer : ∀ (g seq dev : Nat), Statement (.deviceDoesNotAnswer g seq dev) := fun _ _ _ => holds _
theorem bytesLand : ∀ (e : EngineRef) (n : Nat), Statement (.bytesLand e n) := fun _ _ => holds _
theorem nop : ∀ (h : Hdr), Statement (.nop h) := fun _ => holds _
theorem bra : ∀ (h : Hdr) (disp : Word), Statement (.bra h disp) := fun _ _ => holds _
theorem jmpx : ∀ (h : Hdr) (a : Reg), Statement (.jmpx h a) := fun _ _ => holds _
theorem call : ∀ (h : Hdr) (disp : Word), Statement (.call h disp) := fun _ _ => holds _
theorem callx : ∀ (h : Hdr) (a : Reg), Statement (.callx h a) := fun _ _ => holds _
theorem ret : ∀ (h : Hdr), Statement (.ret h) := fun _ => holds _
theorem rvset : ∀ (h : Hdr) (j : JReg) (sa : SReg) (disp : Word), Statement (.rvset h j sa disp) := fun _ _ _ _ => holds _
theorem rvwait : ∀ (h : Hdr) (j : JReg), Statement (.rvwait h j) := fun _ _ => holds _
theorem exit : ∀ (h : Hdr), Statement (.exit h) := fun _ => holds _
theorem yield : ∀ (h : Hdr), Statement (.yield h) := fun _ => holds _
theorem trap : ∀ (h : Hdr) (code : BitVec 16), Statement (.trap h code) := fun _ _ => holds _
theorem bkpt : ∀ (h : Hdr) (code : BitVec 16), Statement (.bkpt h code) := fun _ _ => holds _
theorem mov : ∀ (h : Hdr) (d : Reg) (a : Reg), Statement (.mov h d a) := fun _ _ _ => holds _
theorem movi : ∀ (h : Hdr) (d : Reg) (imm : Word), Statement (.movi h d imm) := fun _ _ _ => holds _
theorem iadd : ∀ (h : Hdr) (d : Reg) (a : Src) (b : Src), Statement (.iadd h d a b) := fun _ _ _ _ => holds _
theorem isub : ∀ (h : Hdr) (d : Reg) (a : Src) (b : Src), Statement (.isub h d a b) := fun _ _ _ _ => holds _
theorem iadd64 : ∀ (h : Hdr) (d : Reg) (a : Src) (b : Src), Statement (.iadd64 h d a b) := fun _ _ _ _ => holds _
theorem isub64 : ∀ (h : Hdr) (d : Reg) (a : Src) (b : Src), Statement (.isub64 h d a b) := fun _ _ _ _ => holds _
theorem imul : ∀ (h : Hdr) (d : Reg) (a : Src) (b : Src), Statement (.imul h d a b) := fun _ _ _ _ => holds _
theorem imulhs : ∀ (h : Hdr) (d : Reg) (a : Src) (b : Src), Statement (.imulhs h d a b) := fun _ _ _ _ => holds _
theorem imulhu : ∀ (h : Hdr) (d : Reg) (a : Src) (b : Src), Statement (.imulhu h d a b) := fun _ _ _ _ => holds _
theorem imad : ∀ (h : Hdr) (d : Reg) (a : Reg) (b : Reg) (c : Reg), Statement (.imad h d a b c) := fun _ _ _ _ _ => holds _
theorem imadw : ∀ (h : Hdr) (d : Reg) (a : Reg) (b : Reg) (c : Reg), Statement (.imadw h d a b c) := fun _ _ _ _ _ => holds _
theorem idivs : ∀ (h : Hdr) (d : Reg) (a : Src) (b : Src), Statement (.idivs h d a b) := fun _ _ _ _ => holds _
theorem idivu : ∀ (h : Hdr) (d : Reg) (a : Src) (b : Src), Statement (.idivu h d a b) := fun _ _ _ _ => holds _
theorem irems : ∀ (h : Hdr) (d : Reg) (a : Src) (b : Src), Statement (.irems h d a b) := fun _ _ _ _ => holds _
theorem iremu : ∀ (h : Hdr) (d : Reg) (a : Src) (b : Src), Statement (.iremu h d a b) := fun _ _ _ _ => holds _
theorem imin : ∀ (h : Hdr) (d : Reg) (a : Src) (b : Src), Statement (.imin h d a b) := fun _ _ _ _ => holds _
theorem imax : ∀ (h : Hdr) (d : Reg) (a : Src) (b : Src), Statement (.imax h d a b) := fun _ _ _ _ => holds _
theorem umin : ∀ (h : Hdr) (d : Reg) (a : Src) (b : Src), Statement (.umin h d a b) := fun _ _ _ _ => holds _
theorem umax : ∀ (h : Hdr) (d : Reg) (a : Src) (b : Src), Statement (.umax h d a b) := fun _ _ _ _ => holds _
theorem iabs : ∀ (h : Hdr) (d : Reg) (a : Src), Statement (.iabs h d a) := fun _ _ _ => holds _
theorem and : ∀ (h : Hdr) (d : Reg) (a : Src) (b : Src), Statement (.and h d a b) := fun _ _ _ _ => holds _
theorem or : ∀ (h : Hdr) (d : Reg) (a : Src) (b : Src), Statement (.or h d a b) := fun _ _ _ _ => holds _
theorem xor : ∀ (h : Hdr) (d : Reg) (a : Src) (b : Src), Statement (.xor h d a b) := fun _ _ _ _ => holds _
theorem andn : ∀ (h : Hdr) (d : Reg) (a : Src) (b : Src), Statement (.andn h d a b) := fun _ _ _ _ => holds _
theorem not : ∀ (h : Hdr) (d : Reg) (a : Src), Statement (.not h d a) := fun _ _ _ => holds _
theorem shl : ∀ (h : Hdr) (d : Reg) (a : Src) (b : Src), Statement (.shl h d a b) := fun _ _ _ _ => holds _
theorem shr : ∀ (h : Hdr) (d : Reg) (a : Src) (b : Src), Statement (.shr h d a b) := fun _ _ _ _ => holds _
theorem sar : ∀ (h : Hdr) (d : Reg) (a : Src) (b : Src), Statement (.sar h d a b) := fun _ _ _ _ => holds _
theorem rotl : ∀ (h : Hdr) (d : Reg) (a : Src) (b : Src), Statement (.rotl h d a b) := fun _ _ _ _ => holds _
theorem fshr : ∀ (h : Hdr) (d : Reg) (a : Reg) (b : Reg) (c : Reg), Statement (.fshr h d a b c) := fun _ _ _ _ _ => holds _
theorem clz : ∀ (h : Hdr) (d : Reg) (a : Src), Statement (.clz h d a) := fun _ _ _ => holds _
theorem popc : ∀ (h : Hdr) (d : Reg) (a : Src), Statement (.popc h d a) := fun _ _ _ => holds _
theorem brev : ∀ (h : Hdr) (d : Reg) (a : Src), Statement (.brev h d a) := fun _ _ _ => holds _
theorem bfxu : ∀ (h : Hdr) (d : Reg) (a : Src) (b : Src), Statement (.bfxu h d a b) := fun _ _ _ _ => holds _
theorem bfxs : ∀ (h : Hdr) (d : Reg) (a : Src) (b : Src), Statement (.bfxs h d a b) := fun _ _ _ _ => holds _
theorem bfi : ∀ (h : Hdr) (d : Reg) (a : Reg) (b : Reg) (c : Reg), Statement (.bfi h d a b c) := fun _ _ _ _ _ => holds _
theorem lea : ∀ (h : Hdr) (d : Reg) (a : Reg) (b : Reg) (sh : Fin 32), Statement (.lea h d a b sh) := fun _ _ _ _ _ => holds _
theorem lea64 : ∀ (h : Hdr) (d : Reg) (a : Reg) (b : Reg) (sh : Fin 32) (zx : Bool), Statement (.lea64 h d a b sh zx) := fun _ _ _ _ _ _ => holds _
theorem sel : ∀ (h : Hdr) (d : Reg) (a : Reg) (b : Reg) (c : PReg), Statement (.sel h d a b c) := fun _ _ _ _ _ => holds _
theorem icmpeq : ∀ (h : Hdr) (d : PReg) (a : Src) (b : Src), Statement (.icmpeq h d a b) := fun _ _ _ _ => holds _
theorem icmpne : ∀ (h : Hdr) (d : PReg) (a : Src) (b : Src), Statement (.icmpne h d a b) := fun _ _ _ _ => holds _
theorem icmplt : ∀ (h : Hdr) (d : PReg) (a : Src) (b : Src), Statement (.icmplt h d a b) := fun _ _ _ _ => holds _
theorem icmple : ∀ (h : Hdr) (d : PReg) (a : Src) (b : Src), Statement (.icmple h d a b) := fun _ _ _ _ => holds _
theorem ucmplt : ∀ (h : Hdr) (d : PReg) (a : Src) (b : Src), Statement (.ucmplt h d a b) := fun _ _ _ _ => holds _
theorem ucmple : ∀ (h : Hdr) (d : PReg) (a : Src) (b : Src), Statement (.ucmple h d a b) := fun _ _ _ _ => holds _
theorem icmpeq64 : ∀ (h : Hdr) (d : PReg) (a : Src) (b : Src), Statement (.icmpeq64 h d a b) := fun _ _ _ _ => holds _
theorem ucmplt64 : ∀ (h : Hdr) (d : PReg) (a : Src) (b : Src), Statement (.ucmplt64 h d a b) := fun _ _ _ _ => holds _
theorem pand : ∀ (h : Hdr) (d : PReg) (a : PReg) (b : PReg), Statement (.pand h d a b) := fun _ _ _ _ => holds _
theorem por : ∀ (h : Hdr) (d : PReg) (a : PReg) (b : PReg), Statement (.por h d a b) := fun _ _ _ _ => holds _
theorem pxor : ∀ (h : Hdr) (d : PReg) (a : PReg) (b : PReg), Statement (.pxor h d a b) := fun _ _ _ _ => holds _
theorem pnot : ∀ (h : Hdr) (d : PReg) (a : PReg), Statement (.pnot h d a) := fun _ _ _ => holds _
theorem p2v : ∀ (h : Hdr) (d : Reg), Statement (.p2v h d) := fun _ _ => holds _
theorem v2p : ∀ (h : Hdr) (a : Reg) (mask : BitVec 7), Statement (.v2p h a mask) := fun _ _ _ => holds _
theorem fadd : ∀ (h : Hdr) (d : Reg) (a : Src) (b : Src), Statement (.fadd h d a b) := fun _ _ _ _ => holds _
theorem fsub : ∀ (h : Hdr) (d : Reg) (a : Src) (b : Src), Statement (.fsub h d a b) := fun _ _ _ _ => holds _
theorem fmul : ∀ (h : Hdr) (d : Reg) (a : Src) (b : Src), Statement (.fmul h d a b) := fun _ _ _ _ => holds _
theorem ffma : ∀ (h : Hdr) (d : Reg) (a : Reg) (b : Reg) (c : Reg), Statement (.ffma h d a b c) := fun _ _ _ _ _ => holds _
theorem fmin : ∀ (h : Hdr) (d : Reg) (a : Src) (b : Src), Statement (.fmin h d a b) := fun _ _ _ _ => holds _
theorem fmax : ∀ (h : Hdr) (d : Reg) (a : Src) (b : Src), Statement (.fmax h d a b) := fun _ _ _ _ => holds _
theorem fabs : ∀ (h : Hdr) (d : Reg) (a : Src), Statement (.fabs h d a) := fun _ _ _ => holds _
theorem fneg : ∀ (h : Hdr) (d : Reg) (a : Src), Statement (.fneg h d a) := fun _ _ _ => holds _
theorem fcmpeq : ∀ (h : Hdr) (d : PReg) (a : Src) (b : Src), Statement (.fcmpeq h d a b) := fun _ _ _ _ => holds _
theorem fcmplt : ∀ (h : Hdr) (d : PReg) (a : Src) (b : Src), Statement (.fcmplt h d a b) := fun _ _ _ _ => holds _
theorem fcmple : ∀ (h : Hdr) (d : PReg) (a : Src) (b : Src), Statement (.fcmple h d a b) := fun _ _ _ _ => holds _
theorem fcmpun : ∀ (h : Hdr) (d : PReg) (a : Src) (b : Src), Statement (.fcmpun h d a b) := fun _ _ _ _ => holds _
theorem frcp : ∀ (h : Hdr) (d : Reg) (a : Src), Statement (.frcp h d a) := fun _ _ _ => holds _
theorem frsq : ∀ (h : Hdr) (d : Reg) (a : Src), Statement (.frsq h d a) := fun _ _ _ => holds _
theorem fsqrt : ∀ (h : Hdr) (d : Reg) (a : Src), Statement (.fsqrt h d a) := fun _ _ _ => holds _
theorem fexp2 : ∀ (h : Hdr) (d : Reg) (a : Src), Statement (.fexp2 h d a) := fun _ _ _ => holds _
theorem flog2 : ∀ (h : Hdr) (d : Reg) (a : Src), Statement (.flog2 h d a) := fun _ _ _ => holds _
theorem fsin : ∀ (h : Hdr) (d : Reg) (a : Src), Statement (.fsin h d a) := fun _ _ _ => holds _
theorem fcos : ∀ (h : Hdr) (d : Reg) (a : Src), Statement (.fcos h d a) := fun _ _ _ => holds _
theorem ftanh : ∀ (h : Hdr) (d : Reg) (a : Src), Statement (.ftanh h d a) := fun _ _ _ => holds _
theorem fsig : ∀ (h : Hdr) (d : Reg) (a : Src), Statement (.fsig h d a) := fun _ _ _ => holds _
theorem fclass : ∀ (h : Hdr) (d : Reg) (a : Src), Statement (.fclass h d a) := fun _ _ _ => holds _
theorem dadd : ∀ (h : Hdr) (d : Reg) (a : Src) (b : Src), Statement (.dadd h d a b) := fun _ _ _ _ => holds _
theorem dsub : ∀ (h : Hdr) (d : Reg) (a : Src) (b : Src), Statement (.dsub h d a b) := fun _ _ _ _ => holds _
theorem dmul : ∀ (h : Hdr) (d : Reg) (a : Src) (b : Src), Statement (.dmul h d a b) := fun _ _ _ _ => holds _
theorem dfma : ∀ (h : Hdr) (d : Reg) (a : Reg) (b : Reg) (c : Reg), Statement (.dfma h d a b c) := fun _ _ _ _ _ => holds _
theorem dmin : ∀ (h : Hdr) (d : Reg) (a : Src) (b : Src), Statement (.dmin h d a b) := fun _ _ _ _ => holds _
theorem dmax : ∀ (h : Hdr) (d : Reg) (a : Src) (b : Src), Statement (.dmax h d a b) := fun _ _ _ _ => holds _
theorem dcmpeq : ∀ (h : Hdr) (d : PReg) (a : Src) (b : Src), Statement (.dcmpeq h d a b) := fun _ _ _ _ => holds _
theorem dcmplt : ∀ (h : Hdr) (d : PReg) (a : Src) (b : Src), Statement (.dcmplt h d a b) := fun _ _ _ _ => holds _
theorem dcmple : ∀ (h : Hdr) (d : PReg) (a : Src) (b : Src), Statement (.dcmple h d a b) := fun _ _ _ _ => holds _
theorem dcmpun : ∀ (h : Hdr) (d : PReg) (a : Src) (b : Src), Statement (.dcmpun h d a b) := fun _ _ _ _ => holds _
theorem drcpa : ∀ (h : Hdr) (d : Reg) (a : Src), Statement (.drcpa h d a) := fun _ _ _ => holds _
theorem dsqrt : ∀ (h : Hdr) (d : Reg) (a : Src), Statement (.dsqrt h d a) := fun _ _ _ => holds _
theorem ddiv : ∀ (h : Hdr) (d : Reg) (a : Src) (b : Src), Statement (.ddiv h d a b) := fun _ _ _ _ => holds _
theorem hadd2 : ∀ (h : Hdr) (d : Reg) (a : Src) (b : Src), Statement (.hadd2 h d a b) := fun _ _ _ _ => holds _
theorem hmul2 : ∀ (h : Hdr) (d : Reg) (a : Src) (b : Src), Statement (.hmul2 h d a b) := fun _ _ _ _ => holds _
theorem hfma2 : ∀ (h : Hdr) (d : Reg) (a : Reg) (b : Reg) (c : Reg), Statement (.hfma2 h d a b c) := fun _ _ _ _ _ => holds _
theorem hmin2 : ∀ (h : Hdr) (d : Reg) (a : Src) (b : Src), Statement (.hmin2 h d a b) := fun _ _ _ _ => holds _
theorem hmax2 : ∀ (h : Hdr) (d : Reg) (a : Src) (b : Src), Statement (.hmax2 h d a b) := fun _ _ _ _ => holds _
theorem badd2 : ∀ (h : Hdr) (d : Reg) (a : Src) (b : Src), Statement (.badd2 h d a b) := fun _ _ _ _ => holds _
theorem bmul2 : ∀ (h : Hdr) (d : Reg) (a : Src) (b : Src), Statement (.bmul2 h d a b) := fun _ _ _ _ => holds _
theorem bfma2 : ∀ (h : Hdr) (d : Reg) (a : Reg) (b : Reg) (c : Reg), Statement (.bfma2 h d a b c) := fun _ _ _ _ _ => holds _
theorem bmin2 : ∀ (h : Hdr) (d : Reg) (a : Src) (b : Src), Statement (.bmin2 h d a b) := fun _ _ _ _ => holds _
theorem bmax2 : ∀ (h : Hdr) (d : Reg) (a : Src) (b : Src), Statement (.bmax2 h d a b) := fun _ _ _ _ => holds _
theorem hdot2 : ∀ (h : Hdr) (d : Reg) (a : Reg) (b : Reg) (c : Reg), Statement (.hdot2 h d a b c) := fun _ _ _ _ _ => holds _
theorem bdot2 : ∀ (h : Hdr) (d : Reg) (a : Reg) (b : Reg) (c : Reg), Statement (.bdot2 h d a b c) := fun _ _ _ _ _ => holds _
theorem cvtif : ∀ (h : Hdr) (d : Reg) (a : Src), Statement (.cvtif h d a) := fun _ _ _ => holds _
theorem cvtuf : ∀ (h : Hdr) (d : Reg) (a : Src), Statement (.cvtuf h d a) := fun _ _ _ => holds _
theorem cvtfi : ∀ (h : Hdr) (d : Reg) (a : Src), Statement (.cvtfi h d a) := fun _ _ _ => holds _
theorem cvtfin : ∀ (h : Hdr) (d : Reg) (a : Src), Statement (.cvtfin h d a) := fun _ _ _ => holds _
theorem cvtfu : ∀ (h : Hdr) (d : Reg) (a : Src), Statement (.cvtfu h d a) := fun _ _ _ => holds _
theorem cvtfd : ∀ (h : Hdr) (d : Reg) (a : Src), Statement (.cvtfd h d a) := fun _ _ _ => holds _
theorem cvtdf : ∀ (h : Hdr) (d : Reg) (a : Src), Statement (.cvtdf h d a) := fun _ _ _ => holds _
theorem cvtld : ∀ (h : Hdr) (d : Reg) (a : Src), Statement (.cvtld h d a) := fun _ _ _ => holds _
theorem cvtdl : ∀ (h : Hdr) (d : Reg) (a : Src), Statement (.cvtdl h d a) := fun _ _ _ => holds _
theorem cvtfb2 : ∀ (h : Hdr) (d : Reg) (a : Src) (b : Src), Statement (.cvtfb2 h d a b) := fun _ _ _ _ => holds _
theorem cvtfh2 : ∀ (h : Hdr) (d : Reg) (a : Src) (b : Src), Statement (.cvtfh2 h d a b) := fun _ _ _ _ => holds _
theorem cvtbf : ∀ (h : Hdr) (d : Reg) (a : Src), Statement (.cvtbf h d a) := fun _ _ _ => holds _
theorem cvthf : ∀ (h : Hdr) (d : Reg) (a : Src), Statement (.cvthf h d a) := fun _ _ _ => holds _
theorem cvte4 : ∀ (h : Hdr) (d : Reg) (a : Reg), Statement (.cvte4 h d a) := fun _ _ _ => holds _
theorem cvte5 : ∀ (h : Hdr) (d : Reg) (a : Reg), Statement (.cvte5 h d a) := fun _ _ _ => holds _
theorem cvti8 : ∀ (h : Hdr) (d : Reg) (a : Reg), Statement (.cvti8 h d a) := fun _ _ _ => holds _
theorem cvte4f : ∀ (h : Hdr) (d : Reg) (a : Src), Statement (.cvte4f h d a) := fun _ _ _ => holds _
theorem cvte5f : ∀ (h : Hdr) (d : Reg) (a : Src), Statement (.cvte5f h d a) := fun _ _ _ => holds _
theorem cvti8f : ∀ (h : Hdr) (d : Reg) (a : Src), Statement (.cvti8f h d a) := fun _ _ _ => holds _
theorem cvtq4f : ∀ (h : Hdr) (d : Reg) (a : Src) (b : Src), Statement (.cvtq4f h d a b) := fun _ _ _ _ => holds _
theorem qblk : ∀ (h : Hdr) (d : VReg) (a : VReg) (b : SSrc), Statement (.qblk h d a b) := fun _ _ _ _ => holds _
theorem qblke4 : ∀ (h : Hdr) (d : VReg) (a : VReg) (b : SSrc), Statement (.qblke4 h d a b) := fun _ _ _ _ => holds _
theorem qswph : ∀ (h : Hdr) (d : VReg) (a : VReg), Statement (.qswph h d a) := fun _ _ _ => holds _
theorem qswpv : ∀ (h : Hdr) (d : VReg) (a : VReg), Statement (.qswpv h d a) := fun _ _ _ => holds _
theorem qswpd : ∀ (h : Hdr) (d : VReg) (a : VReg), Statement (.qswpd h d a) := fun _ _ _ => holds _
theorem qbrd : ∀ (h : Hdr) (d : VReg) (a : VReg) (i : Fin 4), Statement (.qbrd h d a i) := fun _ _ _ _ => holds _
theorem shfl : ∀ (h : Hdr) (d : VReg) (a : VReg) (b : Src), Statement (.shfl h d a b) := fun _ _ _ _ => holds _
theorem shflup : ∀ (h : Hdr) (d : VReg) (a : VReg) (b : Src), Statement (.shflup h d a b) := fun _ _ _ _ => holds _
theorem shfldn : ∀ (h : Hdr) (d : VReg) (a : VReg) (b : Src), Statement (.shfldn h d a b) := fun _ _ _ _ => holds _
theorem shflx : ∀ (h : Hdr) (d : VReg) (a : VReg) (b : Src), Statement (.shflx h d a b) := fun _ _ _ _ => holds _
theorem voteany : ∀ (h : Hdr) (d : PReg) (a : PReg), Statement (.voteany h d a) := fun _ _ _ => holds _
theorem voteall : ∀ (h : Hdr) (d : PReg) (a : PReg), Statement (.voteall h d a) := fun _ _ _ => holds _
theorem ballot : ∀ (h : Hdr) (d : Reg) (a : PReg), Statement (.ballot h d a) := fun _ _ _ => holds _
theorem matchLanes : ∀ (h : Hdr) (d : VReg) (a : VReg), Statement (.matchLanes h d a) := fun _ _ _ => holds _
theorem gsumi : ∀ (h : Hdr) (d : Reg) (a : VReg), Statement (.gsumi h d a) := fun _ _ _ => holds _
theorem gsumf : ∀ (h : Hdr) (d : Reg) (a : VReg), Statement (.gsumf h d a) := fun _ _ _ => holds _
theorem gmini : ∀ (h : Hdr) (d : Reg) (a : VReg), Statement (.gmini h d a) := fun _ _ _ => holds _
theorem gmaxi : ∀ (h : Hdr) (d : Reg) (a : VReg), Statement (.gmaxi h d a) := fun _ _ _ => holds _
theorem gminf : ∀ (h : Hdr) (d : Reg) (a : VReg), Statement (.gminf h d a) := fun _ _ _ => holds _
theorem gmaxf : ∀ (h : Hdr) (d : Reg) (a : VReg), Statement (.gmaxf h d a) := fun _ _ _ => holds _
theorem gscani : ∀ (h : Hdr) (d : VReg) (a : VReg), Statement (.gscani h d a) := fun _ _ _ => holds _
theorem gscanf : ∀ (h : Hdr) (d : VReg) (a : VReg), Statement (.gscanf h d a) := fun _ _ _ => holds _
theorem isect : ∀ (h : Hdr) (d : VReg) (a : VReg) (b : VReg), Statement (.isect h d a b) := fun _ _ _ _ => holds _
theorem isectadv : ∀ (h : Hdr) (d : Reg) (a : VReg) (b : VReg), Statement (.isectadv h d a b) := fun _ _ _ _ => holds _
theorem ishelp : ∀ (h : Hdr) (d : VReg) (a : PReg), Statement (.ishelp h d a) := fun _ _ _ => holds _
theorem gcnt : ∀ (h : Hdr) (d : Reg) (a : PReg), Statement (.gcnt h d a) := fun _ _ _ => holds _
theorem lds8u : ∀ (h : Hdr) (d : Reg) (a : Reg) (disp : Word), Statement (.lds8u h d a disp) := fun _ _ _ _ => holds _
theorem lds8s : ∀ (h : Hdr) (d : Reg) (a : Reg) (disp : Word), Statement (.lds8s h d a disp) := fun _ _ _ _ => holds _
theorem lds16u : ∀ (h : Hdr) (d : Reg) (a : Reg) (disp : Word), Statement (.lds16u h d a disp) := fun _ _ _ _ => holds _
theorem lds16s : ∀ (h : Hdr) (d : Reg) (a : Reg) (disp : Word), Statement (.lds16s h d a disp) := fun _ _ _ _ => holds _
theorem lds32 : ∀ (h : Hdr) (d : Reg) (a : Reg) (disp : Word), Statement (.lds32 h d a disp) := fun _ _ _ _ => holds _
theorem lds64 : ∀ (h : Hdr) (d : Reg) (a : Reg) (disp : Word), Statement (.lds64 h d a disp) := fun _ _ _ _ => holds _
theorem lds128 : ∀ (h : Hdr) (d : Reg) (a : Reg) (disp : Word), Statement (.lds128 h d a disp) := fun _ _ _ _ => holds _
theorem sts8 : ∀ (h : Hdr) (a : Reg) (b : Reg) (disp : Word), Statement (.sts8 h a b disp) := fun _ _ _ _ => holds _
theorem sts16 : ∀ (h : Hdr) (a : Reg) (b : Reg) (disp : Word), Statement (.sts16 h a b disp) := fun _ _ _ _ => holds _
theorem sts32 : ∀ (h : Hdr) (a : Reg) (b : Reg) (disp : Word), Statement (.sts32 h a b disp) := fun _ _ _ _ => holds _
theorem sts64 : ∀ (h : Hdr) (a : Reg) (b : Reg) (disp : Word), Statement (.sts64 h a b disp) := fun _ _ _ _ => holds _
theorem sts128 : ∀ (h : Hdr) (a : Reg) (b : Reg) (disp : Word), Statement (.sts128 h a b disp) := fun _ _ _ _ => holds _
theorem ldsh : ∀ (h : Hdr) (d : Reg) (a : Reg) (disp : Word), Statement (.ldsh h d a disp) := fun _ _ _ _ => holds _
theorem stsh : ∀ (h : Hdr) (a : Reg) (b : Reg) (disp : Word), Statement (.stsh h a b disp) := fun _ _ _ _ => holds _
theorem saadd : ∀ (h : Hdr) (d : VReg) (a : Reg) (b : Reg) (disp : Word), Statement (.saadd h d a b disp) := fun _ _ _ _ _ => holds _
theorem sacas : ∀ (h : Hdr) (d : VReg) (a : Reg) (b : Reg) (disp : Word), Statement (.sacas h d a b disp) := fun _ _ _ _ _ => holds _
theorem safadd : ∀ (h : Hdr) (d : VReg) (a : Reg) (b : Reg) (disp : Word), Statement (.safadd h d a b disp) := fun _ _ _ _ _ => holds _
theorem ld8u : ∀ (h : Hdr) (d : Reg) (a : Reg) (disp : Word), Statement (.ld8u h d a disp) := fun _ _ _ _ => holds _
theorem ld8s : ∀ (h : Hdr) (d : Reg) (a : Reg) (disp : Word), Statement (.ld8s h d a disp) := fun _ _ _ _ => holds _
theorem ld16u : ∀ (h : Hdr) (d : Reg) (a : Reg) (disp : Word), Statement (.ld16u h d a disp) := fun _ _ _ _ => holds _
theorem ld16s : ∀ (h : Hdr) (d : Reg) (a : Reg) (disp : Word), Statement (.ld16s h d a disp) := fun _ _ _ _ => holds _
theorem ld32 : ∀ (h : Hdr) (d : Reg) (a : Reg) (disp : Word), Statement (.ld32 h d a disp) := fun _ _ _ _ => holds _
theorem ld64 : ∀ (h : Hdr) (d : Reg) (a : Reg) (disp : Word), Statement (.ld64 h d a disp) := fun _ _ _ _ => holds _
theorem ld128 : ∀ (h : Hdr) (d : Reg) (a : Reg) (disp : Word), Statement (.ld128 h d a disp) := fun _ _ _ _ => holds _
theorem st8 : ∀ (h : Hdr) (a : Reg) (b : Reg) (disp : Word), Statement (.st8 h a b disp) := fun _ _ _ _ => holds _
theorem st16 : ∀ (h : Hdr) (a : Reg) (b : Reg) (disp : Word), Statement (.st16 h a b disp) := fun _ _ _ _ => holds _
theorem st32 : ∀ (h : Hdr) (a : Reg) (b : Reg) (disp : Word), Statement (.st32 h a b disp) := fun _ _ _ _ => holds _
theorem st64 : ∀ (h : Hdr) (a : Reg) (b : Reg) (disp : Word), Statement (.st64 h a b disp) := fun _ _ _ _ => holds _
theorem st128 : ∀ (h : Hdr) (a : Reg) (b : Reg) (disp : Word), Statement (.st128 h a b disp) := fun _ _ _ _ => holds _
theorem ldacq32 : ∀ (h : Hdr) (d : Reg) (a : Reg) (disp : Word), Statement (.ldacq32 h d a disp) := fun _ _ _ _ => holds _
theorem ldacq64 : ∀ (h : Hdr) (d : Reg) (a : Reg) (disp : Word), Statement (.ldacq64 h d a disp) := fun _ _ _ _ => holds _
theorem strel32 : ∀ (h : Hdr) (a : Reg) (b : Reg) (disp : Word), Statement (.strel32 h a b disp) := fun _ _ _ _ => holds _
theorem strel64 : ∀ (h : Hdr) (a : Reg) (b : Reg) (disp : Word), Statement (.strel64 h a b disp) := fun _ _ _ _ => holds _
theorem gath32 : ∀ (h : Hdr) (d : VReg) (a : Reg) (disp : Word), Statement (.gath32 h d a disp) := fun _ _ _ _ => holds _
theorem gath64 : ∀ (h : Hdr) (d : VReg) (a : Reg) (disp : Word), Statement (.gath64 h d a disp) := fun _ _ _ _ => holds _
theorem scat32 : ∀ (h : Hdr) (a : Reg) (b : Reg) (disp : Word), Statement (.scat32 h a b disp) := fun _ _ _ _ => holds _
theorem scat64 : ∀ (h : Hdr) (a : Reg) (b : Reg) (disp : Word), Statement (.scat64 h a b disp) := fun _ _ _ _ => holds _
theorem pref : ∀ (h : Hdr) (a : Reg) (disp : Word), Statement (.pref h a disp) := fun _ _ _ => holds _
theorem ldlu32 : ∀ (h : Hdr) (d : Reg) (a : Reg) (disp : Word), Statement (.ldlu32 h d a disp) := fun _ _ _ _ => holds _
theorem disc : ∀ (h : Hdr) (a : Reg) (disp : Word), Statement (.disc h a disp) := fun _ _ _ => holds _
theorem puts : ∀ (h : Hdr) (a : Reg) (b : Reg) (sc : SReg), Statement (.puts h a b sc) := fun _ _ _ _ => holds _
theorem aadd32 : ∀ (h : Hdr) (d : VReg) (a : Reg) (b : Reg) (disp : Word), Statement (.aadd32 h d a b disp) := fun _ _ _ _ _ => holds _
theorem aadd64 : ∀ (h : Hdr) (d : VReg) (a : Reg) (b : Reg) (disp : Word), Statement (.aadd64 h d a b disp) := fun _ _ _ _ _ => holds _
theorem amins32 : ∀ (h : Hdr) (d : VReg) (a : Reg) (b : Reg) (disp : Word), Statement (.amins32 h d a b disp) := fun _ _ _ _ _ => holds _
theorem amaxs32 : ∀ (h : Hdr) (d : VReg) (a : Reg) (b : Reg) (disp : Word), Statement (.amaxs32 h d a b disp) := fun _ _ _ _ _ => holds _
theorem aminu32 : ∀ (h : Hdr) (d : VReg) (a : Reg) (b : Reg) (disp : Word), Statement (.aminu32 h d a b disp) := fun _ _ _ _ _ => holds _
theorem amaxu32 : ∀ (h : Hdr) (d : VReg) (a : Reg) (b : Reg) (disp : Word), Statement (.amaxu32 h d a b disp) := fun _ _ _ _ _ => holds _
theorem aand32 : ∀ (h : Hdr) (d : VReg) (a : Reg) (b : Reg) (disp : Word), Statement (.aand32 h d a b disp) := fun _ _ _ _ _ => holds _
theorem aor32 : ∀ (h : Hdr) (d : VReg) (a : Reg) (b : Reg) (disp : Word), Statement (.aor32 h d a b disp) := fun _ _ _ _ _ => holds _
theorem axor32 : ∀ (h : Hdr) (d : VReg) (a : Reg) (b : Reg) (disp : Word), Statement (.axor32 h d a b disp) := fun _ _ _ _ _ => holds _
theorem axch32 : ∀ (h : Hdr) (d : VReg) (a : Reg) (b : Reg) (disp : Word), Statement (.axch32 h d a b disp) := fun _ _ _ _ _ => holds _
theorem axch64 : ∀ (h : Hdr) (d : VReg) (a : Reg) (b : Reg) (disp : Word), Statement (.axch64 h d a b disp) := fun _ _ _ _ _ => holds _
theorem acas32 : ∀ (h : Hdr) (d : VReg) (a : Reg) (b : Reg) (disp : Word), Statement (.acas32 h d a b disp) := fun _ _ _ _ _ => holds _
theorem acas64 : ∀ (h : Hdr) (d : VReg) (a : Reg) (b : Reg) (disp : Word), Statement (.acas64 h d a b disp) := fun _ _ _ _ _ => holds _
theorem acas128 : ∀ (h : Hdr) (d : VReg) (a : Reg) (b : Reg) (disp : Word), Statement (.acas128 h d a b disp) := fun _ _ _ _ _ => holds _
theorem afaddb : ∀ (h : Hdr) (d : VReg) (a : Reg) (b : Reg) (disp : Word), Statement (.afaddb h d a b disp) := fun _ _ _ _ _ => holds _
theorem afaddf : ∀ (h : Hdr) (d : VReg) (a : Reg) (b : Reg) (disp : Word), Statement (.afaddf h d a b disp) := fun _ _ _ _ _ => holds _
theorem afaddd : ∀ (h : Hdr) (d : VReg) (a : Reg) (b : Reg) (disp : Word), Statement (.afaddd h d a b disp) := fun _ _ _ _ _ => holds _
theorem afminb : ∀ (h : Hdr) (d : VReg) (a : Reg) (b : Reg) (disp : Word), Statement (.afminb h d a b disp) := fun _ _ _ _ _ => holds _
theorem afmaxb : ∀ (h : Hdr) (d : VReg) (a : Reg) (b : Reg) (disp : Word), Statement (.afmaxb h d a b disp) := fun _ _ _ _ _ => holds _
theorem afminf : ∀ (h : Hdr) (d : VReg) (a : Reg) (b : Reg) (disp : Word), Statement (.afminf h d a b disp) := fun _ _ _ _ _ => holds _
theorem afmaxf : ∀ (h : Hdr) (d : VReg) (a : Reg) (b : Reg) (disp : Word), Statement (.afmaxf h d a b disp) := fun _ _ _ _ _ => holds _
theorem afmind : ∀ (h : Hdr) (d : VReg) (a : Reg) (b : Reg) (disp : Word), Statement (.afmind h d a b disp) := fun _ _ _ _ _ => holds _
theorem afmaxd : ∀ (h : Hdr) (d : VReg) (a : Reg) (b : Reg) (disp : Word), Statement (.afmaxd h d a b disp) := fun _ _ _ _ _ => holds _
theorem afaddb2 : ∀ (h : Hdr) (d : VReg) (a : Reg) (b : Reg) (disp : Word), Statement (.afaddb2 h d a b disp) := fun _ _ _ _ _ => holds _
theorem afaddf2 : ∀ (h : Hdr) (d : VReg) (a : Reg) (b : Reg) (disp : Word), Statement (.afaddf2 h d a b disp) := fun _ _ _ _ _ => holds _
theorem nadd32 : ∀ (h : Hdr) (a : Reg) (b : Reg) (disp : Word), Statement (.nadd32 h a b disp) := fun _ _ _ _ => holds _
theorem nadd64 : ∀ (h : Hdr) (a : Reg) (b : Reg) (disp : Word), Statement (.nadd64 h a b disp) := fun _ _ _ _ => holds _
theorem nfaddb : ∀ (h : Hdr) (a : Reg) (b : Reg) (disp : Word), Statement (.nfaddb h a b disp) := fun _ _ _ _ => holds _
theorem nfaddf : ∀ (h : Hdr) (a : Reg) (b : Reg) (disp : Word), Statement (.nfaddf h a b disp) := fun _ _ _ _ => holds _
theorem nfaddd : ∀ (h : Hdr) (a : Reg) (b : Reg) (disp : Word), Statement (.nfaddd h a b disp) := fun _ _ _ _ => holds _
theorem nfaddb2 : ∀ (h : Hdr) (a : Reg) (b : Reg) (disp : Word), Statement (.nfaddb2 h a b disp) := fun _ _ _ _ => holds _
theorem nfaddf2 : ∀ (h : Hdr) (a : Reg) (b : Reg) (disp : Word), Statement (.nfaddf2 h a b disp) := fun _ _ _ _ => holds _
theorem nfminf : ∀ (h : Hdr) (a : Reg) (b : Reg) (disp : Word), Statement (.nfminf h a b disp) := fun _ _ _ _ => holds _
theorem nfmaxf : ∀ (h : Hdr) (a : Reg) (b : Reg) (disp : Word), Statement (.nfmaxf h a b disp) := fun _ _ _ _ => holds _
theorem nor32 : ∀ (h : Hdr) (a : Reg) (b : Reg) (disp : Word), Statement (.nor32 h a b disp) := fun _ _ _ _ => holds _
theorem qcall : ∀ (h : Hdr) (d : VReg) (a : Reg) (b : Reg) (cls : Fin 256) (m : Fin 4), Statement (.qcall h d a b cls m) := fun _ _ _ _ _ _ => holds _
theorem qcalla : ∀ (h : Hdr) (d : VReg) (a : Reg) (b : Reg) (cls : Fin 256) (m : Fin 4), Statement (.qcalla h d a b cls m) := fun _ _ _ _ _ _ => holds _
theorem qcalln : ∀ (h : Hdr) (a : Reg) (b : Reg) (cls : Fin 256) (m : Fin 4), Statement (.qcalln h a b cls m) := fun _ _ _ _ _ => holds _
theorem ldo : ∀ (h : Hdr) (d : Reg) (a : Reg) (disp : Word), Statement (.ldo h d a disp) := fun _ _ _ _ => holds _
theorem sto : ∀ (h : Hdr) (a : Reg) (b : Reg) (disp : Word), Statement (.sto h a b disp) := fun _ _ _ _ => holds _
theorem qret : ∀ (h : Hdr) (b : VReg), Statement (.qret h b) := fun _ _ => holds _
theorem bara : ∀ (h : Hdr) (d : Reg) (bar : Bar), Statement (.bara h d bar) := fun _ _ _ => holds _
theorem barw : ∀ (h : Hdr) (a : Reg) (bar : Bar), Statement (.barw h a bar) := fun _ _ _ => holds _
theorem bars : ∀ (h : Hdr) (bar : Bar), Statement (.bars h bar) := fun _ _ => holds _
theorem barx : ∀ (h : Hdr) (sa : SReg) (bar : Bar), Statement (.barx h sa bar) := fun _ _ _ => holds _
theorem fence : ∀ (h : Hdr), Statement (.fence h) := fun _ => holds _
theorem fencex : ∀ (h : Hdr) (x : Path) (y : Path), Statement (.fencex h x y) := fun _ _ _ => holds _
theorem marm : ∀ (h : Hdr) (a : Reg) (disp : Word), Statement (.marm h a disp) := fun _ _ _ => holds _
theorem mwait : ∀ (h : Hdr) (d : PReg) (b : Reg) (cond : Fin 4) (budget : BitVec 24), Statement (.mwait h d b cond budget) := fun _ _ _ _ _ => holds _
theorem cvset : ∀ (h : Hdr) (c : CReg) (a : SSrc), Statement (.cvset h c a) := fun _ _ _ => holds _
theorem sign : ∀ (h : Hdr) (c : CReg), Statement (.sign h c) := fun _ _ => holds _
theorem signw : ∀ (h : Hdr) (d : PReg) (c : CReg), Statement (.signw h d c) := fun _ _ _ => holds _
theorem mxacq : ∀ (h : Hdr) (d : PReg), Statement (.mxacq h d) := fun _ _ => holds _
theorem mxrel : ∀ (h : Hdr), Statement (.mxrel h) := fun _ => holds _
theorem mmabf : ∀ (h : Hdr) (d : BReg) (a : ASrc) (c : CReg) (hb : HReg) (kq : Fin 4) (ms : Fin 8) (ns : Fin 8), Statement (.mmabf h d a c hb kq ms ns) := fun _ _ _ _ _ _ _ _ => holds _
theorem mmahf : ∀ (h : Hdr) (d : BReg) (a : ASrc) (c : CReg) (hb : HReg) (kq : Fin 4) (ms : Fin 8) (ns : Fin 8), Statement (.mmahf h d a c hb kq ms ns) := fun _ _ _ _ _ _ _ _ => holds _
theorem mmae4 : ∀ (h : Hdr) (d : BReg) (a : ASrc) (c : CReg) (hb : HReg) (kq : Fin 4) (ms : Fin 8) (ns : Fin 8), Statement (.mmae4 h d a c hb kq ms ns) := fun _ _ _ _ _ _ _ _ => holds _
theorem mmae5 : ∀ (h : Hdr) (d : BReg) (a : ASrc) (c : CReg) (hb : HReg) (kq : Fin 4) (ms : Fin 8) (ns : Fin 8), Statement (.mmae5 h d a c hb kq ms ns) := fun _ _ _ _ _ _ _ _ => holds _
theorem mmae45 : ∀ (h : Hdr) (d : BReg) (a : ASrc) (c : CReg) (hb : HReg) (kq : Fin 4) (ms : Fin 8) (ns : Fin 8), Statement (.mmae45 h d a c hb kq ms ns) := fun _ _ _ _ _ _ _ _ => holds _
theorem mmai8 : ∀ (h : Hdr) (d : BReg) (a : ASrc) (c : CReg) (hb : HReg) (kq : Fin 4) (ms : Fin 8) (ns : Fin 8), Statement (.mmai8 h d a c hb kq ms ns) := fun _ _ _ _ _ _ _ _ => holds _
theorem mmaq4 : ∀ (h : Hdr) (d : BReg) (a : ASrc) (c : CReg) (hb : HReg) (kq : Fin 4) (ms : Fin 8) (ns : Fin 8), Statement (.mmaq4 h d a c hb kq ms ns) := fun _ _ _ _ _ _ _ _ => holds _
theorem mmaf64 : ∀ (h : Hdr) (d : BReg) (a : ASrc) (c : CReg) (hb : HReg) (kq : Fin 4) (ms : Fin 8) (ns : Fin 8), Statement (.mmaf64 h d a c hb kq ms ns) := fun _ _ _ _ _ _ _ _ => holds _
theorem mmase4 : ∀ (h : Hdr) (d : BReg) (a : ASrc) (c : CReg) (hb : HReg) (kq : Fin 4) (ms : Fin 8) (ns : Fin 8) (hx : HReg), Statement (.mmase4 h d a c hb kq ms ns hx) := fun _ _ _ _ _ _ _ _ _ => holds _
theorem mmasi8 : ∀ (h : Hdr) (d : BReg) (a : ASrc) (c : CReg) (hb : HReg) (kq : Fin 4) (ms : Fin 8) (ns : Fin 8) (hx : HReg), Statement (.mmasi8 h d a c hb kq ms ns hx) := fun _ _ _ _ _ _ _ _ _ => holds _
theorem mmajbf : ∀ (h : Hdr) (d : BReg) (a : HReg) (c : CReg) (hb : HReg) (ms : Fin 8) (ns : Fin 8), Statement (.mmajbf h d a c hb ms ns) := fun _ _ _ _ _ _ _ => holds _
theorem mmaje4 : ∀ (h : Hdr) (d : BReg) (a : HReg) (c : CReg) (hb : HReg) (ms : Fin 8) (ns : Fin 8), Statement (.mmaje4 h d a c hb ms ns) := fun _ _ _ _ _ _ _ => holds _
theorem mmagbf : ∀ (h : Hdr) (d : BReg) (a : HReg) (c : CReg) (hb : HReg) (gn : Fin 4) (ms : Fin 8) (ns : Fin 8) (hx : HReg), Statement (.mmagbf h d a c hb gn ms ns hx) := fun _ _ _ _ _ _ _ _ _ => holds _
theorem mmage4 : ∀ (h : Hdr) (d : BReg) (a : HReg) (c : CReg) (hb : HReg) (gn : Fin 4) (ms : Fin 8) (ns : Fin 8) (hx : HReg), Statement (.mmage4 h d a c hb gn ms ns hx) := fun _ _ _ _ _ _ _ _ _ => holds _
theorem bzero : ∀ (h : Hdr) (b : BReg), Statement (.bzero h b) := fun _ _ => holds _
theorem brd : ∀ (h : Hdr) (d : VReg) (b : BReg) (x : Src), Statement (.brd h d b x) := fun _ _ _ _ => holds _
theorem bwr : ∀ (h : Hdr) (b : BReg) (sb : SReg) (k : KId) (ms : Fin 8) (ns : Fin 8) (bar : Option Bar), Statement (.bwr h b sb k ms ns bar) := fun _ _ _ _ _ _ _ => holds _
theorem bgive : ∀ (h : Hdr) (b : BReg) (x : SSrc), Statement (.bgive h b x) := fun _ _ _ => holds _
theorem bclaim : ∀ (h : Hdr) (d : PReg) (b : BReg), Statement (.bclaim h d b) := fun _ _ _ => holds _
theorem bfree : ∀ (h : Hdr) (b : BReg), Statement (.bfree h b) := fun _ _ => holds _
theorem bstat : ∀ (h : Hdr) (d : Reg) (b : BReg), Statement (.bstat h d b) := fun _ _ _ => holds _
theorem sprn8 : ∀ (h : Hdr) (d : VReg) (a : VReg), Statement (.sprn8 h d a) := fun _ _ _ => holds _
theorem sprn4e : ∀ (h : Hdr) (d : VReg) (a : VReg), Statement (.sprn4e h d a) := fun _ _ _ => holds _
theorem qpush : ∀ (h : Hdr) (q : QReg) (a : SSrc), Statement (.qpush h q a) := fun _ _ _ => holds _
theorem qpop : ∀ (h : Hdr) (d : Reg) (q : QReg), Statement (.qpop h d q) := fun _ _ _ => holds _
theorem qtry : ∀ (h : Hdr) (d : Reg) (q : QReg), Statement (.qtry h d q) := fun _ _ _ => holds _
theorem tdef : ∀ (h : Hdr) (t : HReg) (sa : SReg) (sb : SReg) (ready : Bool), Statement (.tdef h t sa sb ready) := fun _ _ _ _ _ => holds _
theorem tstat : ∀ (h : Hdr) (d : Reg) (t : HReg), Statement (.tstat h d t) := fun _ _ _ => holds _
theorem tfree : ∀ (h : Hdr) (t : HReg), Statement (.tfree h t) := fun _ _ => holds _
theorem twait : ∀ (h : Hdr) (t : HReg), Statement (.twait h t) := fun _ _ => holds _
theorem kdef : ∀ (h : Hdr) (sa : SReg) (k : KId), Statement (.kdef h sa k) := fun _ _ _ => holds _
theorem krel : ∀ (h : Hdr) (k : KId), Statement (.krel h k) := fun _ _ => holds _
theorem evroute : ∀ (h : Hdr) (e : Fin 16) (g : Fin 16) (en : Bool), Statement (.evroute h e g en) := fun _ _ _ _ => holds _
theorem evwait : ∀ (h : Hdr) (g : Fin 4), Statement (.evwait h g) := fun _ _ => holds _
theorem evpost : ∀ (h : Hdr) (e : Fin 6), Statement (.evpost h e) := fun _ _ => holds _
theorem launch : ∀ (h : Hdr) (d : SReg) (sa : SReg) (disp : Word), Statement (.launch h d sa disp) := fun _ _ _ _ => holds _
theorem emit : ∀ (h : Hdr) (d : PReg) (a : Reg) (node : Fin 256), Statement (.emit h d a node) := fun _ _ _ _ => holds _
theorem emitw : ∀ (h : Hdr) (a : Reg) (node : Fin 256), Statement (.emitw h a node) := fun _ _ _ => holds _
theorem pipew : ∀ (h : Hdr) (n : NReg) (a : VReg), Statement (.pipew h n a) := fun _ _ _ => holds _
theorem piper : ∀ (h : Hdr) (d : VReg) (n : NReg), Statement (.piper h d n) := fun _ _ _ => holds _
theorem pipetry : ∀ (h : Hdr) (d : VReg) (n : NReg), Statement (.pipetry h d n) := fun _ _ _ => holds _
theorem srd : ∀ (h : Hdr) (d : Reg) (num : SpecReg), Statement (.srd h d num) := fun _ _ _ => holds _
theorem swr : ∀ (h : Hdr) (hi : Bool) (a : Reg), Statement (.swr h hi a) := fun _ _ _ => holds _
theorem keyw : ∀ (h : Hdr) (sa : SReg), Statement (.keyw h sa) := fun _ _ => holds _
theorem keyr : ∀ (h : Hdr) (d : Reg) (a : Reg) (disp : Word), Statement (.keyr h d a disp) := fun _ _ _ _ => holds _
theorem eret : ∀ (h : Hdr), Statement (.eret h) := fun _ => holds _
theorem trpv : ∀ (h : Hdr) (a : Reg) (i : Fin 4), Statement (.trpv h a i) := fun _ _ _ => holds _
theorem tlbinv : ∀ (h : Hdr) (sa : SReg) (b : SSrc), Statement (.tlbinv h sa b) := fun _ _ _ => holds _
theorem cachewb : ∀ (h : Hdr) (sa : SReg) (b : SSrc), Statement (.cachewb h sa b) := fun _ _ _ => holds _
theorem cacheinv : ∀ (h : Hdr) (sa : SReg) (b : SSrc), Statement (.cacheinv h sa b) := fun _ _ _ => holds _
theorem qreg : ∀ (h : Hdr) (d : SReg) (sa : SReg) (cls : Fin 256), Statement (.qreg h d sa cls) := fun _ _ _ _ => holds _
theorem qdereg : ∀ (h : Hdr) (d : SReg) (cls : Fin 256), Statement (.qdereg h d cls) := fun _ _ _ => holds _

end Sys2Proof.Laws.EncodesAsWord
end

