-- ==== Sys2Proof/Laws/Results.lean ====
section
/-! SUPPORT. What a fixed-latency result does: the spec lemmas of `Group.write`, `fixedOp` and `predOp`. -/

namespace Sys2Proof.Machine

/-! ### Outstanding results keep everything but their marks -/

theorem supersede_undisc (ps : List Pend) (seq : Nat) (m : Word) (r : Reg ⊕ PReg) :
    ((supersede ps seq m r).map fun p => { p with disc := 0 }) = ps.map fun p => { p with disc := 0 } := by
  simp only [supersede, List.map_map]
  apply List.map_congr_left
  intro p _
  simp only [Function.comp]
  split
  · split <;> rfl
  · rfl

theorem supersedeN_undisc (ps : List Pend) (seq : Nat) (m : Word) (r : Reg) (w : Nat) :
    ((supersedeN ps seq m r w).map fun p => { p with disc := 0 }) = ps.map fun p => { p with disc := 0 } := by
  induction w with
  | zero => rfl
  | succ w ih => rw [supersedeN, supersede_undisc, ih]

/-! ### Writing registers of one class leaves everything else -/

theorem Lane.setVs_frame (L : Lane) (n : Nat) (ws : List Word) :
    L.setVs n ws = { L with v := (L.setVs n ws).v } := by
  induction ws generalizing L n with
  | nil => rfl
  | cons x ws ih => rw [Lane.setVs, ih]; rfl

theorem Lane.setP_frame (L : Lane) (p : PReg) (b : Bool) : L.setP p b = { L with p := (L.setP p b).p } := by
  unfold Lane.setP; split <;> rfl

theorem Group.setSs_frame (G : Group) (n : Nat) (ws : List Word) :
    G.setSs n ws = { G with s := (G.setSs n ws).s } := by
  induction ws generalizing G n with
  | nil => rfl
  | cons x ws ih => rw [Group.setSs, ih]; rfl

/-- The scalar registers after `setSs` depend on the scalar registers alone. -/
theorem Group.setSs_s {G G' : Group} (h : G'.s = G.s) (n : Nat) (ws : List Word) : (G'.setSs n ws).s = (G.setSs n ws).s := by
  induction ws generalizing G G' n with
  | nil => exact h
  | cons x ws ih => exact ih (by simp [Group.setS, h]) _

theorem wrote_of {s : State} {h : Hdr} {G : Group} {x : At} (a : AtOf s h G x) {F : Group → Group} {f : Nat → Lane → Lane}
    {sr : AMap Word}
    (hlen : (F (advanced s x G)).lanes.length = G.lanes.length)
    (hlane : ∀ l, l < G.lanes.length → (F (advanced s x G)).lane l =
      if inMask x.T l then f l ((advanced s x G).lane l) else (advanced s x G).lane l)
    (hs : (F (advanced s x G)).s = sr)
    (hp : ((F (advanced s x G)).pend.map fun p => { p with disc := 0 }) = G.pend.map fun p => { p with disc := 0 })
    (hfr : F (advanced s x G) = { advanced s x G with
      lanes := (F (advanced s x G)).lanes, s := (F (advanced s x G)).s, pend := (F (advanced s x G)).pend }) :
    Wrote s ((s.bump).updGroup x.g fun G => F (advanced s x G)) G x f sr := by
  have hG : s.group? x.g = some G := by rw [a.g]; exact a.group
  refine ⟨rfl, ?_, ?_⟩
  · intro k hk
    rw [State.group?_updGroup, if_neg (Ne.symm hk)]; rfl
  · refine ⟨F (advanced s x G), ?_, hs, ?_, hp, ?_⟩
    · rw [State.group?_updGroup_self]
      have : s.bump.group? x.g = some G := hG
      rw [this]; rfl
    · intro l
      by_cases hl : l < G.lanes.length
      · rw [hlane l hl]
        have hadv : (advanced s x G).lane l = if inMask x.B l then (G.lane l).moveOn x (s.now x.g) else G.lane l :=
          Group.lane_updLanes G x.B (fun _ L => L.moveOn x (s.now x.g)) l hl
        rw [hadv]
        by_cases hB : inMask x.B l = true
        · simp only [hB, if_true]
          by_cases hT : inMask x.T l = true
          · simp only [hT, if_true]; rfl
          · simp only [hT]; rfl
        · have hT : ¬ inMask x.T l = true := fun hT => hB (a.inB hT)
          simp only [hB, hT]; rfl
      · have hB : ¬ inMask x.B l = true := fun hB => hl (a.length hB)
        have hT : ¬ inMask x.T l = true := fun hT => hB (a.inB hT)
        rw [Group.lane_of_ge _ (by simpa [hlen] using hl), Group.lane_of_ge G (Nat.le_of_not_lt hl)]
        simp only [hB, hT]; rfl
    · rw [hfr]
      rfl

/-! ### The fixed-latency shapes -/

theorem advanced_lane_B {s : State} {h : Hdr} {G : Group} {x : At} (a : AtOf s h G x) {l : Nat} (hl : inMask x.B l = true) :
    (advanced s x G).lane l = (G.lane l).moveOn x (s.now x.g) := by
  have := Group.lane_updLanes G x.B (fun _ L => L.moveOn x (s.now x.g)) l (a.length hl)
  rw [if_pos hl] at this
  exact this

@[simp] theorem advanced_length (s : State) (x : At) (G : Group) : (advanced s x G).lanes.length = G.lanes.length := by
  simp [advanced]

/-- A change of the own group that leaves each lane's place, wait, life and trap depth is a straight line. -/
theorem straight_of {s : State} {h : Hdr} {G G1 : Group} {x : At} (a : AtOf s h G x)
    (hl : ∀ l, inMask x.B l = true → ((G1.lane l).pc = ((advanced s x G).lane l).pc ∧
      (G1.lane l).wait = ((advanced s x G).lane l).wait ∧ (G1.lane l).live = ((advanced s x G).lane l).live ∧
      (G1.lane l).traps = ((advanced s x G).lane l).traps)) : Straight x G G1 := by
  constructor <;> intro l hb <;> have := hl l hb <;> rw [advanced_lane_B a hb] at this
  · exact this.1
  · exact this.2.1
  · rw [this.2.2.1]; exact Lane.live_of_issuable (L := G.lane l) (a.B l hb).2.1
  · exact this.2.2.2

/-- The spec lemma of a fixed-latency register result (R12, R21, R22). -/
theorem lands_of {s : State} {h : Hdr} {site : Site} {regs : List (Reg × Nat)}
    {handles : State → Group → List (Nat × Bool)} {G : Group} {x : At} (i : Issues s h site regs handles G x)
    {d : Reg} {w : Nat} {f : Group → Nat → List Word} {ws : Nat → List Word}
    (hws : f (advanced s x G) = ws) :
    Lands s G x d ws (issue s h site regs handles fun s x => s.result x d w f) := by
  have a := atOf i.bundle
  subst hws
  cases d with
  | v n =>
    have key : ∀ l, l < G.lanes.length → ((advanced s x G).write x.seq x.T x.N (.v n) w (f (advanced s x G))).lane l =
        if inMask x.T l then ((advanced s x G).lane l).setVs n.val (f (advanced s x G) l) else (advanced s x G).lane l :=
      fun l hl => Group.lane_updLanes (advanced s x G) x.T (fun l L => L.setVs n.val (f (advanced s x G) l)) l
        (by simpa using hl)
    refine ⟨_, ?_, issue_straight i (F := fun G => G.write x.seq x.T x.N (.v n) w (f G)) rfl (straight_of a ?_)⟩
    · refine wrote_of (F := fun G => G.write x.seq x.T x.N (.v n) w (f G)) (f := vWrite (.v n) (f (advanced s x G))) a ?_ key rfl ?_ rfl
      · simp [Group.write]
      · exact supersedeN_undisc _ _ _ _ _
    · intro l hl
      rw [key l (a.length hl)]
      split
      · rw [Lane.setVs_frame]; simp
      · simp
  | s n =>
    cases hN : lowest x.N with
    | none =>
      have e : ∀ G' : Group, G'.write x.seq x.T x.N (.s n) w (f G') = G' := by intro G'; simp [Group.write, hN]
      refine ⟨_, ?_, issue_straight i (F := fun G => G.write x.seq x.T x.N (.s n) w (f G)) rfl (straight_of a ?_)⟩
      · refine wrote_of (F := fun G => G.write x.seq x.T x.N (.s n) w (f G)) a ?_ ?_ ?_ ?_ ?_
        · simp [e]
        · intro l hl; simp [e, vWrite]
        · simp [e, sWrite, hN]; rfl
        · simp [e]; rfl
        · simp [e]
      · intro l hl; simp [e]
    | some k =>
      have e : ∀ G' : Group, G'.write x.seq x.T x.N (.s n) w (f G') =
          { G' with s := (G'.setSs n.val (f G' k)).s, pend := supersedeN G'.pend x.seq 0xFFFFFFFF (.s n) w } := by
        intro G'; simp only [Group.write, hN]; rw [Group.setSs_frame]
      refine ⟨_, ?_, issue_straight i (F := fun G => G.write x.seq x.T x.N (.s n) w (f G)) rfl (straight_of a ?_)⟩
      · refine wrote_of (F := fun G => G.write x.seq x.T x.N (.s n) w (f G)) a ?_ ?_ ?_ ?_ ?_
        · simp [e]
        · intro l hl; simp [e, vWrite, Group.lane]
        · simp only [e, sWrite, hN]; exact Group.setSs_s (G := G) (G' := advanced s x G) rfl _ _
        · simp only [e]; exact supersedeN_undisc _ _ _ _ _
        · simp [e]
      · intro l hl; simp [e, Group.lane]

/-- The spec lemma of `fixedOp`. -/
theorem fixedOp_lands {s : State} {h : Hdr} {d : Reg} {w : Nat} {regs : List (Reg × Nat)} {G : Group} {x : At}
    (i : Issues s h .both ((d, w) :: regs) noHandles G x) {f : Group → Nat → List Word} {ws : Nat → List Word}
    (hws : f (advanced s x G) = ws) : Lands s G x d ws (fixedOp s h d w regs f) := lands_of i hws

/-- The spec lemma of a predicate result. -/
theorem landsP_of {s : State} {h : Hdr} {site : Site} {regs : List (Reg × Nat)}
    {handles : State → Group → List (Nat × Bool)} {G : Group} {x : At} (i : Issues s h site regs handles G x)
    {d : PReg} {f : Group → Nat → Bool} {b : Nat → Bool} (hb : f (advanced s x G) = b) :
    LandsP s G x d b (issue s h site regs handles fun s x => s.resultP x d f) := by
  have a := atOf i.bundle
  subst hb
  have key : ∀ l, l < G.lanes.length → ((advanced s x G).writeP x.seq x.T d (f (advanced s x G))).lane l =
      if inMask x.T l then ((advanced s x G).lane l).setP d (f (advanced s x G) l) else (advanced s x G).lane l :=
    fun l hl => Group.lane_updLanes (advanced s x G) x.T (fun l L => L.setP d (f (advanced s x G) l)) l
      (by simpa using hl)
  refine ⟨_, ?_, issue_straight i (F := fun G => G.writeP x.seq x.T d (f G)) rfl (straight_of a ?_)⟩
  · refine wrote_of (F := fun G => G.writeP x.seq x.T d (f G)) (f := fun l L => L.setP d (f (advanced s x G) l)) a ?_ key rfl ?_ rfl
    · simp [Group.writeP]
    · exact supersede_undisc _ _ _ _
  · intro l hl
    rw [key l (a.length hl)]
    split
    · rw [Lane.setP_frame]; simp
    · simp

theorem predOp_lands {s : State} {h : Hdr} {d : PReg} {regs : List (Reg × Nat)} {G : Group} {x : At}
    (i : Issues s h .both regs noHandles G x) {f : Group → Nat → Bool} {b : Nat → Bool}
    (hb : f (advanced s x G) = b) : LandsP s G x d b (predOp s h d regs f) := landsP_of i hb

end Sys2Proof.Machine
end

