-- ==== Sys2Proof/Tests/Slice0.lean ====
section
/-! SUPPORT. Tests: words of the manual, what the checks refuse, worked values of the manual, single instructions on a small state, and for
each statement with premises states that meet them. The values expected come from the manual's text; a state is built by the helpers
at the top. -/

open Sys2Proof Sys2Proof.Machine

namespace Sys2Proof.Tests

set_option Elab.async false

/-! ### Helpers -/

/-- Every hint field at 0 and no guard. -/
def h0 : Hdr := { g := 0, gn := false, mark := false, delay := 0, yld := false, reuse := 0 }
/-- As `h0`, with the switch marker. -/
def hS : Hdr := { h0 with mark := true }

/-- A word decodes to an instruction. -/
noncomputable def reads (w : BitVec 96) (i : Instr) : Bool := match decode w with
  | .ok j => j == i
  | .error _ => false

/-- A word is refused, by a name. -/
noncomputable def refuses (w : BitVec 96) (e : DecodeError) : Bool := match decode w with
  | .ok _ => false
  | .error f => f == e

/-- One full group of a plain team on core 0, its first bundle current; memory below 64 GiB maps to itself. -/
def base : State := { probeTeam (probeTables State.reset) with cur := { g := 0, lanes := 0xFFFFFFFF } }

/-- The group with a change. -/
def withG (f : Group → Group) (s : State := base) : State := s.updGroup 0 f
/-- Each lane with a change. -/
def withL (f : Nat → Lane → Lane) (s : State := base) : State := withG (fun G => { G with lanes := G.lanes.mapIdx f }) s
/-- The team, and what its share holds, with a change. -/
def withT (f : Team → Team) (s : State := base) : State := s.updTeam 1 f
def withShare (f : Share → Share) (s : State := base) : State := s.updShare 1 f

/-- The next state has a property. -/
noncomputable def goes (o : Host.Outcome State Fault Refusal) (p : State → Bool) : Bool := match o with
  | .next t => p t
  | _ => false
/-- The premises of an issue hold, and more. -/
def issuesAnd (s : State) (h : Hdr) (site : Site) (regs : List (Reg × Nat)) (handles : State → Group → List (Nat × Bool))
    (P : Group → At → Bool) : Bool :=
  match s.at? h with
  | some (G, x) => !G.overLimit && (site == .both || ((site == .quay) == isWave x.g)) && (regs.all fun r => regOk (isWave x.g) G.regs r) &&
      ((handles s G).all fun e => e.2) && P G x
  | none => false

/-- `issuesAnd` says what `Issues` does. -/
theorem issues_of {s : State} {h : Hdr} {site : Site} {regs : List (Reg × Nat)} {handles : State → Group → List (Nat × Bool)}
    {P : Group → At → Bool} (e : issuesAnd s h site regs handles P = true) :
    ∃ G x, Issues s h site regs handles G x ∧ P G x = true := by
  unfold issuesAnd at e
  split at e
  · rename_i G x hs
    simp only [Bool.and_eq_true, Bool.or_eq_true, Bool.not_eq_true', beq_iff_eq, List.all_eq_true] at e
    obtain ⟨⟨⟨⟨a, b⟩, c⟩, d⟩, p⟩ := e
    refine ⟨G, x, ⟨hs, a, ?_, c, d⟩, p⟩
    rcases b with b | b
    · exact .inl b
    · exact .inr (by rw [← b]; simp)
  · cases e

/-- Nothing more is asked. -/
def anyAt (_ : Group) (_ : At) : Bool := true

/-- A fact about every lane of a mask is one about 32 lanes. -/
theorem lanes_of {m : Word} {P : Nat → Prop} (h : ∀ l, l < 32 → inMask m l = true → P l) : ∀ l, inMask m l = true → P l :=
  fun l hl => h l (inMask_lt hl) hl
/-! ### Words of the manual -/

/-- Chapter 2: `SRD v8, 0x04`; `LD32 v3, [v8+0x10]!`; `ICMPLT p2, v3, s5`; `(!p2) IMAD v4, v3, v3, v3`. -/
theorem test_words_chapter_2 : ([(0x000000000001000000080E00#96, .srd h0 (.v 8) .karglo),
    (0x800000000004000020030804#96, .ld32 hS (.v 3) (.v 8) 0x10),
    (0x00000000000010500E020129#96, .icmplt h0 2 (.v 3) (.s 5)),
    (0x000000000000C0300C04A109#96, .imad { h0 with g := 2, gn := true } (.v 4) (.v 3) (.v 3) (.v 3))].all fun e => reads e.1 e.2) = true := by decide +kernel

/-- Chapter 3: `CALL mix`; `BRA loop`; `IREMU v10, v11, 251`; `ST32 [v6+0x4], v13`. -/
theorem test_words_chapter_3 : ([(0x00000000001B000000000003#96, .call h0 0x6C),
    (0x00003FFFFFEB000000000001#96, .bra h0 0xFFFFFFAC),
    (0x00000000003EF0002C0A010E#96, .iremu h0 (.v 10) (.v 11) (.imm 251)),
    (0x00000000000100D018000809#96, .st32 h0 (.v 6) (.v 13) 4)].all fun e => reads e.1 e.2) = true := by decide +kernel

/-- Chapter 6: `BALLOT s4, p0`; `RVSET j0, s4, after`; `CALLX v22`; `RVWAIT j0`; `GSUMF v24, v10`. -/
theorem test_words_chapter_6 : ([(0x00000000000000080104060A#96, .ballot h0 (.s 4) 0),
    (0x000000000003000412C80006#96, .rvset h0 0 4 0xC),
    (0x000000000000000058000004#96, .callx h0 (.v 22)),
    (0x000000000000000B20000007#96, .rvwait h0 0),
    (0x00000000000000002818060D#96, .gsumf h0 (.v 24) 10)].all fun e => reads e.1 e.2) = true := by decide +kernel

/-- Chapter 8: `NFADDF [v8+0x10], v6`; `FENCEX cp, ls`; `MWAIT p1, v10, 3, 2000`. -/
theorem test_words_chapter_8 : ([(0x00000000000400602000091C#96, .nfaddf h0 (.v 8) (.v 6) 0x10),
    (0x000000000000400000000A05#96, .fencex h0 .cp .ls),
    (0x00000001F400C0A002010A07#96, .mwait h0 1 (.v 10) 3 2000)].all fun e => reads e.1 e.2) = true := by decide +kernel

/-- Chapter 9: `QREG s10, [s8], 1 !`; `(p3) QCALLA v20, [v16], v18, 1, 0 !`; `LDO v4, [v8+0x0]`; `(p2) STO [v11+0x8], v0`; `QRET v14`. -/
theorem test_words_chapter_9 : ([(0x8000000000004004210A0E09#96, .qreg hS 10 8 1),
    (0x800000000000412040143924#96, .qcalla { hS with g := 3 } 20 (.v 16) (.v 18) 1 0),
    (0x000000000000000020040926#96, .ldo h0 (.v 4) (.v 8) 0),
    (0x00000000000200002C002927#96, .sto { h0 with g := 2 } (.v 11) (.v 0) 8),
    (0x00000000000000E000000928#96, .qret h0 14)].all fun e => reads e.1 e.2) = true := by decide +kernel

/-- Chapter 10: `QPUSH q0, 0x00016A07`; `QPUSH q0, 0x00027A0B`. -/
theorem test_words_chapter_10 : ([(0x000000005A81C00C02400C00#96, .qpush h0 0 (.imm 0x16A07)),
    (0x000000009E82C00C02400C00#96, .qpush h0 0 (.imm 0x27A0B))].all fun e => reads e.1 e.2) = true := by decide +kernel

/-- Chapter 11: `MMABF b2, [s8], c1, h4, 4, 16, 128`; `SIGNW p1, c1`. -/
theorem test_words_chapter_11 : ([(0x000000000E312D1422C20B02#96, .mmabf h0 2 (.glob 8) 1 4 3 0 7),
    (0x000000000000000B46010A0A#96, .signw h0 1 1)].all fun e => reads e.1 e.2) = true := by decide +kernel

/-- Chapter 12: `CVSET c0, 32`; `MMABF b0, h2, c0, h1, 1, 16, 16`; `BGIVE b0, 1`; `(p4) BRD v6, b0, v2 !`; `SPRN8 v8, v6`; `MMASI8 b0, h2, c0, h1, 1, 16, 32, h3`; `(p3) STS16 [v19+4482], v12`. -/
theorem test_words_chapter_12 : ([(0x000000000008000C02D00A08#96, .cvset h0 0 (.imm 32)),
    (0x0000000000006D0A0AC00B02#96, .mmabf h0 0 (.tile 2) 0 1 0 0 0),
    (0x000000000000700B00000B13#96, .bgive h0 0 (.imm 1)),
    (0x800000000000002B00064B11#96, .brd { hS with g := 4 } 6 0 (.v 2)),
    (0x000000000000000018080B17#96, .sprn8 h0 8 6),
    (0x0000000032006D0A0AC00B0B#96, .mmasi8 h0 0 (.tile 2) 0 1 0 0 1 3),
    (0x00000000046080C04C003708#96, .sts16 { h0 with g := 3 } (.v 19) (.v 12) 4482)].all fun e => reads e.1 e.2) = true := by decide +kernel

/-- Chapter 13: `PIPEW n3, v6`; `QPUSH q2, 0x00026404`; `FENCEX gt, cp`; `MMAGBF b0, h2, c0, h8, 4, 16, 16, h3`. -/
theorem test_words_chapter_13 : ([(0x00000000000000001AE30D03#96, .pipew h0 3 6),
    (0x000000009901000C02420C00#96, .qpush h0 2 (.imm 0x26404)),
    (0x000000000004C00000000A05#96, .fencex h0 .gt .cp),
    (0x0000000C30022D0A0AC00B0E#96, .mmagbf h0 0 2 0 8 3 0 0 3)].all fun e => reads e.1 e.2) = true := by decide +kernel

/-- Chapter 14: `TRPV v3, 0`; `ERET`; `TLBINV s8, 0x10000`. -/
theorem test_words_chapter_14 : ([(0x00000000000000000C000E05#96, .trpv h0 (.v 3) 0),
    (0x000000000000000000000E04#96, .eret h0),
    (0x000000004000300420000E06#96, .tlbinv h0 8 (.imm 0x10000))].all fun e => reads e.1 e.2) = true := by decide +kernel

/-- Chapter 15: `LDS32 v7, [v6+0]!`; `PIPER v4, n1 !`; `QPUSH q0, 0x00113109`. -/
theorem test_words_chapter_15 : ([(0x800000000000000018070704#96, .lds32 hS (.v 7) (.v 6) 0),
    (0x800000000000000B84040D04#96, .piper hS 4 1),
    (0x000000044C42400C02400C00#96, .qpush h0 0 (.imm 0x113109))].all fun e => reads e.1 e.2) = true := by decide +kernel

/-- Chapter 16: `PUTS [v4], v6, [s10]`. -/
theorem test_words_chapter_16 : ([(0x000000000042806010000817#96, .puts h0 (.v 4) (.v 6) 10)].all fun e => reads e.1 e.2) = true := by decide +kernel

/-! ### What the checks refuse -/

theorem test_ill_formed : ([.iadd64 h0 (.v 1) (.v 2) (.v 4), .iadd64 h0 (.v 2) (.v 1) (.v 4), .iadd64 h0 (.v 2) (.v 4) (.s 1),
    .iadd h0 (.v 1) (.imm 1) (.imm 2), .cvte4 h0 (.v 1) (.v 2), .cvte4f h0 (.v 2) (.v 1), .qblk h0 1 3 (.s 0), .sprn8 h0 1 2, .sprn8 h0 2 1,
    .mmabf h0 0 (.glob 1) 0 0 0 0 0, .mmabf h0 0 (.tile 0) 8 0 0 0 0, .mmabf h0 0 (.tile 0) 0 63 1 0 0, .mmaf64 h0 1 (.tile 0) 0 0 0 0 0,
    .mmagbf h0 0 0 0 61 0 0 0 0, .mmajbf h0 0 0 7 0 0 0, .puts h0 (.v 2) (.v 4) 1, .qcall h0 2 (.v 2) (.v 4) 0 0, .qcall h0 1 (.v 2) (.v 4) 1 0,
    .qreg h0 1 1 1, .qdereg h0 1 0, .fencex h0 .ls .ls, .bwr h0 0 1 0 0 0 none, .acas128 h0 2 (.v 2) (.v 4) 0, .ld128 h0 (.v 2) (.v 4) 0,
    .ld128 h0 (.v 4) (.v 1) 0, .pipew h0 0 1, .pipetry h0 2 0, .kdef h0 1 0] : List Instr).all (fun i => !i.wellFormed) = true := by decide

/-- An unlisted code, group 0xF, a reserved bit, an illegal field, a class outside its set, an unused field, an IMM bit without meaning, a
misaligned pair and a register that SRD does not name. -/
theorem test_refused_words :
    refuses 0x0000000000000000000001FF#96 .unlistedOpcode = true ∧ refuses 0x000000000000000000000F00#96 .unlistedOpcode = true ∧
    refuses 0x000040000000000000000000#96 .reservedField = true ∧ refuses 0x00000000003EF0002D8A010E#96 .illegalField = true ∧
    refuses 0x00000000003EF0002E01010E#96 .wrongClass = true ∧ refuses 0x000000000000000000010000#96 .unusedField = true ∧
    refuses 0x000000000000400000000000#96 .immBits = true ∧ refuses 0x000000000000000058010004#96 .unusedField = true ∧
    refuses 0x00000000000000005C000004#96 .misalignedRegister = true := by decide +kernel
/-! ### The premises of the statements can be met -/

/-- What a step fetches for the bundle selected. -/
noncomputable def fetched (s : State) : Option (Except FetchFail (BitVec 96)) :=
  match s.issueQ with
  | b :: q =>
    let s' := { s with issueQ := q, cur := b }
    (s'.at? plainHdr).map fun e => (s'.fetch e.2.g e.2.pc b.fresh).2
  | [] => none

/-- A word that is fetched. -/
noncomputable def fetchedWord (s : State) (p : BitVec 96 → Bool) : Bool := match fetched s with
  | some (.ok w) => p w
  | _ => false

/-- A wave has the superblock of an address. -/
def withWaveAt (pa : Nat) (s : State := base) : State :=
  let w : Wave := { quay := 0, slot := 0, sb := pa / 256, reqs := [], size := 4, buf := [], stored := 0, pois := 0, replies := [], bundles := 0, wr := false, flt := none }
  { s with groups := s.groups ++ (s.groups.take 1).map fun e => (quayBase, { e.2 with wave := some w }) }

/-- The fetch of the bundle selected is held. -/
def held (s : State) : Bool := match s.issueQ with
  | b :: q =>
    let s' := { s with issueQ := q, cur := b }
    (s'.at? plainHdr).any fun e => s'.fetchHeld e.2.g e.2.pc b.fresh
  | [] => false

/-- A word at the probe's address. -/
def place (w : Nat) : State := State.reset.withFetchWord 96 w

theorem witness_StepRunsDecoded :
    ({ State.reset with issueQ := [], cur := { g := 0, lanes := 1 } } : State).at? plainHdr = none ∧
    (fetchedWord (place 0x800000000000412040143924) fun w => reads w (.qcalla { hS with g := 3 } 20 (.v 16) (.v 18) 1 0)) = true ∧
    (fetchedWord (place 0x1FF) fun w => refuses w .unlistedOpcode) = true ∧
    (match fetched (withL (fun _ L => { L with pc := 0x40000002 }) (place 0)) with | some (.error .misaligned) => true | _ => false) = true ∧
    (match fetched (withL (fun _ L => { L with pc := 0x1000000000 }) (place 0)) with | some (.error f) => (fetchFault f).serviced | _ => false) = true ∧
    (let s := place 0x1FF
     (match s.group? 0 with
      | some G => (match s.xlate (via 0 G) 0x40000000 12 .fetch none with
          | (u, .ok pas) => pas.all (fun pa => (u.poisonIn pa 1).isNone) && [0, 4, 8].all (fun i => inDevice (pas.getD i 0) 4) &&
              wordOfBytes ([0, 4, 8].flatMap fun i => u.bytes (pas.getD i 0) 4) == some 0x1FF#96
          | _ => false)
      | none => false) = true) ∧
    held (place 0x1FF) = false ∧ held (withWaveAt 0x40000000 (place 0x1FF)) = true ∧
    ({ State.reset with agenda := [.copyStart 0 0 false] } : State).issueQ = [] ∧ agendaEvent (.copyStart 0 0 false) = true ∧
    agendaEvent (.nop h0) = false ∧
    encode (.nop h0) ≠ none ∧
    (match base.at? plainHdr with | some (G, x) => !isWave x.g && x.B &&& G.helpers == 0 | none => false) = true ∧
    (fetchFault .misaligned).serviced = false ∧ (fetchFault .permission).serviced = true := by decide +kernel

/-- Each of the lists of registers passes the checks of an issue on a core. -/
def formsIssue (s : State) (site : Site) (forms : List (List (Reg × Nat))) : Bool := forms.all fun r => issuesAnd s h0 site r noHandles anyAt

/-- The highest registers of each kind. -/
def dV : Reg := .v 255
def dS : Reg := .s 63

theorem witness_IntegerTwoSourceResults : formsIssue base .both ([dV, dS].flatMap fun d => [[(d, 1), (.v 255, 1), (.s 63, 1)],
    ((d, 1) :: (srcReg (.v 0) 1 ++ srcReg (.imm 7) 1))]) = true := by decide +kernel

theorem witness_DivisionResults : formsIssue base .both [(dV, 1) :: (srcReg (.s 0) 1 ++ srcReg (.imm 0) 1), [(dS, 1), (.v 1, 1), (.v 2, 1)]] = true := by
  decide +kernel

theorem witness_OtherIntegerAndPredicateResults : formsIssue base .both [
    (.v 254, 2) :: (srcReg (.v 252) 2 ++ srcReg (.imm 1) 2), [(.s 62, 2), (.v 1, 1), (.s 2, 1), (.v 4, 2)], [(.v 2, 2), (.v 254, 2), (.s 63, 1)],
    (dV, 1) :: srcReg (.imm 3) 1, [(dS, 1), (dV, 1)], [(dV, 1)], [(dV, 1), (.v 0, 1), (.v 1, 1), (.s 2, 1)], [(dV, 1), (.v 0, 1), (.s 1, 1)],
    (dV, 1) :: (srcReg (.v 0) 1 ++ srcReg (.imm 0x408) 1), srcReg (.v 0) 1 ++ srcReg (.imm 0) 1, srcReg (.v 254) 2 ++ srcReg (.s 62) 2, [],
    [(dS, 1)], [(dV, 1)]] = true := by decide +kernel

theorem witness_FloatingResults : formsIssue base .both [(dV, 1) :: (srcReg (.v 0) 1 ++ srcReg (.imm 0x3F800000) 1), [(dS, 1), (.v 0, 1), (.v 1, 1), (.v 2, 1)],
    (dV, 1) :: srcReg (.s 0) 1, (.v 254, 2) :: (srcReg (.v 0) 2 ++ srcReg (.imm 0) 2), [(.s 62, 2), (.v 0, 2), (.v 2, 2), (.v 4, 2)],
    (.v 254, 2) :: srcReg (.v 0) 2, srcReg (.v 0) 1 ++ srcReg (.imm 0) 1, srcReg (.v 0) 2 ++ srcReg (.imm 0) 2] = true := by decide +kernel

/-- The operands of R84 that are negative and not zero: −1 and the negative subnormal nearest to 0; NaNs of either kind. -/
theorem witness_ApproximateResults : formsIssue base .both [(dV, 1) :: srcReg (.imm 0) 1, (.v 254, 2) :: srcReg (.v 0) 2] = true ∧
    f32.isNan (0x7F800001 : Word).toNat = true ∧ f32.isNan (0xFFC00000 : Word).toNat = true ∧
    f32.val (0xBF800000 : Word).toNat = .fin true 8388608 (-23) ∧ f32.val (0x80000001 : Word).toNat = .fin true 1 (-149) := by decide +kernel

/-- A finite value that rounds to a finite code, at the least and the greatest of each format; patterns with and without NaN. -/
theorem witness_RoundingNanAndOrderRules : ([f64, f32, f16, bf16].all fun f =>
    decide (f.code (.fin false 1 0) % f.signBit < f.infCode) && decide (f.code (.fin true 1 (-2000)) % f.signBit < f.infCode) &&
    decide ((f.infCode - 1) % f.signBit < f.infCode) && f.isNan f.nanCode && !f.isNan f.infCode && f.isNan (f.add f.nanCode 0) &&
    f.isNan (f.sub f.infCode f.infCode) && f.isNan (f.sqrt (f.signBit + f.infCode)) && f.isNan (f.min f.nanCode f.nanCode) &&
    f.clt f.signBit f.infCode) = true := by decide +kernel

theorem witness_ConversionResults : formsIssue base .both [(dV, 1) :: srcReg (.imm 0) 1, (.v 254, 2) :: srcReg (.v 0) 1, (dS, 1) :: srcReg (.v 0) 2,
    (.v 254, 2) :: srcReg (.v 0) 2, (dV, 1) :: (srcReg (.v 0) 1 ++ srcReg (.imm 0) 1), [(dV, 1), (.v 252, 4)], (.v 252, 4) :: srcReg (.imm 0) 1,
    (.s 60, 4) :: (srcReg (.v 0) 1 ++ srcReg (.s 0) 1), [(dV, 1), (.v 254, 2)] ++ ssrcReg (.s 3) 1, [(dV, 1), (.v 0, 2)] ++ ssrcReg (.imm 0x3F000000) 1] = true ∧
    (-2147483648 : Int) ≤ 2147483647 := by decide +kernel

theorem witness_ExchangeResults : formsIssue base .both [[(dV, 1), (.v 0, 1)], [(dV, 1), (.v 0, 1)] ++ srcReg (.imm 32) 1] = true := by decide +kernel

theorem witness_GroupOperationResults : formsIssue base .both [[], [(dS, 1)], [(dV, 1)], [(dV, 1), (.v 0, 1)], [(dS, 1), (.v 0, 1)],
    [(dV, 1), (.v 0, 1), (.v 1, 1)]] = true := by decide +kernel

/-- The machine's reset state has its memories in canonical form, and a step from there is a next state. -/
theorem witness_MemoryStaysCanonical : State.reset.memOk = true ∧ goes (step (place 0)) (fun _ => true) = true := by decide +kernel

theorem witness_DecodeAndEncodeAgree : (Instr.imad h0 (.v 4) (.v 3) (.s 3) (.v 255)).wellFormed = true ∧
    (match encode (.imad h0 (.v 4) (.v 3) (.s 3) (.v 255)) with | some w => reads w (.imad h0 (.v 4) (.v 3) (.s 3) (.v 255)) | none => false) = true := by
  decide +kernel

/-- The access of a lane of the current bundle passes its checks; more is asked of the bytes. -/
def passes (s : State) (l n : Nat) (va : Lane → DWord) (a : Acc) (P : State → List Nat → Bool := fun _ _ => true) : Bool :=
  match s.at? h0 with
  | some (G, x) => match s.check x l n (va (G.lane l)) a with
    | (t, .ok pas) => P t pas
    | _ => false
  | none => false

theorem witness_ReturnStackSpillAndRefill : formsIssue base .both [[], [(.v 254, 2)]] = true ∧
    (let s := withL fun _ L => { L with rs := [1, 2, 3, 4] }
     issuesAnd s h0 .both [] noHandles (fun G x => !isWave x.g && decide (31 < G.lanes.length) && decide ((G.lane 31).rs = [1, 2, 3, 4]) && !(G.lane 31).helper) &&
      passes s 31 8 (fun L => L.spt - 8) (.spill 0x40000100)) = true ∧
    (issuesAnd base h0 .both [] noHandles (fun G x => !isWave x.g && decide ((G.lane 0).rs = []) && !(G.lane 0).helper) &&
      passes base 0 8 (fun L => L.spt) .refill fun t pas => decide (t.lsq = []) && !t.loadsAt 0 0 base.seq (pas.map wordOf) &&
        !t.holds (pas.filter fun pa => (t.forward 0 0 base.seq pa).isNone) && pas.all fun pa => (t.poisonIn pa 1).isNone && !isRemote pa) = true ∧
    (let s := withWaveAt 0x40000000 (withL fun _ L => { L with spt := 0x40000000 })
     issuesAnd s h0 .both [] noHandles (fun G x => !isWave x.g && decide ((G.lane 0).rs = []) && !(G.lane 0).helper &&
       match s.check x 0 8 0x40000000 .refill with
       | (t, .ok pas) => (t.refill x 0 pas).isNone
       | _ => false)) = true := by
  decide +kernel

/-- One lane waits at the target, and the others arrive. -/
def atRejoin (arrived : Word) : State := withG fun G => { G with rj := G.rj.set 7 { valid := true, mask := 0xFFFFFFFF, target := 0x40000000, arrived } }

theorem witness_BranchesAndRejoins : formsIssue base .both [[], [(.v 254, 2)], [(.s 62, 2)], [(.s 63, 1)]] = true ∧
    issuesAnd base h0 .both [] noHandles (fun G x => (lanesOf x.T).all fun l => decide ((G.lane l).rs.length < 4)) = true ∧
    issuesAnd (withL fun _ L => { L with rs := [5] }) h0 .both [] noHandles (fun G x => (lanesOf x.T).all fun l => decide ((G.lane l).rs ≠ [])) = true ∧
    issuesAnd base { h0 with g := 1 } .both [(.s 0, 1)] noHandles (fun _ x => decide (x.T = 0)) = true ∧
    issuesAnd base h0 .both [(.s 0, 1)] noHandles (fun G x => decide (x.T ≠ 0) && decide ((G.rj.getD 0 {}).valid = false)) = true ∧
    issuesAnd { atRejoin 1 with cur := { g := 0, lanes := 0xFFFFFFFE } } h0 .both [(.s 0, 1)] noHandles (fun G x => decide (x.T ≠ 0) && (G.rj.getD 7 {}).valid) = true ∧
    issuesAnd { atRejoin 1 with cur := { g := 0, lanes := 0xFFFFFFFE } } h0 .both [] noHandles (fun G x =>
      let r := G.rj.getD 7 {}
      r.valid && decide (r.target = x.pc) && decide (r.mask ≠ 0) && decide (r.arrived ||| (x.T &&& r.mask) = r.mask)) = true ∧
    issuesAnd { atRejoin 1 with cur := { g := 0, lanes := 2 } } h0 .both [] noHandles (fun G x =>
      let r := G.rj.getD 7 {}
      r.valid && decide (r.target = x.pc) && decide (r.arrived ||| (x.T &&& r.mask) ≠ r.mask)) = true ∧
    issuesAnd (withG (fun G => { G with rj := G.rj.set 7 { valid := true, mask := 0x3, target := 0x40000000, arrived := 1 } })
        { base with cur := { g := 0, lanes := 0xFFFFFFFE } }) h0 .both [] noHandles (fun G x =>
      let r := G.rj.getD 7 {}
      r.valid && decide (r.target = x.pc) && decide (r.mask ≠ 0) && inMask x.B 31 && !inMask r.mask 31 && !inMask r.arrived 31) = true := by decide +kernel

theorem witness_ThreadEndsTrapsAndBreakpoints :
    issuesAnd base h0 .both [] noHandles (fun G x => !isWave x.g && decide (x.T ≠ 0) && decide (x.N ≠ 0) && decide (G.pend = []) && decide (G.recs = []) &&
      decide (G.held = []) && decide (G.parked = 0) && decide (base.lsq = []) && !x.h.mark && ((AMap.get? base.contexts G.ctx).map fun c => c.debug) == some false) = true ∧
    issuesAnd base { h0 with g := 1 } .both [] noHandles (fun _ x => decide (x.T = 0) && !isWave x.g) = true ∧
    (let s := base.updCtx 0 fun c => { c with debug := true }
     issuesAnd s h0 .both [] noHandles (fun G x => !isWave x.g && decide (x.N ≠ 0) && ((AMap.get? s.contexts G.ctx).map fun c => c.debug) == some true)) = true := by
  decide +kernel

/-- Lane l's register v0 holds an offset, and v2:v3 an address. -/
def withOffs (a : Nat → Nat) (s : State := base) : State := withL (fun l L => (L.setVs 0 [BitVec.ofNat 32 (a l)]).setVs 2 [BitVec.ofNat 32 (a l), 0]) s

theorem witness_ScratchpadAccesses : ([1, 2, 4, 8, 16].all fun n =>
    let s := withOffs fun l => 65536 - n * (l + 1)
    [[(Reg.v 4, 1), (.v 0, 1)], [(.s 4, 2), (.v 0, 1)], [(.v 4, 4), (.v 0, 1)], [(.v 0, 1), (.v 8, 1)], [(.v 0, 1), (.v 8, 2)], [(.v 0, 1), (.v 8, 4)]].all fun r =>
      issuesAnd s h0 .core r noHandles fun G x =>
        decide (x.T ≠ 0) && decide (x.N ≠ 0) && (lanesOf x.N).all fun l =>
          let off := (G.reg l (.v 0) 0 + 0).toNat
          decide (off % n = 0 ∧ off + n ≤ (s.share (s.shareKey x.g)).size)) = true := by decide +kernel

theorem witness_ClusterScratchpadAndAtomics :
    (let s := withOffs fun l => 65532 - 4 * l
     [[(Reg.v 4, 1), (.v 0, 1)], [(.s 4, 1), (.v 0, 1)], [(.v 0, 1), (.v 4, 1)], [(.v 4, 1), (.v 0, 1), (.v 5, 1)]].all fun r =>
      issuesAnd s h0 .core r noHandles fun G x => decide (x.T ≠ 0) && decide (x.N ≠ 0) && (lanesOf x.N).all fun l =>
        let a := G.reg l (.v 0) 0 + 0
        (s.clusterFault x.g a .spRead).isNone && (s.clusterFault x.g a .spWrite).isNone && decide (a.toNat % 4 = 0 ∧ a.toNat + 4 ≤ (s.share (s.shareKey x.g)).size)) = true ∧
    (let s := withOffs (fun l => 4 * l) { base with cur := { g := 0, lanes := 0x80000000 } }
     issuesAnd s h0 .core [(.v 4, 1), (.v 0, 1), (.v 5, 1)] noHandles fun _ x => decide (x.T = 1 <<< 31) && decide (x.N = 1 <<< 31)) = true := by decide +kernel

/-- v2:v3 of lane l is an address of device memory, and v4:v5 the same. -/
def withAddrs (n : Nat) (s : State := base) : State :=
  withL (fun l L => (L.setVs 2 [BitVec.ofNat 32 (0x20000000 + n * l), 0]).setVs 4 [BitVec.ofNat 32 (0x20000000 + n * l), 0]) s

/-- Each counted lane's address in v2:v3 is aligned to n bytes and canonical. -/
def aligned (n : Nat) (G : Group) (x : At) : Bool := (lanesOf x.N).all fun l =>
  let va := G.reg64 l (.v 2) + (0 : Word).signExtend 64
  decide (va.toNat % n = 0) && canonical va

theorem witness_GlobalStores : ([(1, 1), (1, 2), (1, 4), (2, 8), (4, 16)].all fun (w, n) =>
    let s := withAddrs n
    issuesAnd s h0 .core [(.v 2, 2), (.v 8, w)] noHandles fun G x => aligned n G x &&
      let data := fun l => (wordsBytes ((List.range w).map fun i => G.reg l (.v 8) i)).take n
      [(false, false), (true, false), (false, true)].all fun (rel, scat) =>
        let r := (s.advance x).storeLanes x n (fun l => G.reg64 l (.v 2) + (0 : Word).signExtend 64) (fun l => .store n (data l) rel scat []) data (lanesOf x.N)
        r.2.1 == x.N && r.2.2.2.isEmpty && (lowest x.N).isSome) = true ∧
    (let s := withOffs fun _ => 0x20000001
     issuesAnd s h0 .core [(.v 2, 2), (.v 8, 1)] noHandles fun G x => decide (x.N ≠ 0) && !(G.reg64 31 (.v 2)).toNat % 4 == 0 && (lanesOf x.N).all fun l =>
       decide ((G.reg64 l (.v 2) + (0 : Word).signExtend 64).toNat % 4 ≠ 0)) = true := by decide +kernel

/-- A result that waits in lane 31. -/
def withPend (k : PKind) (s : State := base) : State :=
  withG (fun G => { G with pend := [{ seq := 5, pc := 0, kind := k, dest := { reg := some (.inl (.v 8)), w := 1 }, pkr := 0, supplier := some 31, lanes := [(31, .waiting 0x20000000)] }] }) s

theorem witness_LoadsPrefetchesAndPuts :
    ([(1, 1), (1, 2), (1, 4), (2, 8), (4, 16)].all fun (w, n) => issuesAnd (withAddrs n) h0 .core [(.v 8, w), (.v 2, 2)] noHandles fun G x =>
      decide (x.T ≠ 0) && aligned n G x) = true ∧
    issuesAnd (withAddrs 64) h0 .core [(.v 2, 2)] noHandles (fun G x => aligned 64 G x &&
      (((withAddrs 64).advance x).passLanes x 64 (fun l => G.reg64 l (.v 2) + (0 : Word).signExtend 64) (fun _ => .disc) (lanesOf x.N)).isSome) = true ∧
    ([(Reg.v 8), .s 8].all fun d => issuesAnd (withAddrs 4) h0 .core [(d, 1), (.v 2, 2)] noHandles fun G x => aligned 4 G x &&
      let va := fun l => G.reg64 l (.v 2) + (0 : Word).signExtend 64
      let dst : Dest := { reg := some (.inl d), w := 1 }
      let first := ((withAddrs 4).advance x).addPend x (.load 4 .zero false true) dst (pendLanes d x fun l =>
        if inMask x.N l then .faulted (va l) else if (va l).toNat % 4 = 0 ∧ canonical (va l) = true then .waiting (va l) else .back [0])
      (first.passLanes x 4 va (fun _ => .ldlu x.seq dst) (lanesOf x.N)).isSome) = true ∧
    (let s := withG (fun G => G.setSs 8 [0x30000000, 0]) (withAddrs 8)
     issuesAnd s h0 .core [(.v 2, 2), (.v 4, 2), (.s 8, 2)] noHandles fun G x => aligned 8 G x && decide ((G.sreg64 8).toNat % 8 = 0) &&
      let arg := (s.advance x).putsArg s x (.v 2) (.v 4) 8
      let r := (s.advance x).putsLanes x arg (lanesOf x.N)
      ((lanesOf x.N).all fun l => decide ((arg l).va.toNat % 8 = 0 ∧ (arg l).sig.toNat % 8 = 0)) && ((List.range 32).all fun l => (s.lane x.g l).wait == .none) &&
      r.2.1.map (·.1) == lanesOf x.N && !r.2.1.isEmpty && r.2.2.isEmpty) = true ∧
    (let s := withPend (.load 4 .zero false false) (withOffs fun l => if l % 2 = 0 then 0x20000001 else 0x20000000)
     [[(Reg.v 8, 1), (.v 2, 2)]].all fun r => issuesAnd s h0 .core r noHandles fun G x =>
      let m := maskOf fun l => decide (l % 2 = 0)
      ((s.advance x).group? x.g).isSome && m &&& G.helpers == 0 && G.outstanding && G.recs.isEmpty && m != 0 && (lanesOf m).all fun l =>
        decide ((G.reg64 l (.v 2) + (0 : Word).signExtend 64).toNat % 4 ≠ 0)) = true := by decide +kernel

theorem witness_Atomics : ([AtOp.add32, .add64, .cas128, .faddb, .faddd, .fminb].all fun op =>
    let s := withG (fun G => G.updLane 31 fun L => { L with helper := true }) (withAddrs op.width)
    issuesAnd s h0 .core [(.v 8, op.regs), (.v 2, 2), (.v 16, op.regs)] noHandles fun G x => aligned op.width G x && decide (x.T ≠ x.N) &&
      let data := fun (r : Reg) l => (wordsBytes ((List.range op.regs).map fun i => G.reg l r i)).take op.width
      let dst : Dest := { reg := some (.inl (.v 8)), w := op.regs }
      let helped := (lanesOf (x.T &&& ~~~x.N)).foldl (fun (s : State) l => s.updGroup x.g fun G =>
          G.joinPend x.seq x.pc (.remote true) dst G.pkr l (.back (List.replicate op.regs 0))) (s.advance x)
      let va := fun l => G.reg64 l (.v 2) + (0 : Word).signExtend 64
      (helped.passLanes x op.width va (fun l => .atomic op op.width (data (.v 16) l) (data (.v 8) l) (some (x.seq, dst))) (lanesOf x.N)).isSome &&
      ((s.advance x).passLanes x op.width va (fun l => .atomic op op.width (data (.v 16) l) [] none) (lanesOf x.N)).isSome) = true := by decide +kernel

/-- A write that has left its lane, alone in the store queues, with the result that it answers. -/
def withWrite (k : LsKind) : State :=
  withG (fun G => { G with pend := [{ seq := 5, pc := 0, kind := .remote true, dest := { reg := some (.inl (.v 8)), w := 1 }, pkr := 0, supplier := none, lanes := [(3, .waiting 0x20000000)] }] })
    { base with lsq := [{ g := 0, lane := 3, seq := 5, pc := 0, ctx := 0, rel := true, kind := k }] }

/-- It is ready, and of the kind asked for. -/
def ready (k : LsKind) (P : State → Bool) : Bool :=
  let s := withWrite k
  (match s.lsReady 0 [] with | some e => e.kind == k | none => false) && P s

theorem witness_HomePerformance :
    (ready (.store [{ pa := 0x20000000, val := 1 }, { pa := 0x20000001, val := 2 }] 8) fun s => !s.waveHolds [0x20000000, 0x20000001] && region 0x20000000 == .hbm) = true ∧
    ready (.stsh 1 0 [1, 2, 3, 4] 8) (fun _ => true) = true ∧
    (ready (.atomic .add32 0x20000000 4 [1, 0, 0, 0] [] (some 5) []) fun s => !s.holds ((List.range 4).map (0x20000000 + ·)) && (s.lsq.all fun e => s.packetReady e) && !s.quayMode (0x20000000 / 64) &&
      ((List.range 4).all fun j => region (0x20000000 + j) == .hbm) && (((s.acked [(0, 5, 3)]).fillRange 0x20000000 4).poisonIn 0x20000000 4).isNone) = true ∧
    (let s := withG (fun G => { G with pend := [] }) (withWrite (.disc 0x800000))
     (match s.lsReady 0 [], s.group? 0 with
      | some e, some G => e.kind == .disc 0x800000 && G.pend.isEmpty
      | _, _ => false) && !s.waveHolds [64 * 0x800000] && (s.freeTag (homeSlice (64 * 0x800000))).isSome) = true := by decide +kernel

/-- Its lane's bytes can be read. -/
def readsBack (k : PKind) (n : Nat) (home stale : Bool) : Bool :=
  let s := withPend k
  match s.group? 0 with
  | some G => match G.pend[0]? with
    | some p => AMap.get? p.lanes 31 == some (.waiting 0x20000000) && p.kind == k &&
      (match s.laneRead 0 G p 31 n 0x20000000 home stale with
        | (_, .bytes bs) => bs.length == n
        | _ => false) &&
      (match s.readXlate 0 G p 0x20000000 n with
        | (t, .ok pas) => (pas.all fun pa => region pa == .hbm && (t.poisonIn pa 1).isNone) && !t.holds pas && decide (t.lsq = []) &&
          !t.loadsAt 0 31 p.seq (pas.map wordOf) && (n != 16 || [pas.drop 8, pas.take 8].all fun half => match t.readAt 0 p 31 half home stale with
            | (_, .bytes bs) => bs.length == 8
            | _ => false)
        | _ => false)
    | none => false
  | none => false

theorem witness_ResultReturns : readsBack (.load 4 .zero false false) 4 false false = true ∧ readsBack (.load 8 .zero true true) 8 true false = true ∧
    readsBack (.load 16 .zero false false) 16 false false = true ∧ readsBack (.gath 4) 4 false true = true := by decide +kernel

/-- Lane 31 is parked by its marker, with two results that are back. -/
def parkedState : State :=
  let p := fun (seq : Nat) (r : VReg) (x : Word) => ({ seq, pc := 0, kind := .value, dest := { reg := some (.inl (.v r)), w := 1 }, pkr := 0, supplier := none, lanes := [(31, .back [x])], parked := true } : Pend)
  withL (fun l L => if l = 31 then { L with wait := .park .go none } else L) (withG fun G => { G with pend := [p 5 7 1, p 6 8 2] })

theorem witness_CommitsInOrder :
    (match parkedState.group? 0 with
      | some G => G.canSettle && !parkedState.saving G && !isWave 0 && decide ((G.lane 31).wait = .park .go none) &&
          (G.pend.all fun p => p.kind == .value && p.disc == 0) &&
          ((List.range 31).all fun k => match (G.lane k).wait with | .park _ _ => false | _ => true)
      | none => false) = true ∧
    (match (withG fun G => { G with pend := [{ seq := 5, pc := 0, kind := .value, dest := { reg := none, w := 0 }, pkr := 0, supplier := none, lanes := [(31, .waiting 0)], parked := true }] }).group? 0 with
      | some G => !G.canSettle
      | none => false) = true ∧
    (let s := withL (fun l L => if l = 31 then { L with wait := .park .exit none } else L) (base.updUnit 1 fun u => { u with save := some 0x60000000 })
     match s.group? 0 with
      | some G => G.canSettle && s.saving G && G.leaving.getLsbD 31 && !G.laneOpen 31
      | none => false) = true ∧
    (supersede [{ seq := 5, pc := 0, kind := .value, dest := { reg := some (.inl (.v 7)), w := 2 }, pkr := 0, supplier := none, lanes := [] }] 6 0x80000000 (.inl (.v 8))).length = 1 := by
  decide +kernel

/-- A team barrier at boundary counts: one arrival short, and the last. -/
theorem witness_Barriers : ([0, 15].all fun n => match AMap.get? base.shares 1 with
      | some sh => decide (n < sh.bars.length) && decide (base.expected (.share 1 n) = 32)
      | none => false) = true ∧
    ([0, 7].all fun n => match AMap.get? base.units 1 with
      | some v => decide (n < v.bars.length)
      | none => false) = true ∧
    formsIssue base .core [[(dV, 1)], [(dS, 1)], []] = true ∧
    issuesAnd base h0 .core [(.v 4, 1)] noHandles (fun G x => (base.team? G.team).isSome && decide (x.T ≠ 0) && decide (x.N ≠ 0) &&
      !passed (base.barrier (.share 1 0)).phase (G.reg 0 (.v 4) 0)) = true ∧
    issuesAnd (withL fun _ L => L.setV 4 0xFFFFFFFF) h0 .core [(.v 4, 1)] noHandles (fun G _ => passed (base.barrier (.share 1 0)).phase (G.reg 0 (.v 4) 0)) = true := by
  decide +kernel

/-- The group holds a fence, with an earlier write still on its way or without one. -/
def heldState (late : Bool) (act : HeldAct) : State :=
  let s := withG fun G => { G with held := [{ seq := 9, lanes := 1, act }] }
  if late then { s with lsq := [{ g := 0, lane := 0, seq := 5, pc := 0, ctx := 0, rel := false, kind := .store [{ pa := 0x20000000, val := 1 }] 1 }] } else s

theorem witness_FencesAndReleases : issuesAnd base h0 .core [] noHandles (fun _ x => decide (x.T ≠ 0)) = true ∧
    ([false, true].all fun late =>
      let s := heldState late (.fence 1)
      match s.group? 0 with
      | some G => G.held == [{ seq := 9, lanes := 1, act := .fence 1 }] && (s.mustHold 0 9 1 == late) && (late || (s.runHeld 0 { seq := 9, lanes := 1, act := .fence 1 }).isSome)
      | none => false) = true := by decide +kernel

/-- Lane 31 waits at a monitor that has, or has not, seen a value. -/
def mwaitState (hit : Bool) : State :=
  withL fun l L => if l = 31 then { L with wait := .mwait 1 3 0 2000, monitor := some { va := 0x20000000, pa := 0x20000000, hit } } else L

/-- The log of context 0 and the words of its record that hold HEAD, TAIL and the count. -/
def withLog (head : Nat) : State :=
  (base.updCtx 0 fun c => { c with recPa := 0x20000000, logbase := 0x20001000, logn := 4 }).homeWrite none [] (span 0x20000020 (leBytes 8 head))

theorem witness_MonitorsAndRecords :
    issuesAnd (withAddrs 8) h0 .core [(.v 2, 2)] noHandles (fun G x => aligned 8 G x &&
      (((withAddrs 8).advance x).passLanes x 8 (fun l => G.reg64 l (.v 2) + (0 : Word).signExtend 64) (fun _ => .arm) (lanesOf x.N)).isSome) = true ∧
    ([false, true].all fun hit => match (mwaitState hit).group? 0 with
      | some G => (G.lane 31).live && decide ((G.lane 31).wait = .mwait 1 3 0 2000) && (G.lane 31).monitor == some { va := 0x20000000, pa := 0x20000000, hit } &&
          decide (31 < G.lanes.length)
      | none => false) = true ∧
    (let s := { base with recsOut := [(0, 0, { cause := .uncorr, mask := 0x80000000 }), (0, 0, { cause := .uncorr })] }
     match s.group? 0 with
      | some G => G.ctx == 0 && s.recsOut.all fun e => (if e.2.2.mask = 0 then G.live else G.live &&& e.2.2.mask) != 0
      | none => false) = true ∧
    ([(0, false), (16, true)].all fun (head, full) => match AMap.get? (withLog head).contexts 0 with
      | some c =>
        let s := withLog head
        leNat (s.bytes (c.recPa + 0x20) 8) == head && decide ((head + 2 ^ 64 - leNat (s.bytes (c.recPa + 0x28) 8)) % 2 ^ 64 = 2 ^ c.logn) == full &&
          decide (c.recPa + 64 ≤ 0xF000000000 ∧ c.logbase + 1024 ≤ 0xF000000000 ∧ c.recPa + 64 ≤ c.logbase) &&
          !s.waveHolds [c.recPa, c.logbase + 64 * (head % 2 ^ c.logn)]
      | none => false) = true ∧
    (base.group? 99).isNone = true ∧
    leadsTo 0 (remotePa 0 0) = true := by decide +kernel

/-- The team's convergence register c0, or c8, expects 32 signatures, and its reservation is slot 3. -/
def arrayTeam (cnt : Nat) : State :=
  let c : Conv := { exp := 32, cnt, gen := 0, parts := [] }
  let s := withT fun T => { T with conv := T.conv.set 0 c, slot := some 3, berths := [{ owner := some 0 }, { owner := some 0 }] ++ List.replicate 6 {} }
  s.updUnit 1 fun u => { u with conv := u.conv.set 0 c }

def convAt8 (P : State → Group → Team → CReg → Bool) (s : State) : Bool := match s.group? 0 with
  | some G => match s.team? G.team with
    | some T => [(0 : CReg), 8].all (P s G T)
    | none => false
  | none => false

theorem witness_ConvergenceAndReservations :
    ([((1 : Word), (0 : CReg)), (512, 7), (1, 8), (2048, 15)].all fun (e, c) => issuesAnd base h0 .core (ssrcReg (.imm e) 1) noHandles fun _ x =>
      decide (x.T ≠ 0) && decide (1 ≤ e.toNat ∧ e.toNat ≤ (if c.val < 8 then 512 else 2048))) = true ∧
    ([(0 : CReg), 8].all fun c => issuesAnd (arrayTeam 31) h0 .core [] (convHandle c (Field.c c).bits) fun G x =>
      match (arrayTeam 31).team? G.team with
      | some T => ((arrayTeam 31).noPlace (convOf G.team T c) (popcount x.N) []).isNone
      | none => false) = true ∧
    (let full : Slot := { team := some 1, queue := List.replicate 16 { parts := [], conv := 0, order := 0 } }
     let part : Part := { img := { op := 0xB02, d := 0, a := .tile 0, imm := 0, word := 0 }, g := 0, gi := 0, team := 1, addr := 0, pkr := 0 }
     let s := { (withT fun T => { T with slot := some 3, conv := T.conv.set 0 { exp := 32, parts := [(0, part)] } }) with
       arrays := [(0, { slots := [{}, {}, {}, full] })] }
     issuesAnd s h0 .core [] (convHandle 0 (Field.c 0).bits) fun G x => match s.team? G.team with
      | some T => (s.noPlace (convOf G.team T 0) (popcount x.N) []).isSome
      | none => false) = true ∧
    (convAt8 (fun s G T c => let cv := s.conv (convOf G.team T c)
      decide (cv.cnt + 1 < cv.exp) && decide (cv.exp ≤ cv.cnt + 32) && decide ((s.setConv (convOf G.team T c) {}).conv (convOf G.team T c) = {})) (arrayTeam 30)) = true ∧
    issuesAnd (arrayTeam 0) h0 .core [] noHandles (fun G x => decide (x.N ≠ 0) && !(arrayTeam 0).mxBusy G.team) = true ∧
    issuesAnd (arrayTeam 5) h0 .core [] noHandles (fun G _ => match (arrayTeam 5).team? G.team with | some T => T.slot == some 3 | none => false) = true ∧
    (base.team? 1).map Team.slot = some none ∧
    (let s := { base with arrays := [(0, { slots := [{ team := some 7 }, { team := some 8 }, { team := some 9 }, {}] })] }
     (List.range 3).all (fun j => decide (((s.array 0).slots.getD j {}).team ≠ none)) && decide (((s.array 0).slots.getD 3 {}).team = none)) = true ∧
    (let s := { base with arrays := [(0, { slots := [{ team := some 7 }, { team := some 8 }, { team := some 9 }, { team := some 6 }] })] }
     (List.range 4).all (fun j => decide (((s.array 0).slots.getD j {}).team ≠ none))) = true := by decide +kernel

theorem witness_MultiplyingInstructions :
    (let f : Nat → Mma := fun op => { op, d := 0, a := .glob 8, c := 0, hb := 4, kq := 0, gn := 0, hx := if isSparse op then some 5 else none, ms := 0, ns := 0 }
     let tiles := fun (st : TState) => [(4, ({ base := 0, size := 32768, st, defined := true } : Tile)), (5, { base := 32768, size := 8192, st, defined := true })]
     let s := fun (st : TState) => ((withG (fun G => G.setSs 8 [0x20000100, 0]) (arrayTeam 0)).updShare 1 fun sh =>
       { sh with tiles := (tiles st).foldl (fun ts e => ts.set e.1 e.2) sh.tiles })
     [0xB02, 0xB08, 0xB09, 0xB0B].all fun op =>
       (issuesAnd (s .filling) h0 .core (asrcReg (f op).a) (f op).handles fun G x => decide (x.N ≠ 0) && decide ((G.sreg64 8).toNat % 256 = 0) && canonical (G.sreg64 8)) &&
       (issuesAnd (s .ready) h0 .core (asrcReg (f op).a) (f op).handles fun G x => match (s .ready).team? G.team with
         | some T => ((f op).tiles.all fun t => ((s .ready).tile T.share t.1).st == .ready) && ((mmaBerths op 0).all fun b => (T.berths.getD b {}).owner == some G.idx) &&
             ((s .ready).noPlace (convOf G.team T 0) (popcount x.N) [G.team]).isNone
         | none => false)) = true := by decide +kernel

/-- Tensor identifier k0 of the context: FP32, or FP64, of rank 2. -/
def withTensor (fmt : Nat) (s : State) : State := s.updCtx 0 fun c =>
  { c with tensors := [(0, { base := 0x20000000, sbase := 0, fmt, bs := false, rank := 2, dims := [16, 16, 1, 1, 1], strs := [64, 0, 0, 0], box := [16, 16, 1, 1, 1] })] }

theorem witness_BerthInstructions :
    ([[], (.v 255, 1) :: srcReg (.v 0) 1, ssrcReg (.imm 0) 1, [(.s 63, 1)]].all fun r => issuesAnd (arrayTeam 0) h0 .core r (fun s G => berthHandle 0 s G ++ noHandles s G)
      fun G x => decide (x.N ≠ 0) && match (arrayTeam 0).team? G.team with
        | some T => (T.berths.getD 0 {}).owner == some G.idx && (T.berths.getD 0 {}).pending == 0 && decide (0 < T.groups.length) && !T.fin.getD 0 false
        | none => false) = true ∧
    (let s := withTensor 6 (arrayTeam 0 |>.updTeam 1 fun T => { T with berths := T.berths.set 0 { owner := some 0, pending := 1 } })
     [[], [(Reg.s 8, 2)]].all fun r => issuesAnd s h0 .core r (fun s G => berthHandle 0 s G ++ (if r.isEmpty then noHandles s G else bwrHandle 0 0 s G)) fun G x =>
      decide (x.N ≠ 0) && ((s.tensor? G.ctx 0).any fun t => t.fmt != 7) && match s.team? G.team with
        | some T => (T.berths.getD 0 {}).owner == some G.idx && (T.berths.getD 0 {}).pending != 0
        | none => false) = true ∧
    ([6, 7].all fun fmt => let s := withTensor fmt (arrayTeam 0)
      issuesAnd s h0 .core [(.s 8, 2)] (fun s G => berthHandle 0 s G ++ bwrHandle 0 0 s G) fun G x => decide (x.N ≠ 0) && (s.tensor? G.ctx 0).isSome) = true ∧
    (issuesAnd base h0 .core [] (fun s G => berthHandle 7 s G ++ noHandles s G) fun G x => decide (x.N ≠ 0) && !isWave x.g && match base.team? G.team with
      | some T => let B := T.berths.getD 7 {}
        B.owner == none && decide (B.chunk < 64) && decide (B.lstat < 64) && decide (B.owner ≠ some G.idx)
      | none => false) = true := by decide +kernel

theorem witness_PackedAndPrunedResults : formsIssue base .both [(dV, 1) :: (srcReg (.v 0) 1 ++ srcReg (.imm 0) 1), [(dV, 1), (.v 0, 1), (.v 1, 1), (.s 2, 1)]] = true ∧
    formsIssue base .core [[(.v 254, 2), (.v 0, 2)]] = true ∧ ([1, 2, 3, 4, 5, 6, 7, 8] : List Byte).length = 8 := by decide +kernel

theorem witness_QueueInstructions :
    (issuesAnd base h0 .core (ssrcReg (.imm 4) 1) (queueHandle 0 [0, 2]) fun G x => decide (x.N ≠ 0) && G.q0.isEmpty && copyHeaderOk 4) = true ∧
    (issuesAnd base h0 .core (ssrcReg (.imm 0x104) 1) (queueHandle 2 [0, 2]) fun G _ => G.q2.isEmpty && gateHeaderOk 0x104) = true ∧
    (let c : Copy := { g := 0, gi := 0, team := 1, ctx := 0, words := [4], src := none, idx := none, dst := none, pkr := 0, order := 0, st := .stopped }
     let s := withG (fun G => { G with q0 := [0x22] }) (base.setCore 0 { journal := [(0, c)] })
     issuesAnd s h0 .core (ssrcReg (.imm 0) 1) (queueHandle 0 [0, 2]) fun G x => decide (G.q0 ++ [0] = [0x22, 0]) &&
       (s.commandCheck x.g G 0 [0x22, 0]).isNone &&
       (((s.advance x).updGroup x.g fun G => (G.setBuf 0 [0x22, 0]).keep 0 x.pc [0x22, 0] (s.advance x) x.g).submit x.g 0).isSome) = true ∧
    (issuesAnd (withG fun G => { G with q0 := [2, 0] }) h0 .core (ssrcReg (.imm 0) 1) (queueHandle 0 [0, 2]) fun G _ =>
      decide (G.q0.length = (G.q0.getD 0 0).toNat % 32)) = true ∧
    ([(1 : QReg), 3].all fun q => [[], [7]].all fun ws => [[(dV, 1)], [(.s 62, 2)]].all fun r =>
      issuesAnd (withG fun G => { G with q1 := ws, q3 := ws }) h0 .core r (queueHandle q [1, 3]) fun _ x => decide (x.N ≠ 0)) = true := by decide +kernel

/-- Tile h63 in a state. -/
def withTile (st : TState) : State := withShare fun sh => { sh with tiles := sh.tiles.set 63 { base := 0, size := 64, exp := 64, arr := 64, st, defined := true } }

theorem witness_TileInstructions :
    (let s := withG (fun G => (G.setS 0 8).setS 1 65528) (withTile .ready)
     issuesAnd s h0 .core [(.s 0, 1), (.s 1, 1)] noHandles fun G x => decide (x.N ≠ 0) &&
      decide ((G.sreg 0).toNat % 8 = 0 ∧ (G.sreg 1).toNat % 8 = 0 ∧ G.sreg 1 ≠ 0 ∧ (G.sreg 0).toNat + (G.sreg 1).toNat ≤ (s.share (s.shareKey x.g)).size) &&
      !s.tileInJournal (coreOf x.g) (s.shareKey x.g) 63 && !s.tileInOp (s.shareKey x.g) 63) = true ∧
    (issuesAnd base h0 .core [(.s 0, 1), (.s 1, 1)] noHandles fun G _ => decide (G.sreg 1 = 0)) = true ∧
    ([TState.empty, .filling, .ready, .draining].all fun st => [[], [(dV, 1)]].all fun r => issuesAnd (withTile st) h0 .core r (tileHandle 63) fun _ x =>
      decide (x.N ≠ 0) && ((withTile st).tile ((withTile st).shareKey x.g) 63).st == st && !(withTile st).tileInOp 1 63) = true ∧
    (match (withL (fun _ L => { L with wait := .tfree 63 })).group? 0 with
      | some G => base.keyOf G == 1 && decide (31 < G.lanes.length) && (G.lane 31).wait == .tfree 63 && !(G.lane 31).marker
      | none => false) = true := by decide +kernel

theorem witness_EventInstructions :
    (issuesAnd base h0 .core [] noHandles fun _ x => decide (x.N ≠ 0) && decide ((base.share (base.shareKey x.g)).counts.getD 12 0 = 0)) = true ∧
    (let s := withShare fun sh => { sh with counts := sh.counts.set 15 1 }
     issuesAnd s h0 .core [] noHandles fun _ x => decide ((s.share (s.shareKey x.g)).counts.getD 15 0 ≠ 0) &&
      (s.advance x).firstWaiter (s.shareKey x.g) (· == .event 15) (x.since (s.advance x))) = true ∧
    (let sh : Share := { counts := List.replicate 16 65535, routes := List.replicate 16 0xFFFF }
     decide (15 < sh.counts.length) && decide (sh.counts.getD 15 0 ≤ 65535)) = true := by decide +kernel

/-- Bytes at an address of device memory. -/
def poke (pa : Nat) (bs : List Byte) (s : State) : State := bs.zipIdx.foldl (fun s e => s.setByte (pa + e.2) e.1) s

/-- A descriptor of one plain team of 1 thread and 8 registers (R99), and a GRID packet of n clusters (R106). -/
def descBytes : List Byte := leBytes 8 0x40000000 ++ leBytes 2 8 ++ leBytes 2 1 ++ [1, 0, 0, 4] ++ List.replicate 112 0
def gridBytes (n : Nat) : List Byte := leBytes 4 1 ++ leBytes 4 n ++ leBytes 8 0x51000000 ++ List.replicate 48 0
def withPacket (s : State := base) : State := poke 0x51000000 descBytes (poke 0x52000000 (gridBytes 1) s)

/-- The team belongs to a graph of one node with records of 8 bytes. -/
def graphState : State :=
  let d : KDesc := { regs := 256, teamt := 32, clt := 1, l1u := 4, scratch := 65536, node := true, ncount := 4, nrec := 8 }
  let l : Launch := { kind := .graph, ctx := 0, queue := none, num := 0, hdr := 3, started := true, ncl := 1, descs := [d], bins := List.replicate 4 {}, seeds := [[]] }
  { base with launches := [(1, l)] }

/-- A store of lane 0 that has not been performed. -/
def lateStore : LsOp := { g := 0, lane := 0, seq := 0, pc := 0, ctx := 0, rel := false, kind := .store [{ pa := 0x20000000, val := 1 }] 1 }

theorem witness_LaunchAndEmit :
    ([(false, false), (true, false), (true, true)].all fun (packet, full) =>
      let s := withG (fun G => G.setSs 62 [0x52000000, 0]) (if packet then withPacket else base)
      let s := if full then { s with launchLists := [List.replicate 64 (0, gridBytes 1), [], [], []] } else s
      issuesAnd s h0 .core [(.s 63, 1), (.s 62, 2)] noHandles fun G x => decide (x.N ≠ 0) && !s.mustHold x.g (x.since (s.advance x)) x.T && (x.reason s).isNone && decide ((G.sreg64 62).toNat % 64 = 0) &&
        match (s.advance x).groupRead x (G.sreg64 62) 64 G.pkr with
        | (t, .bytes bs) => (t.checkLaunch G.ctx bs).2 == (if packet then 0 else (t.checkLaunch G.ctx bs).2.toNat.max 1) &&
            (!packet || ((t.checkLaunch G.ctx bs).1.listLaunch x.g G.ctx bs).isSome == !full)
        | _ => false) = true ∧
    (let s := withL (fun _ L => { L with wait := .again (.launchRoom (gridBytes 1)) })
     issuesAnd s h0 .core [(.s 63, 1), (.s 62, 2)] noHandles fun G x => decide (x.N ≠ 0) && x.reason s == some (.launchRoom (gridBytes 1)) &&
      ((s.advance x).listLaunch x.g G.ctx (gridBytes 1)).isSome) = true ∧
    (let s := withL (fun _ L => { L with wait := .again (.release 0x52000000 0), wseq := 5 }) { base with lsq := [lateStore], seq := 9 }
     issuesAnd s h0 .core [(.s 63, 1), (.s 62, 2)] noHandles fun _ x => decide (x.N ≠ 0) && x.reason s == some (.release 0x52000000 0) &&
      s.mustHold x.g (x.since (s.advance x)) x.T) = true ∧
    (let s := withOffs (fun l => 65528 - 8 * l) graphState
     issuesAnd s h0 .core [(.v 0, 1)] (nodeHandle 0) fun G x => decide (x.N ≠ 0) && match s.graphOf G with
      | some (_, l) => let n := (l.descs.getD 0 {}).nrec
        (lanesOf x.N).all fun i => decide ((G.reg i (.v 0) 0).toNat % 4 = 0 ∧ (G.reg i (.v 0) 0).toNat + n ≤ (s.shareOf G).size)
      | none => false) = true := by decide +kernel

/-- A gang's pipe n15 between the team and another one. -/
def pipeState (head tail : Word) (w r : Option Nat) : State :=
  let s := withShare (fun sh => { sh with pipes := sh.pipes.set 15 { off := 0, ebytes := 256, depth := 2, declared := true, head, tail, wteam := w, rteam := r } })
  { s.updUnit 1 (fun u => { u with teams := [1, 2] }) with teams := s.teams ++ (s.teams.map fun e => (2, { e.2 with idx := 1 })) }

theorem witness_PipeInstructions :
    ([(((0xFFFFFFFF : Word), (0xFFFFFFFF : Word), false)), (0xFFFFFFFF, 1, true)].all fun (hd, tl, full) =>
      let s := pipeState hd tl none (some 1)
      issuesAnd s h0 .core [(.v 254, 2)] (pipeHandle 15) fun G x => decide (x.N ≠ 0) && match s.team? G.team with
        | some T => !s.pipeMisuse T 15 true true && ((s.share T.share).pipes.getD 15 {}).full == full &&
            (s.advance x).firstWaiter T.share (Reason.same (.pipeFull 15 [])) (x.since (s.advance x))
        | none => false) = true ∧
    ([((0 : Word), (1 : Word), false), (0, 0, true)].all fun (hd, tl, empty) =>
      let s := pipeState hd tl (some 1) none
      [[(Reg.v 254, 2)], [(.v 252, 4)]].all fun r => issuesAnd s h0 .core r (pipeHandle 15) fun G x => decide (x.N ≠ 0) && match s.team? G.team with
        | some T => !s.pipeMisuse T 15 false true && !s.pipeMisuse T 15 false false && ((s.share T.share).pipes.getD 15 {}).empty == empty &&
            (s.advance x).firstWaiter T.share (Reason.same (.pipeEmpty 15)) (x.since (s.advance x))
        | none => false) = true := by decide +kernel

/-- Class 255 of the context: objects of 256 bytes, method 3. -/
def withClass (s : State := base) : State := s.updCtx 0 fun c => { c with classes := [(255, { entries := [0x40000000, 0, 0, 0x40000000], size := 256, wr := 15 })] }

/-- A wave of a method on quay 5, all of its 32 lanes in the bundle. -/
def waveState (wr : Bool) : State :=
  let w : Wave := { quay := 5, slot := 0, sb := 0x200000, reqs := [], size := 8, buf := List.replicate 8 7, stored := 0, pois := 0, replies := [], bundles := 0, wr, flt := none }
  let g := waveKey 5 0
  let G : Group := { ctx := 0, team := 0, idx := 0, regs := 64, active := true, wave := some w, lanes := (List.range 32).map fun _ => { live := true, pc := 0x40000000 } }
  { base with groups := base.groups ++ [(g, G)], cur := { g, lanes := 0xFFFFFFFF } }

theorem witness_QuayCallsAndMethods :
    (let s := withG (fun G => G.updLane 31 fun L => { L with helper := true }) (withAddrs 256 withClass)
     let known : State → Group → List (Nat × Bool) := fun s G => [(0, s.classOk G.ctx 255 3)]
     let va := fun (G : Group) l => G.reg64 l (.v 2)
     [[(Reg.v 254, 2), (.v 2, 2), (.v 4, 2)], [(.v 2, 2), (.v 4, 2)]].all fun r => issuesAnd s h0 .core r known fun G x => (s.classOf G.ctx 255).isSome && decide (x.N ≠ x.T) &&
       ((lanesOf x.N).all fun l => decide ((va G l).toNat % 4 = 0 ∧ (va G l).toNat % 256 + 256 ≤ 256) && canonical (va G l)) &&
       let dst : Dest := { reg := some (.inl (.v 254)), w := 2 }
       let helped := (lanesOf (x.T &&& ~~~x.N)).foldl (fun (s : State) l => s.updGroup x.g fun G => G.joinPend x.seq x.pc (.remote true) dst G.pkr l (.back [0, 0])) (s.advance x)
       (helped.passCalls x 256 (va G) (fun l => .qcall 255 3 256 0 (G.reg64 l (.v 4)) (some (x.seq, dst)) true true) (lanesOf x.N)).isSome &&
       ((s.advance x).passCalls x 256 (va G) (fun l => .qcall 255 3 256 0 (G.reg64 l (.v 4)) none false true) (lanesOf x.N)).isSome) = true ∧
    ([true, false].all fun inside =>
      let s := (waveState true).updGroup (waveKey 5 0) fun G => { G with lanes := G.lanes.map fun L => L.setVs 0 [if inside then 4 else 5] }
      [[(Reg.v 4, 1), (.v 0, 1)], [(.v 0, 1), (.v 4, 1)], [(.v 4, 2)]].all fun r => issuesAnd s h0 .quay r noHandles fun G x => isWave x.g && decide (x.T ≠ 0) &&
        match G.wave with
        | some w => w.wr && w.buf.length == w.size && (lanesOf x.T).all fun l =>
            let off := (G.reg l (.v 0) 0 + 0).toNat
            (decide (off % 4 = 0 ∧ off + 4 ≤ w.size) == inside) && !w.bad w.pa off
        | none => false) = true ∧
    issuesAnd (waveState false) h0 .both [] noHandles (fun G x => G.wave.isSome && isWave x.g && decide (x.T ≠ 0)) = true := by decide +kernel

theorem witness_TakingATrap :
    (match base.group? 0 with
      | some G => decide (31 < G.lanes.length) && decide ((G.lane 31).traps.length < 4) && (match AMap.get? base.contexts G.ctx with
          | some c => decide (c.trapva ≠ 0)
          | none => false) && (match base.xlate (via 0 G) ((G.lane 31).spt - 128) 128 .frameWrite none with
          | (_, .ok pas) => pas.length == 128
          | _ => false)
      | none => false) = true ∧
    (let t : TrapCtx := { dest := { reg := none, w := 0 }, rv := [], rvValid := 0, blocked := 0 }
     match (withL fun _ L => { L with traps := [t, t, t, t] }).group? 0 with
      | some G => decide ((G.lane 31).traps.length ≥ 4)
      | none => false) = true ∧
    (let s := base.updCtx 0 fun c => { c with trapva := 0 }
     (AMap.get? s.contexts 0).map Context.trapva = some 0) := by decide +kernel

/-- Every lane is in a handler, its frame's destination v10, replaced by 9. -/
def handlerState (valid : BitVec 4) : State :=
  let t : TrapCtx := { dest := { reg := some (.inl (.v 10)), w := 1 }, rv := [9, 0, 0, 0], rvValid := valid, blocked := 0 }
  let s := withL fun _ L => { L with traps := [t], spt := 0x60000000 }
  poke 0x60000000 (frameBytes { cause := .uncorr, resume := 0x4000000C, dest := t.dest } {}) s

theorem witness_LeavingAHandler :
    ([[], [(Reg.v 255, 1)]].all fun r => issuesAnd (handlerState 0) h0 .core r noHandles fun G x => decide (x.T ≠ 0) &&
      (lanesOf x.T).all fun l => decide ((G.lane l).traps ≠ [])) = true ∧
    issuesAnd base h0 .core [] noHandles (fun G x => decide (x.T ≠ 0) && decide (x.N = x.T) && (lanesOf x.T).all fun l => decide ((G.lane l).traps = [])) = true ∧
    issuesAnd base h0 .core [(.v 255, 1)] noHandles (fun G x => decide (x.T ≠ 0) && decide (x.N = x.T) && (lanesOf x.T).all fun l => decide ((G.lane l).traps = [])) = true ∧
    ([0, 1].all fun valid => let s := handlerState valid
      match s.group? 0 with
      | some G => decide (31 < G.lanes.length) && s.lsq.isEmpty && (match (G.lane 31).traps with | t :: _ => t.rvValid == valid && t.rv.length == 4 && !t.blocked.getLsbD 0 | [] => false) &&
          (match s.xlate (via 0 G) (G.lane 31).spt 128 .frameRead none with
            | (t, .ok pas) => pas.length == 128 && !t.holds pas && (pas.all fun pa => (t.poisonIn pa 1).isNone) &&
                decide ((destOf (leWord (((pas.map s.byte).drop 0x30).take 4))) = { reg := some (.inl (.v 10)), w := 1 })
            | _ => false)
      | none => false) = true := by decide +kernel

/-- A CACHEWB of a range of lines: nothing holds it, or a wave has the superblock of an entry of its walk. -/
theorem witness_Maintenance : ([base, withWaveAt 0x50000000].all fun s => issuesAnd s h0 .core ((.s 62, 2) :: ssrcReg (.imm 64) 1) noHandles fun _ x => decide (x.N ≠ 0)) = true ∧
    (!base.mustHold 0 base.seq 0xFFFFFFFF && !base.maintHeld 0 1 0x20000000 64) = true ∧ (withWaveAt 0x50000000).maintHeld 0 1 0x20000000 64 = true ∧
    ((base.rangePages 0 0x20000000 64).any fun p => pteR p.2.2.e) = true := by decide +kernel

theorem witness_SpecialRegistersAndKeys :
    issuesAnd base h0 .core [(dS, 1)] noHandles (fun G _ => (base.team? G.team).isSome) = true ∧
    ([[(Reg.s 62, 2)], [(dV, 1), (.v 2, 2)], (.s 62, 2) :: ssrcReg (.imm 0) 1, (.s 62, 2) :: ssrcReg (.s 3) 1].all fun r =>
      issuesAnd base h0 .core r noHandles fun _ x => decide (x.N ≠ 0) && decide (x.T ≠ 0)) = true ∧
    issuesAnd { base with cur := { g := 0, lanes := 1 } } { h0 with g := 1 } .core [(.s 62, 2)] noHandles (fun _ x => decide (x.N = 0)) = true ∧
    ([((0x20000000 : DWord), true), (0x1000000000, false)].all fun (va, mapped) =>
      let s := withG fun G => { G with pend := [{ seq := 5, pc := 0, kind := .keyr, dest := { reg := some (.inl (.v 8)), w := 1 }, pkr := 0, supplier := none, lanes := [(31, .waiting va)] }] }
      match s.group? 0 with
      | some G => (match G.pend[0]? with | some p => AMap.get? p.lanes 31 == some (.waiting va) && p.kind == .keyr | none => false) &&
          !s.probeHeld (via 0 G) va && (match (s.probe (via 0 G) va).2 with | some e => mapped && decide (e.lvl < 4) | none => !mapped)
      | none => false) = true := by decide +kernel

/-- A tensor record of 16 × 16 FP32 elements (R215), and a class descriptor (R194), in memory. -/
def recordBytes : List Byte := leBytes 8 0x20000000 ++ leBytes 8 0 ++ [6, 2, 0, 0] ++ leBytes 4 16 ++ leBytes 4 16 ++ List.replicate 12 0 ++
  leBytes 4 64 ++ List.replicate 12 0 ++ leBytes 2 16 ++ leBytes 2 16 ++ [0, 0, 0, 0]

theorem witness_TensorsAndClasses :
    (let s := withG (fun G => G.setSs 62 [0x52000000, 0]) (poke 0x52000000 recordBytes base)
     issuesAnd s h0 .core [(.s 62, 2)] noHandles fun G x => decide (x.N ≠ 0) && (AMap.get? s.contexts G.ctx).isSome && decide ((G.sreg64 62).toNat % 64 = 0) &&
      match ((s.advance x).groupRead x (G.sreg64 62) 64 G.pkr).2 with
      | .bytes bs => (tensorOf bs).isSome
      | _ => false) = true ∧
    (let s := withG (fun G => G.setSs 62 [0x52000000, 0])
     issuesAnd s h0 .core [(.s 62, 2)] noHandles fun G x => decide (x.N ≠ 0) && match ((s.advance x).groupRead x (G.sreg64 62) 64 G.pkr).2 with
      | .bytes bs => (tensorOf bs).isNone
      | _ => false) = true ∧
    (let s := withWaveAt 0x52000000 (withG fun G => G.setSs 62 [0x52000000, 0])
     issuesAnd s h0 .core [(.s 62, 2)] noHandles fun G x => decide (x.N ≠ 0) && match ((s.advance x).groupRead x (G.sreg64 62) 64 G.pkr).2 with
      | .later => true
      | _ => false) = true ∧
    issuesAnd (withTensor 6 base) h0 .core [] (fun s G => [(0, (s.tensor? G.ctx 0).isSome)]) (fun _ x => decide (x.N ≠ 0)) = true ∧
    ([(0 : Word), 4].all fun lo => issuesAnd (withG fun G => G.setSs 62 [lo, 0]) h0 .core [(.s 63, 1), (.s 62, 2)] noHandles fun G x => decide (x.N ≠ 0) &&
      (decide ((G.sreg64 62).toNat % 64 = 0) == (lo == 0))) = true ∧
    ([withClass, base].all fun s => issuesAnd s h0 .core [(.s 63, 1)] noHandles fun G x => decide (x.N ≠ 0) && (s.classOf G.ctx 255).isSome == (s.classOf 0 255).isSome) = true := by
  decide +kernel

/-- A user queue of 16 entries with one packet announced; the packet is a GRID of n clusters. -/
def queueState (n : Nat) (st : Nat) : State :=
  let s := poke 0x53000000 (gridBytes n) withPacket
  { s with queues := [(4095, { ctx := 0, desc := 0x54000000, ring := 0x53000000, log2n := 4, rdidx := 0, wridx := 1, st })] }

/-- A packet that has been read. -/
def withLaunch (l : Launch) (s : State := base) : State := { s with launches := [(1, l)] }
def aLaunch (k : LKind) (started : Bool) (conds : List (DWord × Nat × DWord)) : Launch :=
  { kind := k, ctx := 0, queue := none, num := 0, hdr := 0, descs := [{ regs := 8, teamt := 1, clt := 1, l1u := 4 }], ncl := 1, conds, started, bins := List.replicate 4 {}, seeds := [[(3, [1, 2, 3, 4])]] }

theorem witness_QueuesAndPackets :
    (let s := queueState 1 0
     match AMap.get? s.queues 4095 with
      | some u => decide (u.wridx < 16 ∧ 16 ≤ u.rdidx + 2 ^ u.log2n) && decide (u.rdidx + 2 ^ u.log2n < 17) && decide (1 ≤ u.wridx) && u.st == 0 && decide (u.rdidx < u.wridx) && !u.dying &&
          s.alive u.ctx && s.startable 4095 u && s.queueTurn 4095 && !s.waveHolds [u.slot] && (s.poisonIn u.slot 64).isNone && pktType (s.bytes u.slot 64) != 0 &&
          ((s.launchesOf 4095).all fun e => !e.2.blocks) && leNat ((s.bytes u.slot 64).take 4) / 2 ^ 10 % 2 == 0 &&
          (match (s.packetOf u.ctx (s.bytes u.slot 64)).2 with | .ok _ => true | .error _ => false) && decide (u.slot < u.desc + 0x10)
      | none => false) = true ∧
    (let s := queueState 0 0
     match AMap.get? s.queues 4095 with
      | some u => (match (s.packetOf u.ctx (s.bytes u.slot 64)).2 with | .ok _ => false | .error _ => true)
      | none => false) = true ∧
    ([LKind.grid, .gang, .depend, .graph, .barrier].all fun k => let s := withLaunch (aLaunch k false [])
      match AMap.get? s.launches 1 with
      | some l => !l.started && l.kind == k && decide (s.binsTaken + (l.descs.map binBytes).sum ≤ binRoom) && (l.seeds.any fun e => e != []) &&
          ((s.updLaunch 1 fun l => { l with started := true }).launchDone 1 false).isSome
      | none => false) = true ∧
    (let big : Launch := { aLaunch .graph false [] with descs := List.replicate 64 { ncount := 1024, nrec := 256 } }
     let s : State := { queueState 1 0 with launches := [(1, { big with queue := some 4095 }), (2, { big with started := true })] }
     decide (binRoom < (withLaunch big).binsTaken + (big.descs.map binBytes).sum) && (match (s.launchesOf 4095).filter fun e => !e.2.started with
       | e :: _ => (s.reread e.2).2.kind == .graph && decide (binRoom < s.binsTaken + ((s.reread e.2).2.descs.map binBytes).sum)
       | [] => false) && (match (s.bump.packetOf big.ctx big.packet).2 with
       | .ok _ => false
       | .error _ => true) && (AMap.get? s.queues 4095).any fun u => !s.startable 4095 u) = true ∧
    ([((0 : DWord), true), (1, false)].all fun (v, holds) => let s := withLaunch (aLaunch .barrier true [(0x20000000, 0, v)])
      !s.waits (.launch (.launch 1)) && match s.condsHold 0 [(0x20000000, 0, v)] with
      | (t, r) => r == holds && (t.launchDone 1 false).isSome) = true ∧
    (let s := withLaunch { aLaunch .grid true [] with caddr := 0x20000000, cval := 1 }
     match s.xlate (lpVia 0) 0x20000000 8 .write (some 0) with
      | (t, .ok pas) => !t.waveHolds [pas.getD 0 0] && !isRemote (pas.getD 0 0)
      | _ => false) = true ∧
    (let s := { withPacket with launchLists := [[], [], [], [(0, gridBytes 1)]] }
     match (({ s with launchLists := s.launchLists.set 3 [] } : State).launchPacket 0 (gridBytes 1)).2 with
      | .ok _ => true
      | .error _ => false) = true := by decide +kernel

theorem witness_PlacementBinsAndStart :
    (let d : KDesc := { regs := 8, teamt := 32, clt := 4, l1u := 4, scratch := 64 }
     let l : Launch := { kind := .grid, ctx := 0, queue := none, num := 0, hdr := 1, descs := [d], ncl := 1, started := true }
     decide (l.placed < l.ncl) && decide ([383, 380, 382, 381].Nodup) && [383, 380, 382, 381].all fun c => c / 4 == 95 && base.fitsOn c (d.need d.groups)) = true ∧
    base.fitsOn 5 (gangNeed (List.replicate 3 { regs := 8, teamt := 32, clt := 1, l1u := 4, scratch := 64 })) = true ∧
    (let s := withT fun T => { T with started := false }
     match s.team? 1 with
      | some T => !T.started && s.faults.all List.isEmpty && (match s.runLoads 1 T.loads with | some (_, true) => true | _ => false) && T.loads.isEmpty && T.desc.tids.isEmpty && T.loadFail.isNone
      | none => false) = true ∧
    (let s : State := { withT (fun T => { T with fin := [true] }) with groups := [] }
     let s : State := { s.updUnit 1 (fun u => { u with teams := [1, 2] }) with teams := s.teams ++ (s.teams.map fun e => (2, { e.2 with idx := 1 })) }
     match s.team? 1, s.team? 2 with
      | some T, some J => s.teamOver 1 T && !s.waits (.launch (.team 1)) && (s.teamDone 1 false).isSome && decide (T.desc.teamev = 0) && !J.retired && s.recsOut.isEmpty && s.qreplies.isEmpty
      | _, _ => false) = true ∧
    (let d : KDesc := { regs := 8, teamt := 32, clt := 1, l1u := 4, scratch := 64, node := true, ncount := 2, nrec := 4 }
     let l : Launch := { aLaunch .graph true [] with descs := [d], bins := [{}, {}, {}, { recs := [[1, 2, 3, 4]], timer := true }] }
     let e : Launch := { l with bins := [{ recs := [[1, 2, 3, 4], [5, 6, 7, 8]] }, {}, {}, { recs := [[1, 2, 3, 4]], expired := true }] }
     l.seeds.getD 0 [] == [(3, [1, 2, 3, 4])] && decide ((l.bins.getD 3 {}).recs.length < 2 * d.ncount) && (l.bins.getD 3 {}).timer && decide ((l.bins.getD 3 {}).recs ≠ []) &&
       base.fitsOn 383 (d.need d.groups) && decide (383 / 96 = 3) && decide (d.ncount ≤ (e.bins.getD 0 {}).recs.length) && (e.bins.getD 3 {}).expired &&
       decide (¬ (d.ncount ≤ (l.bins.getD 3 {}).recs.length)) && !(l.bins.getD 3 {}).expired) = true := by decide +kernel

/-- Two groups of the team: one waits on a barrier, the other is ready and pending, aged. -/
def twoGroups : State :=
  let s := withL (fun _ L => { L with wait := .token (.team 0) 0 }) (withG fun G => { G with fallback := some (0x40000000, 256) })
  match base.group? 0 with
  | some G => { s with groups := s.groups ++ [(63, { G with idx := 1, active := false, age := 1024 })] }
  | none => s

theorem witness_Scheduling :
    (match twoGroups.group? 0, twoGroups.nextPending 0 with
      | some G, some (i, _) => G.active && twoGroups.swapFree 0 && twoGroups.waiting 0 G && i == 63 && (twoGroups.group? 63).isSome
      | _, _ => false) = true ∧
    (let s := twoGroups.setCore 0 { cycles := 1024 }
     let now := (s.core 0).cycles
     s.swapFree 0 && (s.residents 0).any (fun e => !e.2.active && decide (e.2.age ≥ 1024) && decide (e.2.cls < 3) && s.started e.2 && s.groupReady e.1 e.2) &&
      (s.residents 0).any fun e => e.2.active && decide (e.2.entered + 1024 ≤ now)) = true ∧
    (base.residents 0).all (fun e => e.2.active) = true ∧ base.dev.power = 0 ∧
    (let u := base.prepare 0
     !(u.candidates 0).isEmpty && (u.candidates 0).all fun c => !(u.bundle c).isEmpty && !c.groups.isEmpty) = true ∧
    (match twoGroups.group? 0 with | some G => G.fallback == some (0x40000000, 256) | none => false) = true := by decide +kernel

/-- A fault entry on die 3, with one waiter; a reply word of the host, 1 or 2, stands in its place. -/
def withFault (f : FaultEntry) (s : State := base) : State := { s with faults := s.faults.set 3 [f] }
def aFault (w : Waiter) (addr l0 : Option Nat) : FaultEntry :=
  { va := 0x20000000, cause := .translation, sub := 0, kind := .read, src := .ls, ctx := 0, source := 0, waiters := [w], l0, addr }
def faultingLane (a : Acc := .fetch) (r : Option Rec := none) (s : State := base) : State :=
  withL (fun l L => if l = 31 then { L with wait := .fault 0x20000000 a 0 r } else L) s
/-- No lane but lane 31 waits in service, and no lane has a record due. -/
def alone (s : State) : Bool := s.groups.all fun e => e.2.lanes.zipIdx.all fun L => L.1.due.isNone && (L.2 == 31 || match L.1.wait with
  | .fault _ _ _ _ => false
  | _ => true)
/-- One outstanding read of lane 31, in fault service. -/
def faultedPend : State := withG fun G => { G with pend := [{ seq := 5, pc := 0, kind := .load 4 .zero false false, dest := { reg := some (.inl (.v 8)), w := 1 }, pkr := 0, supplier := none, lanes := [(31, .faulted 0x20000000)] }] }

theorem witness_FaultReplies :
    ([(1, true), (2, false)].all fun (v, r) => let f := aFault (.pend 0 5 31) (some 0x53000000) none
      let s := poke 0x53000014 (leBytes 4 v) (withFault f faultedPend)
      (s.faults.getD 3 [])[0]? == some f && f.queued && decide (leNat (s.bytes 0x53000014 4) ≠ 0 ∧ (leNat (s.bytes 0x53000014 4) = 1 ↔ r = true)) && (s.answerFault 3 0 f r).isSome &&
      match s.group? 0 with
      | some G => alone s && (G.lane 31).wait == .none && G.pend.length == 1 && G.pend.all (fun p => p.seq == 5 && p.lanes == [(31, .faulted 0x20000000)]) && (List.range 32).all fun k => (G.lane k).wait != .gath 5
      | none => false) = true ∧
    (let f := aFault (.lane 0 31) (some 0x53000000) none
     let s := poke 0x53000014 (leBytes 4 1) (withFault f faultingLane)
     decide (leNat (s.bytes 0x53000014 4) ≠ 0 ∧ (leNat (s.bytes 0x53000014 4) = 1 ↔ true = true)) &&
     match s.group? 0 with
      | some G => alone s && decide (31 < G.lanes.length) && (G.lane 31).wait == .fault 0x20000000 .fetch 0 none
      | none => false) = true ∧
    (let a : Acc := .store 4 [1, 2, 3, 4] false false []
     let s := withFault (aFault (.lane 0 31) none none) (faultingLane a (some { cause := .permission }) (withPend (.load 4 .zero false false)))
     ((withFault (aFault (.lane 0 31) none none)).zeroMark (aFault (.lane 0 31) none none)).isNone && match s.group? 0 with
      | some G => alone s && decide (31 < G.lanes.length) && (G.lane 31).wait == .fault 0x20000000 a 0 (some { cause := .permission }) && !(G.lane 31).helper &&
          G.outstanding && G.recs.isEmpty
      | none => false) = true ∧
    ([((0x1000000000 : DWord), true), (0x100000000000000, false)].all fun (va, serviced) =>
      let s := withG fun G => { G with pend := [{ seq := 5, pc := 0, kind := .load 4 .zero false false, dest := { reg := some (.inl (.v 8)), w := 1 }, pkr := 0, supplier := none, lanes := [(31, .waiting va)] }] }
      s.dev.managed.length == 6 && !s.hostMode 0 && match s.group? 0 with
      | some G => (G.pend.any fun p => match s.laneRead 0 G p 31 4 va false false with
          | (_, .fault x) => x.serviced == serviced && !x.held
          | _ => false) && !(G.faulting 31) && !(G.lane 31).helper
      | none => false) = true ∧
    ((withL fun _ L => { L with wait := .fault 0x30000000 .fetch 0 none }).group? 0).any (fun G => G.faulting 31) = true ∧
    (let f := aFault (.lane 0 31) none none
     ((withFault f).faults.getD 3 []).any (fun e => e.ctx == f.ctx && e.kind == f.kind && e.cause == f.cause && (withFault f).replyOf e == 0) &&
       (base.faults.getD 3 []).isEmpty && decide (3 < base.faults.length)) = true ∧
    (let f := aFault (.lane 0 31) none none
     f.addr == none && ((withFault f).zeroMark f).isNone) = true ∧
    (let f := aFault (.lane 0 31) none (some 0x53000000)
     let s := poke 0x53000000 (leBytes 8 (2 ^ 63)) (withFault f faultingLane)
     f.addr == none && s.zeroMark f == some (0x53000000, BitVec.ofNat 64 (2 ^ 63)) && !pteV (BitVec.ofNat 64 (2 ^ 63)) && inDevice 0x60000000 65536 && region 0x60000000 != .tier2 &&
       !s.waveHolds (0x53000000 :: (List.range 256).map (0x60000000 + 256 * ·)) &&
       match s.group? 0 with
        | some G => alone s && decide (31 < G.lanes.length) && (G.lane 31).wait == .fault 0x20000000 .fetch 0 none
        | none => false) = true := by decide +kernel

/-- Two requests of group 0 to one object of class 255, or to one word. -/
def aReq (l : Nat) (op : Option (AtOp × List Byte × List Byte)) : QReq :=
  { who := some (0, l), seq := 5, pc := 0, ctx := 0, pa := 0x20000000, va := 0x20000000, cls := if op.isSome then 0 else 255, m := 3, size := if op.isSome then 4 else 256, arg := 9, op, pend := some 5, core := 0, ents := [] }
/-- The last lane of a wave has finished. -/
def endedWave (reqs : List QReq) (n : Nat) (flt : Option (Nat × Nat)) : State :=
  let w : Wave := { quay := 5, slot := 0, sb := 0x200000, reqs, size := n, buf := List.replicate n 7, stored := 1, pois := 0, replies := [], bundles := 0, wr := true, flt }
  { base with groups := base.groups ++ [(waveKey 5 0, { ctx := 0, team := 0, idx := 0, regs := 64, active := true, wave := some w, lanes := List.replicate 32 {} })] }
def ended (s : State) (P : Wave → Bool) : Bool := match s.group? (waveKey 5 0) with
  | some G => (match G.wave with | some w => decide (G.live = 0) && P w | none => false)
  | none => false

theorem witness_QuayEvents :
    (let k := LsKind.quay 0x20000000 0x20000000 255 3 256 9 (some 5)
     let s := withWrite k
     match s.lsq[0]? with
      | some e => e.kind == k && !e.away && s.allReady (s.batch e) && !s.overtakes e && decide ((s.quay (quayOf (0x20000000 / 256 * 256))).reqs.length + (s.batch e).length ≤ 512) &&
          decide (e.superblock = some (0x20000000 / 256))
      | none => false) = true ∧
    ([(withClass, true), (base, false)].all fun (s, o) => let q := aReq 0 none
      let s := s.setQuay 5 { reqs := [q, aReq 31 none], busy := [] }
      s.quay 5 == { reqs := [q, aReq 31 none], busy := [] } && (s.group? (waveKey 5 0)).isNone && s.classOpen q == o) = true ∧
    (let q := aReq 0 (some (.add32, [1, 0, 0, 0], []))
     let s := base.setQuay 5 { reqs := [q], busy := [] }
     let t : State := { s with groups := s.groups ++ [(waveKey 5 0, { ctx := 0, team := 0, idx := 0, regs := 64, lanes := [] })] }
     t.quay 5 == { reqs := [q], busy := [] } && (t.group? (waveKey 5 1)).isNone && (t.group? (waveKey 5 0)).isSome && t.classOpen q) = true ∧
    ended (endedWave [aReq 0 none, aReq 31 none] 256 none) (fun w => w.flt.isNone && w.reqs.all (fun q => q.op.isNone && q.who.isSome && q.pend.isSome) && w.buf.length == w.size && decide (w.size ≤ 256 ∧ w.reqs ≠ [] ∧ w.pa + w.size ≤ remoteBase)) = true ∧
    (let s := endedWave [aReq 0 (some (.add32, [1, 0, 0, 0], []))] 4 none
     ended s fun w => w.flt.isNone && ((w.reqs.head?.bind fun q => q.op).isSome) && (s.poisonIn w.pa w.size).isNone && decide (w.pa + w.size ≤ remoteBase)) = true ∧
    ended (endedWave [aReq 0 none, aReq 31 none] 256 (some (9, 1))) (fun w => w.flt == some (9, 1) && decide (2 ≤ w.reqs.length) && w.reqs.all fun q => q.op.isNone) = true ∧
    (let r : QReply := { req := aReq 31 none, status := 0, words := [1, 2], sub := 0, code := 0 }
     ({ base with qreplies := [r] } : State).qreplies[0]? == some r && r.req.who == some (0, 31) && r.req.pend == some 5) = true ∧
    decide (0xFFFFFFFF < 2 ^ 32 ∧ 1 < [(1, 0), (0xFFFFFFFF, 0)].length) = true := by decide +kernel
/-- A copy command of the group in entry 63 of the journal, on tensor 0 and tile 63: from the tensor, or to it. -/
def copyWords (toTile : Bool) (x : Word) : List Word := if toTile then [0x2206, 0, 0, x, 0, 63] else [0x2106, 0, 63, 0, x, 0]
def aCopy (toTile : Bool) (x : Word) (st : JState) : Copy :=
  let t := (withTensor 6 base).tensor? 0 0
  { g := 0, gi := 0, team := 1, ctx := 0, words := copyWords toTile x, src := if toTile then t else none, idx := none, dst := if toTile then none else t, pkr := 0, order := 1, st, entered := true }
def withCopy (c : Copy) (ts : TState) : State :=
  let s := withShare (fun sh => { sh with tiles := sh.tiles.set 63 { base := 0, size := 1024, exp := 1024, arr := 0, st := ts, defined := true } }) (withTensor 6 base)
  s.setCore 0 { s.core 0 with journal := [(63, c)] }
def copyIs (s : State) (P : State → Copy → Team → Share → Bool) : Bool := match s.copyAt 0 63 with
  | some c => (match s.team? c.team with
      | some T => (match AMap.get? s.shares T.share with | some sh => P s c T sh | none => false)
      | none => false)
  | none => false

theorem witness_CopyEngine :
    ([(0 : Word), 1, 2].all fun ty =>
      let s := withL (fun _ L => { L with wait := .submit 0 }) (withG (fun G => { G with q0 := [2 + 32 * ty, 63], sub0 := some (aCopy true 0 .queued) }) (withCopy (aCopy true 0 .stopped) .filling))
      !s.resumeTakes (coreOf 0) && (s.copyAt 0 63).isSome && (s.copyAt 0 0).isNone && match s.group? 0 with
      | some G => maskOf (fun l => (G.lane l).live && (G.lane l).wait == .submit 0) != 0 && decide ((G.q0.getD 0 0).toNat / 32 % 8 = ty.toNat) && G.sub0.isSome
      | none => false) = true ∧
    (let c := aCopy true 0 .queued
     let full := base.setCore 0 { base.core 0 with journal := (List.range 64).map fun j => (j, c) }
     let last := base.setCore 0 { base.core 0 with journal := (List.range 63).map fun j => (j, c) }
     (List.range 64).all (fun j => (full.copyAt (coreOf 0) j).isSome) && (last.copyAt (coreOf 0) 63).isNone && (List.range 63).all fun j => (last.copyAt (coreOf 0) j).isSome) = true ∧
    ([true, false].all fun d => copyIs (withCopy (aCopy d 0 .queued) .ready) fun s c _ sh => c.st == .queued && !s.beingSaved c.team && s.tilesLet c && s.condLets c && sh.tiles.length == 64 &&
      decide (((s.core 0).journal.filter fun e => e.2.st == .active).length < 4) && (s.core 0).journal.all (fun e => decide (¬ e.2.order < c.order)) && (d || c.srcTile == some 63)) = true ∧
    ([true, false].all fun d => copyIs (withCopy (aCopy d 0 .active) .filling) fun s c _ _ => c.st == .active && !c.waiting && match s.copyRun 0 63 (c.prog + 8) true 8 with
      | some t => decide (c.prog + 8 ≤ c.total) && (match t.copyAt 0 63 with | some e => decide (e.prog ≤ c.prog + 8) | none => true)
      | none => false) = true ∧
    (copyIs (withCopy (aCopy false 0 .active) .draining) fun _ c _ _ => !c.waiting && !c.issued && c.stopping.isNone && c.srcTile == some 63 && c.ahead.isEmpty && decide (c.prog < c.total)) = true ∧
    (copyIs (withCopy (aCopy false 0 .active) .draining) fun s c _ _ => match s.readAhead 0 63 (c.total - c.prog) (c.total - c.prog) with
      | (u, .ok ()) => (match u.placeRest 0 63 c with | (_, .ok ()) => true | _ => false)
      | _ => false) = true ∧
    ([8, 1024].all fun k => copyIs (withCopy { aCopy true 0 .active with prog := 1016, ahead := List.replicate k 5 } .filling) fun s c _ sh =>
      !c.waiting && c.dstTile == some 63 && c.barrier == none && c.carry.isNone && decide (63 < sh.tiles.length) &&
      decide (c.prog + 8 ≤ c.total ∧ s.blockLen c c.prog c.total = 8 ∧ 8 ≤ c.ahead.length)) = true ∧
    (copyIs (withCopy { aCopy true 0 .active with prog := 1024 } .filling) fun s c _ _ => c.st == .active && c.prog == c.total && !c.waiting && !c.hasStamp && c.cq && !s.groupOver c &&
      match s.group? c.g with | some G => decide (G.q1.length < 64) | none => false) = true ∧
    (copyIs { withCopy (aCopy true 0 .active) .filling with pois := [(0x20000000 / 32, 0)] } fun s c _ _ => c.st == .active && !c.waiting && !c.issued && decide (c.prog + c.ahead.length < c.total) && !c.hasStamp && c.carry.isNone && !s.teamFinished c.team &&
      match s.srcUnit 0 63 c (c.prog + c.ahead.length) with | (_, .error (.poison _)) => true | _ => false) = true := by decide +kernel

/-- A gate command of the group on four tensors: experts or scores, four of them. -/
def aGate (op : Word) : Gate :=
  let t : TensorId := { base := 0x20000000, sbase := 0, fmt := if op = 1 then 6 else 8, bs := false, rank := if op = 1 then 2 else 1, dims := [4, 1, 1, 1, 1], strs := [16, 0, 0, 0], box := [1, 1, 1, 1, 1] }
  let u : TensorId := { t with base := 0x20000100, fmt := 8, rank := if op = 1 then 2 else 1 }
  { g := 0, gi := 0, team := 1, ctx := 0, words := [op * 256 + 0x2004, 0, 0, 4], tens := [some t, some u, some u, some u], pkr := 0, order := 1 }
def gateIs (c : Gate) (P : State → Gate → Bool) : Bool := let s := base.setGate 0 [c]
  match s.gateHead 0 with
  | some (i, d) => i == 0 && d == c && P s d
  | none => false

theorem witness_GateUnits :
    ([(1 : Word), 2, 3, 4].all fun op => gateIs (aGate op) fun s c => !c.computed && !c.waiting && !c.wt && c.op == op.toNat && match c.ten 0 with
      | some A => (match (s.bump.updGate 0 0 fun c => { c with started := true }).gateList 0 c c.inBytes A.allAddrs with | (_, xs, e) => xs.length == 4 && e.isNone) &&
          (s.gateWaiter 0).isNone && !s.beingSaved c.team && !c.wt && (s.team? c.team).isSome
      | none => false) = true ∧
    ([(1 : Word), 2, 3, 4].all fun op => match (withL (fun _ L => { L with wait := .submit 2 }) (withG fun G => { G with q2 := [1], sub2 := some (aGate op) })).gateWaiter 0 with
      | some (g, _, c) => g == 0 && decide (1 ≤ c.op ∧ c.op ≤ 4 ∧ (base.gateQ 0).length < 16)
      | none => false) = true ∧
    ([([((0x20000100 : DWord), (1 : Byte)), (0x20000101, 0), (0x20000104, 2)], 2), ([(0x2000013F, 1), (0x20000140, 0)], 1)].all fun (out, n) =>
      gateIs { aGate 2 with computed := true, out, granule := [(0x800004, 0x800004)] } fun s c => c.computed && !c.waiting && (s.gateRun 0 0 n true n).isSome && decide (n ≤ c.out.length) &&
        alignedRun 4 c.out == n && (c.granule.find? fun e => e.1 == (c.out.getD 0 (0, 0)).1.toNat / 64) == some ((c.out.getD 0 (0, 0)).1.toNat / 64, 0x800004) && decide (64 * 0x800004 + 64 ≤ remoteBase) && !s.waveHolds [0x20000100, 0x20000101, 0x2000013F]) = true ∧
    ([0, 16].all fun n => gateIs { aGate 2 with computed := true } fun s c => let t := s.updGroup 0 fun G => { G with q3 := List.replicate n 0 }
      c.computed && !c.waiting && c.out.isEmpty && !c.hasStamp && !c.ev && c.cq && !t.gateOver c && !c.finished && t.gateQ 0 == [c] &&
      match t.group? c.g with | some G => decide (G.q3.length < 16) == (n == 0) | none => false) = true ∧
    (3 ≤ [0x3F800000, 0x7FC00000, 0x80000000].length ∧ (2 : Nat) < 3 ∧ 2 ≤ [0xFFFFFFFF, 1].length ∧ ∀ x ∈ [2, 0, 2], x < 3) := by decide +kernel

/-- An array operation of the team: A is tile 4, or global memory at 0x20000000; one quarter, 16 rows, 16 columns. -/
def anOp (op : Nat) (a : ASrc) (va : DWord) : MmaOp :=
  { parts := [{ team := 1, g := 0, gi := 0, img := { op, d := 0, a, imm := 5, word := 0 }, addr := va, pkr := 0 }], conv := 0, order := 1 }
def tiledTeam : State := (arrayTeam 0).updShare 1 fun sh => { sh with
  tiles := (sh.tiles.set 4 { base := 0, size := 32768, st := .ready, defined := true }).set 5 { base := 32768, size := 8192, st := .ready, defined := true }
  counts := sh.counts.set 4 1 }
def withOp (o : MmaOp) (s : State := tiledTeam) : State := s.setArray 0 { s.array 0 with active := some (3, o) }
def opIs (o : MmaOp) (P : State → MmaOp → MmaPart → Bool) : Bool := let s := withOp o
  match (s.array 0).active, o.cur with
  | some (3, d), some p => d == o && P s d p
  | _, _ => false
def aStore (out : List (DWord × Byte)) : BStore := { g := 0, gi := 0, team := 1, ctx := 0, berth := 1, wide := false, bar := none, pc := 0, pkr := 0, out }

theorem witness_ArrayOperations :
    ([tiledTeam, arrayTeam 0].all fun t => let o := anOp 0xB02 (.tile 4) 0
      let s := t.setArray 0 { t.array 0 with slots := (t.array 0).slots.set 3 { team := some 1, closed := [o] } }
      match ((s.array 0).slots.getD 3 {}).closed[0]? with
      | some o => (match o.parts.head? with
        | some p => (match s.team? p.team with
          | some T => (o.parts.all fun q => !s.beingSaved q.team) && decide ((s.share T.share).counts.getD (4 + o.conv) 0 ≠ 0) == (t == tiledTeam) && decide (3 < (s.array 0).slots.length)
          | none => false)
        | none => false)
      | none => false) = true ∧
    ([(3, 4, 1), (3, 3, 3), (0, 0, 3)].all fun (cur, run, i) => let o := anOp 0xB02 (.tile 4) 0
      let A : Arr := { slots := List.replicate 4 { queue := if i = 1 then [o] else [] }, cur, run }
      let B : Arr := { A with slots := A.slots.set 3 { queue := [o] } }
      decide (B.cur < 4) && (B.pick fun _ => true).isSome && (((A.pick fun _ => true).isNone) == (i != 1)) && (B.pick fun _ => false).isNone && (List.range 4).all fun j => ((A.slots.getD j {}).ready fun _ => true) == (i == 1)) = true ∧
    ([false, true].all fun b => let o := { anOp 0xB02 (.tile 4) 0 with begun := b }
      let s := tiledTeam.setArray 95 { tiledTeam.array 95 with slots := (tiledTeam.array 95).slots.set 3 { team := some 1, queue := [o] } }
      decide ((s.array 95).active = none) && match (s.array 95).pick s.tilesSettled with
      | some (i, _) => decide (((s.array 95).slots.getD i {}).queue = [o]) && decide (i < (s.array 95).slots.length) && match o.parts.head? with | some p => !isSparse p.img.op | none => false
      | none => false) = true ∧
    ((tiledTeam.array 95).active = none ∧ (tiledTeam.array 95).pick tiledTeam.tilesSettled = none) ∧
    ([(1, false), (0, true)].all fun (c, more) => opIs { anOp 0xB02 (.tile 4) 0 with chunk := c } fun s o p => !isGrouped p.img.op && s.nextChunk o p o.chunk == some c &&
      match s.bump.chunkA 0 o.order p c p.img.M with
      | (s', .ok rows) => ((s'.chunkAll o p c rows).nextChunk o p (c + 1)).isSome == more && decide (o.part + 1 = o.parts.length)
      | _ => false) = true ∧
    (let o := anOp 0xB02 (.glob 8) 0x20000000
     let s : State := { withOp o with pois := [(0x20000000 / 32, 0)] }
     match o.cur with
     | some p => s.nextChunk o p o.chunk == some 0 && (match s.bump.chunkA 0 o.order p 0 p.img.M with | (_, .error (.poison _)) => true | _ => false)
     | none => false) = true ∧
    (opIs (anOp 0xB02 (.glob 8) 0x1000000000) fun s o p => s.nextChunk o p o.chunk == some 0 && match s.bump.chunkA 0 o.order p 0 p.img.M with | (_, .error (.fault x _ _)) => x.serviced | _ => false) = true ∧
    (opIs (anOp 0xB02 (.glob 8) 0x8000000000000000) fun s o p => s.nextChunk o p o.chunk == some 0 && match s.bump.chunkA 0 o.order p 0 p.img.M with | (_, .error (.fault x _ _)) => !x.serviced | _ => false) = true ∧
    ([(0xB02, 0), (0xB09, 0), (0xB07, 15)].all fun (op, m) => opIs (anOp op (.tile 4) 0) fun s o p => decide (op ≠ 0xB08) && !isGrouped op && (s.quarter o p 0 (0 / perQuarter op)).isSome &&
      match s.team? p.team with | some T => (mmaBerths op p.img.d).all (fun b => decide (b < T.berths.length)) && decide (m < 128) | none => false) = true ∧
    ([[((0x20000000 : DWord), (1 : Byte))], []].all fun out => let s : State := { tiledTeam with bstores := [(7, { aStore out with granule := [(0x800000, 0x800000)] })] }
      match AMap.get? s.bstores 7 with
      | some e => !e.waiting && !e.wide && e.out == out && e.bar.isNone && (out.isEmpty || ((s.storeRun 7 1 true 1).isSome && alignedRun 8 e.out == 1 && !s.waveHolds [0x20000000])) && match s.team? e.team with | some T => decide (e.berth < T.berths.length) | none => false
      | none => false) = true := by decide +kernel
/-- A packet on its way between stacks, for a job on stripe 7. -/
def aPacket (ty : PType) : Packet := { ty, target := 15, off := 7 * 256, beats := 8, port := 0, tag := 0, src := 3, data := List.replicate 8 { data := List.replicate 32 1, mask := 0xFFFFFFFF }, job := 2 }
def withDram (ty : PType) : State :=
  let j : StripeJob := { stripe := 7, coord := 7, want := 3, req := aPacket .rd }
  { base with packets := [(4, aPacket ty)], jobs := if ty == .locked || ty == .chunk then [(2, j)] else [], pendPar := [(pendKey 7 15, 0)] }

theorem witness_MemoryPackets :
    ([0x20000000, 0xEFFFFFFFE0].all fun pa => requestOk (homeSlice pa) 7 pa 1 && !base.tagBusy (homeSlice pa) 7 && base.jobs.isEmpty && base.dramUe.isEmpty && base.packets.isEmpty &&
      (List.range 16).all fun k => !base.isLost k) = true ∧
    (let s : State := { base with l2 := [(0x800000, { dirty := true, mask := 0x1FF, pois := 0 })] }
     requestOk (homeSlice 0x20000000) 0 0x20000000 2 && !s.tagBusy (homeSlice 0x20000000) 0 && decide ((dramPlace 0x20000000).1 < 16) && s.dramPois.isEmpty && s.locks.isEmpty &&
       (List.range 2).all fun w => !(s.beatOf ((0x20000000 + 32 * w) / 64) ((0x20000000 + 32 * w) / 32 % 2)).pois &&
         (List.range 2).all fun h => (List.range 2).any fun v => decide ((0x20000000 + 32 * v) / 64 = (0x20000000 + 32 * w) / 64 ∧ (0x20000000 + 32 * v) / 32 % 2 = h)) = true ∧
    ([PType.rdr, .wack, .delta, .dack, .lock, .locked, .chunkrd, .chunk, .unlock].all fun ty => match AMap.get? (withDram ty).packets 4 with
      | some p => p.ty == ty && (List.range 8).all (fun w => (withDram ty).eccGood p.target (p.off + 32 * w)) && AMap.getD (withDram ty).pendPar (pendKey (p.off / 256) p.target) 0 == 0 &&
          ((AMap.get? (withDram ty).jobs p.job).isSome == (ty == .locked || ty == .chunk)) && (withDram ty).packets.all fun e => e.2.ty != .wr
      | none => false) = true := by decide +kernel

theorem witness_MemoryPackets_places :
    (∀ pa ∈ [0, 0xEFFFFFFFFF], pa < 0x00F000000000) ∧
    (∀ off ∈ [0, 2 ^ 36 - 32], ∀ t ∈ [7, 8], t < 16 ∧ t ≠ parityStack (off / 256) ∧ off % 32 = 0 ∧ off < 2 ^ 36 ∧ base.dramPois = [] ∧ base.dramUe = [] ∧
      ∀ i ∈ List.range 32, base.xorAt (List.range 16) (off + i) = 0) ∧
    (let b : Beat := { data := List.replicate 32 9, mask := 0xF }
     b.pois = false ∧ b.data.length = 32) ∧ ∀ k ∈ List.range 16, base.isLost k = false := by decide +kernel

/-- Stack 15 is lost. -/
def withLost : State := { base with dev := { base.dev with stkh := base.dev.stkh.set 15 { lost := true } } }
/-- A 64 KiB page at 2^46 whose frame is at 0x20010000. -/
def smallPage : State :=
  poke 0x50000008 (leBytes 8 0x50040001) (poke 0x50040000 (leBytes 8 0x50042001) (poke 0x50042000 (leBytes 8 0x50044001) (poke 0x50044000 (leBytes 8 0x2001007F) base)))

/-- The table and the entry that a walk reaches after j levels. -/
def entryAt (s : State) (va : DWord) : Nat → Nat × DWord
  | 0 => let pte := s.rootOf 0 + 8 * vaIndex va 3
    (pte, leDWord (s.bytes pte 8))
  | j + 1 => let pte := pteNext (entryAt s va j).2 + 8 * vaIndex va (2 - j)
    (pte, leDWord (s.bytes pte 8))

/-- A walk ends at level k, in an entry of the kind asked for. -/
def walkEnds (s : State) (va : DWord) (k : Nat) (P : DWord → Leaf → Bool) : Bool :=
  (List.range (3 - k)).all (fun j => let e := (entryAt s va j).2
    pteV e && !pteMalformed e (3 - j) && !pteLeaf e) &&
  (List.range (4 - k)).all (fun j => !s.pteHeld (lpVia 0) (entryAt s va j).1) && canonical va &&
  P (entryAt s va (3 - k)).2 { e := (entryAt s va (3 - k)).2, lvl := k, pte := (entryAt s va (3 - k)).1 }

theorem witness_AddressTranslation :
    canonical 0x100000000000000 = false ∧
    (walkEnds base 0x400000000000 3 fun e _ => !pteV e) = true ∧
    (walkEnds (poke 0x50044000 [0x7E] smallPage) 0x400000000000 0 fun e _ => !pteV e) = true ∧
    (walkEnds (poke 0x50000008 [3] base) 0x400000000000 3 fun e _ => pteV e && pteMalformed e 3) = true ∧
    (walkEnds (poke 0x50044000 (leBytes 8 0xF00000007F) smallPage) 0x400000000000 0 fun e f => pteV e && !pteMalformed e 0 && pteLeaf e &&
      region (f.pa 0x400000000000) == .reserved) = true ∧
    ([(base, (0x20000000 : DWord), 2), (smallPage, 0x400000000000, 0)].all fun (s, va, k) => walkEnds s va k fun e f => pteV e && !pteMalformed e k && pteLeaf e &&
      region (f.pa va) != .reserved && (checkLeaf e .read (some 1)).isSome && (checkLeaf e .both (some 0)).isNone && decide (f.pte + 8 ≤ remoteBase)) = true ∧
    ([Right.read, .write, .both, .fetch].all fun r => (!pteX 0x77 || !pteX 0x6F) && (r != .fetch || !pteX 0x6F) && (!r.writes || !pteW 0x77)) = true ∧
    (let s := (base.translateRaw (lpVia 0) 0x20000000 .both (some 0)).1
     (s.extentHit (lpVia 0) 0x20000000).isNone && match s.tlbHit (lpVia 0) 0x20000000 with
      | some f => region (f.pa 0x20000000) != .reserved && (checkLeaf f.e .both (some 0)).isNone && pteA f.e && pteD f.e
      | none => false) = true ∧
    (match (base.translateRaw (lpVia 0) 0x400000000000 .read none).2 with | .error _ => true | .ok _ => false) = true := by decide +kernel

theorem witness_ScrubLossAndMigration :
    ([0, 15].all fun stack => [0, 2 ^ 31 - 1].all fun word => !base.isLost stack && !base.dramPois.contains (eccKey stack (32 * word)) && decide (stack < base.dev.stkh.length) &&
      (List.range 16).all (fun k => !base.isLost k) && base.jobs.isEmpty && base.packets.isEmpty) = true ∧
    withLost.isLost 15 = true ∧
    (match smallPage.movable 0 0x400000000000 true with
      | some f => !smallPage.hostMode 1 && f.lvl == 0 && frameOk 0x010000000000 65536 true && !smallPage.moveWaits f 0x010000000000 65536 &&
          (List.range 8).all fun k => decide (homeOf (f.pte + k) < 0x010000000000)
      | none => false) = true := by decide +kernel

/-- The mailbox runs a command. -/
def withCmd (c : Nat) (args : List DWord) (s : State := base) : State := { s with dev := { s.dev with mbbusy := true, mbcmd := c, mbarg := args } }
def withMode (i : Nat) (s : State) : State := { s with dev := { s.dev with managed := s.dev.managed.set i { host := true } } }
/-- A context record and a queue descriptor at 0x53000000. -/
def contextBytes : List Byte := leBytes 8 0x50000000 ++ leBytes 8 0 ++ leBytes 8 0x50020000 ++ leBytes 8 4 ++ List.replicate 32 0
def queueBytes' : List Byte := leBytes 8 0x54000000 ++ leBytes 8 16 ++ List.replicate 48 0

theorem witness_MailboxCommands :
    ((poke 0x53000000 contextBytes base).readContext 0x53000000).isSome = true ∧ (base.readContext 0x53000040).isNone = true ∧
    (inDevice 0x53000000 64 && inDevice 0x53000040 64 && (AMap.get? base.contexts 1).isNone && (AMap.get? base.contexts 0).isSome) = true ∧
    ([false, true].all fun d => let s := withCmd 2 [0, 0, 0, 0, 0, 0] (base.updCtx 0 fun c => { c with dead := d })
      s.dev.mbbusy && s.dev.mbcmd == 2 && s.lsq.isEmpty && match AMap.get? s.contexts (s.arg 0).toNat with | some c => c.dead == d | none => false) = true ∧
    ((poke 0x53000000 queueBytes' base).readQueueDesc 0 0x53000000).isSome = true ∧ AMap.get? base.queues 0 = none ∧
    ([(false, 0), (true, 0), (false, 1)].all fun (d, st) => [4, 5].all fun cmd => let s0 := queueState 1 st
      let s := withCmd cmd [4095, 1, 0, 0, 0, 0] { s0 with queues := s0.queues.map fun e => (e.1, { e.2 with dying := d }) }
      s.dev.mbbusy && s.dev.mbcmd == cmd && decide ((s.arg 1).toNat < 2) && (s.launchesOf (s.arg 0).toNat).isEmpty &&
        match AMap.get? s.queues (s.arg 0).toNat with | some u => u.dying == d && u.st == st | none => false) = true ∧
    ([0x010000000000, 0x20010000].all fun frame => let s := withCmd 8 [0, 0x400000000000, 1, 0, 0, 0] (withMode 1 smallPage)
      s.hostMode 1 && (AMap.get? s.contexts (s.arg 0).toNat).isSome && decide ((s.arg 2).toNat < 2) && match s.movable (s.arg 0).toNat (s.arg 1) (s.arg 2 == 1) with
        | some f => (frameOk frame (2 ^ pageLog f.lvl) true == (frame == 0x010000000000)) && !s.probeHeld (lpVia (s.arg 0).toNat) (s.arg 1) && (frame != 0x010000000000 || !s.moveWaits f frame (2 ^ pageLog f.lvl))
        | none => false) = true ∧
    ([(withLost, true), (base, false)].all fun (s0, l) => let s := withCmd 9 [15, 0, 0, 0, 0, 0] (withMode 2 s0)
      s.hostMode 2 && s.isLost (s.arg 0).toNat == l && decide ((s.arg 0).toNat < s.dev.stkh.length) && s.packets.isEmpty && s.jobs.isEmpty && !base.hostMode 2) = true ∧
    ([(0x10 : DWord), 0x15].all fun id => let s := withCmd 0xB [id, 1, 0, 0, 0, 0]
      decide (s.dev.managed.length = 6 ∧ 0x10 ≤ (s.arg 0).toNat ∧ (s.arg 0).toNat ≤ 0x15 ∧ (s.arg 1).toNat ≤ 1)) = true ∧
    ([0xC, 0xD].all fun c => (withCmd c [0, 0, 0, 0, 0, 0]).dev.mbcmd == c && (withCmd c [0, 0, 0, 0, 0, 0]).dev.mbarg.length == 6) = true := by decide +kernel

theorem base_waves : (base.groups.all fun e => e.2.wave.isNone) = true := by decide +kernel

/-- Where no wave runs, no wave holds a place. -/
theorem waves_none (s : State) (h : s.groups = base.groups) (pas : List Nat) : s.waveHolds pas = false := by
  simp only [State.waveHolds, State.heldFor, List.any_eq_false]
  intro e he
  have := List.all_eq_true.mp base_waves e (h ▸ he)
  split
  · next w hw => simp [hw] at this
  · simp

/-- The report of ATTEST fits below 2^32, whatever the certificate is. -/
theorem report_length (s : State) (n : DWord) : 0xE8 ≤ (s.report n).length ∧ (s.report n).length < 2 ^ 32 := by
  simp only [State.report, identityKey, List.length_append, leBytes_length, sha256_length, publicKey_length, ecdsaSign_length, List.length_take]
  omega

theorem witness_MailboxCommands_attest :
    (let s := withCmd 0xE [0, 0, 0xFFFFFFFF, 0, 0, 0]
     (s.dev.mbbusy = true ∧ s.dev.mbcmd = 0xE) ∧ (s.arg 1).toNat % 8 = 0 ∧ (s.report (s.arg 0)).length ≤ (s.arg 2).toNat ∧
      inLocal (s.arg 1).toNat (s.report (s.arg 0)).length = true ∧
      s.waveHolds ((List.range (s.report (s.arg 0)).length).map ((s.arg 1).toNat + ·)) = false) ∧
    (let s := withCmd 0xE [0, 0, 0, 0, 0, 0]
     (s.dev.mbbusy = true ∧ s.dev.mbcmd = 0xE) ∧ (s.arg 2).toNat < (s.report (s.arg 0)).length) := by
  refine ⟨⟨by decide +kernel, by decide +kernel, ?_, ?_, waves_none _ (by simp only [withCmd]) _⟩, by decide +kernel, ?_⟩
  · have h := report_length (withCmd 0xE [0, 0, 0xFFFFFFFF, 0, 0, 0]) 0
    exact Nat.le_of_lt_succ h.2
  · have h := report_length (withCmd 0xE [0, 0, 0xFFFFFFFF, 0, 0, 0]) 0
    show inLocal 0 (State.report _ 0).length = true
    generalize (State.report (withCmd 0xE [0, 0, 0xFFFFFFFF, 0, 0, 0]) 0).length = n at h ⊢
    have e : region (0 + n - 1) = .hbm := by
      unfold region
      rw [if_pos (by omega)]
    unfold inLocal inDevice
    rw [e]
    rfl
  · have h := report_length (withCmd 0xE [0, 0, 0, 0, 0, 0]) 0
    exact Nat.lt_of_lt_of_le (by decide) h.1
/-- A saved cluster of one team that has retired. -/
def aSaved (T : Team) (u : CUnit) : SavedUnit := { unit := u, teams := [(9, { T with retired := true, groups := [], berths := [], desc := { T.desc with regs := 4, berths := 0, scratch := 0 } })], groups := [], shares := [(9, {})], copies := [], gates := [], slots := [] }
/-- A memory that holds some bytes from an address on. -/
def listed : Nat → List Byte → AMap Byte
  | _, [] => []
  | a, b :: bs => if b = 0 then listed (a + 1) bs else (a, b) :: listed (a + 1) bs

theorem listed_before (bs : List Byte) : ∀ a k, k < a → AMap.get? (listed a bs) k = none := by
  induction bs with
  | nil => intro a k _; rfl
  | cons b bs ih =>
    intro a k h
    unfold listed
    split
    · exact ih _ _ (by omega)
    · rw [AMap.get?, if_neg (by omega)]
      exact ih _ _ (by omega)

theorem listed_getD (bs : List Byte) : ∀ a i, AMap.getD (listed a bs) (a + i) 0 = bs.getD i 0 := by
  induction bs with
  | nil => intro a i; rfl
  | cons b bs ih =>
    intro a i
    unfold listed
    cases i with
    | zero =>
      split
      · rename_i h
        simp [AMap.getD, listed_before bs (a + 1) a (by omega), h]
      · simp [AMap.getD, AMap.get?]
    | succ i =>
      have e : a + (i + 1) = a + 1 + i := by omega
      split
      · rw [e, ih]
        simp
      · rw [AMap.getD, AMap.get?, if_neg (by omega), ← AMap.getD, e, ih]
        simp

/-- The bytes that such a memory reads as. -/
theorem listed_bytes (s : State) (a : Nat) (bs : List Byte) (h : s.mem = listed a bs) (i n : Nat) (hn : i + n ≤ bs.length) :
    s.bytes (a + i) n = (bs.drop i).take n := by
  apply List.ext_getElem
  · simp [State.bytes]
    omega
  · intro k h1 h2
    simp only [State.bytes, List.length_map, List.length_range] at h1
    simp only [State.bytes, State.byte, h, List.getElem_map, List.getElem_range, List.getElem_take, List.getElem_drop]
    rw [show a + i + k = a + (i + k) by omega, listed_getD]
    simp [List.getD_eq_getElem?_getD, List.getElem?_eq_getElem (show i + k < bs.length by omega)]

/-- A record that stands as it was written is intact. -/
theorem intact_self (U : SavedUnit) (k : Nat) : U.intact k (U.bytes k 2) = true := by
  simp only [SavedUnit.intact, List.all_eq_true]
  intro e he
  have h := List.mem_zipIdx he
  simp only [Nat.zero_add, Nat.sub_zero] at h
  obtain ⟨-, -, h⟩ := h
  rw [h]
  simp

/-- A saved unit, its record in memory. -/
def withSaved (U : SavedUnit) : State :=
  { base with saved := [(5, U)], mem := listed 0x60000000 (U.bytes 5 2), l2 := [(0x1800000, { dirty := true, mask := 0xFFFF, pois := 0 })] }

theorem witness_SavingAndResuming_save :
    (match AMap.get? base.units 1 with
      | some u => u.save.isNone && !base.hostMode 4 && base.savable u && savePaOk 0x60000000 (unitSize u (base.teamsOf u))
      | none => false) = true ∧
    ([false, true].all fun w => let s := base.updUnit 1 fun u => { u with save := some 0x60000000, writing := w }
     match AMap.get? s.units 1 with
      | some u => u.save == some 0x60000000 && u.writing == w && s.saveReady u && (s.groups.all fun e => e.2.wave.isNone)
      | none => false) = true ∧
    (let s := withL (fun _ L => { L with wait := .held }) (base.updUnit 1 fun u => { u with save := some 0x60000000 })
     match AMap.get? s.units 1 with
      | some u => u.save == some 0x60000000 && !s.saveReady u
      | none => false) = true ∧
    ([none, some 0x60000000].all fun sv => let s0 := withCmd 6 [0, 0, 0, 0, 0, 0] (base.updUnit 1 fun u => { u with save := sv })
      let s : State := { s0 with dev := { s0.dev with selected := some [1] } }
      s.dev.mbbusy && s.dev.mbcmd == 6 && s.dev.selected == some [1] && s.asked 1 == sv.isSome) = true ∧
    (let s := withCmd 6 [0, 0, 0, 0, 0, 0]
     s.dev.mbbusy && s.dev.mbcmd == 6 && s.dev.selected.isNone && !s.hostMode 4) = true ∧
    ([false, true].all fun room => let s := withCmd 6 [0, 0xFFFFFFFFFFFFFFFF, 0x53000000, 1, 0, 0] (withMode 4 (if room then poke 0x53000000 (leBytes 8 0x60000000 ++ leBytes 8 0x1000000) base else base))
     s.dev.mbbusy && s.dev.mbcmd == 6 && s.dev.selected.isNone && s.hostMode 4 && (AMap.get? s.contexts 0).isSome && inLocal 0x53000000 16 &&
       match s.selectUnits 0 0xFFFFFFFFFFFFFFFF with | some us => us.length == 1 && (s.assign us 0x53000000 1).isSome == room | none => false) = true ∧
    (let free : State := { withTensor 6 base with groups := [], teams := [], launches := [] }
     match AMap.get? free.contexts 0, AMap.get? base.contexts 0 with
      | some c, some d => !c.evicted && free.idle 0 && (AMap.get? c.tensors 0).isSome && decide (c.savearea + 32768 ≤ remoteBase) && !d.evicted && !base.idle 0
      | _, _ => false) = true := by decide +kernel

theorem withSaved_mem (U : SavedUnit) : (withSaved U).mem = listed 0x60000000 (U.bytes 5 2) := by simp only [withSaved]

/-- Its place and length, if nothing names what it holds. -/
theorem saved_bytes (U : SavedUnit) (h : (U.bytes 5 2).length = 0xA000) (i n : Nat) (hn : i + n ≤ 0xA000) :
    (withSaved U).bytes (0x60000000 + i) n = ((U.bytes 5 2).drop i).take n :=
  listed_bytes (withSaved U) 0x60000000 (U.bytes 5 2) (withSaved_mem U) i n (by rw [h]; exact hn)

/-- No memory word is in error, and nothing is on its way to memory. -/
def Clean (s : State) : Prop :=
  s.pois = [] ∧ s.dramPois = [] ∧ s.dramUe = [] ∧ s.writes = [] ∧ s.portQ = [] ∧ s.dev.stkh = List.replicate 16 {}

/-- Memory without an error holds no poison. -/
theorem clean_poison (s : State) (h : Clean s) (pa n : Nat) : s.poisonIn pa n = none := by
  obtain ⟨hp, hd, hu, hw, hq, hk⟩ := h
  have lost (k : Nat) : s.isLost k = false := by
    simp only [State.isLost, hk, List.getD_eq_getElem?_getD, List.getElem?_replicate]
    split <;> rfl
  have ok (a : Nat) : s.memPoisoned a = false := by
    simp only [State.memPoisoned, State.memCopy]
    split <;> simp [State.heldWrites, hw, hq, beatsFor, State.overlay, State.cellCopy, State.eccGood, hd, hu, lost]
  exact List.find?_eq_none.mpr fun a _ => by simp [State.poisoned, hp, ok]

theorem saved_poison (U : SavedUnit) (n : Nat) : (withSaved U).poisonIn 0x60000000 n = none :=
  clean_poison _ ⟨rfl, rfl, rfl, rfl, rfl, rfl⟩ _ n

theorem writeList_clean : ∀ (es : List (Nat × Byte)) (s : State), Clean s → Clean (s.writeList es)
  | [], _, h => h
  | e :: es, s, h => writeList_clean es _ (by
      obtain ⟨hp, h⟩ := h
      cases hr : isRemote e.1 <;> simp [State.writeByte, State.setByte, hr, hp, Clean, h])

theorem begun_waves (U : SavedUnit) : (withSaved U).waveHolds ((span 0x60000004 (leBytes 4 3)).map (·.1)) = false := waves_none (withSaved U) (by simp only [withSaved]) _
theorem alloc_held (u : State) (hu : AMap.get? u.l2 0x1800000 = some { dirty := true, mask := 0xFFFF, pois := 0 }) (pa : Nat) (m : Half)
      (hpa : pa / 64 = 0x1800000) (hr : isRemote pa = false) : u.alloc pa m = u := by
    simp [State.alloc, hr, hpa, hu]

theorem allocAll_held (u : State) (hu : AMap.get? u.l2 0x1800000 = some { dirty := true, mask := 0xFFFF, pois := 0 }) (pas : List Nat)
    (h : ∀ pa ∈ pas, pa / 64 = 0x1800000 ∧ isRemote pa = false) : u.allocAll pas = u := by
  have all : ∀ (qs : List Nat) (f : Nat → Half), (∀ pa ∈ qs, pa / 64 = 0x1800000 ∧ isRemote pa = false) → qs.foldl (fun s pa => s.alloc pa (f pa)) u = u := by
    intro qs f h
    induction qs with
    | nil => rfl
    | cons a as ih =>
      rw [List.foldl_cons, alloc_held u hu a _ (h a (by simp)).1 (h a (by simp)).2]
      exact ih fun pa hp => h pa (List.mem_cons_of_mem _ hp)
  exact all pas _ h

/-- The bytes of the STATE word, 3. -/
def three : List (Nat × Byte) := [(0x60000004, 3), (0x60000005, 0), (0x60000006, 0), (0x60000007, 0)]

theorem homeWrite_three (s : State) (hl : AMap.get? s.l2 0x1800000 = some { dirty := true, mask := 0xFFFF, pois := 0 }) :
    s.homeWrite none [] three = (((s.backInv (three.map (·.1))).writeList three).revoke none [] (three.map (·.1))).observeAll (three.map (·.1)) := by
  have hf : (three.map (·.1)).find? isRemote = none := by decide
  have hh : homed three = three := by decide
  simp only [State.homeWrite, hf, hh]
  rw [allocAll_held (s.backInv _) hl _ (by decide)]
  rfl

/-- STATE becomes 3: memory without an error stays so, and the unit stays saved. -/
theorem begun_clean (U : SavedUnit) : Clean ((withSaved U).devWrite (span 0x60000004 (leBytes 4 3))) ∧
    AMap.get? ((withSaved U).devWrite (span 0x60000004 (leBytes 4 3))).saved 5 = some U := by
  have hc : Clean (withSaved U) := ⟨rfl, rfl, rfl, rfl, rfl, rfl⟩
  have hl : AMap.get? (withSaved U).l2 0x1800000 = some { dirty := true, mask := 0xFFFF, pois := 0 } := rfl
  have hs : AMap.get? (withSaved U).saved 5 = some U := rfl
  have hw : ∀ (es : List (Nat × Byte)) (s : State), (s.writeList es).saved = s.saved := by
    intro es
    induction es with
    | nil => intro s; rfl
    | cons e es ih =>
      intro s
      rw [State.writeList, ih]
      cases hr : isRemote e.1 <;> simp only [State.writeByte, State.setByte, hr] <;> split <;> (try split) <;> rfl
  rw [State.devWrite, begun_waves, if_neg Bool.false_ne_true, show span 0x60000004 (leBytes 4 3) = three from rfl, homeWrite_three _ hl]
  generalize withSaved U = s at hc hs
  have hb := writeList_clean three (s.backInv (three.map (·.1))) hc
  have hv := hw three (s.backInv (three.map (·.1)))
  obtain ⟨u, hu⟩ : ∃ u, u = (s.backInv (three.map (·.1))).writeList three := ⟨_, rfl⟩
  rw [← hu] at hb hv ⊢
  exact ⟨hb, (congrArg (AMap.get? · 5) hv).trans hs⟩

theorem saved_intact (U : SavedUnit) (h : (U.bytes 5 2).length = 0xA000) : U.intact 5 ((withSaved U).bytes 0x60000000 0xA000) = true := by
  have e := saved_bytes U h 0 0xA000 (Nat.le_refl _)
  rw [Nat.add_zero, List.drop_zero, List.take_of_length_le (by rw [h])] at e
  rw [e]
  exact intact_self U 5

/-- A saved cluster, its one team retired. -/
def savedCluster : SavedUnit :=
  match base.team? 1, AMap.get? base.units 1 with
  | some T, some u => aSaved T { u with teams := [9] }
  | _, _ => { unit := { kind := .cluster, ctx := 0, launch := 1, clIdx := 0, clCount := 1, teams := [] }, teams := [], groups := [], shares := [], copies := [], gates := [], slots := [] }

theorem savedCluster_length : (savedCluster.bytes 5 2).length = 0xA000 := by
  have e : savedCluster.teams.length = 1 := by decide +kernel
  obtain ⟨x, hx⟩ := List.length_eq_one_iff.mp e
  have h : sectionScratch savedCluster.unit x.2 = 0 ∧ x.2.groups = [] ∧ x.2.berths = [] := by
    have h : savedCluster.teams.all (fun x => sectionScratch savedCluster.unit x.2 == 0 && x.2.groups.isEmpty && x.2.berths.isEmpty) = true := by decide +kernel
    simpa [hx, and_assoc] using h
  simp only [SavedUnit.bytes, hx, SavedUnit.sect, h, List.flatMap_cons, List.flatMap_nil, List.length_append, fixLen, List.length_take, List.length_replicate,
    List.length_nil, List.range_zero, Share.bytes, List.map_nil]
  omega

theorem savedCluster_size : unitSize savedCluster.unit savedCluster.teams = 0xA000 := by decide +kernel

/-- STATE of the record becomes 3. -/
def begun : State := (withSaved savedCluster).devWrite (span (0x60000000 + 4) (leBytes 4 3))

/-- The record that is being resumed is intact, but for its STATE. -/
theorem begun_intact : savedCluster.intact 5 (begun.bytes 0x60000000 0xA000) = true := by
  have h := saved_intact savedCluster savedCluster_length
  simp only [SavedUnit.intact, List.all_eq_true] at h ⊢
  intro e he
  obtain ⟨-, hi, hv⟩ := List.mem_zipIdx he
  simp only [Nat.zero_add, Nat.sub_zero] at hi hv
  simp only [List.length_zip, State.bytes, List.length_map, List.length_range, savedCluster_length] at hi
  by_cases hs : 4 ≤ e.2 ∧ e.2 < 8
  · simp [hs]
  have hb : begun.byte (0x60000000 + e.2) = (withSaved savedCluster).byte (0x60000000 + e.2) := by
    rw [begun, State.devWrite, if_neg (by rw [waves_none (withSaved savedCluster) (by simp only [withSaved])]; exact Bool.false_ne_true)]
    apply State.homeWrite_byte_of_not_mem
    have hm : (span (0x60000000 + 4) (leBytes 4 3)).map (fun e => homeOf e.1) = [0x60000004, 0x60000005, 0x60000006, 0x60000007] := by decide
    rw [hm]
    simp
    omega
  refine h e ?_
  rw [List.mem_zipIdx_iff_getElem?]
  have e1 : e.1 = (((begun.bytes 0x60000000 0xA000).zip (savedCluster.bytes 5 2))[e.2]'(by simp [State.bytes, savedCluster_length]; omega)) := hv
  rw [List.getElem?_eq_getElem (by simp [State.bytes, savedCluster_length]; omega), e1]
  simp only [List.getElem_zip, State.bytes, List.getElem_map, List.getElem_range, hb]

theorem witness_SavingAndResuming_resume :
    (savePaOk 0x60000000 0x1000 = true ∧ inDevice 0x60000000 0xA000 = true ∧ (withSaved savedCluster).dev.mbbusy = false ∧
      (withSaved savedCluster).hostMode 4 = false ∧ savedCluster.resume = none ∧ savePaOk 0x60000001 0x1000 = false) ∧
    (∀ e ∈ (withSaved savedCluster).saved, ∀ bs, e.2.resume ≠ some (0x60000000, bs)) ∧
    leNat ((withSaved savedCluster).bytes (0x60000000 + 4) 4) = 2 ∧ leNat ((withSaved savedCluster).bytes (0x60000000 + 0x28) 8) = 5 ∧
    leNat ((withSaved savedCluster).bytes (0x60000000 + 8) 8) = unitSize savedCluster.unit savedCluster.teams ∧
    AMap.get? begun.saved 5 = some savedCluster ∧ begun.poisonIn 0x60000000 0xA000 = none ∧
    savedCluster.intact 5 (begun.bytes 0x60000000 (unitSize savedCluster.unit savedCluster.teams)) = true := by
  refine ⟨by decide +kernel, ?_, ?_, ?_, ?_, ?_, clean_poison _ (begun_clean _).1 _ _, ?_⟩
  · intro e he
    rw [show e = (5, savedCluster) by simpa [withSaved] using he]
    have : savedCluster.resume = none := by decide +kernel
    simp [this]
  · rw [saved_bytes _ savedCluster_length 4 4 (by omega)]
    decide +kernel
  · rw [saved_bytes _ savedCluster_length 0x28 8 (by omega)]
    decide +kernel
  · rw [saved_bytes _ savedCluster_length 8 8 (by omega)]
    decide +kernel
  · exact (begun_clean _).2
  · rw [savedCluster_size]
    exact begun_intact

/-- A record that is not intact: its context is alive. -/
theorem witness_SavingAndResuming_bad :
    (let s := poke 0x60000000 ([9, 0, 0, 0, 2, 0, 0, 0] ++ leBytes 8 0xA000 ++ List.replicate 24 0 ++ [5]) { base with saved := [(5, savedCluster)] }
     let t := s.devWrite (span (0x60000000 + 4) (leBytes 4 3))
     savePaOk 0x60000000 0x1000 && leNat (s.bytes (0x60000000 + 4) 4) == 2 && leNat (s.bytes (0x60000000 + 0x28) 8) == 5 && (AMap.get? t.saved 5).isSome &&
       !savedCluster.intact 5 (t.bytes 0x60000000 2) && t.alive savedCluster.unit.ctx) = true := by decide +kernel

/-- Units whose resume goes on: to be placed, with a command to give back and room or not, and with nothing left. -/
def resuming (teams : List (Nat × Team)) (copies : List Copy) (placed : Bool) (js : Nat) (cmd : Bool) : State × SavedUnit :=
  let U : SavedUnit := { savedCluster with teams := if placed then teams else savedCluster.teams, copies, resume := some (0x60000000, []) }
  let s : State := { base with saved := [(5, U)], units := if placed then base.units ++ [(5, { U.unit with resume := some 0x60000000 })] else base.units }
  let s := s.setCore 0 { s.core 0 with journal := (List.range js).map fun j => (j, aCopy true 0 .queued) }
  (if cmd then { withMode 4 (withCmd 7 [0x60000000, 0, 0, 0, 0, 0] s) with dev := { (withMode 4 (withCmd 7 [0x60000000, 0, 0, 0, 0, 0] s)).dev with resuming := some 5 } } else s, U)

theorem witness_SavingAndResuming_steps :
    ([([7], true), ([7, 8], false)].all fun (cores, fits) => let (s, U) := resuming [] [] false 0 false
      (s.saved.find? fun e => e.2.resume.map (·.1) == some 0x60000000 && s.dev.resuming != some e.1) == some (5, U) && (AMap.get? s.units 5).isNone &&
        s.fitsBack U cores == fits && (U.teams.map (·.1)).length == 1) = true ∧
    ([(63, true), (64, false)].all fun (js, room) => let (s, U) := resuming [] [aCopy true 0 .queued] true js false
      (AMap.get? s.units 5).isSome && AMap.get? s.saved 5 == some U && (s.copyBack (aCopy true 0 .queued)).isSome == room) = true ∧
    ([false, true].all fun cmd => let (s, U) := resuming [] [] true 0 cmd
      (AMap.get? s.units 5).isSome && U.gates.isEmpty && (s.groups.all fun e => e.2.wave.isNone) && (match s.resumeStep 5 U [] 0x60000000 [] with | some (_, b) => b | none => false) &&
        s.dev.resuming == (if cmd then some 5 else none)) = true ∧
    ([false, true].all fun h => let s := withCmd 7 [0x60000001, 0, 0, 0, 0, 0] (if h then withMode 4 base else base)
      s.dev.mbbusy && s.dev.mbcmd == 7 && s.saved.isEmpty && s.dev.resuming.isNone && s.hostMode 4 == h &&
        match (s.beginResume (s.arg 0).toNat).2 with | .inr st => st == 1 | .inl _ => false) = true := by decide +kernel

/-- The debug window runs a command on group 0 of context 0. -/
def withDbg (c tgt : Nat) (allowed : Bool) (s : State := base) : State :=
  { s.updCtx 0 (fun c => { c with debug := allowed }) with dev := { s.dev with dbgbusy := true, dbgcmd := c, dbgtgt := tgt, dbgbuf := 0x60000000 } }

theorem witness_DebugCommands :
    ([1, 2, 3, 4, 5].all fun c => [(0, false, 2), (383, true, 1)].all fun (t, a, e) => let s := withDbg c t a
      s.dev.dbgbusy && s.dev.dbgcmd == c && match s.dbgTarget with | .error x => x == e | _ => false) = true ∧
    ([1, 2, 3, 4, 5].all fun c => [false, true].all fun h => let s := withDbg c 0 true (withG fun G => { G with halted := h })
      s.dev.dbgbusy && s.dev.dbgcmd == c && match s.dbgTarget with
        | .ok (g, G) => g == 0 && G.halted == h && s.dev.dbgbuf.toNat % 4096 == 0 && inDevice s.dev.dbgbuf.toNat 65536 && !G.outstanding
        | _ => false) = true := by decide +kernel

theorem witness_DebugCommands_snap : (match (withG fun G => { G with regs := 4 }).group? 0 with
    | some G => decide (0 < G.bytes.length ∧ G.bytes.length ≤ 0xE000)
    | none => false) = true := by decide +kernel

theorem witness_ExternalAccesses :
    ([RegWriter.host, .snido].all fun src => [4, 8].all fun size => decide (src ≠ .thread) && decide (0xE00004001000 % size = 0) && region 0xE00004001000 == .regs) = true ∧
    (0xE00006000000 ≤ 0xE00007FFFFF8 ∧ 0xE00007FFFFF8 < 0xE00008000000 ∧ 0xE00007FFFFF8 % 8 = 0) ∧
    (base.dev.mbarg.length = 6 ∧ base.dev.apertures.length = 32 ∧ base.dev.mbbusy = false ∧ base.dev.recovery = false ∧ (withCmd 1 []).dev.mbbusy = true ∧ (withCmd 1 [0, 0, 0, 0, 0, 0]).dev.mbarg.length = 6) ∧
    ([(1 : Word), 0xE].all fun w => decide (1 ≤ bitsAt w 0 8 ∧ bitsAt w 0 8 ≤ 0xE)) = true ∧ (0x2C < 0x30 ∧ 0xFC < 0x100 ∧ 0xFC % 4 = 0) ∧
    (let s : State := { base with dev := { base.dev with hostLines := [0x800000] } }
     !s.holds ((List.range 3).map (0x2000003E + ·)) && !s.waveHolds ((List.range 3).map (0x2000003E + ·)) && inDevice 0x2000003E 3 && !s.dev.recovery && !s.quayMode (0x20000000 / 64) && !s.waveHolds [0x20000000] && (s.poisonIn 0x20000000 8).isNone &&
       s.dev.hostLines.contains 0x800000 && !s.dev.hostLines.contains 0x800001) = true := by decide +kernel

/-- Port 11, and it with one flit in its replay buffer. -/
def withPort (p : DPort) (s : State := base) : State := { s with dev := { s.dev with ports := s.dev.ports.set 11 p } }
def aPort : DPort := { txSeq := 6, replay := [(5, List.replicate 244 0)], rxSeq := 4095 }
def views (f : List Byte) (kind seq : Nat) (a : Option Nat) : Bool := match viewFlit f with
  | some v => v.kind == kind && v.seq == seq && v.ack == a
  | none => false

theorem witness_DyellPorts :
    ((withPort aPort).dev.ports.length = 12 ∧ (withPort aPort).dev.ports.getD 11 {} = aPort ∧ aPort.txq = [] ∧ aPort.resync = false ∧ aPort.retrain = none ∧ aPort.replay.findIdx? (fun e => e.1 == 5) = some 0) ∧
    views (mkFlit 0 none 0 [1, 2]) 0 0 none = true ∧ views (mkFlit 0 none 7 [1, 2]) 0 7 none = true ∧ (aPort.rxSeq + 1) % 4096 = 0 ∧
    views (mkFlit 1 (some 5) 0 []) 1 0 (some 5) = true ∧ views (mkFlit 2 none 0 []) 2 0 none = true ∧
    ((List.replicate 256 0 : List Byte).length = 256 ∧ viewFlit (List.replicate 256 0) = none) ∧ (List.replicate 244 0 : List Byte).length = 244 := by decide +kernel

theorem witness_DyellPorts_repair :
    (let p : DPort := { aPort with spareUsed := true }
     [(aPort, false), (p, false), (aPort, true), (p, true)].all fun (q, h) => let s := if h then withMode 3 (withPort q) else withPort q
      q.repairable 7 [0, 1, 2, 3] && s.hostMode 3 == h && q.logical 7 == some 7 && decide (s.dev.ports.getD 11 {} = q)) = true ∧
    ([false, true].all fun sp => let q : DPort := { aPort with spareUsed := sp, retrain := some (7, [0, 1, 2, 3]), resync := true }
      decide ((withPort q).dev.ports.getD 11 {} = q) && q.logical 7 == some 7) = true ∧
    ([false, true].all fun rep => [false, true].all fun h => let s0 := withCmd 0xA [11, 7, 0, 0, 0, 0] (if h then withMode 3 (withPort aPort) else withPort aPort)
      let s : State := { s0 with dev := { s0.dev with repairing := rep } }
      s.dev.mbbusy && s.dev.mbcmd == 0xA && (s.arg 0).toNat == 11 && (s.arg 1).toNat == 7 && s.dev.repairing == rep && s.hostMode 3 == h && aPort.retrain.isNone) = true := by decide +kernel

theorem witness_PowerAndReset :
    (let idle : State := { base with groups := [] }
     let deep := fun (l pw : Nat) => ({ idle with dev := { idle.dev with ltol := l, power := pw } } : State)
     ([(5000, 0, true, some 4), (5000, 3, true, some 4), (5000, 3, false, none), (1, 0, true, none), (200, 4, true, some 3)].all fun (l, pw, q, n) =>
        let s := deep l pw
        s.powerNext q == n && !s.hostMode 5 && !s.enginesIdle == false && s.packets.isEmpty && s.lsq.isEmpty && decide (3 ≤ s.idleDepth q)) &&
       base.groups.any (fun e => e.2.wave.isNone)) = true ∧ region 0xC00000000000 = .fabric ∧ region 0x800000000000 = .host := by decide +kernel

theorem witness_EventsTakePlace :
    (match twoGroups.group? 0, twoGroups.nextPending 0 with
      | some G, some e => G.active && twoGroups.waiting 0 G && twoGroups.swapFree 0 && e.1 == 63 && (twoGroups.group? e.1).isSome && coreOf 0 == 0
      | _, _ => false) = true ∧
    (let s := twoGroups.setCore 0 { cycles := 1024 }
     match s.agedPending 0, s.oldestActive 0 with
      | some a, some o => s.swapFree 0 && a.1 == 63 && o.1 == 0 && (s.group? a.1).isSome && (s.group? o.1).isSome
      | _, _ => false) = true ∧
    (let o := anOp 0xB02 (.tile 4) 0
     let s := tiledTeam.setArray 95 { tiledTeam.array 95 with slots := (tiledTeam.array 95).slots.set 3 { team := some 1, closed := [o] } }
     decide ((s.array 95).active = none) && (((s.array 95).slots.getD 3 {}).closed[0]?).isSome && match s.opShare o with
      | some k => (o.parts.all fun p => !s.beingSaved p.team) && !s.closedBefore k o.conv o.order && decide ((s.share k).counts.getD (4 + o.conv) 0 ≠ 0)
      | none => false) = true ∧
    (opIs (anOp 0xB02 (.tile 4) 0) fun _ o p => p.img.a == .tile 4 && o.cur == some p) = true ∧
    ([(0x20000000, true), (0x8000000000000000, false)].all fun (va, bad) =>
      let o := anOp 0xB02 (.glob 8) va
      let s : State := { withOp o with pois := [(0x20000000 / 32, 0)] }
      match o.cur with
      | some p => s.nextChunk o p o.chunk == some 0 && p.img.a == .glob 8 && decide (p.img.M ≠ 0) &&
          (match (s.bump.fetchA 0 o.order p (p.addr + BitVec.ofNat 64 (0 * chunkBytes p.img.op)) (chunkBytes p.img.op)).2 with
            | .error (.poison _) => bad
            | .error (.fault _ _ _) => !bad
            | _ => false)
      | none => false) = true ∧
    (let s : State := { tiledTeam with bstores := [(7, aStore [])] }
     match AMap.get? s.bstores 7 with | some e => !e.waiting && e.out.isEmpty | none => false) = true ∧
    ([ReqSource.miss, .scrub].all fun src => requestOk (homeSlice 0x20000000) 7 0x20000000 2 && !base.tagBusy (homeSlice 0x20000000) 7 && (base.serviceOf src).isSome) = true ∧
    ([PType.rdr, .wack, .delta, .dack, .lock, .locked, .chunkrd, .chunk, .unlock].all fun ty => match AMap.get? (withDram ty).packets 4 with
      | some p => p.ty == ty && (AMap.get? (withDram ty).locks (pendKey (p.off / 256) p.target)).isNone
      | none => false) = true := by decide +kernel

/-- All eight tags of a port, or all but one, are taken. -/
def busyPort (n : Nat) : State :=
  { base with packets := (List.range n).map fun k => (k + 1, { ty := .rdr, target := 0, off := 0, beats := 1, port := homeSlice 0x20000000, tag := k }) }

theorem witness_MemoryPackets_requests :
    ([(8, true), (7, false)].all fun (n, full) => let s := busyPort n
      let port := homeSlice 0x20000000
      requestOk port 0 0x20000000 2 && (s.serviceOf .miss).isSome && s.tagBusy port 0 && s.tagBusy port 7 == full && (s.tagBusy port 6) &&
        (List.range 16).all (fun k => !s.isLost k) && s.dramUe.isEmpty && s.dramPois.isEmpty) = true ∧
    ([[EccState.good], [.corrected], [.uncorrectable]].all fun errs => requestOk (homeSlice 0x20000000) 7 0x20000000 1 && !base.tagBusy (homeSlice 0x20000000) 7 &&
      decide ((dramPlace 0x20000000).1 < base.dev.stkh.length ∧ (dramPlace 0x20000000).1 < 16) && errs.length == 1 && base.writes.isEmpty && base.jobs.isEmpty) = true ∧
    (let q : Packet := { ty := .rd, target := 0, off := 0, beats := 1, port := 1, tag := 0 }
     let s : State := { base with portQ := [q] }
     s.portQ == [q] && s.freeTag 1 == some 0 && s.portQ.all (fun p => p.port != 2)) = true ∧
    (let s : State := { withDram .rdr with l2 := (List.range 8).map fun w => (match addrOf 15 (7 * 256) with | some pa => (pa + 64 * w) / 64 | none => 0, { dirty := false, mask := 0, pois := 0 }) }
     match addrOf 15 (7 * 256) with
      | some pa => s.portQ.isEmpty && (List.range 8).all fun w => (AMap.get? s.l2 ((pa + 32 * w) / 64)).isSome
      | none => false) = true ∧
    (let p := aPacket .dack
     let s : State := { withDram .dack with writes := [(9, { p := { p with ty := .wr }, sent := true })] }
     (s.writes.find? fun e => e.2.sent && e.2.p.target == p.target && e.2.p.off == p.off && e.2.p.beats == p.beats).isSome) = true ∧
    ([none, some 2].all fun holder => [0, 1].all fun n => let key := pendKey 7 15
      let s : State := { withDram .lock with pendPar := [(key, n)], locks := match holder with | some j => [(key, j)] | none => [] }
      AMap.get? s.locks key == holder && AMap.getD s.pendPar key 0 == n && (aPacket .lock).job == 2) = true := by decide +kernel

/-- A queue's packet that has been read: another of its queue, unfinished before it, or none. -/
def queuedLaunch (before : Bool) : State :=
  let l : Launch := { aLaunch .grid false [] with queue := some 4095, num := 1 }
  { queueState 2 0 with launches := [(1, l)] ++ if before then [(2, { l with num := 0, kind := .depend })] else [] }

theorem witness_QueuesAndPackets_order :
    ([false, true].all fun b => (queuedLaunch b).queueLets 4095 1 false == !b && (queuedLaunch b).queueTurn 4095 &&
      (AMap.get? (queuedLaunch b).launches 1).isSome) = true ∧
    (let g : Launch := { aLaunch .graph false [] with seeds := [[]] }
     let s : State := { base with launches := [(2, g)] }
     s.graphIdle 2 { g with started := true } && (s.launchDone 2 false).isSome) = true := by decide +kernel

theorem witness_TakingATrap_cut :
    (let s := withL (fun _ L => { L with spt := 0x60000008 }) { base with pois := [(0x5FFFFF88 / 32, 0)] }
     match s.group? 0 with
      | some G => (match s.xlate (via 0 G) ((G.lane 31).spt - 128) 128 .frameWrite none with
          | (t, .ok pas) => pas.any fun pa => t.poisoned pa && !((List.range 32).all fun i => pas.contains (pa / 32 * 32 + i))
          | _ => false)
      | none => false) = true := by decide +kernel

/-- The token of the least length, an empty image, for the package's identity and its latest nonce; its signature is zeros. -/
def aToken : List Byte :=
  [1, 0, 0, 0, 1, 0, 0, 0, 128, 0, 0, 0, 0, 0, 0, 0] ++ leBytes 8 (Config.nonce 3).toNat ++ sha256 identityKey ++ List.replicate 8 0 ++ List.replicate 64 0

def withToken : State :=
  let s := withCmd 0xD [0x60000000, 0, 0, 0, 0, 0]
  { s with mem := listed 0x60000000 aToken, dev := { s.dev with nonceLive := true, nonces := 3 } }

theorem token_length : aToken.length = 128 := by simp [aToken]

theorem witness_MailboxCommands_token :
    (withToken.dev.mbbusy = true ∧ withToken.dev.mbcmd = 0xD ∧ (withToken.arg 0).toNat = 0x60000000) ∧
    (0x60000000 % 8 = 0 ∧ inDevice 0x60000000 16 = true ∧ inDevice 0x60000000 128 = true) ∧ leNat (withToken.bytes (0x60000000 + 8) 4) = 128 ∧
    withToken.poisonIn 0x60000000 128 = none ∧ withToken.bytes 0x60000000 128 = aToken ∧ tokenForm aToken = some (1, List.replicate 8 0) ∧
    withToken.dev.nonceLive = true ∧ leNat ((aToken.drop 0x10).take 8) = (Config.nonce withToken.dev.nonces).toNat ∧
    (aToken.drop 0x18).take 32 = sha256 identityKey := by
  have hb (i n : Nat) (h : i + n ≤ 128) : withToken.bytes (0x60000000 + i) n = (aToken.drop i).take n :=
    listed_bytes withToken 0x60000000 aToken (by simp only [withToken]) i n (by rw [token_length]; exact h)
  have hn : ((aToken.drop 0x10).take 8) = leBytes 8 (Config.nonce 3).toNat := by
    simp [aToken]
  refine ⟨by decide +kernel, by decide +kernel, ?_, clean_poison _ ⟨rfl, rfl, rfl, rfl, rfl, rfl⟩ _ _, ?_, ?_, rfl, ?_, ?_⟩
  · rw [hb 8 4 (by omega)]
    decide +kernel
  · have := hb 0 128 (by omega)
    rw [Nat.add_zero, List.drop_zero, List.take_of_length_le (by rw [token_length])] at this
    exact this
  · decide +kernel
  · rw [hn, leNat_leBytes]
    exact Nat.mod_eq_of_lt (Config.nonce 3).isLt
  · simp [aToken]

theorem witness_PowerAndReset_host :
    (let idle : State := { base with groups := [] }
     [0, 4].all fun f => let s := withMode 5 { idle with dev := { idle.dev with force := f } }
      s.hostMode 5 && s.powerLimit == f && s.powerNext true == if f = 0 then none else some f) = true := by decide +kernel

theorem witness_DyellPorts_retrain :
    ((withPort aPort).dev.recovery = false ∧ aPort.retrain = none ∧ aPort.repairable 7 [0, 1, 2, 3] = true ∧ aPort.spareUsed = false ∧ aPort.logical 7 = some 7) := by decide +kernel

/-- The digest of "abc" that the standard gives, and twice the base point of P-256. -/
theorem test_sha256_abc : beNat (sha256 [0x61, 0x62, 0x63]) = 0xba7816bf8f01cfea414140de5dae2223b00361a396177a9cb410ff61f20015ad := by decide +kernel

theorem test_p256_double : addPoint (some g256) (some g256) =
    some (0x7cf27b188d034f7e8a52380304b51ac3c08969e277f21b35a60b48fc47669978, 0x07775510db8ed040293d9ac69f7430dbba7dade63ce982299e04b79d227873d1) := by decide +kernel

end Sys2Proof.Tests
end

section
/-! O5: the decoder and the encoder agree (R26 to R37). Each field decoder, then each shape of operands, is inverted once (`…_eq_ok`): it
answers exactly the operands whose fields it was given. The opcode map is then read row by row in both directions. -/

namespace Sys2Proof

/-! ### Operand fields (R29) -/

/-- The field value of an operand names that operand again (R29). -/
theorem Field.ofBits_bits (x : Field) : Field.ofBits x.bits = some x := by
  cases x with
  | v n => revert n; decide +kernel
  | s n => revert n; decide +kernel
  | p n => revert n; decide +kernel
  | q n => revert n; decide +kernel
  | h n => revert n; decide +kernel
  | b n => revert n; decide +kernel
  | j n => revert n; decide +kernel
  | c n => revert n; decide +kernel
  | pipe n => revert n; decide +kernel
  | imm => decide +kernel

/-- What a field value names has that field value (R29). -/
theorem Field.bits_of_mem_ofBits : ∀ f : BitVec 10, ∀ x ∈ Field.ofBits f, x.bits = f := by
  decide +kernel

@[simp] theorem field_eq_ok {f : BitVec 10} {x : Field} : field f = .ok x ↔ x.bits = f := by
  constructor
  · intro h
    unfold field at h
    split at h
    · cases h; exact Field.bits_of_mem_ofBits f x ‹_›
    · cases h
  · rintro rfl
    rw [field, Field.ofBits_bits]

/-! ### Decoders that answer -/

@[simp] theorem need_eq_ok {c : Bool} {e : DecodeError} {u : Unit} : need c e = .ok u ↔ c = true := by
  cases c <;> simp [need]

@[simp] theorem Dec.bind_eq_ok {α β : Type} {x : Dec α} {f : α → Dec β} {b : β} :
    (x >>= f) = .ok b ↔ ∃ a, x = .ok a ∧ f a = .ok b := by
  cases x <;> simp [bind, Except.bind]

@[simp] theorem Dec.map_eq_ok {α β : Type} {x : Dec α} {f : α → β} {b : β} :
    (f <$> x) = .ok b ↔ ∃ a, x = .ok a ∧ f a = b := by
  cases x <;> simp [Functor.map, Except.map]

@[simp] theorem Dec.pure_eq_ok {α : Type} {a b : α} : (pure a : Dec α) = .ok b ↔ a = b := by
  simp [pure, Except.pure]

theorem Field.exists {P : Field → Prop} : (∃ x, P x) ↔ (∃ n, P (.v n)) ∨ (∃ n, P (.s n)) ∨ (∃ n, P (.p n)) ∨ (∃ n, P (.q n)) ∨
    (∃ n, P (.h n)) ∨ (∃ n, P (.b n)) ∨ (∃ n, P (.j n)) ∨ (∃ n, P (.c n)) ∨ (∃ n, P (.pipe n)) ∨ P .imm := by
  constructor
  · rintro ⟨x, h⟩
    cases x <;> tauto
  · rintro (⟨n, h⟩ | ⟨n, h⟩ | ⟨n, h⟩ | ⟨n, h⟩ | ⟨n, h⟩ | ⟨n, h⟩ | ⟨n, h⟩ | ⟨n, h⟩ | ⟨n, h⟩ | h) <;> exact ⟨_, h⟩

/-- The immediate of a source, if it is class I, is what IMM holds (R31). -/
def Src.reads (imm : Word) (x : Src) : Prop := ∀ w, x.immVal? = some w → w = imm

/-- As `Src.reads`. -/
def SSrc.reads (imm : Word) (x : SSrc) : Prop := ∀ w, x.immVal? = some w → w = imm

section
variable {w : Nat} {f : BitVec 10}

@[simp] theorem decReg_eq_ok {x : Reg} : decReg w f = .ok x ↔ x.aligned w = true ∧ encReg x = f := by
  cases x <;> simp [decReg, Field.exists, Reg.aligned, encReg, and_comm]

@[simp] theorem decSrc_eq_ok {imm : Word} {x : Src} : decSrc w f imm = .ok x ↔ x.aligned w = true ∧ encSrc x = f ∧ x.reads imm := by
  unfold decSrc
  rw [Dec.bind_eq_ok, Field.exists]
  cases x with
  | v n => simp [Src.aligned, encSrc, Src.reads, Src.immVal?, and_comm]
  | s n => simp [Src.aligned, encSrc, Src.reads, Src.immVal?, and_comm]
  | imm v => simp [Src.aligned, encSrc, Src.reads, Src.immVal?]; grind

@[simp] theorem decSSrc_eq_ok {imm : Word} {x : SSrc} : decSSrc f imm = .ok x ↔ encSSrc x = f ∧ x.reads imm := by
  cases x <;> simp [decSSrc, Field.exists, encSSrc, SSrc.reads, SSrc.immVal?, and_comm, eq_comm (a := imm)]

@[simp] theorem decV_eq_ok {n : VReg} : decV w f = .ok n ↔ VReg.aligned w n = true ∧ (Field.v n).bits = f := by
  simp [decV, Field.exists, VReg.aligned, and_comm]

@[simp] theorem decS_eq_ok {n : SReg} : decS w f = .ok n ↔ (n.val % w == 0) = true ∧ (Field.s n).bits = f := by
  simp [decS, Field.exists, and_comm]

@[simp] theorem decP_eq_ok {n : PReg} : decP f = .ok n ↔ (Field.p n).bits = f := by simp [decP, Field.exists]
@[simp] theorem decQ_eq_ok {n : QReg} : decQ f = .ok n ↔ (Field.q n).bits = f := by simp [decQ, Field.exists]
@[simp] theorem decH_eq_ok {n : HReg} : decH f = .ok n ↔ (Field.h n).bits = f := by simp [decH, Field.exists]
@[simp] theorem decB_eq_ok {n : BReg} : decB f = .ok n ↔ (Field.b n).bits = f := by simp [decB, Field.exists]
@[simp] theorem decJ_eq_ok {n : JReg} : decJ f = .ok n ↔ (Field.j n).bits = f := by simp [decJ, Field.exists]
@[simp] theorem decC_eq_ok {n : CReg} : decC f = .ok n ↔ (Field.c n).bits = f := by simp [decC, Field.exists]
@[simp] theorem decN_eq_ok {n : NReg} : decN f = .ok n ↔ (Field.pipe n).bits = f := by simp [decN, Field.exists]

@[simp] theorem decASrc_eq_ok {x : ASrc} : decASrc f = .ok x ↔ x.aligned = true ∧ encASrc x = f := by
  cases x <;> simp [decASrc, Field.exists, ASrc.aligned, encASrc, and_comm]

end

@[simp] theorem unused_eq_ok {fs : List (BitVec 10)} {u : Unit} : unused fs = .ok u ↔ ∀ f ∈ fs, 0 = f := by
  simp [unused, eq_comm (a := 0#10)]

@[simp] theorem immZero_eq_ok {r : Raw} {u : Unit} : immZero r = .ok u ↔ 0 = r.imm := by
  simp [immZero, eq_comm (a := 0#32)]

@[simp] theorem immTop_eq_ok {r : Raw} {n : Nat} {u : Unit} : immTop r n = .ok u ↔ r.imm.toNat < 2 ^ n := by
  simp [immTop, BitVec.toNat_eq, Nat.shiftRight_eq_div_pow]

/-- Sources that read IMM, which is 0 where neither is class I, agree, and IMM is their value (R31, R36). -/
theorem reads_immOf2_iff {a b : Src} {imm : Word} : (a.reads imm ∧ b.reads imm ∧ (imm == 0 || a.isImm || b.isImm) = true) ↔
    (Src.agree a b = true ∧ immOf2 a b = imm) := by
  cases a <;> cases b <;> simp [Src.reads, Src.agree, Src.isImm, immOf2, Src.immVal?, eq_comm (a := 0#32)]
  grind

theorem reads_immOf1_iff {a : Src} {imm : Word} : (a.reads imm ∧ (imm == 0 || a.isImm) = true) ↔ immOf1 a = imm := by
  cases a <;> simp [Src.reads, Src.isImm, immOf1, Src.immVal?, eq_comm (a := 0#32)]

theorem reads_immVal_iff {a : SSrc} {imm : Word} : (a.reads imm ∧ (imm == 0 || a.isImm) = true) ↔ a.immVal?.getD 0 = imm := by
  cases a <;> simp [SSrc.reads, SSrc.isImm, SSrc.immVal?, eq_comm (a := 0#32)]

@[simp] theorem Reg.aligned_one (a : Reg) : a.aligned 1 = true := by cases a <;> simp [Reg.aligned, Nat.mod_one]
@[simp] theorem Src.aligned_one (a : Src) : a.aligned 1 = true := by cases a <;> simp [Src.aligned, Nat.mod_one]
@[simp] theorem VReg.aligned_one (a : VReg) : VReg.aligned 1 a = true := by simp [VReg.aligned, Nat.mod_one]

theorem Raw.eq_iff {r : Raw} {op h d a b imm} : Raw.mk op h d a b imm = r ↔
    op = r.op ∧ h = r.h ∧ d = r.d ∧ a = r.a ∧ b = r.b ∧ imm = r.imm := by
  cases r; simp

/-! ### IMM as numbers (R33) -/

/-- A number placed in IMM at bit `lo` is that number times `2 ^ lo`. -/
theorem toNat_at {lo x : Nat} (h : x * 2 ^ lo < 2 ^ 32) : (at_ lo x).toNat = x * 2 ^ lo := by
  rw [at_, BitVec.toNat_ofNat, Nat.mod_eq_of_lt h]

theorem toNat_or_at {w : Word} {lo x : Nat} (hw : w.toNat < 2 ^ lo) (hx : x * 2 ^ lo < 2 ^ 32) :
    (w ||| at_ lo x).toNat = w.toNat + x * 2 ^ lo := by
  rw [BitVec.toNat_or, toNat_at hx, Nat.or_comm, Nat.mul_comm, ← Nat.two_pow_add_eq_or_of_lt hw, Nat.add_comm]

theorem toNat_extract (w : Word) (lo n : Nat) : (w.extractLsb' lo n).toNat = w.toNat / 2 ^ lo % 2 ^ n := by
  rw [BitVec.extractLsb'_toNat, Nat.shiftRight_eq_div_pow]

theorem val_immFin (r : Raw) (lo n : Nat) : (immFin r lo n).val = r.imm.toNat / 2 ^ lo % 2 ^ n :=
  toNat_extract r.imm lo n

theorem toNat_getLsbD (w : Word) (i : Nat) : (w.getLsbD i).toNat = w.toNat / 2 ^ i % 2 := by
  rw [BitVec.getLsbD, Nat.toNat_testBit]

theorem getLsbD_eq_iff (w : Word) (i : Nat) (b : Bool) : w.getLsbD i = b ↔ w.toNat / 2 ^ i % 2 = b.toNat := by
  rw [← toNat_getLsbD]
  cases w.getLsbD i <;> cases b <;> decide

section
variable {r : Raw}

theorem imm_fin4_iff {x : Fin 4} : at_ 0 x.val = r.imm ↔ r.imm.toNat < 2 ^ 2 ∧ immFin r 0 2 = x := by
  rw [BitVec.toNat_eq, Fin.ext_iff, val_immFin, toNat_at (by omega)]
  omega

theorem imm_fin32_iff {x : Fin 32} : at_ 0 x.val = r.imm ↔ r.imm.toNat < 2 ^ 5 ∧ immFin r 0 5 = x := by
  rw [BitVec.toNat_eq, Fin.ext_iff, val_immFin, toNat_at (by omega)]
  omega

theorem imm_fin256_iff {x : Fin 256} : at_ 0 x.val = r.imm ↔ r.imm.toNat < 2 ^ 8 ∧ immFin r 0 8 = x := by
  rw [BitVec.toNat_eq, Fin.ext_iff, val_immFin, toNat_at (by omega)]
  omega

theorem immFin_eq_zero_iff : @Eq (Fin 256) (immFin r 0 8) 0 ↔ r.imm.extractLsb' 0 8 = 0#8 := by
  rw [immFin, ← BitVec.toFin_inj]; rfl

theorem imm_code_iff {c : BitVec 16} : c.zeroExtend 32 = r.imm ↔ r.imm.toNat < 2 ^ 16 ∧ r.imm.extractLsb' 0 16 = c := by
  rw [BitVec.toNat_eq, BitVec.toNat_eq, toNat_extract, BitVec.toNat_setWidth]
  omega

theorem imm_third_iff {x : BitVec 10} : x.zeroExtend 32 = r.imm ↔ r.imm.toNat < 2 ^ 10 ∧ x = third r := by
  rw [third, BitVec.toNat_eq, BitVec.toNat_eq, toNat_extract, BitVec.toNat_setWidth]
  omega

theorem imm_sh_zx_iff {sh : Fin 32} {zx : Bool} :
    at_ 0 sh.val ||| at_ 5 zx.toNat = r.imm ↔ r.imm.toNat < 2 ^ 6 ∧ immFin r 0 5 = sh ∧ r.imm.getLsbD 5 = zx := by
  have hs : (at_ 0 sh.val).toNat = sh.val := by rw [toNat_at (by omega)]; omega
  have := Bool.toNat_le zx
  rw [BitVec.toNat_eq, Fin.ext_iff, val_immFin, getLsbD_eq_iff, toNat_or_at (by omega) (by omega), hs]
  omega

theorem imm_mask_iff {m : BitVec 7} :
    at_ 1 m.toNat = r.imm ↔ r.imm.toNat < 2 ^ 8 ∧ r.imm.getLsbD 0 = false ∧ r.imm.extractLsb' 1 7 = m := by
  rw [BitVec.toNat_eq, BitVec.toNat_eq, toNat_extract, getLsbD_eq_iff, toNat_at (by omega), Bool.toNat_false]
  omega

theorem imm_cls_iff {c : Fin 256} {m : Fin 4} :
    at_ 0 c.val ||| at_ 8 m.val = r.imm ↔ r.imm.toNat < 2 ^ 10 ∧ immFin r 0 8 = c ∧ immFin r 8 2 = m := by
  have hc : (at_ 0 c.val).toNat = c.val := by rw [toNat_at (by omega)]; omega
  rw [BitVec.toNat_eq, Fin.ext_iff, Fin.ext_iff, val_immFin, val_immFin, toNat_or_at (by omega) (by omega), hc]
  omega

theorem imm_budget_iff {c : Fin 4} {b : BitVec 24} : at_ 0 c.val ||| at_ 8 b.toNat = r.imm ↔
    r.imm.extractLsb' 2 6 = 0 ∧ immFin r 0 2 = c ∧ r.imm.extractLsb' 8 24 = b := by
  have hc : (at_ 0 c.val).toNat = c.val := by rw [toNat_at (by omega)]; omega
  rw [BitVec.toNat_eq, BitVec.toNat_eq, BitVec.toNat_eq, Fin.ext_iff, val_immFin, toNat_extract, toNat_extract, toNat_or_at (by omega) (by omega), hc,
    BitVec.ofNat_eq_ofNat, BitVec.toNat_zero]
  omega

theorem imm_ready_iff {b : Bool} : at_ 1 b.toNat = r.imm ↔ r.imm.toNat < 2 ^ 2 ∧ r.imm.getLsbD 0 = false ∧ r.imm.getLsbD 1 = b := by
  have := Bool.toNat_le b
  rw [BitVec.toNat_eq, getLsbD_eq_iff, getLsbD_eq_iff, toNat_at (by omega), Bool.toNat_false]
  omega

theorem imm_route_iff {e g : Fin 16} {en : Bool} : at_ 0 e.val ||| at_ 4 g.val ||| at_ 8 en.toNat = r.imm ↔
    r.imm.toNat < 2 ^ 9 ∧ immFin r 0 4 = e ∧ immFin r 4 4 = g ∧ r.imm.getLsbD 8 = en := by
  have := Bool.toNat_le en
  have he : (at_ 0 e.val).toNat = e.val := by rw [toNat_at (by omega)]; omega
  have hg : (at_ 0 e.val ||| at_ 4 g.val).toNat = e.val + g.val * 16 := (toNat_or_at (by omega) (by omega)).trans (by omega)
  rw [BitVec.toNat_eq, Fin.ext_iff, Fin.ext_iff, val_immFin, val_immFin, getLsbD_eq_iff, toNat_or_at (by omega) (by omega), hg]
  omega

theorem imm_group_iff {g : Fin 4} :
    at_ 0 (12 + g.val) = r.imm ↔ r.imm.toNat < 2 ^ 4 ∧ r.imm.extractLsb' 2 2 = 3 ∧ immFin r 0 2 = g := by
  rw [BitVec.toNat_eq, BitVec.toNat_eq, Fin.ext_iff, val_immFin, toNat_extract, toNat_at (by omega)]
  change _ ↔ _ ∧ _ = 3 ∧ _
  omega

/-! ### The numbers of barriers, paths and special registers (R13, R140, R177) -/

theorem Bar.num_lt (b : Bar) : b.num < 24 := by cases b <;> simp only [Bar.num] <;> omega

theorem barOf_eq_some_iff {x : BitVec 5} {b : Bar} : barOf x = some b ↔ x.toNat = b.num := by
  cases b with
  | team n => revert x n; decide +kernel
  | cluster n => revert x n; decide +kernel

theorem Path.ofCode_eq_some_iff {n : Nat} {p : Path} : Path.ofCode n = some p ↔ p.code = n := by
  constructor
  · intro h
    unfold Path.ofCode at h
    split at h <;> cases h <;> rfl
  · rintro rfl; cases p <;> rfl

theorem SpecReg.ofNum_eq_some_iff {n : Nat} {x : SpecReg} : SpecReg.ofNum n = some x ↔ x.num = n := by
  constructor
  · intro h
    unfold SpecReg.ofNum at h
    split at h <;> cases h <;> rfl
  · rintro rfl; cases x <;> rfl

theorem imm_bar_iff {b : Bar} : at_ 0 b.num = r.imm ↔ r.imm.toNat < 2 ^ 5 ∧ barOf (r.imm.extractLsb' 0 5) = some b := by
  have := b.num_lt
  rw [barOf_eq_some_iff, BitVec.toNat_eq, toNat_extract, toNat_at (by omega)]
  omega

@[simp] theorem decBar_eq_ok {b : Bar} : decBar r = .ok b ↔ at_ 0 b.num = r.imm := by
  rw [imm_bar_iff, decBar]
  cases barOf (r.imm.extractLsb' 0 5) <;> simp

theorem imm_paths_iff {x y : Path} : at_ 0 x.code ||| at_ 4 y.code = r.imm ↔ r.imm.toNat < 2 ^ 7 ∧ r.imm.getLsbD 3 = false ∧
    Path.ofCode (r.imm.extractLsb' 0 3).toNat = some x ∧ Path.ofCode (r.imm.extractLsb' 4 3).toNat = some y := by
  have hx : x.code < 5 := by cases x <;> decide
  have hy : y.code < 5 := by cases y <;> decide
  have h0 : (at_ 0 x.code).toNat = x.code := (toNat_at (by omega)).trans (by omega)
  rw [Path.ofCode_eq_some_iff, Path.ofCode_eq_some_iff, toNat_extract, toNat_extract, getLsbD_eq_iff, BitVec.toNat_eq,
    toNat_or_at (by omega) (by omega), h0, Bool.toNat_false]
  omega

theorem imm_spec_iff {x : SpecReg} : at_ 0 x.num = r.imm ↔ r.imm.toNat < 2 ^ 8 ∧ SpecReg.ofNum (r.imm.extractLsb' 0 8).toNat = some x := by
  have hx : x.num < 13 := by cases x <;> decide
  rw [SpecReg.ofNum_eq_some_iff, toNat_extract, BitVec.toNat_eq, toNat_at (by omega)]
  omega

theorem imm_half_iff {hi : Bool} : at_ 0 (8 + hi.toNat) = r.imm ↔ r.imm = if hi then 9 else 8 := by
  cases hi <;> simp [at_, eq_comm]

theorem imm_post_iff {e : Fin 6} : at_ 0 (10 + e.val) = r.imm ↔
    r.imm.toNat < 2 ^ 4 ∧ 10 ≤ (r.imm.extractLsb' 0 4).toNat ∧ (r.imm.extractLsb' 0 4).toNat - 10 = e.val := by
  rw [toNat_extract, BitVec.toNat_eq, toNat_at (by omega)]
  omega

theorem toNat_immMma {hb : HReg} {kq : Fin 4} {ms ns : Fin 8} {hx : HReg} {gn : Fin 4} : (immMma hb kq ms ns hx gn).toNat =
    hb.val + kq.val * 2 ^ 6 + ms.val * 2 ^ 8 + ns.val * 2 ^ 11 + hx.val * 2 ^ 14 + gn.val * 2 ^ 20 := by
  have h0 : (at_ 0 hb.val).toNat = hb.val := (toNat_at (by omega)).trans (by omega)
  have h1 := toNat_or_at (w := at_ 0 hb.val) (lo := 6) (x := kq.val) (by omega) (by omega)
  have h2 := toNat_or_at (w := at_ 0 hb.val ||| at_ 6 kq.val) (lo := 8) (x := ms.val) (by omega) (by omega)
  have h3 := toNat_or_at (w := at_ 0 hb.val ||| at_ 6 kq.val ||| at_ 8 ms.val) (lo := 11) (x := ns.val) (by omega) (by omega)
  have h4 := toNat_or_at (w := at_ 0 hb.val ||| at_ 6 kq.val ||| at_ 8 ms.val ||| at_ 11 ns.val) (lo := 14) (x := hx.val) (by omega) (by omega)
  rw [immMma, toNat_or_at (by omega) (by omega), h4, h3, h2, h1, h0]

theorem imm_mma_iff {hb : HReg} {kq : Fin 4} {ms ns : Fin 8} : immMma hb kq ms ns 0 0 = r.imm ↔
    r.imm.toNat < 2 ^ 14 ∧ immFin r 0 6 = hb ∧ immFin r 6 2 = kq ∧ immFin r 8 3 = ms ∧ immFin r 11 3 = ns := by
  simp only [BitVec.toNat_eq, toNat_immMma, Fin.ext_iff, val_immFin, Fin.val_zero]
  omega

theorem imm_mmas_iff {hb : HReg} {kq : Fin 4} {ms ns : Fin 8} {hx : HReg} : immMma hb kq ms ns hx 0 = r.imm ↔
    r.imm.toNat < 2 ^ 20 ∧ immFin r 0 6 = hb ∧ immFin r 6 2 = kq ∧ immFin r 8 3 = ms ∧ immFin r 11 3 = ns ∧ immFin r 14 6 = hx := by
  simp only [BitVec.toNat_eq, toNat_immMma, Fin.ext_iff, val_immFin, Fin.val_zero]
  omega

theorem imm_mmaj_iff {hb : HReg} {ms ns : Fin 8} : immMma hb 0 ms ns 0 0 = r.imm ↔
    r.imm.toNat < 2 ^ 14 ∧ r.imm.extractLsb' 6 2 = 0 ∧ immFin r 0 6 = hb ∧ immFin r 8 3 = ms ∧ immFin r 11 3 = ns := by
  simp only [BitVec.toNat_eq, toNat_immMma, Fin.ext_iff, val_immFin, Fin.val_zero, toNat_extract, BitVec.ofNat_eq_ofNat, BitVec.toNat_zero]
  omega

theorem imm_mmag_iff {hb : HReg} {gn : Fin 4} {ms ns : Fin 8} {hx : HReg} : immMma hb 0 ms ns hx gn = r.imm ↔
    r.imm.toNat < 2 ^ 22 ∧ r.imm.extractLsb' 6 2 = 0 ∧ immFin r 0 6 = hb ∧ immFin r 20 2 = gn ∧ immFin r 8 3 = ms ∧ immFin r 11 3 = ns ∧
      immFin r 14 6 = hx := by
  simp only [BitVec.toNat_eq, toNat_immMma, Fin.ext_iff, val_immFin, Fin.val_zero, toNat_extract, BitVec.ofNat_eq_ofNat, BitVec.toNat_zero]
  omega

theorem bwrBar_eq_some_iff {x : BitVec 5} {b : Option Bar} : bwrBar x = some b ↔ x.toNat = (b.map Bar.num).getD 0x1F := by
  unfold bwrBar
  split
  next h =>
    rw [eq_of_beq h]
    cases b with
    | none => simp
    | some b => have := b.num_lt; simp; omega
  next h =>
    cases b with
    | none => simpa [BitVec.toNat_eq] using h
    | some b => simp [barOf_eq_some_iff]

theorem imm_bwr_iff {n : KId} {ms ns : Fin 8} {bar : Option Bar} :
    at_ 0 n.val ||| at_ 8 ms.val ||| at_ 11 ns.val ||| at_ 14 ((bar.map Bar.num).getD 0x1F) = r.imm ↔
      r.imm.toNat < 2 ^ 19 ∧ immFin r 0 8 = n ∧ immFin r 8 3 = ms ∧ immFin r 11 3 = ns ∧ bwrBar (r.imm.extractLsb' 14 5) = some bar := by
  have hb : (bar.map Bar.num).getD 0x1F < 32 := by
    cases bar with
    | none => decide
    | some b => exact b.num_lt.trans (by decide)
  have h0 : (at_ 0 n.val).toNat = n.val := (toNat_at (by omega)).trans (by omega)
  have h1 := toNat_or_at (w := at_ 0 n.val) (lo := 8) (x := ms.val) (by omega) (by omega)
  have h2 := toNat_or_at (w := at_ 0 n.val ||| at_ 8 ms.val) (lo := 11) (x := ns.val) (by omega) (by omega)
  rw [bwrBar_eq_some_iff, BitVec.toNat_eq, toNat_or_at (by omega) (by omega), h2, h1, h0]
  simp only [Fin.ext_iff, val_immFin, toNat_extract]
  omega

end

/-! ### One inversion for each shape of operands (R27 to R33) -/

section
variable {r : Raw} {i : Instr}

theorem dN0_eq_ok {k} :
    dN0 r k = .ok i ↔ eN0 r.op r.h = r ∧ k r.h = i := by
  simp [dN0, eN0, Raw.eq_iff]
  grind

theorem dBR_eq_ok {k} :
    dBR r k = .ok i ↔ ∃ disp, eBR r.op r.h disp = r ∧ k r.h disp = i := by
  simp [dBR, eBR, Raw.eq_iff]

theorem dJX_eq_ok {k} :
    dJX r k = .ok i ↔ ∃ a, a.aligned 2 ∧ eJX r.op r.h a = r ∧ k r.h a = i := by
  simp [dJX, eJX, Raw.eq_iff]
  grind

theorem dRVSET_eq_ok {k} :
    dRVSET r k = .ok i ↔ ∃ j s disp, eRVSET r.op r.h j s disp = r ∧ k r.h j s disp = i := by
  simp [dRVSET, eRVSET, Raw.eq_iff]
  grind

theorem dRVWAIT_eq_ok {k} :
    dRVWAIT r k = .ok i ↔ ∃ j, eRVWAIT r.op r.h j = r ∧ k r.h j = i := by
  simp [dRVWAIT, eRVWAIT, Raw.eq_iff]
  grind

theorem dC16_eq_ok {k} :
    dC16 r k = .ok i ↔ ∃ c, eC16 r.op r.h c = r ∧ k r.h c = i := by
  simp [dC16, eC16, Raw.eq_iff]
  have h (c) := @imm_code_iff r c
  grind

theorem dMOV_eq_ok {k} :
    dMOV r k = .ok i ↔ ∃ d a, eMOV r.op r.h d a = r ∧ k r.h d a = i := by
  simp [dMOV, eMOV, Raw.eq_iff]
  grind

theorem dMOVI_eq_ok {k} :
    dMOVI r k = .ok i ↔ ∃ d imm, eMOVI r.op r.h d imm = r ∧ k r.h d imm = i := by
  simp [dMOVI, eMOVI, Raw.eq_iff]
  grind

theorem dA2_eq_ok {wd wa wb : Nat} {k} :
    dA2 wd wa wb r k = .ok i ↔ ∃ d a b,
      (d.aligned wd ∧ a.aligned wa ∧ b.aligned wb ∧ Src.agree a b) ∧ eA2 r.op r.h d a b = r ∧ k r.h d a b = i := by
  simp [dA2, eA2, Raw.eq_iff]
  have h (a b) := @reads_immOf2_iff a b r.imm
  grind

theorem dA1_eq_ok {wd wa : Nat} {k} :
    dA1 wd wa r k = .ok i ↔ ∃ d a, (d.aligned wd ∧ a.aligned wa) ∧ eA1 r.op r.h d a = r ∧ k r.h d a = i := by
  simp [dA1, eA1, Raw.eq_iff]
  have h (a) := @reads_immOf1_iff a r.imm
  grind

theorem dA1R_eq_ok {wd wa : Nat} {k} :
    dA1R wd wa r k = .ok i ↔ ∃ d a, (d.aligned wd ∧ a.aligned wa) ∧ eA1R r.op r.h d a = r ∧ k r.h d a = i := by
  simp [dA1R, eA1R, Raw.eq_iff]
  grind

theorem dA3_eq_ok {wd wa wb wc : Nat} {k} :
    dA3 wd wa wb wc r k = .ok i ↔ ∃ d a b c,
      (d.aligned wd ∧ a.aligned wa ∧ b.aligned wb ∧ c.aligned wc) ∧ eA3 r.op r.h d a b c = r ∧ k r.h d a b c = i := by
  simp [dA3, eA3, Raw.eq_iff]
  have h (x) := @imm_third_iff r x
  grind

theorem dLEA_eq_ok {k} :
    dLEA r k = .ok i ↔ ∃ d a b sh, eLEA r.op r.h d a b sh = r ∧ k r.h d a b sh = i := by
  simp [dLEA, eLEA, Raw.eq_iff]
  have h (x) := @imm_fin32_iff r x
  grind

theorem dLEA64_eq_ok {k} :
    dLEA64 r k = .ok i ↔ ∃ d a b sh zx, (d.aligned 2 ∧ a.aligned 2) ∧ eLEA64 r.op r.h d a b sh zx = r ∧ k r.h d a b sh zx = i := by
  simp [dLEA64, eLEA64, Raw.eq_iff, -Bool.exists_bool, -BitVec.getLsbD_eq_getElem]
  have h (x b) := @imm_sh_zx_iff r x b
  grind

theorem dSEL_eq_ok {k} :
    dSEL r k = .ok i ↔ ∃ d a b c, eSEL r.op r.h d a b c = r ∧ k r.h d a b c = i := by
  simp [dSEL, eSEL, Raw.eq_iff]
  have h (x) := @imm_third_iff r x
  grind

theorem dCMP_eq_ok {w : Nat} {k} :
    dCMP w r k = .ok i ↔ ∃ d a b, (a.aligned w ∧ b.aligned w ∧ Src.agree a b) ∧ eCMP r.op r.h d a b = r ∧ k r.h d a b = i := by
  simp [dCMP, eCMP, Raw.eq_iff]
  have h (a b) := @reads_immOf2_iff a b r.imm
  grind

theorem dP3_eq_ok {k} :
    dP3 r k = .ok i ↔ ∃ d a b, eP3 r.op r.h d a b = r ∧ k r.h d a b = i := by
  simp [dP3, eP3, Raw.eq_iff]
  grind

theorem dP2_eq_ok {k} :
    dP2 r k = .ok i ↔ ∃ d a, eP2 r.op r.h d a = r ∧ k r.h d a = i := by
  simp [dP2, eP2, Raw.eq_iff]
  grind

theorem dP2V_eq_ok {k} :
    dP2V r k = .ok i ↔ ∃ d, eP2V r.op r.h d = r ∧ k r.h d = i := by
  simp [dP2V, eP2V, Raw.eq_iff]
  grind

theorem dV2P_eq_ok {k} :
    dV2P r k = .ok i ↔ ∃ a mask, eV2P r.op r.h a mask = r ∧ k r.h a mask = i := by
  simp [dV2P, eV2P, Raw.eq_iff]
  have h (x) := @imm_mask_iff r x
  grind

theorem dQBLK_eq_ok {k} :
    dQBLK r k = .ok i ↔ ∃ d a b, VReg.aligned 2 a ∧ eQBLK r.op r.h d a b = r ∧ k r.h d a b = i := by
  simp [dQBLK, eQBLK, Raw.eq_iff]
  have h (a) := @reads_immVal_iff a r.imm
  grind

theorem dVV_eq_ok {wd wa : Nat} {k} :
    dVV wd wa r k = .ok i ↔ ∃ d a, (VReg.aligned wd d ∧ VReg.aligned wa a) ∧ eVV r.op r.h d a = r ∧ k r.h d a = i := by
  simp [dVV, eVV, Raw.eq_iff]
  grind

theorem dQBRD_eq_ok {k} :
    dQBRD r k = .ok i ↔ ∃ d a n, eQBRD r.op r.h d a n = r ∧ k r.h d a n = i := by
  simp [dQBRD, eQBRD, Raw.eq_iff]
  have h (x) := @imm_fin4_iff r x
  grind

theorem dSHFL_eq_ok {k} :
    dSHFL r k = .ok i ↔ ∃ d a b, eSHFL r.op r.h d a b = r ∧ k r.h d a b = i := by
  simp [dSHFL, eSHFL, Raw.eq_iff]
  have h (a) := @reads_immOf1_iff a r.imm
  grind

theorem dRP_eq_ok {k} :
    dRP r k = .ok i ↔ ∃ d a, eRP r.op r.h d a = r ∧ k r.h d a = i := by
  simp [dRP, eRP, Raw.eq_iff]
  grind

theorem dRV_eq_ok {k} :
    dRV r k = .ok i ↔ ∃ d a, eRV r.op r.h d a = r ∧ k r.h d a = i := by
  simp [dRV, eRV, Raw.eq_iff]
  grind

theorem dVVV_eq_ok {k} :
    dVVV r k = .ok i ↔ ∃ d a b, eVVV r.op r.h d a b = r ∧ k r.h d a b = i := by
  simp [dVVV, eVVV, Raw.eq_iff]
  grind

theorem dRVV_eq_ok {k} :
    dRVV r k = .ok i ↔ ∃ d a b, eRVV r.op r.h d a b = r ∧ k r.h d a b = i := by
  simp [dRVV, eRVV, Raw.eq_iff]
  grind

theorem dVP_eq_ok {k} :
    dVP r k = .ok i ↔ ∃ d a, eVP r.op r.h d a = r ∧ k r.h d a = i := by
  simp [dVP, eVP, Raw.eq_iff]
  grind

theorem dLD_eq_ok {wd wa : Nat} {k} :
    dLD wd wa r k = .ok i ↔ ∃ d a disp, (d.aligned wd ∧ a.aligned wa) ∧ eLD r.op r.h d a disp = r ∧ k r.h d a disp = i := by
  simp [dLD, eLD, Raw.eq_iff]
  grind

theorem dLDV_eq_ok {wd wa : Nat} {k} :
    dLDV wd wa r k = .ok i ↔ ∃ d a disp, (VReg.aligned wd d ∧ a.aligned wa) ∧ eLDV r.op r.h d a disp = r ∧ k r.h d a disp = i := by
  simp [dLDV, eLDV, Raw.eq_iff]
  grind

theorem dST_eq_ok {wa wb : Nat} {k} :
    dST wa wb r k = .ok i ↔ ∃ a b disp, (a.aligned wa ∧ b.aligned wb) ∧ eST r.op r.h a b disp = r ∧ k r.h a b disp = i := by
  simp [dST, eST, Raw.eq_iff]
  grind

theorem dAT_eq_ok {wd wa wb : Nat} {k} :
    dAT wd wa wb r k = .ok i ↔ ∃ d a b disp,
      (VReg.aligned wd d ∧ a.aligned wa ∧ b.aligned wb) ∧ eAT r.op r.h d a b disp = r ∧ k r.h d a b disp = i := by
  simp [dAT, eAT, Raw.eq_iff]
  grind

theorem dAD_eq_ok {k} :
    dAD r k = .ok i ↔ ∃ a disp, a.aligned 2 ∧ eAD r.op r.h a disp = r ∧ k r.h a disp = i := by
  simp [dAD, eAD, Raw.eq_iff]
  grind

theorem dPUTS_eq_ok {k} :
    dPUTS r k = .ok i ↔ ∃ a b c, (a.aligned 2 ∧ b.aligned 2 ∧ SReg.even c) ∧ ePUTS r.op r.h a b c = r ∧ k r.h a b c = i := by
  simp [dPUTS, ePUTS, Raw.eq_iff, SReg.even]
  have h (x) := @imm_third_iff r x
  grind

theorem dQCALL_eq_ok {k} :
    dQCALL r k = .ok i ↔ ∃ d a b cls m,
      (VReg.aligned 2 d ∧ a.aligned 2 ∧ b.aligned 2 ∧ cls ≠ 0) ∧ eQCALL r.op r.h d a b cls m = r ∧ k r.h d a b cls m = i := by
  simp [dQCALL, eQCALL, Raw.eq_iff, ← immFin_eq_zero_iff]
  have h (c m) := @imm_cls_iff r c m
  grind

theorem dQCALLN_eq_ok {k} :
    dQCALLN r k = .ok i ↔ ∃ a b cls m, (a.aligned 2 ∧ b.aligned 2 ∧ cls ≠ 0) ∧
      eQCALLN r.op r.h a b cls m = r ∧ k r.h a b cls m = i := by
  simp [dQCALLN, eQCALLN, Raw.eq_iff, ← immFin_eq_zero_iff]
  have h (c m) := @imm_cls_iff r c m
  grind

theorem dQRET_eq_ok {k} :
    dQRET r k = .ok i ↔ ∃ b, VReg.aligned 2 b ∧ eQRET r.op r.h b = r ∧ k r.h b = i := by
  simp [dQRET, eQRET, Raw.eq_iff]
  grind

theorem dCVSET_eq_ok {k} :
    dCVSET r k = .ok i ↔ ∃ c a, eCVSET r.op r.h c a = r ∧ k r.h c a = i := by
  simp [dCVSET, eCVSET, Raw.eq_iff]
  have h (a) := @reads_immVal_iff a r.imm
  grind

theorem dSIGN_eq_ok {k} :
    dSIGN r k = .ok i ↔ ∃ c, eSIGN r.op r.h c = r ∧ k r.h c = i := by
  simp [dSIGN, eSIGN, Raw.eq_iff]
  grind

theorem dSIGNW_eq_ok {k} :
    dSIGNW r k = .ok i ↔ ∃ d c, eSIGNW r.op r.h d c = r ∧ k r.h d c = i := by
  simp [dSIGNW, eSIGNW, Raw.eq_iff]
  grind

theorem dPD_eq_ok {k} :
    dPD r k = .ok i ↔ ∃ d, ePD r.op r.h d = r ∧ k r.h d = i := by
  simp [dPD, ePD, Raw.eq_iff]
  grind

theorem dMWAIT_eq_ok {k} :
    dMWAIT r k = .ok i ↔ ∃ d b cond budget, b.aligned 2 ∧ eMWAIT r.op r.h d b cond budget = r ∧ k r.h d b cond budget = i := by
  simp [dMWAIT, eMWAIT, Raw.eq_iff]
  have h (x y) := @imm_budget_iff r x y
  grind

theorem dBN_eq_ok {k} :
    dBN r k = .ok i ↔ ∃ b, eBN r.op r.h b = r ∧ k r.h b = i := by
  simp [dBN, eBN, Raw.eq_iff]
  grind

theorem dBRD_eq_ok {k} :
    dBRD r k = .ok i ↔ ∃ d b x, eBRD r.op r.h d b x = r ∧ k r.h d b x = i := by
  simp [dBRD, eBRD, Raw.eq_iff]
  have h (a) := @reads_immOf1_iff a r.imm
  grind

theorem dBGIVE_eq_ok {k} :
    dBGIVE r k = .ok i ↔ ∃ b x, eBGIVE r.op r.h b x = r ∧ k r.h b x = i := by
  simp [dBGIVE, eBGIVE, Raw.eq_iff]
  have h (a) := @reads_immVal_iff a r.imm
  grind

theorem dBCLAIM_eq_ok {k} :
    dBCLAIM r k = .ok i ↔ ∃ d b, eBCLAIM r.op r.h d b = r ∧ k r.h d b = i := by
  simp [dBCLAIM, eBCLAIM, Raw.eq_iff]
  grind

theorem dBSTAT_eq_ok {k} :
    dBSTAT r k = .ok i ↔ ∃ d b, eBSTAT r.op r.h d b = r ∧ k r.h d b = i := by
  simp [dBSTAT, eBSTAT, Raw.eq_iff]
  grind

theorem dQPUSH_eq_ok {k} :
    dQPUSH r k = .ok i ↔ ∃ q a, eQPUSH r.op r.h q a = r ∧ k r.h q a = i := by
  simp [dQPUSH, eQPUSH, Raw.eq_iff]
  have h (a) := @reads_immVal_iff a r.imm
  grind

theorem dQPOP_eq_ok {wd : Nat} {k} :
    dQPOP wd r k = .ok i ↔ ∃ d q, d.aligned wd ∧ eQPOP r.op r.h d q = r ∧ k r.h d q = i := by
  simp [dQPOP, eQPOP, Raw.eq_iff]
  grind

theorem dTDEF_eq_ok {k} :
    dTDEF r k = .ok i ↔ ∃ t a b ready, eTDEF r.op r.h t a b ready = r ∧ k r.h t a b ready = i := by
  simp [dTDEF, eTDEF, Raw.eq_iff, -Bool.exists_bool, -BitVec.getLsbD_eq_getElem]
  have h (x) := @imm_ready_iff r x
  grind

theorem dTSTAT_eq_ok {k} :
    dTSTAT r k = .ok i ↔ ∃ d t, eTSTAT r.op r.h d t = r ∧ k r.h d t = i := by
  simp [dTSTAT, eTSTAT, Raw.eq_iff]
  grind

theorem dHN_eq_ok {k} :
    dHN r k = .ok i ↔ ∃ t, eHN r.op r.h t = r ∧ k r.h t = i := by
  simp [dHN, eHN, Raw.eq_iff]
  grind

theorem dKDEF_eq_ok {k} :
    dKDEF r k = .ok i ↔ ∃ a n, SReg.even a ∧ eKDEF r.op r.h a n = r ∧ k r.h a n = i := by
  simp [dKDEF, eKDEF, Raw.eq_iff, SReg.even]
  have h (x) := @imm_fin256_iff r x
  grind

theorem dKREL_eq_ok {k} :
    dKREL r k = .ok i ↔ ∃ n, eKREL r.op r.h n = r ∧ k r.h n = i := by
  simp [dKREL, eKREL, Raw.eq_iff]
  have h (x) := @imm_fin256_iff r x
  grind

theorem dEVROUTE_eq_ok {k} :
    dEVROUTE r k = .ok i ↔ ∃ e g en, eEVROUTE r.op r.h e g en = r ∧ k r.h e g en = i := by
  simp [dEVROUTE, eEVROUTE, Raw.eq_iff, -Bool.exists_bool, -BitVec.getLsbD_eq_getElem]
  have h (e g b) := @imm_route_iff r e g b
  grind

theorem dEVWAIT_eq_ok {k} :
    dEVWAIT r k = .ok i ↔ ∃ g, eEVWAIT r.op r.h g = r ∧ k r.h g = i := by
  simp [dEVWAIT, eEVWAIT, Raw.eq_iff]
  have h (x) := @imm_group_iff r x
  grind

theorem dLAUNCH_eq_ok {k} :
    dLAUNCH r k = .ok i ↔ ∃ d a disp, SReg.even a ∧ eLAUNCH r.op r.h d a disp = r ∧ k r.h d a disp = i := by
  simp [dLAUNCH, eLAUNCH, Raw.eq_iff, SReg.even]
  grind

theorem dEMIT_eq_ok {k} :
    dEMIT r k = .ok i ↔ ∃ d a node, eEMIT r.op r.h d a node = r ∧ k r.h d a node = i := by
  simp [dEMIT, eEMIT, Raw.eq_iff]
  have h (x) := @imm_fin256_iff r x
  grind

theorem dEMITW_eq_ok {k} :
    dEMITW r k = .ok i ↔ ∃ a node, eEMITW r.op r.h a node = r ∧ k r.h a node = i := by
  simp [dEMITW, eEMITW, Raw.eq_iff]
  have h (x) := @imm_fin256_iff r x
  grind

theorem dPIPEW_eq_ok {k} :
    dPIPEW r k = .ok i ↔ ∃ n a, VReg.aligned 2 a ∧ ePIPEW r.op r.h n a = r ∧ k r.h n a = i := by
  simp [dPIPEW, ePIPEW, Raw.eq_iff]
  grind

theorem dPIPER_eq_ok {wd : Nat} {k} :
    dPIPER wd r k = .ok i ↔ ∃ d n, VReg.aligned wd d ∧ ePIPER r.op r.h d n = r ∧ k r.h d n = i := by
  simp [dPIPER, ePIPER, Raw.eq_iff]
  grind

theorem dKEYW_eq_ok {k} :
    dKEYW r k = .ok i ↔ ∃ a, SReg.even a ∧ eKEYW r.op r.h a = r ∧ k r.h a = i := by
  simp [dKEYW, eKEYW, Raw.eq_iff, SReg.even]
  grind

theorem dTRPV_eq_ok {k} :
    dTRPV r k = .ok i ↔ ∃ a n, eTRPV r.op r.h a n = r ∧ k r.h a n = i := by
  simp [dTRPV, eTRPV, Raw.eq_iff]
  have h (x) := @imm_fin4_iff r x
  grind

theorem dRNG_eq_ok {k} :
    dRNG r k = .ok i ↔ ∃ a b, SReg.even a ∧ eRNG r.op r.h a b = r ∧ k r.h a b = i := by
  simp [dRNG, eRNG, Raw.eq_iff, SReg.even]
  have h (a) := @reads_immVal_iff a r.imm
  grind

theorem dQREG_eq_ok {k} :
    dQREG r k = .ok i ↔ ∃ d a cls, (SReg.even a ∧ cls ≠ 0) ∧ eQREG r.op r.h d a cls = r ∧ k r.h d a cls = i := by
  simp [dQREG, eQREG, Raw.eq_iff, SReg.even, ← immFin_eq_zero_iff]
  have h (x) := @imm_fin256_iff r x
  grind

theorem dQDEREG_eq_ok {k} :
    dQDEREG r k = .ok i ↔ ∃ d cls, cls ≠ 0 ∧ eQDEREG r.op r.h d cls = r ∧ k r.h d cls = i := by
  simp [dQDEREG, eQDEREG, Raw.eq_iff, ← immFin_eq_zero_iff]
  have h (x) := @imm_fin256_iff r x
  grind

theorem dBARA_eq_ok {k} :
    dBARA r k = .ok i ↔ ∃ d bar, eBARA r.op r.h d bar = r ∧ k r.h d bar = i := by
  simp [dBARA, eBARA, Raw.eq_iff]
  grind

theorem dBARW_eq_ok {k} :
    dBARW r k = .ok i ↔ ∃ a bar, eBARW r.op r.h a bar = r ∧ k r.h a bar = i := by
  simp [dBARW, eBARW, Raw.eq_iff]
  grind

theorem dBARS_eq_ok {k} :
    dBARS r k = .ok i ↔ ∃ bar, eBARS r.op r.h bar = r ∧ k r.h bar = i := by
  simp [dBARS, eBARS, Raw.eq_iff]
  grind

theorem dBARX_eq_ok {k} :
    dBARX r k = .ok i ↔ ∃ a bar, eBARX r.op r.h a bar = r ∧ k r.h a bar = i := by
  simp [dBARX, eBARX, Raw.eq_iff]
  grind

theorem dMMA_eq_ok {pair : Bool} {k} :
    dMMA pair r k = .ok i ↔ ∃ d a c hb kq ms ns,
      (a.aligned ∧ CReg.team c ∧ hb.val + kq.val < 64 ∧ (pair = true → d.val % 2 = 0)) ∧ eMMA r.op r.h d a c hb kq ms ns = r ∧ k
        r.h d a c hb kq ms ns = i := by
  simp [dMMA, eMMA, Raw.eq_iff]
  have h (hb kq ms ns) := @imm_mma_iff r hb kq ms ns
  grind

theorem dMMAS_eq_ok {k} :
    dMMAS r k = .ok i ↔ ∃ d a c hb kq ms ns hx,
      (a.aligned ∧ CReg.team c ∧ hb.val + kq.val < 64) ∧ eMMAS r.op r.h d a c hb kq ms ns hx = r ∧ k r.h d a c hb kq ms ns hx = i
        := by
  simp [dMMAS, eMMAS, Raw.eq_iff]
  have h (hb kq ms ns hx) := @imm_mmas_iff r hb kq ms ns hx
  grind

theorem dMMAJ_eq_ok {k} :
    dMMAJ r k = .ok i ↔ ∃ d a c hb ms ns, CReg.team c = false ∧ eMMAJ r.op r.h d a c hb ms ns = r ∧ k r.h d a c hb ms ns = i := by
  simp [dMMAJ, eMMAJ, Raw.eq_iff]
  have h (hb ms ns) := @imm_mmaj_iff r hb ms ns
  grind

theorem dMMAG_eq_ok {k} :
    dMMAG r k = .ok i ↔ ∃ d a c hb gn ms ns hx,
      (CReg.team c ∧ hb.val + 4 * gn.val + 3 < 64) ∧ eMMAG r.op r.h d a c hb gn ms ns hx = r ∧ k r.h d a c hb gn ms ns hx = i := by
  simp [dMMAG, eMMAG, Raw.eq_iff]
  have h (hb gn ms ns hx) := @imm_mmag_iff r hb gn ms ns hx
  grind

theorem dFENCEX_eq_ok {k} : dFENCEX r k = .ok i ↔ ∃ x y, x ≠ y ∧ eFENCEX r.op r.h x y = r ∧ k r.h x y = i := by
  have h (x y) := @imm_paths_iff r x y
  simp only [dFENCEX, eFENCEX, Raw.eq_iff, h]
  cases hx : Path.ofCode (r.imm.extractLsb' 0 3).toNat <;> cases hy : Path.ofCode (r.imm.extractLsb' 4 3).toNat <;>
    simp [-BitVec.getLsbD_eq_getElem]
  grind

theorem dSRD_eq_ok {k} : dSRD r k = .ok i ↔ ∃ d num, eSRD r.op r.h d num = r ∧ k r.h d num = i := by
  have h (x) := @imm_spec_iff r x
  simp only [dSRD, eSRD, Raw.eq_iff, h]
  cases SpecReg.ofNum (r.imm.extractLsb' 0 8).toNat <;> simp
  grind

theorem dSWR_eq_ok {k} : dSWR r k = .ok i ↔ ∃ hi a, eSWR r.op r.h hi a = r ∧ k r.h hi a = i := by
  simp only [dSWR, eSWR, Raw.eq_iff, imm_half_iff, Bool.exists_bool]
  by_cases h8 : r.imm = 8#32
  · simp [h8]; grind
  · by_cases h9 : r.imm = 9#32
    · simp [h9]; grind
    · simp [h8, h9]

theorem dBWR_eq_ok {k} : dBWR r k = .ok i ↔ ∃ b sb n ms ns bar,
      SReg.even sb ∧ eBWR r.op r.h b sb n ms ns bar = r ∧ k r.h b sb n ms ns bar = i := by
  simp only [dBWR, eBWR, Raw.eq_iff, imm_bwr_iff, SReg.even]
  cases bwrBar (r.imm.extractLsb' 14 5) <;> simp
  grind

theorem dEVPOST_eq_ok {k} : dEVPOST r k = .ok i ↔ ∃ e, eEVPOST r.op r.h e = r ∧ k r.h e = i := by
  simp only [dEVPOST, eEVPOST, Raw.eq_iff, imm_post_iff]
  split
  · simp
    grind
  · simp
    grind
end

/-! ### The opcode map (R39) -/

section
variable {r : Raw} {i : Instr} {n : Nat}

theorem decode_of_group0 (hop : r.op.toNat = n + 0x000) (hn : n < 0x100) (h : decodeGroup0 r n = .ok i) : r.decode = .ok i := by
  simp only [Raw.decode, show r.op.toNat / 256 = 0x0 by omega, show r.op.toNat % 256 = n by omega, h]

theorem decode_of_group1 (hop : r.op.toNat = n + 0x100) (hn : n < 0x100) (h : decodeGroup1 r n = .ok i) : r.decode = .ok i := by
  simp only [Raw.decode, show r.op.toNat / 256 = 0x1 by omega, show r.op.toNat % 256 = n by omega, h]

theorem decode_of_group2 (hop : r.op.toNat = n + 0x200) (hn : n < 0x100) (h : decodeGroup2 r n = .ok i) : r.decode = .ok i := by
  simp only [Raw.decode, show r.op.toNat / 256 = 0x2 by omega, show r.op.toNat % 256 = n by omega, h]

theorem decode_of_group3 (hop : r.op.toNat = n + 0x300) (hn : n < 0x100) (h : decodeGroup3 r n = .ok i) : r.decode = .ok i := by
  simp only [Raw.decode, show r.op.toNat / 256 = 0x3 by omega, show r.op.toNat % 256 = n by omega, h]

theorem decode_of_group4 (hop : r.op.toNat = n + 0x400) (hn : n < 0x100) (h : decodeGroup4 r n = .ok i) : r.decode = .ok i := by
  simp only [Raw.decode, show r.op.toNat / 256 = 0x4 by omega, show r.op.toNat % 256 = n by omega, h]

theorem decode_of_group5 (hop : r.op.toNat = n + 0x500) (hn : n < 0x100) (h : decodeGroup5 r n = .ok i) : r.decode = .ok i := by
  simp only [Raw.decode, show r.op.toNat / 256 = 0x5 by omega, show r.op.toNat % 256 = n by omega, h]

theorem decode_of_group6 (hop : r.op.toNat = n + 0x600) (hn : n < 0x100) (h : decodeGroup6 r n = .ok i) : r.decode = .ok i := by
  simp only [Raw.decode, show r.op.toNat / 256 = 0x6 by omega, show r.op.toNat % 256 = n by omega, h]

theorem decode_of_group7 (hop : r.op.toNat = n + 0x700) (hn : n < 0x100) (h : decodeGroup7 r n = .ok i) : r.decode = .ok i := by
  simp only [Raw.decode, show r.op.toNat / 256 = 0x7 by omega, show r.op.toNat % 256 = n by omega, h]

theorem decode_of_group8 (hop : r.op.toNat = n + 0x800) (hn : n < 0x100) (h : decodeGroup8 r n = .ok i) : r.decode = .ok i := by
  simp only [Raw.decode, show r.op.toNat / 256 = 0x8 by omega, show r.op.toNat % 256 = n by omega, h]

theorem decode_of_group9 (hop : r.op.toNat = n + 0x900) (hn : n < 0x100) (h : decodeGroup9 r n = .ok i) : r.decode = .ok i := by
  simp only [Raw.decode, show r.op.toNat / 256 = 0x9 by omega, show r.op.toNat % 256 = n by omega, h]

theorem decode_of_groupA (hop : r.op.toNat = n + 0xA00) (hn : n < 0x100) (h : decodeGroupA r n = .ok i) : r.decode = .ok i := by
  simp only [Raw.decode, show r.op.toNat / 256 = 0xA by omega, show r.op.toNat % 256 = n by omega, h]

theorem decode_of_groupB (hop : r.op.toNat = n + 0xB00) (hn : n < 0x100) (h : decodeGroupB r n = .ok i) : r.decode = .ok i := by
  simp only [Raw.decode, show r.op.toNat / 256 = 0xB by omega, show r.op.toNat % 256 = n by omega, h]

theorem decode_of_groupC (hop : r.op.toNat = n + 0xC00) (hn : n < 0x100) (h : decodeGroupC r n = .ok i) : r.decode = .ok i := by
  simp only [Raw.decode, show r.op.toNat / 256 = 0xC by omega, show r.op.toNat % 256 = n by omega, h]

theorem decode_of_groupD (hop : r.op.toNat = n + 0xD00) (hn : n < 0x100) (h : decodeGroupD r n = .ok i) : r.decode = .ok i := by
  simp only [Raw.decode, show r.op.toNat / 256 = 0xD by omega, show r.op.toNat % 256 = n by omega, h]

theorem decode_of_groupE (hop : r.op.toNat = n + 0xE00) (hn : n < 0x100) (h : decodeGroupE r n = .ok i) : r.decode = .ok i := by
  simp only [Raw.decode, show r.op.toNat / 256 = 0xE by omega, show r.op.toNat % 256 = n by omega, h]

end

/-- The fields of a well-formed instruction decode to it. -/
theorem decode_of_toRaw {i : Instr} {r : Raw} (hw : i.wellFormed = true) (hr : i.toRaw = some r) : r.decode = .ok i := by
  cases i
  all_goals cases hr
  all_goals delta Instr.wellFormed at hw; dsimp only at hw
  case nop | ret | exit | yield => exact decode_of_group0 rfl (by decide) (dN0_eq_ok.2 ⟨rfl, rfl⟩)
  case bra | call => exact decode_of_group0 rfl (by decide) (dBR_eq_ok.2 ⟨_, rfl, rfl⟩)
  case jmpx | callx => exact decode_of_group0 rfl (by decide) (dJX_eq_ok.2 ⟨_, by simp_all, rfl, rfl⟩)
  case rvset => exact decode_of_group0 rfl (by decide) (dRVSET_eq_ok.2 ⟨_, _, _, rfl, rfl⟩)
  case rvwait => exact decode_of_group0 rfl (by decide) (dRVWAIT_eq_ok.2 ⟨_, rfl, rfl⟩)
  case trap | bkpt => exact decode_of_group0 rfl (by decide) (dC16_eq_ok.2 ⟨_, rfl, rfl⟩)
  case mov => exact decode_of_group1 rfl (by decide) (dMOV_eq_ok.2 ⟨_, _, rfl, rfl⟩)
  case movi => exact decode_of_group1 rfl (by decide) (dMOVI_eq_ok.2 ⟨_, _, rfl, rfl⟩)
  case iadd | isub | iadd64 | isub64 | imul | imulhs | imulhu | idivs | idivu | irems | iremu | imin | imax | umin | umax | and | or | xor |
      andn | shl | shr | sar | rotl | bfxu | bfxs =>
    exact decode_of_group1 rfl (by decide) (dA2_eq_ok.2 ⟨_, _, _, by simp_all, rfl, rfl⟩)
  case imad | imadw | fshr | bfi => exact decode_of_group1 rfl (by decide) (dA3_eq_ok.2 ⟨_, _, _, _, by simp_all, rfl, rfl⟩)
  case iabs | not | clz | popc | brev => exact decode_of_group1 rfl (by decide) (dA1_eq_ok.2 ⟨_, _, by simp_all, rfl, rfl⟩)
  case lea => exact decode_of_group1 rfl (by decide) (dLEA_eq_ok.2 ⟨_, _, _, _, rfl, rfl⟩)
  case lea64 => exact decode_of_group1 rfl (by decide) (dLEA64_eq_ok.2 ⟨_, _, _, _, _, by simp_all, rfl, rfl⟩)
  case sel => exact decode_of_group1 rfl (by decide) (dSEL_eq_ok.2 ⟨_, _, _, _, rfl, rfl⟩)
  case icmpeq | icmpne | icmplt | icmple | ucmplt | ucmple | icmpeq64 | ucmplt64 =>
    exact decode_of_group1 rfl (by decide) (dCMP_eq_ok.2 ⟨_, _, _, by simp_all, rfl, rfl⟩)
  case pand | por | pxor => exact decode_of_group1 rfl (by decide) (dP3_eq_ok.2 ⟨_, _, _, rfl, rfl⟩)
  case pnot => exact decode_of_group1 rfl (by decide) (dP2_eq_ok.2 ⟨_, _, rfl, rfl⟩)
  case p2v => exact decode_of_group1 rfl (by decide) (dP2V_eq_ok.2 ⟨_, rfl, rfl⟩)
  case v2p => exact decode_of_group1 rfl (by decide) (dV2P_eq_ok.2 ⟨_, _, rfl, rfl⟩)
  case fadd | fsub | fmul | fmin | fmax => exact decode_of_group2 rfl (by decide) (dA2_eq_ok.2 ⟨_, _, _, by simp_all, rfl, rfl⟩)
  case ffma => exact decode_of_group2 rfl (by decide) (dA3_eq_ok.2 ⟨_, _, _, _, by simp_all, rfl, rfl⟩)
  case fabs | fneg | frcp | frsq | fsqrt | fexp2 | flog2 | fsin | fcos | ftanh | fsig | fclass =>
    exact decode_of_group2 rfl (by decide) (dA1_eq_ok.2 ⟨_, _, by simp_all, rfl, rfl⟩)
  case fcmpeq | fcmplt | fcmple | fcmpun => exact decode_of_group2 rfl (by decide) (dCMP_eq_ok.2 ⟨_, _, _, by simp_all, rfl, rfl⟩)
  case dadd | dsub | dmul | dmin | dmax | ddiv => exact decode_of_group3 rfl (by decide) (dA2_eq_ok.2 ⟨_, _, _, by simp_all, rfl, rfl⟩)
  case dfma => exact decode_of_group3 rfl (by decide) (dA3_eq_ok.2 ⟨_, _, _, _, by simp_all, rfl, rfl⟩)
  case dcmpeq | dcmplt | dcmple | dcmpun => exact decode_of_group3 rfl (by decide) (dCMP_eq_ok.2 ⟨_, _, _, by simp_all, rfl, rfl⟩)
  case drcpa | dsqrt => exact decode_of_group3 rfl (by decide) (dA1_eq_ok.2 ⟨_, _, by simp_all, rfl, rfl⟩)
  case hadd2 | hmul2 | hmin2 | hmax2 | badd2 | bmul2 | bmin2 | bmax2 =>
    exact decode_of_group4 rfl (by decide) (dA2_eq_ok.2 ⟨_, _, _, by simp_all, rfl, rfl⟩)
  case hfma2 | bfma2 | hdot2 | bdot2 => exact decode_of_group4 rfl (by decide) (dA3_eq_ok.2 ⟨_, _, _, _, by simp_all, rfl, rfl⟩)
  case cvtif | cvtuf | cvtfi | cvtfin | cvtfu | cvtfd | cvtdf | cvtld | cvtdl | cvtbf | cvthf | cvte4f | cvte5f | cvti8f =>
    exact decode_of_group5 rfl (by decide) (dA1_eq_ok.2 ⟨_, _, by simp_all, rfl, rfl⟩)
  case cvtfb2 | cvtfh2 | cvtq4f => exact decode_of_group5 rfl (by decide) (dA2_eq_ok.2 ⟨_, _, _, by simp_all, rfl, rfl⟩)
  case cvte4 | cvte5 | cvti8 => exact decode_of_group5 rfl (by decide) (dA1R_eq_ok.2 ⟨_, _, by simp_all, rfl, rfl⟩)
  case qblk | qblke4 => exact decode_of_group5 rfl (by decide) (dQBLK_eq_ok.2 ⟨_, _, _, by simp_all, rfl, rfl⟩)
  case qswph | qswpv | qswpd | matchLanes | gscani | gscanf =>
    exact decode_of_group6 rfl (by decide) (dVV_eq_ok.2 ⟨_, _, by simp_all, rfl, rfl⟩)
  case qbrd => exact decode_of_group6 rfl (by decide) (dQBRD_eq_ok.2 ⟨_, _, _, rfl, rfl⟩)
  case shfl | shflup | shfldn | shflx => exact decode_of_group6 rfl (by decide) (dSHFL_eq_ok.2 ⟨_, _, _, rfl, rfl⟩)
  case voteany | voteall => exact decode_of_group6 rfl (by decide) (dP2_eq_ok.2 ⟨_, _, rfl, rfl⟩)
  case ballot | gcnt => exact decode_of_group6 rfl (by decide) (dRP_eq_ok.2 ⟨_, _, rfl, rfl⟩)
  case gsumi | gsumf | gmini | gmaxi | gminf | gmaxf => exact decode_of_group6 rfl (by decide) (dRV_eq_ok.2 ⟨_, _, rfl, rfl⟩)
  case isect => exact decode_of_group6 rfl (by decide) (dVVV_eq_ok.2 ⟨_, _, _, rfl, rfl⟩)
  case isectadv => exact decode_of_group6 rfl (by decide) (dRVV_eq_ok.2 ⟨_, _, _, rfl, rfl⟩)
  case ishelp => exact decode_of_group6 rfl (by decide) (dVP_eq_ok.2 ⟨_, _, rfl, rfl⟩)
  case lds8u | lds8s | lds16u | lds16s | lds32 | lds64 | lds128 | ldsh =>
    exact decode_of_group7 rfl (by decide) (dLD_eq_ok.2 ⟨_, _, _, by simp_all, rfl, rfl⟩)
  case sts8 | sts16 | sts32 | sts64 | sts128 | stsh => exact decode_of_group7 rfl (by decide) (dST_eq_ok.2 ⟨_, _, _, by simp_all, rfl, rfl⟩)
  case saadd | sacas | safadd => exact decode_of_group7 rfl (by decide) (dAT_eq_ok.2 ⟨_, _, _, _, by simp_all, rfl, rfl⟩)
  case ld8u | ld8s | ld16u | ld16s | ld32 | ld64 | ld128 | ldacq32 | ldacq64 | ldlu32 =>
    exact decode_of_group8 rfl (by decide) (dLD_eq_ok.2 ⟨_, _, _, by simp_all, rfl, rfl⟩)
  case st8 | st16 | st32 | st64 | st128 | strel32 | strel64 | scat32 | scat64 =>
    exact decode_of_group8 rfl (by decide) (dST_eq_ok.2 ⟨_, _, _, by simp_all, rfl, rfl⟩)
  case gath32 | gath64 => exact decode_of_group8 rfl (by decide) (dLDV_eq_ok.2 ⟨_, _, _, by simp_all, rfl, rfl⟩)
  case pref | disc => exact decode_of_group8 rfl (by decide) (dAD_eq_ok.2 ⟨_, _, by simp_all, rfl, rfl⟩)
  case puts => exact decode_of_group8 rfl (by decide) (dPUTS_eq_ok.2 ⟨_, _, _, by simp_all, rfl, rfl⟩)
  case aadd32 | aadd64 | amins32 | amaxs32 | aminu32 | amaxu32 | aand32 | aor32 | axor32 | axch32 | axch64 | acas32 | acas64 | acas128 |
      afaddb | afaddf | afaddd | afminb | afmaxb | afminf | afmaxf | afmind | afmaxd | afaddb2 | afaddf2 =>
    exact decode_of_group9 rfl (by decide) (dAT_eq_ok.2 ⟨_, _, _, _, by simp_all, rfl, rfl⟩)
  case nadd32 | nadd64 | nfaddb | nfaddf | nfaddd | nfaddb2 | nfaddf2 | nfminf | nfmaxf | nor32 | sto =>
    exact decode_of_group9 rfl (by decide) (dST_eq_ok.2 ⟨_, _, _, by simp_all, rfl, rfl⟩)
  case qcall | qcalla => exact decode_of_group9 rfl (by decide) (dQCALL_eq_ok.2 ⟨_, _, _, _, _, by simp_all, rfl, rfl⟩)
  case qcalln => exact decode_of_group9 rfl (by decide) (dQCALLN_eq_ok.2 ⟨_, _, _, _, by simp_all, rfl, rfl⟩)
  case ldo => exact decode_of_group9 rfl (by decide) (dLD_eq_ok.2 ⟨_, _, _, by simp_all, rfl, rfl⟩)
  case qret => exact decode_of_group9 rfl (by decide) (dQRET_eq_ok.2 ⟨_, by simp_all, rfl, rfl⟩)
  case bara => exact decode_of_groupA rfl (by decide) (dBARA_eq_ok.2 ⟨_, _, rfl, rfl⟩)
  case barw => exact decode_of_groupA rfl (by decide) (dBARW_eq_ok.2 ⟨_, _, rfl, rfl⟩)
  case bars => exact decode_of_groupA rfl (by decide) (dBARS_eq_ok.2 ⟨_, rfl, rfl⟩)
  case barx => exact decode_of_groupA rfl (by decide) (dBARX_eq_ok.2 ⟨_, _, rfl, rfl⟩)
  case fence => exact decode_of_groupA rfl (by decide) (dN0_eq_ok.2 ⟨rfl, rfl⟩)
  case fencex => exact decode_of_groupA rfl (by decide) (dFENCEX_eq_ok.2 ⟨_, _, by simp_all, rfl, rfl⟩)
  case marm => exact decode_of_groupA rfl (by decide) (dAD_eq_ok.2 ⟨_, _, by simp_all, rfl, rfl⟩)
  case mwait => exact decode_of_groupA rfl (by decide) (dMWAIT_eq_ok.2 ⟨_, _, _, _, by simp_all, rfl, rfl⟩)
  case cvset => exact decode_of_groupA rfl (by decide) (dCVSET_eq_ok.2 ⟨_, _, rfl, rfl⟩)
  case sign => exact decode_of_groupA rfl (by decide) (dSIGN_eq_ok.2 ⟨_, rfl, rfl⟩)
  case signw => exact decode_of_groupA rfl (by decide) (dSIGNW_eq_ok.2 ⟨_, _, rfl, rfl⟩)
  case mxacq => exact decode_of_groupB rfl (by decide) (dPD_eq_ok.2 ⟨_, rfl, rfl⟩)
  case mxrel => exact decode_of_groupB rfl (by decide) (dN0_eq_ok.2 ⟨rfl, rfl⟩)
  case mmabf | mmahf | mmae4 | mmae5 | mmae45 | mmai8 | mmaq4 | mmaf64 =>
    exact decode_of_groupB rfl (by decide) (dMMA_eq_ok.2 ⟨_, _, _, _, _, _, _, by simp_all, rfl, rfl⟩)
  case mmase4 | mmasi8 => exact decode_of_groupB rfl (by decide) (dMMAS_eq_ok.2 ⟨_, _, _, _, _, _, _, _, by simp_all, rfl, rfl⟩)
  case mmajbf | mmaje4 => exact decode_of_groupB rfl (by decide) (dMMAJ_eq_ok.2 ⟨_, _, _, _, _, _, by simp_all, rfl, rfl⟩)
  case mmagbf | mmage4 => exact decode_of_groupB rfl (by decide) (dMMAG_eq_ok.2 ⟨_, _, _, _, _, _, _, _, by simp_all, rfl, rfl⟩)
  case bzero | bfree => exact decode_of_groupB rfl (by decide) (dBN_eq_ok.2 ⟨_, rfl, rfl⟩)
  case brd => exact decode_of_groupB rfl (by decide) (dBRD_eq_ok.2 ⟨_, _, _, rfl, rfl⟩)
  case bwr => exact decode_of_groupB rfl (by decide) (dBWR_eq_ok.2 ⟨_, _, _, _, _, _, by simp_all, rfl, rfl⟩)
  case bgive => exact decode_of_groupB rfl (by decide) (dBGIVE_eq_ok.2 ⟨_, _, rfl, rfl⟩)
  case bclaim => exact decode_of_groupB rfl (by decide) (dBCLAIM_eq_ok.2 ⟨_, _, rfl, rfl⟩)
  case bstat => exact decode_of_groupB rfl (by decide) (dBSTAT_eq_ok.2 ⟨_, _, rfl, rfl⟩)
  case sprn8 | sprn4e => exact decode_of_groupB rfl (by decide) (dVV_eq_ok.2 ⟨_, _, by simp_all, rfl, rfl⟩)
  case qpush => exact decode_of_groupC rfl (by decide) (dQPUSH_eq_ok.2 ⟨_, _, rfl, rfl⟩)
  case qpop | qtry => exact decode_of_groupC rfl (by decide) (dQPOP_eq_ok.2 ⟨_, _, by simp_all, rfl, rfl⟩)
  case tdef => exact decode_of_groupC rfl (by decide) (dTDEF_eq_ok.2 ⟨_, _, _, _, rfl, rfl⟩)
  case tstat => exact decode_of_groupC rfl (by decide) (dTSTAT_eq_ok.2 ⟨_, _, rfl, rfl⟩)
  case tfree | twait => exact decode_of_groupC rfl (by decide) (dHN_eq_ok.2 ⟨_, rfl, rfl⟩)
  case kdef => exact decode_of_groupC rfl (by decide) (dKDEF_eq_ok.2 ⟨_, _, by simp_all, rfl, rfl⟩)
  case krel => exact decode_of_groupC rfl (by decide) (dKREL_eq_ok.2 ⟨_, rfl, rfl⟩)
  case evroute => exact decode_of_groupC rfl (by decide) (dEVROUTE_eq_ok.2 ⟨_, _, _, rfl, rfl⟩)
  case evwait => exact decode_of_groupC rfl (by decide) (dEVWAIT_eq_ok.2 ⟨_, rfl, rfl⟩)
  case evpost => exact decode_of_groupC rfl (by decide) (dEVPOST_eq_ok.2 ⟨_, rfl, rfl⟩)
  case launch => exact decode_of_groupD rfl (by decide) (dLAUNCH_eq_ok.2 ⟨_, _, _, by simp_all, rfl, rfl⟩)
  case emit => exact decode_of_groupD rfl (by decide) (dEMIT_eq_ok.2 ⟨_, _, _, rfl, rfl⟩)
  case emitw => exact decode_of_groupD rfl (by decide) (dEMITW_eq_ok.2 ⟨_, _, rfl, rfl⟩)
  case pipew => exact decode_of_groupD rfl (by decide) (dPIPEW_eq_ok.2 ⟨_, _, by simp_all, rfl, rfl⟩)
  case piper | pipetry => exact decode_of_groupD rfl (by decide) (dPIPER_eq_ok.2 ⟨_, _, by simp_all, rfl, rfl⟩)
  case srd => exact decode_of_groupE rfl (by decide) (dSRD_eq_ok.2 ⟨_, _, rfl, rfl⟩)
  case swr => exact decode_of_groupE rfl (by decide) (dSWR_eq_ok.2 ⟨_, _, rfl, rfl⟩)
  case keyw => exact decode_of_groupE rfl (by decide) (dKEYW_eq_ok.2 ⟨_, by simp_all, rfl, rfl⟩)
  case keyr => exact decode_of_groupE rfl (by decide) (dLD_eq_ok.2 ⟨_, _, _, by simp_all, rfl, rfl⟩)
  case eret => exact decode_of_groupE rfl (by decide) (dN0_eq_ok.2 ⟨rfl, rfl⟩)
  case trpv => exact decode_of_groupE rfl (by decide) (dTRPV_eq_ok.2 ⟨_, _, rfl, rfl⟩)
  case tlbinv | cachewb | cacheinv => exact decode_of_groupE rfl (by decide) (dRNG_eq_ok.2 ⟨_, _, by simp_all, rfl, rfl⟩)
  case qreg => exact decode_of_groupE rfl (by decide) (dQREG_eq_ok.2 ⟨_, _, _, by simp_all, rfl, rfl⟩)
  case qdereg => exact decode_of_groupE rfl (by decide) (dQDEREG_eq_ok.2 ⟨_, _, by simp_all, rfl, rfl⟩)

/-- Fields that decode are those of the instruction that they decode to, and it is well-formed. -/
theorem toRaw_of_decode {i : Instr} {r : Raw} (h : r.decode = .ok i) : i.wellFormed = true ∧ i.toRaw = some r := by
  have hop : r.op = BitVec.ofNat 12 (256 * (r.op.toNat / 256) + r.op.toNat % 256) := by
    rw [Nat.div_add_mod, BitVec.ofNat_toNat, BitVec.setWidth_eq]
  unfold Raw.decode at h
  generalize r.op.toNat / 256 = g at h hop
  generalize r.op.toNat % 256 = n at h hop
  unfold decodeGroup0 decodeGroup1 decodeGroup2 decodeGroup3 decodeGroup4 decodeGroup5 decodeGroup6 decodeGroup7 decodeGroup8
    decodeGroup9 decodeGroupA decodeGroupB decodeGroupC decodeGroupD decodeGroupE at h
  split at h
  all_goals try split at h
  all_goals
    simp only [dA1_eq_ok, dA1R_eq_ok, dA2_eq_ok, dA3_eq_ok, dAD_eq_ok, dAT_eq_ok, dBARA_eq_ok, dBARS_eq_ok, dBARW_eq_ok, dBARX_eq_ok,
      dBCLAIM_eq_ok, dBGIVE_eq_ok, dBN_eq_ok, dBR_eq_ok, dBRD_eq_ok, dBSTAT_eq_ok, dBWR_eq_ok, dC16_eq_ok, dCMP_eq_ok, dCVSET_eq_ok,
      dEMIT_eq_ok, dEMITW_eq_ok, dEVPOST_eq_ok, dEVROUTE_eq_ok, dEVWAIT_eq_ok, dFENCEX_eq_ok, dHN_eq_ok, dJX_eq_ok, dKDEF_eq_ok,
      dKEYW_eq_ok, dKREL_eq_ok, dLAUNCH_eq_ok, dLD_eq_ok, dLDV_eq_ok, dLEA_eq_ok, dLEA64_eq_ok, dMMA_eq_ok, dMMAG_eq_ok, dMMAJ_eq_ok,
      dMMAS_eq_ok, dMOV_eq_ok, dMOVI_eq_ok, dMWAIT_eq_ok, dN0_eq_ok, dP2_eq_ok, dP2V_eq_ok, dP3_eq_ok, dPD_eq_ok, dPIPER_eq_ok,
      dPIPEW_eq_ok, dPUTS_eq_ok, dQBLK_eq_ok, dQBRD_eq_ok, dQCALL_eq_ok, dQCALLN_eq_ok, dQDEREG_eq_ok, dQPOP_eq_ok, dQPUSH_eq_ok,
      dQREG_eq_ok, dQRET_eq_ok, dRNG_eq_ok, dRP_eq_ok, dRV_eq_ok, dRVSET_eq_ok, dRVV_eq_ok, dRVWAIT_eq_ok, dSEL_eq_ok, dSHFL_eq_ok,
      dSIGN_eq_ok, dSIGNW_eq_ok, dSRD_eq_ok, dST_eq_ok, dSWR_eq_ok, dTDEF_eq_ok, dTRPV_eq_ok, dTSTAT_eq_ok, dV2P_eq_ok, dVP_eq_ok,
      dVV_eq_ok, dVVV_eq_ok, hop, reduceCtorEq] at h
  all_goals
    casesm* ∃ _, _, _ ∧ _
    subst i
    refine ⟨?_, congrArg some ‹_›⟩
    delta Instr.wellFormed
    dsimp only
  all_goals simp [*]

/-! ### Words -/

theorem ofNat_fin8 (x : BitVec 3) : BitVec.ofNat 3 (fin8 x).val = x := by simp [fin8]

/-- A bit of a field that lies in a word is the word's bit. -/
theorem getLsbD_field (w : BitVec 96) {lo n i : Nat} (h : lo ≤ i) (hn : i - lo < n) : (w.extractLsb' lo n).getLsbD (i - lo) = w.getLsbD i := by
  rw [BitVec.getLsbD_extractLsb', decide_eq_true hn, Bool.true_and, Nat.add_sub_cancel' h]

theorem getLsbD_bit_sub {b : Bool} {i lo : Nat} (h : i = lo) : (bit b).getLsbD (i - lo) = b := by
  simp [bit, h]

/-- A word whose reserved field is 0 is the word of its fields (R27, R36). -/
theorem toWord_ofWord {w : BitVec 96} (h : reservedField w = 0) : (Raw.ofWord w).toWord = w := by
  apply BitVec.eq_of_getLsbD_eq
  intro i hi
  rw [getLsbD_toWord, ← h, reservedField]
  dsimp only [Raw.ofWord]
  rw [ofNat_fin8]
  by_cases h12 : i < 12
  · rw [if_pos h12, ← getLsbD_field w (Nat.zero_le i) h12, Nat.sub_zero]
  rw [if_neg h12]
  by_cases h15 : i < 15
  · rw [if_pos h15, getLsbD_field w (by omega) (by omega)]
  rw [if_neg h15]
  by_cases h16 : i < 16
  · rw [if_pos h16, getLsbD_bit_sub (by omega), show i = 15 by omega]
  rw [if_neg h16]
  by_cases h26 : i < 26
  · rw [if_pos h26, getLsbD_field w (by omega) (by omega)]
  rw [if_neg h26]
  by_cases h36 : i < 36
  · rw [if_pos h36, getLsbD_field w (by omega) (by omega)]
  rw [if_neg h36]
  by_cases h46 : i < 46
  · rw [if_pos h46, getLsbD_field w (by omega) (by omega)]
  rw [if_neg h46]
  by_cases h78 : i < 78
  · rw [if_pos h78, getLsbD_field w (by omega) (by omega)]
  rw [if_neg h78]
  by_cases h88 : i < 88
  · rw [if_pos h88, getLsbD_field w (by omega) (by omega)]
  rw [if_neg h88]
  by_cases h90 : i < 90
  · rw [if_pos h90, getLsbD_field w (by omega) (by omega)]
  rw [if_neg h90]
  by_cases h91 : i < 91
  · rw [if_pos h91, getLsbD_bit_sub (by omega), show i = 90 by omega]
  rw [if_neg h91]
  by_cases h95 : i < 95
  · rw [if_pos h95, getLsbD_field w (by omega) (by omega)]
  rw [if_neg h95, getLsbD_bit_sub (by omega), show i = 95 by omega]

theorem decode_eq_ok_iff {w : BitVec 96} {i : Instr} : decode w = .ok i ↔ reservedField w = 0 ∧ (Raw.ofWord w).decode = .ok i := by
  unfold decode
  split <;> simp_all

/-- Settles O5: the fields of a word are read back from it (`ofWord_toWord`, `toWord_ofWord`), and the decoder and the encoder agree on
fields, row by row of the opcode map (`decode_of_toRaw`, `toRaw_of_decode`). -/
theorem decodeAndEncodeAgree : Obligations.DecodeAndEncodeAgree := by
  refine ⟨fun i w hw he => ?_, fun i w hd => ?_⟩
  · obtain ⟨r, hr, rfl⟩ := Option.map_eq_some_iff.mp he
    rw [decode_toWord, decode_of_toRaw hw hr]
  · obtain ⟨hres, hdec⟩ := decode_eq_ok_iff.mp hd
    obtain ⟨hwf, hraw⟩ := toRaw_of_decode hdec
    exact ⟨hwf, by rw [encode, hraw, Option.map_some, toWord_ofWord hres]⟩

end Sys2Proof
end

section
/-! SUPPORT. What package reset leaves (R166, R323, R327, R343, R346): each list of records that the reset state holds is a repetition of one
default record, so that a statement about every record is one about the default. -/

namespace Sys2Proof.Machine

theorem reset_hostMode (i : Nat) : State.reset.hostMode i = false := by
  rw [State.hostMode, State.reset, List.getD_eq_getElem?_getD, List.getElem?_getD_replicate_default_eq]

theorem reset_isLost (k : Nat) : State.reset.isLost k = false := by
  rw [State.isLost, State.reset, List.getD_eq_getElem?_getD, List.getElem?_getD_replicate_default_eq]

/-- A port after reset: the identity lane map, nothing to replay, and the sequence number before 0 (R336, R339). -/
theorem default_port : ({} : DPort).laneMap = 0x876543210 ∧ ({} : DPort).replay = [] ∧ ({} : DPort).rxSeq = 4095 := by decide

theorem reset_ports (p : DPort) (h : p ∈ State.reset.dev.ports) : p.laneMap = 0x876543210 ∧ p.replay = [] ∧ p.rxSeq = 4095 :=
  List.eq_of_mem_replicate h ▸ default_port

/-- Settles O3, by its parts: reset memory is canonical (`reset_wf`), the lists of records repeat their default, and every other field has
its value by the definition of the reset state. -/
theorem resetState : Obligations.ResetState := by
  have hmem : State.reset.memOk = true := by
    rw [State.memOk, reset_wf.1, reset_wf.2]
    rfl
  exact ⟨hmem, rfl, rfl, rfl, rfl, rfl, rfl, rfl, rfl, rfl, rfl, rfl, rfl, rfl, rfl, reset_hostMode, reset_isLost, rfl, reset_ports, rfl, rfl⟩

end Sys2Proof.Machine
end

section
/-! SUPPORT. What memory accesses, translations and fault service leave of what runs: the store queues, and the groups but for their
monitors (R183, R299). -/

namespace Sys2Proof.Machine

/-! ### Tables -/

theorem AMap.get?_map {β γ : Type} (m : AMap β) (f : β → γ) (a : Nat) : AMap.get? (m.map fun e => (e.1, f e.2)) a = (AMap.get? m a).map f := by
  induction m with
  | nil => rfl
  | cons e m ih =>
    obtain ⟨k, v⟩ := e
    simp only [List.map_cons, AMap.get?]
    split
    · rfl
    · exact ih

/-! ### Groups but for their monitors -/

theorem Lane.observe_unwatched (L : Lane) (touched : Nat → Bool) (val : Nat → DWord) :
    { L.observe touched val with monitor := none } = { L with monitor := none } := by
  unfold Lane.observe
  split
  · split <;> rfl
  · rfl

theorem Group.observe_unwatched (G : Group) (s : State) (pas : List Nat) : (G.observe s pas).unwatched = G.unwatched := by
  simp only [Group.observe, Group.unwatched, List.map_map, Group.mk.injEq, true_and, and_true]
  exact List.map_congr_left fun L _ => Lane.observe_unwatched L _ _

theorem Group.lane_unwatched (G : Group) (l : Nat) : G.unwatched.lane l = { G.lane l with monitor := none } := by
  simp only [Group.lane, Group.unwatched, List.getD_eq_getElem?_getD, List.getElem?_map]
  cases G.lanes[l]? <;> rfl

theorem Group.length_unwatched (G : Group) : G.unwatched.lanes.length = G.lanes.length := by
  simp [Group.unwatched]

/-- Two groups that differ in their monitors alone have the same lanes but for those. -/
theorem Group.lane_of_unwatched {G H : Group} (h : H.unwatched = G.unwatched) (l : Nat) :
    { H.lane l with monitor := none } = { G.lane l with monitor := none } := by
  rw [← Group.lane_unwatched, ← Group.lane_unwatched, h]

theorem Group.length_of_unwatched {G H : Group} (h : H.unwatched = G.unwatched) : H.lanes.length = G.lanes.length := by
  rw [← H.length_unwatched, h, G.length_unwatched]

/-! ### What memory accesses leave of what runs -/

/-- The store queues, and the groups but for what their monitors have seen, are as they were. -/
structure State.KeepsRun (s t : State) : Prop where
  lsq : t.lsq = s.lsq
  groups : ∀ g, (t.group? g).map Group.unwatched = (s.group? g).map Group.unwatched

theorem State.KeepsRun.refl (s : State) : s.KeepsRun s := ⟨rfl, fun _ => rfl⟩

theorem State.KeepsRun.trans {s t u : State} (h : s.KeepsRun t) (k : t.KeepsRun u) : s.KeepsRun u :=
  ⟨k.lsq.trans h.lsq, fun g => (k.groups g).trans (h.groups g)⟩

theorem State.KeepsRun.of_eq {s t : State} (hl : t.lsq = s.lsq) (hg : t.groups = s.groups) : s.KeepsRun t :=
  ⟨hl, fun g => by rw [State.group?, State.group?, hg]⟩

/-- A group that runs still does, but for its monitors. -/
theorem State.KeepsRun.group {s t : State} (h : s.KeepsRun t) {g : Nat} {G : Group} (hG : s.group? g = some G) :
    ∃ H, t.group? g = some H ∧ H.unwatched = G.unwatched := by
  have := h.groups g
  rw [hG] at this
  exact Option.map_eq_some_iff.1 this

theorem State.homeWrite_keepsRun (s : State) (k : Option Nat) (d : List Nat) (es : List (Nat × Byte)) : s.KeepsRun (s.homeWrite k d es) := by
  obtain ⟨hl, u, hg⟩ := State.homeWrite_rest s k d es
  refine ⟨hl, fun g => ?_⟩
  rw [State.group?, hg, AMap.get?_map s.groups fun G => G.observe u ((homed es).map (·.1)), Option.map_map]
  exact congrArg (Option.map · _) (funext fun G => Group.observe_unwatched G u _)

theorem State.devWrite_keepsRun (s : State) (es : List (Nat × Byte)) : s.KeepsRun (s.devWrite es) := by
  unfold State.devWrite
  split
  · exact .of_eq rfl rfl
  · exact State.homeWrite_keepsRun s none [] es

theorem State.placeHost_keepsRun (s : State) (die : Nat) (e : FaultEntry) : s.KeepsRun (s.placeHost die e).1 := by
  simp only [State.placeHost]
  split
  · exact .refl s
  · exact (State.devWrite_keepsRun s _).trans (.of_eq rfl rfl)

theorem State.placeFault_keepsRun (s : State) (die : Nat) (e : FaultEntry) : s.KeepsRun (s.placeFault die e).1 := by
  unfold State.placeFault
  split
  · exact State.placeHost_keepsRun s die e
  · exact .refl s

/-- A fault that goes to service leaves what runs alone. -/
theorem State.toService_keepsRun (s : State) (die : Nat) (f : FaultEntry) : s.KeepsRun (s.toService die f) := by
  simp only [State.toService]
  split
  · have h0 : ∀ u : List (List FaultEntry), s.KeepsRun { s with faults := u } := fun u => .of_eq rfl rfl
    split
    · split
      · exact (h0 _).trans (State.devWrite_keepsRun _ _)
      · exact h0 _
    · exact h0 _
  · exact (State.placeFault_keepsRun s die f).trans (.of_eq rfl rfl)

/-! ### Lanes whose fault goes to service -/

theorem Group.lane_updLane (G : Group) (l k : Nat) (f : Lane → Lane) :
    (G.updLane l f).lane k = if l = k ∧ k < G.lanes.length then f (G.lane k) else G.lane k := by
  simp only [Group.updLane, modAt, Group.lane, List.getD_eq_getElem?_getD]
  by_cases hl : l < G.lanes.length
  · rw [List.getElem?_eq_getElem hl]
    simp only [List.getElem?_set]
    by_cases hk : l = k
    · subst hk; simp [hl]
    · simp [hk]
  · rw [List.getElem?_eq_none (Nat.le_of_not_lt hl)]
    have : ¬ (l = k ∧ k < G.lanes.length) := fun h => hl (h.1 ▸ h.2)
    simp [this]

@[simp] theorem Group.length_updLane (G : Group) (l : Nat) (f : Lane → Lane) : (G.updLane l f).lanes.length = G.lanes.length := by
  simp only [Group.updLane, modAt]
  split <;> simp

/-- The lane waits for service, and its group is else as it was, but for its monitors. -/
theorem State.laneFault_group {s : State} {g : Nat} {G : Group} (hG : s.group? g = some G) (l : Nat) (pc va : DWord) (x : XFault) (k : Kind)
    (acc : Acc) (pkr : DWord) (rej : Option Rec) :
    ∃ H : Group, H.unwatched = G.unwatched ∧
      (s.laneFault g l pc va x k acc pkr rej).group? g = some (H.updLane l fun L => { L with pc := pc, wait := .fault va acc pkr rej }) := by
  simp only [State.laneFault, hG]
  split
  · exact ⟨G, rfl, by rw [State.updLane, State.group?_updGroup_self, hG]; rfl⟩
  · obtain ⟨H, hH, hu⟩ := (State.toService_keepsRun s (dieOfGroup g) _).group hG
    exact ⟨H, hu, by rw [State.updLane, State.group?_updGroup_self, hH]; rfl⟩

/-- A lane waits for the service of one fault, at one address. -/
def Lane.faults (L : Lane) (pc va : DWord) (acc : Acc) (pkr : DWord) (rej : Option Rec) : Prop :=
  L.wait = .fault va acc pkr rej ∧ L.pc = pc

theorem Lane.faults_of_unwatched {L M : Lane} (h : { M with monitor := none } = { L with monitor := none }) {pc va : DWord} {acc : Acc}
    {pkr : DWord} {rej : Option Rec} (hL : L.faults pc va acc pkr rej) : M.faults pc va acc pkr rej := by
  simp only [Lane.mk.injEq] at h
  simp only [Lane.faults, h]
  exact hL

/-- Lanes that meet one fault one after the other all wait for it. -/
theorem State.foldl_laneFault_group {g : Nat} (pc va : DWord) (x : XFault) (k : Kind) (acc : Acc) (pkr : DWord) (rej : Option Rec) :
    ∀ (ls : List Nat) {s : State} {G : Group}, s.group? g = some G →
      ∃ H, (ls.foldl (fun s l => s.laneFault g l pc va x k acc pkr rej) s).group? g = some H ∧ H.lanes.length = G.lanes.length ∧
        ∀ l, l < G.lanes.length → l ∈ ls ∨ (G.lane l).faults pc va acc pkr rej → (H.lane l).faults pc va acc pkr rej
  | [], s, G, hG => ⟨G, hG, rfl, fun l _ h => h.resolve_left List.not_mem_nil⟩
  | l0 :: ls, s, G, hG => by
    obtain ⟨K, hK, hs⟩ := State.laneFault_group hG l0 pc va x k acc pkr rej
    obtain ⟨H, hH, hlen, hl⟩ := State.foldl_laneFault_group pc va x k acc pkr rej ls hs
    have hKlen := Group.length_of_unwatched hK
    rw [Group.length_updLane, hKlen] at hlen
    refine ⟨H, hH, hlen, fun l hlt h => hl l (by rwa [Group.length_updLane, hKlen]) ?_⟩
    rw [Group.lane_updLane]
    by_cases h0 : l0 = l
    · rw [if_pos ⟨h0, hKlen ▸ hlt⟩]
      exact .inr ⟨rfl, rfl⟩
    · rw [if_neg fun c => h0 c.1]
      rcases h with h | h
      · exact .inl ((List.mem_cons.1 h).resolve_left (Ne.symm h0))
      · exact .inr (Lane.faults_of_unwatched (Group.lane_of_unwatched hK l) h)

end Sys2Proof.Machine
end

section
/-! SUPPORT. What a step does with the bundle that was selected (R17, R19, R37, R38, R287): the words of a fetch, and the lanes of a bundle
whose fetch fails. -/

namespace Sys2Proof.Machine

/-! ### The bundle of a step -/

/-- A step with a bundle selected is what that bundle does. -/
theorem step_of_issueQ {s : State} {b : Bundle} {q : List Bundle} (h : s.issueQ = b :: q) :
    step s = stepBundle { s with issueQ := q, cur := b } := by
  rw [step, h]

/-- A step with none selected is the next entry of the agenda. -/
theorem step_of_agenda {s : State} {i : Instr} {q : List Instr} (hq : s.issueQ = []) (h : s.agenda = i :: q) :
    step s = if agendaEvent i then exec i { s with agenda := q } else .next { s with agenda := q }.passOver := by
  rw [step, hq]
  simp only [h]

theorem stepBundle_of_none {s : State} (h : s.at? plainHdr = none) : stepBundle s = .next s := by
  rw [stepBundle, h]

theorem stepBundle_of_held {s : State} {G : Group} {x : At} (h : s.at? plainHdr = some (G, x))
    (hf : s.fetchHeld x.g x.pc s.cur.fresh = true) : stepBundle s = .next s := by
  simp only [stepBundle, h, hf, if_true]

theorem stepBundle_of_fetch_ok {s u : State} {G : Group} {x : At} {w : BitVec 96} (h : s.at? plainHdr = some (G, x))
    (hf : s.fetchHeld x.g x.pc s.cur.fresh = false) (he : s.fetch x.g x.pc s.cur.fresh = (u, .ok w)) :
    stepBundle s = exec (instrOf w) u := by
  simp only [stepBundle, h, hf, he, Bool.false_eq_true, if_false]

theorem stepBundle_of_fetch_error {s u : State} {G : Group} {x : At} {f : FetchFail} (h : s.at? plainHdr = some (G, x))
    (hf : s.fetchHeld x.g x.pc s.cur.fresh = false) (he : s.fetch x.g x.pc s.cur.fresh = (u, .error f)) :
    stepBundle s = exec (.fetchFault f) u := by
  simp only [stepBundle, h, hf, he, Bool.false_eq_true, if_false]

theorem instrOf_of_ok {w : BitVec 96} {i : Instr} (h : decode w = .ok i) : instrOf w = i := by rw [instrOf, h]

theorem instrOf_of_error {w : BitVec 96} {e : DecodeError} (h : decode w = .error e) : instrOf w = .unlistedOpcode w := by
  rw [instrOf, h]

/-! ### The words of a fetch -/

theorem toNat_append_eq_add {m n : Nat} (x : BitVec m) (y : BitVec n) : (x ++ y).toNat = x.toNat * 2 ^ n + y.toNat := by
  rw [BitVec.toNat_append, ← Nat.shiftLeft_add_eq_or_of_lt y.isLt, Nat.shiftLeft_eq]

theorem leWord_four (a b c d : Byte) : leWord [a, b, c, d] = d ++ c ++ b ++ a := by
  apply BitVec.eq_of_toNat_eq
  have := a.isLt; have := b.isLt; have := c.isLt; have := d.isLt
  simp only [leWord, leNat, BitVec.toNat_ofNat, toNat_append_eq_add]
  omega

theorem region_of_inDevice {pa n : Nat} (h : inDevice pa n = true) : region pa = .hbm ∨ region pa = .tier2 := by
  unfold inDevice at h
  split at h
  · next h1 _ => exact .inl h1
  · next h1 _ => exact .inr h1
  · cases h

theorem isRemote_of_dram {pa : Nat} (h : region pa = .hbm ∨ region pa = .tier2) : isRemote pa = false := by
  by_contra hr
  simp only [isRemote, decide_eq_true_eq, Bool.not_eq_false] at hr
  unfold remoteBase at hr
  have hf : region pa = .fabric := by
    unfold region
    repeat rw [if_neg (by omega)]
  rw [hf] at h
  cases h <;> contradiction

theorem bytesAt_of_dram (s : State) {pa : Nat} (n : Nat) (h : region pa = .hbm ∨ region pa = .tier2) :
    s.bytesAt pa n = some (s.bytes pa n) := by
  unfold State.bytesAt
  rcases h with h | h <;> rw [h]

/-- A word that is fetched anew from device memory fills the instruction store alone. -/
theorem fetchWord_fresh (s : State) (u : Nat) {pa : Nat} (h : region pa = .hbm ∨ region pa = .tier2) :
    s.fetchWord u pa true =
      ({ s with icache := AMap.put s.icache (u * 2 ^ 46 + pa / 4) (leWord (s.bytes pa 4)) }, some (leWord (s.bytes pa 4))) := by
  simp only [State.fetchWord, Bool.true_or, if_true, bytesAt_of_dram s 4 h, isRemote_of_dram h, Bool.false_eq_true, if_false]

/-- What the instruction store holds is no part of memory. -/
theorem bytes_icache (s : State) (c : AMap Word) (pa n : Nat) : ({ s with icache := c } : State).bytes pa n = s.bytes pa n := rfl

/-- The twelve bytes of an instruction are its three words, W0 at the lowest address (R28). -/
theorem wordOfBytes_words (a b c d e f g h i j k l : Byte) :
    wordOfBytes [a, b, c, d, e, f, g, h, i, j, k, l] = some (leWord [i, j, k, l] ++ leWord [e, f, g, h] ++ leWord [a, b, c, d]) := by
  simp only [wordOfBytes, Option.some.injEq, leWord_four]
  apply BitVec.eq_of_toNat_eq
  simp only [toNat_append_eq_add]
  omega

theorem wordOfBytes_bytes (s : State) (a b c : Nat) : wordOfBytes (s.bytes a 4 ++ (s.bytes b 4 ++ s.bytes c 4)) =
    some (leWord (s.bytes c 4) ++ leWord (s.bytes b 4) ++ leWord (s.bytes a 4)) :=
  wordOfBytes_words ..

theorem fetch_of_xlate {s u : State} {g : Nat} {G : Group} {pc : DWord} {pas : List Nat} {w : BitVec 96} (hG : s.group? g = some G)
    (hpc : pc.toNat % 4 = 0) (hx : s.xlate (via g G) pc 12 .fetch none = (u, .ok pas)) (hp : ∀ pa ∈ pas, u.poisonIn pa 1 = none)
    (hd : ∀ i ∈ [0, 4, 8], inDevice (pas.getD i 0) 4 = true)
    (hw : wordOfBytes ([0, 4, 8].flatMap fun i => u.bytes (pas.getD i 0) 4) = some w) :
    ∃ t : State, s.fetch g pc 7 = (t, .ok w) ∧ t = { u with icache := t.icache } := by
  have r0 := region_of_inDevice (hd 0 (by simp))
  have r1 := region_of_inDevice (hd 4 (by simp))
  have r2 := region_of_inDevice (hd 8 (by simp))
  have hany : (pas.any fun pa => (u.poisonIn pa 1).isSome) = false := by
    simp only [List.any_eq_false]
    intro pa hpa
    simp [hp pa hpa]
  simp only [List.flatMap_cons, List.flatMap_nil, List.append_nil, wordOfBytes_bytes, Option.some.injEq] at hw
  have hfetch : ∃ c, s.fetch g pc 7 = ({ u with icache := c }, .ok w) := by
    unfold State.fetch
    simp only [hG, hpc, bne_self_eq_false, Bool.false_eq_true, if_false, hx, hany, Nat.mul_zero, Nat.mul_one, Nat.reduceMul]
    simp only [show (7 : BitVec 3).getLsbD 0 = true from rfl, show (7 : BitVec 3).getLsbD 1 = true from rfl, show (7 : BitVec 3).getLsbD 2 = true from rfl,
      fetchWord_fresh _ _ r0, fetchWord_fresh _ _ r1, fetchWord_fresh _ _ r2, bytes_icache, hw]
    exact ⟨_, rfl⟩
  obtain ⟨c, hc⟩ := hfetch
  exact ⟨_, hc, rfl⟩

theorem fetch_of_misaligned {s : State} {g : Nat} {G : Group} {pc : DWord} (fresh : BitVec 3) (hG : s.group? g = some G)
    (hpc : pc.toNat % 4 ≠ 0) : s.fetch g pc fresh = (s, .error .misaligned) := by
  simp only [State.fetch, hG, bne_iff_ne, ne_eq, hpc, not_false_eq_true, if_true]

/-! ### Bundles without an instruction -/

theorem exec_unlistedOpcode {s : State} {G : Group} {x : At} (h : s.at? plainHdr = some (G, x)) (w : BitVec 96) :
    exec (.unlistedOpcode w) s = .next ((s.advance x).decodeFault x { cause := .illegal }) := by
  show execUnlistedOpcode w s = _
  simp only [execUnlistedOpcode, h]

theorem and_not_eq_self {m n : Word} (h : m &&& n = 0) : m &&& ~~~n = m := by
  apply mask_ext
  intro l _
  have := congrArg (inMask · l) h
  simp only [inMask_and, inMask_zero] at this
  rw [inMask_and_not]
  cases hm : inMask m l <;> simp_all

/-- A fetch that fails for a cause that is not served traps the lanes at the instruction. -/
theorem exec_fetchFault_of_not_serviced {s : State} {G : Group} {x : At} (h : s.at? plainHdr = some (G, x)) (hw : isWave x.g = false)
    (hh : x.B &&& G.helpers = 0) {f : FetchFail} (hf : (fetchFault f).serviced = false) :
    exec (.fetchFault f) s = .next (s.bump.raise x x.B fun _ =>
      { cause := (fetchFault f).cause, sub := (fetchFault f).sub, kind := .fetch, addr := s.bump.fetchAddr x.g G x.pc f }) := by
  show execFetchFault f s = _
  simp only [execFetchFault, h, hw, hf, hh, and_not_eq_self hh, State.endHelpers, Bool.false_eq_true, if_false, if_true]

@[simp] theorem Group.length_joinSet (G : Group) (m : Word) : (G.joinSet m).lanes.length = G.lanes.length := Group.length_updLanes G m _

/-- A fetch that fails for a cause that is served makes the lanes wait, at the instruction. -/
theorem exec_fetchFault_of_serviced {s : State} {G : Group} {x : At} (h : s.at? plainHdr = some (G, x)) (hw : isWave x.g = false)
    (hh : x.B &&& G.helpers = 0) {f : FetchFail} (hf : (fetchFault f).serviced = true) :
    ∃ (t : State) (G' : Group), exec (.fetchFault f) s = .next t ∧ t.group? x.g = some G' ∧ ∀ l, inMask x.B l = true →
      ∃ r, (G'.lane l).wait = .fault (s.bump.fetchAddr x.g G x.pc f) .fetch G.pkr (some r) ∧ (G'.lane l).pc = x.pc := by
  have a := atOf h
  have hG : s.bump.group? x.g = some G := a.g ▸ a.group
  show ∃ (t : State) (G' : Group), execFetchFault f s = .next t ∧ _
  simp only [execFetchFault, h, hw, hf, hh, and_not_eq_self hh, State.endHelpers, Bool.false_eq_true, if_false, if_true]
  have hJ : (s.bump.updGroup x.g fun G => if x.B = 0 then G else G.joinSet x.B).group? x.g = some (if x.B = 0 then G else G.joinSet x.B) := by
    rw [State.group?_updGroup_self, hG]
    rfl
  obtain ⟨H, hH, -, hl⟩ := State.foldl_laneFault_group x.pc (s.bump.fetchAddr x.g G x.pc f) _ .fetch .fetch G.pkr _ (lanesOf x.B) hJ
  refine ⟨_, H, rfl, hH, fun l hb => ?_⟩
  have hlen : l < (if x.B = 0 then G else G.joinSet x.B).lanes.length := by
    split
    · exact a.length hb
    · rw [Group.length_joinSet]; exact a.length hb
  obtain ⟨hwait, hpc⟩ := hl l hlen (.inl (mem_lanesOf.2 hb))
  exact ⟨_, hwait, hpc⟩

/-- Settles O1, from what a step does with a bundle (`stepBundle_of_…`), what a fetch reads (`fetch_of_xlate`), and what a bundle without an
instruction does (`exec_unlistedOpcode`, `exec_fetchFault_of_…`). -/
theorem stepRunsDecoded : Obligations.StepRunsDecoded := by
  refine ⟨fun s b q hq => ⟨fun h => ?_, fun G x u h => ⟨fun hf => ?_, fun hf => ⟨fun w i he hd => ?_, fun w e he hd => ?_, fun f he => ?_⟩⟩⟩,
    fun s u g G pc pas w hG hpc hx hp hd hw => fetch_of_xlate hG hpc hx hp hd hw, fun s g G pc fresh hG hpc => fetch_of_misaligned fresh hG hpc,
    fun s i q hq ha => ⟨fun hi => ?_, fun hi => ?_⟩,
    fun s G x h => ⟨exec_unlistedOpcode h, fun hw hh => ⟨fun f hf => exec_fetchFault_of_not_serviced h hw hh hf,
      fun f hf => exec_fetchFault_of_serviced h hw hh hf⟩⟩⟩
  · rw [step_of_issueQ hq, stepBundle_of_none h]
  · rw [step_of_issueQ hq, stepBundle_of_held h hf]
  · rw [step_of_issueQ hq, stepBundle_of_fetch_ok h hf he, instrOf_of_ok hd]
  · rw [step_of_issueQ hq, stepBundle_of_fetch_ok h hf he, instrOf_of_error hd]
  · rw [step_of_issueQ hq, stepBundle_of_fetch_error h hf he]
  · rw [step_of_agenda hq ha, if_pos hi]
  · rw [step_of_agenda hq ha, hi]
    rfl

end Sys2Proof.Machine
end

section
/-! SUPPORT. What a translation changes: the accessed and dirty bits of leaves in memory, and of what runs nothing but what monitors have
seen (R183, R295, R296). -/

namespace Sys2Proof.Machine

/-! ### Bytes of a number -/

theorem leBytes_getElem? (n x i : Nat) (h : i < n) : (leBytes n x)[i]? = some (BitVec.ofNat 8 (x / 256 ^ i)) := by
  induction n generalizing x i with
  | zero => omega
  | succ n ih =>
    cases i with
    | zero => simp [leBytes]
    | succ i =>
      rw [leBytes, List.getElem?_cons_succ, ih _ _ (by omega), Nat.div_div_eq_div_mul, Nat.pow_succ']

theorem leNat_div_pow (bs : List Byte) (i : Nat) : BitVec.ofNat 8 (leNat bs / 256 ^ i) = bs.getD i 0 := by
  induction bs generalizing i with
  | nil => simp [leNat]
  | cons b bs ih =>
    cases i with
    | zero =>
      apply BitVec.eq_of_toNat_eq
      have := b.isLt
      simp only [leNat, Nat.pow_zero, Nat.div_one, BitVec.toNat_ofNat, List.getD_cons_zero]
      omega
    | succ i =>
      rw [List.getD_cons_succ, ← ih, leNat, Nat.pow_succ', ← Nat.div_div_eq_div_mul]
      congr 2
      have := b.isLt
      omega

theorem leNat_lt (bs : List Byte) : leNat bs < 256 ^ bs.length := by
  induction bs with
  | nil => simp [leNat]
  | cons b bs ih =>
    have := b.isLt
    rw [leNat, List.length_cons, Nat.pow_succ]
    omega

/-- A byte of eight, after bits of the lowest have been set in their number. -/
theorem leBytes_or_leDWord (bs : List Byte) (hb : bs.length = 8) (c : Byte) (i : Nat) (hi : i < 8) :
    (leBytes 8 (leDWord bs ||| c.setWidth 64).toNat)[i]? = some (bs.getD i 0 ||| if i = 0 then c else 0) := by
  have hn : (leDWord bs).toNat = leNat bs := by
    have := leNat_lt bs
    rw [hb] at this
    simp only [leDWord, BitVec.toNat_ofNat]
    exact Nat.mod_eq_of_lt (by simpa using this)
  have hcn : (c.setWidth 64).toNat = c.toNat := BitVec.toNat_setWidth_of_le (by omega)
  rw [leBytes_getElem? _ _ _ hi, BitVec.toNat_or, hn, show (256 : Nat) ^ i = 2 ^ (8 * i) by rw [Nat.pow_mul], ← Nat.shiftRight_eq_div_pow,
    Nat.shiftRight_or_distrib, BitVec.ofNat_or, Nat.shiftRight_eq_div_pow, Nat.shiftRight_eq_div_pow, Nat.pow_mul, leNat_div_pow]
  congr 2
  rcases Nat.eq_zero_or_pos i with rfl | hp
  · simp only [Nat.pow_zero, Nat.div_one, if_true, hcn, BitVec.ofNat_toNat, BitVec.setWidth_eq]
  · rw [if_neg (by omega), hcn]
    have hc := c.isLt
    rw [Nat.div_eq_of_lt]
    · rfl
    · calc _ < 256 ^ 1 := by simpa using hc
        _ ≤ 256 ^ i := Nat.pow_le_pow_right (by omega) hp

/-! ### Bytes that a write at the home names -/

theorem State.writeList_byte_of_mem : ∀ (es : List (Nat × Byte)) (s : State) {a : Nat} {b : Byte}, (es.map (·.1)).Nodup → (a, b) ∈ es →
    (s.writeList es).byte a = b
  | [], _, _, _, _, h => absurd h List.not_mem_nil
  | e :: es, s, a, b, hn, h => by
    rw [List.map_cons, List.nodup_cons] at hn
    rw [State.writeList]
    rcases List.mem_cons.1 h with rfl | h
    · rw [State.writeList_byte_of_not_mem es _ a hn.1, State.byte, State.writeByte_mem, AMap.getD_set, if_pos rfl]
    · exact State.writeList_byte_of_mem es _ hn.2 h

theorem State.homeWrite_byte_of_mem (s : State) (k : Option Nat) (d : List Nat) {es : List (Nat × Byte)} {a : Nat} {b : Byte}
    (hn : ((homed es).map (·.1)).Nodup) (h : (a, b) ∈ homed es) : (s.homeWrite k d es).byte a = b := by
  obtain ⟨v, k', _, e⟩ := State.homeWrite_eq s k d es
  rw [e]
  exact State.writeList_byte_of_mem (homed es) v hn h

/-- Near addresses have different places. -/
theorem homeOf_injOn {p q : Nat} (h : homeOf p = homeOf q) (h1 : p < q + 2 ^ 48) (h2 : q < p + 2 ^ 48) : p = q := by
  unfold homeOf ownDevice at h
  split at h <;> split at h <;> omega

theorem homed_span (pa : Nat) (bs : List Byte) : homed (span pa bs) = bs.mapIdx fun i b => (homeOf (pa + i), b) := by
  refine List.ext_getElem? fun i => ?_
  simp only [homed, span, List.getElem?_map, List.getElem?_mapIdx, Option.map_map, Function.comp_def]

theorem nodup_homed_span (pa : Nat) (bs : List Byte) (h : bs.length < 2 ^ 48) : ((homed (span pa bs)).map (·.1)).Nodup := by
  rw [homed_span, List.nodup_iff_injective_getElem]
  rintro ⟨i, hi⟩ ⟨j, hj⟩ hij
  simp only [List.length_map, List.length_mapIdx] at hi hj
  simp only [List.getElem_map, List.getElem_mapIdx] at hij
  have := homeOf_injOn hij (by omega) (by omega)
  exact Fin.ext (by simp only; omega)

/-! ### Translations (R183, R295, R296) -/

theorem State.SameBytes.trans {s t u : State} (h : s.SameBytes t) (k : t.SameBytes u) : s.SameBytes u := by
  have or20 : ∀ b : Byte, b ||| 0x20 ||| 0x20 = b ||| 0x20 ∧ b ||| 0x20 ||| 0x60 = b ||| 0x60 ∧ b ||| 0x60 ||| 0x20 = b ||| 0x60 ∧
      b ||| 0x60 ||| 0x60 = b ||| 0x60 := fun b => by
    simp only [BitVec.or_assoc]
    exact ⟨rfl, rfl, rfl, rfl⟩
  intro a
  obtain ⟨h1, h2, h3, h4⟩ := or20 (s.byte a)
  rcases h a with h | h | h <;> rcases k a with k | k | k <;> rw [k, h] <;> simp only [h1, h2, h3, h4, true_or, or_true]

theorem Translated.refl (s : State) : Translated s s := ⟨fun _ => .inl rfl, rfl, fun _ => rfl⟩

theorem Translated.trans {s t u : State} (h : Translated s t) (k : Translated t u) : Translated s u :=
  ⟨h.bytes.trans k.bytes, k.lsq.trans h.lsq, fun g => (k.groups g).trans (h.groups g)⟩

/-- A change of other things than memory, the store queues and the groups. -/
theorem Translated.of_eq {s t : State} (hm : t.mem = s.mem) (hl : t.lsq = s.lsq) (hg : t.groups = s.groups) : Translated s t :=
  ⟨fun a => .inl (by rw [State.byte, hm]; rfl), hl, fun g => by rw [State.group?, State.group?, hg]⟩

theorem Translated.keepsRun {s t : State} (h : Translated s t) : s.KeepsRun t := ⟨h.lsq, h.groups⟩

/-- Bits that are set at the home of an entry, in its lowest byte, are the only bytes that change. -/
theorem State.setBits_byte (s : State) (p : Nat) (c : Byte) (a : Nat) :
    let e := leDWord ((List.range 8).map fun i => s.byte (homeOf (p + i)))
    let t := s.homeWrite none [] (span p (leBytes 8 (e ||| c.setWidth 64).toNat))
    t.byte a = if a = homeOf p then s.byte a ||| c else s.byte a := by
  intro e t
  have hlen : (leBytes 8 (e ||| c.setWidth 64).toNat).length = 8 := leBytes_length _ _
  by_cases ha : ∃ i, i < 8 ∧ a = homeOf (p + i)
  · obtain ⟨i, hi, rfl⟩ := ha
    have hi0 : homeOf (p + i) = homeOf p ↔ i = 0 :=
      ⟨fun h => by have := homeOf_injOn h (by omega) (by omega); omega, fun h => by rw [h, Nat.add_zero]⟩
    have hb := leBytes_or_leDWord ((List.range 8).map fun i => s.byte (homeOf (p + i))) (by simp) c i hi
    have hg : ((List.range 8).map fun i => s.byte (homeOf (p + i))).getD i 0 = s.byte (homeOf (p + i)) := by
      simp [List.getD_eq_getElem?_getD, List.getElem?_range hi]
    rw [hg] at hb
    have hmem : (homeOf (p + i), s.byte (homeOf (p + i)) ||| if i = 0 then c else 0) ∈ homed (span p (leBytes 8 (e ||| c.setWidth 64).toNat)) := by
      rw [homed_span]
      refine List.mem_of_getElem? (i := i) ?_
      rw [List.getElem?_mapIdx, hb]
      rfl
    have := s.homeWrite_byte_of_mem none [] (nodup_homed_span p _ (by rw [hlen]; omega)) hmem
    rw [this]
    simp only [hi0]
    split <;> simp
  · rw [if_neg fun h => ha ⟨0, by omega, by rw [Nat.add_zero]; exact h⟩]
    refine s.homeWrite_byte_of_not_mem none [] _ a fun h => ha ?_
    obtain ⟨q, hq, rfl⟩ := List.mem_map.1 h
    obtain ⟨i, hi, rfl⟩ := List.mem_mapIdx.1 hq
    exact ⟨i, by rwa [hlen] at hi, rfl⟩

theorem State.setBits_translated (s : State) (p : Nat) (c : Byte) (hc : c = 0x20 ∨ c = 0x60) :
    Translated s (s.homeWrite none [] (span p
      (leBytes 8 (leDWord ((List.range 8).map fun i => s.byte (homeOf (p + i))) ||| c.setWidth 64).toNat))) := by
  have hk := State.homeWrite_keepsRun s none [] (span p
    (leBytes 8 (leDWord ((List.range 8).map fun i => s.byte (homeOf (p + i))) ||| c.setWidth 64).toNat))
  refine ⟨fun a => ?_, hk.lsq, hk.groups⟩
  have := s.setBits_byte p c a
  simp only at this
  rw [this]
  split
  · exact .inr (hc.imp (fun h => by rw [h]) fun h => by rw [h])
  · exact .inl rfl

theorem State.walkFrom_translated (v : Via) (va : DWord) (fresh : Bool) : ∀ (fuel : Nat) (s : State) (table : Nat),
    Translated s (s.walkFrom v va fresh table fuel).1
  | 0, s, _ => .refl s
  | fuel + 1, s, table => by
    simp only [State.walkFrom]
    split
    · exact .refl s
    · split
      · exact .refl s
      · split
        · exact .refl s
        · split
          · exact .refl s
          · refine Translated.trans (.of_eq ?_ ?_ ?_) (State.walkFrom_translated v va fresh fuel _ _) <;> rfl

theorem State.useLeaf_translated (s : State) (v : Via) (f : Leaf) (va : DWord) (r : Right) (pkr : Option DWord) :
    Translated s (s.useLeaf v f va r pkr).1 := by
  have hbits : ∃ c : Byte, (if r.writes = true then 0x60 else 0x20 : DWord) = c.setWidth 64 ∧ (c = 0x20 ∨ c = 0x60) := by
    cases r.writes
    · exact ⟨0x20, rfl, .inl rfl⟩
    · exact ⟨0x60, rfl, .inr rfl⟩
  obtain ⟨c, hc, hc'⟩ := hbits
  simp only [State.useLeaf, hc]
  split
  · exact .refl s
  · split
    · exact .refl s
    · split
      · exact .refl s
      · split
        · exact .refl s
        · split
          · exact .refl s
          · split
            · exact .refl s
            · split
              · exact .refl s
              · split
                · exact s.setBits_translated f.pte c hc'
                · exact s.setBits_translated f.pte c hc'

theorem State.tlbFill_translated (s : State) (v : Via) (va : DWord) (f : Leaf) : Translated s (s.tlbFill v va f) := .of_eq rfl rfl rfl

theorem State.walk_translated (s : State) (v : Via) (va : DWord) (r : Right) (pkr : Option DWord) (fresh : Bool) :
    Translated s (s.walk v va r pkr fresh).1 := by
  unfold State.walk
  split
  · exact .refl s
  · have hw := State.walkFrom_translated v va fresh 4 s (s.rootOf v.ctx)
    split
    · next t x h => rw [h] at hw; exact hw
    · next t f h =>
      rw [h] at hw
      have hl := State.useLeaf_translated t v f va r pkr
      split
      · next h => rw [h] at hl; exact hw.trans hl
      · next h => rw [h] at hl; exact (hw.trans hl).trans (State.tlbFill_translated _ v va _)

theorem State.translateRaw_translated (s : State) (v : Via) (va : DWord) (r : Right) (pkr : Option DWord) :
    Translated s (s.translateRaw v va r pkr).1 := by
  unfold State.translateRaw
  split
  · exact .refl s
  · extract_lets viaTlb
    have hv : Translated s viaTlb.1 := by
      simp only [viaTlb]
      split
      · next f _ =>
        have hl := State.useLeaf_translated s v f va r pkr
        split
        · next h => rw [h] at hl; exact hl.trans (State.tlbFill_translated _ v va _)
        · next h => rw [h] at hl; exact hl.trans (State.walk_translated _ v va r pkr true)
      · have hw := State.walk_translated s v va r pkr false
        split
        · next h => rw [h] at hw; exact hw
        · next h => rw [h] at hw; exact hw.trans (State.walk_translated _ v va r pkr true)
    clear_value viaTlb
    split
    · split
      · exact .refl s
      · obtain ⟨t, e⟩ := viaTlb
        cases e with
        | error x => exact hv
        | ok pa =>
          simp only
          split
          · exact hv.trans (.of_eq rfl rfl rfl)
          · exact hv
    · exact hv

theorem State.translateFor_translated (s : State) (regs : Bool) (v : Via) (va : DWord) (r : Right) (pkr : Option DWord) :
    Translated s (s.translateFor regs v va r pkr).1 := by
  unfold State.translateFor
  have ht := State.translateRaw_translated s v va r pkr
  split
  · next h => rw [h] at ht; exact ht
  · next h =>
    rw [h] at ht
    split
    · exact ht
    · split <;> exact ht

/-- A translation of a range leaves memory alone but for accessed and dirty bits, and of what runs all but what monitors see. -/
theorem State.xlateFor_translated (s : State) (regs : Bool) (v : Via) (va : DWord) (n : Nat) (r : Right) (pkr : Option DWord) :
    Translated s (s.xlateFor regs v va n r pkr).1 := by
  unfold State.xlateFor
  have ht := State.translateFor_translated s regs v va r pkr
  extract_lets k
  split
  · next h => rw [h] at ht; exact ht
  · next t pa h =>
    rw [h] at ht
    split
    · exact ht
    · have ht' := State.translateFor_translated t regs v (va + BitVec.ofNat 64 k) r pkr
      split
      · next h' => rw [h'] at ht'; exact ht.trans ht'
      · next h' => rw [h'] at ht'; exact ht.trans ht'

end Sys2Proof.Machine
end

section
/-! SUPPORT. Stores that leave for their homes (R71, R172, R185): what the L1's copies leave alone, the bytes that several lanes write, and
the shape of a store's issue. -/

namespace Sys2Proof.Machine

/-! ### Copies in the L1 leave memory and what runs alone -/

theorem State.l1Put_keeps (s : State) (core a : Nat) : s.KeepsMem (s.l1Put core a) := by
  unfold State.l1Put
  split
  · exact .refl s
  · exact .of_eq rfl rfl

theorem State.l1Fit_keeps (core set : Nat) (keep : Option Nat) : ∀ (fuel : Nat) (s : State), s.KeepsMem (s.l1Fit core set keep fuel)
  | 0, s => .refl s
  | fuel + 1, s => by
    simp only [State.l1Fit]
    split
    · exact .refl s
    · refine State.KeepsMem.trans (.of_eq ?_ ?_) (State.l1Fit_keeps core set keep fuel _) <;> rfl

/-- A copy of a line in the L1 changes neither memory nor what runs. -/
theorem State.l1Fill_keeps (s : State) (core pa : Nat) (read : List Nat) : s.KeepsMem (s.l1Fill core pa read) := by
  unfold State.l1Fill
  split
  · exact .refl s
  · refine State.KeepsMem.trans (State.KeepsMem.foldl (fun s i => ?_) _ s) (State.l1Fit_keeps _ _ _ _ _)
    simp only
    split
    · split
      · exact .refl s
      · exact State.l1Put_keeps s core _
    · exact State.l1Put_keeps s core _

/-! ### The bytes of several lanes (R71) -/

/-- The bytes of one more, higher, lane over those of lower ones. -/
def overBytes (acc bs : List StByte) : List StByte :=
  (acc.filter fun a => !(bs.any fun b => b.pa == a.pa)) ++ bs.map fun b => { b with lanes := b.lanes ||| sharers acc b.pa }

theorem mergeBytes_eq (ls : List (List StByte)) : mergeBytes ls = ls.foldl overBytes [] := rfl

theorem inMask_sharers (acc : List StByte) (pa l : Nat) (m : Word) :
    inMask (acc.foldl (fun m b => if b.pa == pa then m ||| b.lanes else m) m) l = (inMask m l || acc.any fun b => b.pa == pa && inMask b.lanes l) := by
  induction acc generalizing m with
  | nil => simp
  | cons b acc ih =>
    rw [List.foldl_cons, ih, List.any_cons]
    by_cases h : (b.pa == pa) = true
    · simp [h, Bool.or_assoc]
    · simp [h]

/-- The value of a byte: of the highest lane that writes it. -/
theorem find?_overBytes (acc bs : List StByte) (pa : Nat) :
    ((overBytes acc bs).find? fun e => e.pa == pa).map StByte.val =
      ((bs.find? fun e => e.pa == pa).map StByte.val).or ((acc.find? fun e => e.pa == pa).map StByte.val) := by
  have hmap : ((bs.map fun b => { b with lanes := b.lanes ||| sharers acc b.pa }).find? fun e => e.pa == pa).map StByte.val =
      (bs.find? fun e => e.pa == pa).map StByte.val := by
    rw [List.find?_map, Option.map_map]
    rfl
  rw [overBytes, List.find?_append, Option.map_or, hmap, List.find?_filter]
  simp only [Bool.decide_and, Bool.decide_eq_true]
  by_cases hb : ∃ b ∈ bs, b.pa = pa
  · obtain ⟨b, hb, rfl⟩ := hb
    have hnone : (acc.find? fun a => !(bs.any fun c => c.pa == a.pa) && a.pa == b.pa) = none := by
      rw [List.find?_eq_none]
      intro a _ ha
      simp only [Bool.and_eq_true, Bool.not_eq_true', List.any_eq_false, beq_iff_eq] at ha
      exact ha.1 b hb ha.2.symm
    have hsome : (bs.find? fun e => e.pa == b.pa).isSome := by
      rw [List.find?_isSome]
      exact ⟨b, hb, by simp⟩
    obtain ⟨c, hc⟩ := Option.isSome_iff_exists.1 hsome
    rw [hnone, hc]
    rfl
  · have hnone : (bs.find? fun e => e.pa == pa) = none := by
      rw [List.find?_eq_none]
      intro b hb' hp
      exact hb ⟨b, hb', by simpa using hp⟩
    have hsame : (acc.find? fun a => !(bs.any fun c => c.pa == a.pa) && a.pa == pa) = acc.find? fun a => a.pa == pa := by
      congr 1
      funext a
      by_cases ha : a.pa = pa
      · subst ha
        have : (bs.any fun c => c.pa == a.pa) = false := by
          simp only [List.any_eq_false, beq_iff_eq]
          exact fun c hc h => hb ⟨c, hc, h⟩
        simp [this]
      · simp [ha]
    rw [hsame, hnone, Option.map_none, Option.none_or, Option.or_none]

/-- A lane that counts a byte as its own does so still. -/
theorem mem_overBytes_lanes {acc bs : List StByte} {y : StByte} {l : Nat} (hy : y ∈ acc ∨ y ∈ bs) (hl : inMask y.lanes l = true) :
    ∃ z ∈ overBytes acc bs, z.pa = y.pa ∧ inMask z.lanes l = true := by
  rcases hy with hy | hy
  · by_cases h : (bs.any fun b => b.pa == y.pa) = true
    · obtain ⟨b, hb, hp⟩ := List.any_eq_true.1 h
      have hp : b.pa = y.pa := by simpa using hp
      refine ⟨{ b with lanes := b.lanes ||| sharers acc b.pa }, List.mem_append.2 (.inr (List.mem_map.2 ⟨b, hb, rfl⟩)), hp, ?_⟩
      have hs : (acc.any fun c => c.pa == b.pa && inMask c.lanes l) = true := List.any_eq_true.2 ⟨y, hy, by simp [hp, hl]⟩
      rw [inMask_or, sharers, inMask_sharers, hs]
      simp
    · exact ⟨y, List.mem_append.2 (.inl (List.mem_filter.2 ⟨hy, by simpa using h⟩)), rfl, hl⟩
  · refine ⟨{ y with lanes := y.lanes ||| sharers acc y.pa }, List.mem_append.2 (.inr (List.mem_map.2 ⟨y, hy, rfl⟩)), rfl, ?_⟩
    rw [inMask_or, hl, Bool.true_or]

theorem find?_foldl_overBytes (bs : List (List StByte)) (acc : List StByte) (pa : Nat) :
    ((bs.foldl overBytes acc).find? fun e => e.pa == pa).map StByte.val =
      (bs.reverse.findSome? fun e => (e.find? fun e => e.pa == pa).map StByte.val).or ((acc.find? fun e => e.pa == pa).map StByte.val) := by
  induction bs generalizing acc with
  | nil => simp
  | cons e bs ih =>
    rw [List.foldl_cons, ih, find?_overBytes, List.reverse_cons, List.findSome?_append]
    simp [Option.or_assoc]

/-- Of several lanes that write a byte, the highest supplies it. -/
theorem find?_mergeBytes (bs : List (List StByte)) (pa : Nat) :
    ((mergeBytes bs).find? fun e => e.pa == pa).map StByte.val = bs.reverse.findSome? fun e => (e.find? fun e => e.pa == pa).map StByte.val := by
  rw [mergeBytes_eq, find?_foldl_overBytes]
  simp

theorem mem_foldl_overBytes_lanes {y : StByte} {l : Nat} (hl : inMask y.lanes l = true) : ∀ (bs : List (List StByte)) (acc : List StByte),
    (∃ z ∈ acc, z.pa = y.pa ∧ inMask z.lanes l = true) ∨ (∃ e ∈ bs, y ∈ e) →
      ∃ z ∈ bs.foldl overBytes acc, z.pa = y.pa ∧ inMask z.lanes l = true
  | [], acc, h => h.resolve_right fun ⟨_, he, _⟩ => absurd he List.not_mem_nil
  | e :: bs, acc, h => by
    refine mem_foldl_overBytes_lanes hl bs _ ?_
    rcases h with ⟨z, hz, hp, hm⟩ | ⟨e', he, hy⟩
    · obtain ⟨z', hz', hp', hm'⟩ := mem_overBytes_lanes (bs := e) (.inl hz) hm
      exact .inl ⟨z', hz', hp'.trans hp, hm'⟩
    · rcases List.mem_cons.1 he with rfl | he
      · exact .inl (mem_overBytes_lanes (.inr hy) hl)
      · exact .inr ⟨e', he, hy⟩

/-- Every lane that writes a byte counts it as its own. -/
theorem mem_mergeBytes_lanes {bs : List (List StByte)} {e : List StByte} {y : StByte} {l : Nat} (he : e ∈ bs) (hy : y ∈ e)
    (hl : inMask y.lanes l = true) : ∃ z ∈ mergeBytes bs, z.pa = y.pa ∧ inMask z.lanes l = true :=
  mem_foldl_overBytes_lanes hl bs [] (.inr ⟨e, he, hy⟩)

/-! ### Stores that leave (R71, R172) -/

theorem State.foldl_push {α : Type} (e : α → LsOp) (us : List α) (s : State) :
    us.foldl (fun s u => s.push (e u)) s = { s with lsq := us.foldl (fun q u => insertLs (e u) q) s.lsq } := by
  induction us generalizing s with
  | nil => rfl
  | cons u us ih => rw [List.foldl_cons, ih]; rfl

/-- A store leaves as one entry for each of its units, and memory has not changed. -/
theorem State.pushStore_eq (s : State) (n : Nat) (e : LsOp) (bs : List StByte) : ∃ v : State, s.KeepsMem v ∧ s.pushStore n e bs =
    { v with lsq := (storeUnits n bs).zipIdx.foldl (fun q u => insertLs { e with part := u.2, kind := .store u.1 (lanesIn u.1) } q) s.lsq } := by
  set v := (bs.foldl (fun ls b => setIns (b.pa / 64) ls) []).foldl (fun s k => s.l1Fill (coreOf e.g) (64 * k) []) s with hv
  have hk : s.KeepsMem v := State.KeepsMem.foldl (fun s k => State.l1Fill_keeps s _ _ _) _ s
  refine ⟨v, hk, ?_⟩
  rw [← hk.lsq]
  exact State.foldl_push _ _ v

theorem State.sendStore_eq {t : State} {x : At} {G : Group} {l0 : Nat} (hG : t.group? x.g = some G) {m : Word} (hm : lowest m = some l0)
    (n : Nat) (rel : Bool) (va : Nat → DWord) (bs : List (List StByte)) : ∃ (v : State) (gs : AMap Group), t.KeepsMem v ∧
    t.sendStore x n rel va m bs = { v with groups := gs, lsq := (storeUnits n (mergeBytes bs)).zipIdx.foldl (fun q u => insertLs
      { g := x.g, lane := l0, seq := x.seq, part := u.2, pc := x.pc, ctx := G.ctx, rel, va := va l0, kind := .store u.1 (lanesIn u.1) } q) t.lsq } := by
  obtain ⟨v, hk, hp⟩ := State.pushStore_eq t n { g := x.g, lane := l0, seq := x.seq, pc := x.pc, ctx := G.ctx, rel, va := va l0, kind := .store [] 0 }
    (mergeBytes bs)
  simp only [State.sendStore, hG, hm]
  split
  · exact ⟨v, _, hk, by rw [hp]; rfl⟩
  · exact ⟨v, v.groups, hk, hp⟩

theorem State.sendStore_zero (t : State) (x : At) (n : Nat) (rel : Bool) (va : Nat → DWord) (bs : List (List StByte)) :
    t.sendStore x n rel va 0 bs = t := by
  unfold State.sendStore
  split
  · next h => cases h
  · rfl

theorem State.sendStore_mem (t : State) (x : At) (n : Nat) (rel : Bool) (va : Nat → DWord) (m : Word) (bs : List (List StByte)) :
    (t.sendStore x n rel va m bs).mem = t.mem := by
  cases hG : t.group? x.g with
  | none => simp only [State.sendStore, hG]
  | some G =>
    cases hm : lowest m with
    | none => simp only [State.sendStore, hG, hm]
    | some l0 =>
      obtain ⟨v, gs, hk, e⟩ := State.sendStore_eq hG hm n rel va bs
      rw [e]
      exact hk.mem

theorem State.check_ok_translated {s u : State} {x : At} {l n : Nat} {va : DWord} {a : Acc} {pas : List Nat}
    (h : s.check x l n va a = (u, .ok pas)) : Translated s u := by
  unfold State.check at h
  split at h
  · cases h
  · next G _ =>
    have ht := State.xlateFor_translated s a.plain (via x.g G) va n a.right (some G.pkr)
    split at h
    · next hx =>
      rw [hx] at ht
      obtain ⟨rfl, -⟩ := Prod.mk.inj h
      exact ht
    · simp only at h
      split at h <;> cases h

/-- The lanes of a store that pass are of those that were asked; where all of them pass, nothing but their translations has happened. -/
theorem State.storeLanes_translated {x : At} {n : Nat} {va : Nat → DWord} {a : Nat → Acc} {data : Nat → List Byte} :
    ∀ (ls : List Nat) {s t : State} {m : Word} {bs : List (List StByte)} {rs : AMap Rec}, ls.Nodup → s.storeLanes x n va a data ls = (t, m, bs, rs) →
      (∀ l, inMask m l = true → l ∈ ls) ∧ ((∀ l ∈ ls, inMask m l = true) → Translated s t)
  | [], s, t, m, bs, rs, _, h => by
    obtain ⟨rfl, hm⟩ := Prod.mk.inj h
    obtain ⟨rfl, -⟩ := Prod.mk.inj hm
    exact ⟨fun l hl => Bool.noConfusion ((inMask_zero l).symm.trans hl), fun _ => .refl s⟩
  | l0 :: ls, s, t, m, bs, rs, hn, h => by
    obtain ⟨hl0, hn⟩ := List.nodup_cons.1 hn
    have hbit : ∀ l, inMask (1 <<< l0 : Word) l = true → l = l0 := fun l hl => by
      have hl32 := inMask_lt hl
      rw [inMask, getLsbD_one_bit _ _ hl32, decide_eq_true_eq] at hl
      exact hl.symm
    rw [State.storeLanes] at h
    split at h
    · next u pas hc =>
      obtain ⟨t', m', bs', rs', h'⟩ : ∃ t' m' bs' rs', u.storeLanes x n va a data ls = (t', m', bs', rs') := ⟨_, _, _, _, rfl⟩
      obtain ⟨hin, ht⟩ := State.storeLanes_translated ls hn h'
      rw [h'] at h
      simp only [Prod.mk.injEq] at h
      obtain ⟨rfl, rfl, -, -⟩ := h
      refine ⟨fun l hl => ?_, fun hall => (State.check_ok_translated hc).trans (ht fun l hl => ?_)⟩
      · rw [inMask_or, Bool.or_eq_true] at hl
        exact List.mem_cons.2 (hl.elim (fun h => .inr (hin l h)) fun h => .inl (hbit l h))
      · have := hall l (List.mem_cons_of_mem _ hl)
        rw [inMask_or, Bool.or_eq_true] at this
        exact this.resolve_right fun h => hl0 (hbit l h ▸ hl)
    · next u r hc =>
      obtain ⟨t', m', bs', rs', h'⟩ : ∃ t' m' bs' rs', u.storeLanes x n va a data ls = (t', m', bs', rs') := ⟨_, _, _, _, rfl⟩
      obtain ⟨hin, -⟩ := State.storeLanes_translated ls hn h'
      rw [h'] at h
      simp only [Prod.mk.injEq] at h
      obtain ⟨-, rfl, -, -⟩ := h
      exact ⟨fun l hl => List.mem_cons_of_mem _ (hin l hl), fun hall => absurd (hin l0 (hall l0 List.mem_cons_self)) hl0⟩

theorem nodup_lanesOf (m : Word) : (lanesOf m).Nodup := List.nodup_range.filter _

/-! ### A store of a bundle -/

theorem addrFault_isSome {va : DWord} {n : Nat} {k : Kind} : (addrFault va n k).isSome = true ↔ ¬ (va.toNat % n = 0 ∧ canonical va = true) := by
  unfold addrFault
  by_cases h1 : va.toNat % n = 0
  · by_cases h2 : canonical va = true <;> simp [h1, h2]
  · simp [h1]

theorem State.raise_zero (s : State) (x : At) (r : Nat → Rec) : s.raise x 0 r = s := by
  unfold State.raise
  split
  · rfl
  · simp

theorem State.raiseAll_eq_raise (s : State) (x : At) (m : Word) (f : Nat → Option Rec) (h : ∀ l, inMask m l = true → (f l).isSome = true) :
    s.raiseAll x m f = s.raise x m fun l => (f l).getD { cause := .misaligned } := by
  rw [State.raiseAll, maskOf_eq (m := m) (fun l hl => by rw [hl, h l hl]; rfl) fun l hl => (Bool.and_eq_true_iff.1 hl).1]

theorem State.raiseAll_zero (s : State) (x : At) (f : Nat → Option Rec) : s.raiseAll x 0 f = s := by
  rw [State.raiseAll_eq_raise s x 0 f fun l hl => Bool.noConfusion ((inMask_zero l).symm.trans hl), State.raise_zero]

/-- Without direct traps, only the lanes that failed at the issue trap. -/
theorem State.raiseBoth_nil (s : State) (x : At) (m : Word) (f : Nat → Option Rec) : s.raiseBoth x m f [] = s.raiseAll x m f := by
  have h0 : (maskOf fun l => (AMap.get? ([] : AMap Rec) l).isSome) = 0 :=
    maskOf_eq (fun l hl => Bool.noConfusion ((inMask_zero l).symm.trans hl)) fun l hl => by cases hl
  rw [State.raiseBoth, h0]
  simp

/-- The lanes of a store that fail a check at its issue. -/
def storeFails (N : Word) (va : Nat → DWord) (n : Nat) : Word := maskOf fun l => inMask N l && (addrFault (va l) n .write).isSome

theorem inMask_storeFails (N : Word) (va : Nat → DWord) (n l : Nat) :
    inMask (storeFails N va n) l = true ↔ inMask N l = true ∧ ¬ ((va l).toNat % n = 0 ∧ canonical (va l) = true) := by
  rw [storeFails, inMask_maskOf]
  simp only [Bool.and_eq_true, decide_eq_true_eq, addrFault_isSome]
  exact ⟨fun h => h.2, fun h => ⟨inMask_lt h.1, h⟩⟩

/-- Every counted lane of a plain store fails: they trap, and nothing leaves. -/
theorem State.storeOp_of_all_fail (s : State) (x : At) (n : Nat) (rel : Bool) (va : Nat → DWord) (data : Nat → List Byte)
    (h : storeFails x.N va n = x.N) : s.storeOp x n rel false va data = s.raiseAll x x.N fun l => addrFault (va l) n .write := by
  have hN : x.N &&& ~~~x.N = 0 := mask_ext fun l _ => by rw [inMask_and_not, inMask_zero, Bool.and_not_self]
  have hl : lanesOf (x.N &&& ~~~x.N) = [] := by rw [hN]; rfl
  simp only [storeFails] at h
  simp only [State.storeOp, h, hl, State.storeLanes, State.sendStore_zero, State.raiseBoth_nil, Bool.false_and, Bool.false_eq_true, if_false]

/-- Some lane of a scatter fails: it takes effect in none. -/
theorem State.storeOp_of_scatter_fail (s : State) (x : At) (n : Nat) (rel : Bool) (va : Nat → DWord) (data : Nat → List Byte)
    (h : storeFails x.N va n ≠ 0) :
    s.storeOp x n rel true va data = s.divergentFault x (storeFails x.N va n) fun l => addrFault (va l) n .write := by
  simp only [storeFails] at h ⊢
  simp only [State.storeOp, Bool.true_and, bne_iff_ne, ne_eq, h, not_false_eq_true, if_true]

/-- Every lane of a store passes: it leaves, and the lanes of a scatter without a marker go on in cohorts. -/
theorem State.storeOp_of_pass {s t : State} {x : At} {n : Nat} {rel scat : Bool} {va : Nat → DWord} {data : Nat → List Byte} {bs : List (List StByte)}
    (h : storeFails x.N va n = 0) (hNT : ∀ l, inMask x.N l = true → inMask x.T l = true)
    (ht : s.storeLanes x n va (fun l => .store n (data l) rel scat []) data (lanesOf x.N) = (t, x.N, bs, [])) :
    s.storeOp x n rel scat va data =
      if (scat && !x.h.mark) = true then ((t.sendStore x n rel va x.N bs).addPend x .scat noDest ((lanesOf x.T).map fun l => (l, .back []))).waitLanes x x.T
        fun _ => .gath x.seq
      else t.sendStore x n rel va x.N bs := by
  have hN : x.N &&& ~~~(0 : Word) = x.N := mask_ext fun l _ => by rw [inMask_and_not, inMask_zero, Bool.not_false, Bool.and_true]
  have hT : x.N ||| (x.T &&& ~~~x.N) = x.T := mask_ext fun l _ => by
    rw [inMask_or, inMask_and_not]
    have := hNT l
    cases hn : inMask x.N l <;> simp_all
  simp only [storeFails] at h
  simp only [State.storeOp, h, hN, ht, hT, State.raiseBoth_nil, State.raiseAll_zero, bne_self_eq_false, Bool.and_false, Bool.false_eq_true, if_false]

theorem advance_group {s : State} {h : Hdr} {G : Group} {x : At} (a : AtOf s h G x) : (s.advance x).group? x.g = some (advanced s x G) := by
  rw [State.advance_eq, State.group?_updGroup_self, show s.bump.group? x.g = some G from a.g ▸ a.group]
  rfl

theorem advance_addrs {s : State} {h : Hdr} {G : Group} {x : At} (i : AtOf s h G x) (a : Reg) (disp : Word) :
    (s.advance x).addrs x a disp = fun l => G.reg64 l a + disp.signExtend 64 := by
  funext l
  simp only [State.addrs, advance_group i, Group.addr, dispAdd, advanced_reg64]

theorem advance_datas {s : State} {h : Hdr} {G : Group} {x : At} (i : AtOf s h G x) (b : Reg) (w n : Nat) :
    (s.advance x).datas x b w n = fun l => (wordsBytes ((List.range w).map fun i => G.reg l b i)).take n := by
  funext l
  simp only [State.datas, advance_group i, Group.data, advanced_regs']
  rfl

/-- Settles O21: the shape of a store (`storeOp_of_…`), its bytes (`find?_mergeBytes`, `mem_mergeBytes_lanes`), and what its
translations leave (`storeLanes_translated`). -/
theorem globalStores : Obligations.GlobalStores := by
  intro s h a b disp G x va r
  have key : ∀ (w n : Nat) (rel scat : Bool), r w n rel scat (stOp s h a b disp w n rel scat) := by
    intro w n rel scat i
    have at' := atOf i.bundle
    have hfail := inMask_storeFails x.N va n
    rw [stOp, issue_next i, advance_addrs at', advance_datas at']
    beta_reduce
    refine ⟨?_, ?_, ?_⟩
    · rintro rfl hbad
      have hN : storeFails x.N va n = x.N := mask_ext fun l _ => Bool.eq_iff_iff.2 ((hfail l).trans ⟨And.left, fun hl => ⟨hl, hbad l hl⟩⟩)
      rw [State.storeOp_of_all_fail _ x n rel va _ hN]
    · rintro rfl ⟨l, hl, hbad⟩
      have hN : storeFails x.N va n ≠ 0 := fun h0 => by
        have := (hfail l).2 ⟨hl, hbad⟩
        rw [h0, inMask_zero] at this
        cases this
      have hm : (maskOf fun l => inMask x.N l && !decide ((va l).toNat % n = 0 ∧ canonical (va l) = true)) = storeFails x.N va n := by
        refine maskOf_eq (fun l hl => ?_) fun l hl => (hfail l).2 ?_
        · simpa only [Bool.and_eq_true, Bool.not_eq_true', decide_eq_false_iff_not] using (hfail l).1 hl
        · simpa only [Bool.and_eq_true, Bool.not_eq_true', decide_eq_false_iff_not] using hl
      rw [State.storeOp_of_scatter_fail _ x n rel va _ hN, hm]
    · intro hok t bs ht
      have hN : storeFails x.N va n = 0 := mask_ext fun l _ => by
        rw [inMask_zero, Bool.eq_false_iff]
        exact fun hl => ((hfail l).1 hl).2 (hok l ((hfail l).1 hl).1)
      have htr := (State.storeLanes_translated _ (nodup_lanesOf x.N) ht).2 fun l hl => mem_lanesOf.1 hl
      refine ⟨htr, ⟨?_, State.sendStore_mem t x n rel va x.N bs⟩, fun l0 hl0 => ⟨mergeBytes bs, find?_mergeBytes bs,
        fun e he y hy l hl => mem_mergeBytes_lanes he hy hl, ?_⟩⟩
      · rw [State.storeOp_of_pass hN (fun l => at'.inT) ht, at'.h]
        simp only [Bool.and_eq_true, Bool.not_eq_true']
      · obtain ⟨H, hH, hu⟩ := htr.keepsRun.group (advance_group at')
        have hctx : H.unwatched.ctx = (advanced s x G).unwatched.ctx := congrArg Group.ctx hu
        replace hctx : H.ctx = G.ctx := hctx
        obtain ⟨v, gs, -, e⟩ := State.sendStore_eq hH hl0 n rel va bs
        have hl : t.lsq = s.lsq := htr.lsq
        rw [e, hctx, hl]
  exact ⟨key 1 1 false false, key 1 2 false false, key 1 4 false false, key 2 8 false false, key 4 16 false false,
    key 1 4 true false, key 2 8 true false, key 1 4 false true, key 2 8 false true⟩

end Sys2Proof.Machine
end

section
/-! SUPPORT. Where the marks of superseded words (R22) meet: bit 4L + W of the mask stands for word W of lane L, so word 4 of a lane and
word 0 of the next lane have one bit. -/

namespace Sys2Proof.Machine

/-- An outstanding result of eight words, v0 to v7, with nothing marked. -/
def eightWords : Pend :=
  { seq := 0, pc := 0, kind := .value, dest := { reg := some (.inl (.v 0)), w := 8 }, pkr := 0, supplier := none, lanes := [] }

/-- A later write of v4 in lane 0 marks word 0 of lane 1. -/
theorem supersede_eightWords : ∀ p ∈ supersede [eightWords] 1 1 (.inl (.v 4)), p.disc.getLsbD (4 * 1 + 0) = true := by decide

/-- Refutes O25, in its last clause: nothing there bounds the width of the destination, and a write of word 4 of a result in lane 0 marks
word 0 of lane 1, where the write does not reach. No instruction has such a result; the other clauses do not come into it. -/
theorem not_commitsInOrder : ¬ Obligations.CommitsInOrder := by
  rintro ⟨-, -, h⟩
  obtain ⟨p, hp, -, hbits⟩ := h [eightWords] 1 1 (.inl (.v 4)) eightWords List.mem_cons_self
  have hclaim : p.disc.getLsbD (4 * 1 + 0) = false := by
    rw [hbits 1 0 (by omega) (by omega)]
    decide
  exact absurd ((supersede_eightWords p hp).symm.trans hclaim) Bool.noConfusion

end Sys2Proof.Machine
end

section
/-! SUPPORT. Special registers and protection keys (R13 to R16, R302 to R304): what SRD, SWR, KEYW and KEYR leave. -/

namespace Sys2Proof.Machine

/-! ### What a fixed-latency write does to its group -/

@[simp] theorem Group.length_write (G : Group) (seq : Nat) (T N : Word) (d : Reg) (w : Nat) (f : Nat → List Word) :
    (G.write seq T N d w f).lanes.length = G.lanes.length := by
  cases d with
  | v n => simp [Group.write]
  | s n =>
    cases h : lowest N with
    | none => simp only [Group.write, h]
    | some k => simp only [Group.write, h]; rw [Group.setSs_frame]

theorem Group.lane_write (G : Group) (seq : Nat) (T N : Word) (d : Reg) (w : Nat) (f : Nat → List Word) {l : Nat} (hl : l < G.lanes.length) :
    (G.write seq T N d w f).lane l = if inMask T l then vWrite d f l (G.lane l) else G.lane l := by
  cases d with
  | v n => exact Group.lane_updLanes G T (fun l L => L.setVs n.val (f l)) l hl
  | s n =>
    rw [vWrite, ite_self]
    cases h : lowest N with
    | none => simp only [Group.write, h]
    | some k => simp only [Group.write, h]; rw [Group.setSs_frame]; rfl

theorem Group.undisc_write (G : Group) (seq : Nat) (T N : Word) (d : Reg) (w : Nat) (f : Nat → List Word) :
    ((G.write seq T N d w f).pend.map fun p => { p with disc := 0 }) = G.pend.map fun p => { p with disc := 0 } := by
  cases d with
  | v n => exact supersedeN_undisc _ _ _ _ _
  | s n =>
    cases h : lowest N with
    | none => simp only [Group.write, h]
    | some k => simp only [Group.write, h]; exact supersedeN_undisc _ _ _ _ _

theorem Group.write_frame (G : Group) (seq : Nat) (T N : Word) (d : Reg) (w : Nat) (f : Nat → List Word) :
    G.write seq T N d w f = { G with lanes := (G.write seq T N d w f).lanes, s := (G.write seq T N d w f).s, pend := (G.write seq T N d w f).pend } := by
  cases d with
  | v n => rfl
  | s n =>
    cases h : lowest N with
    | none => simp only [Group.write, h]
    | some k => simp only [Group.write, h]; rw [Group.setSs_frame]

/-- The scalar registers after a write are those that the statements name. -/
theorem Group.write_s {s : State} {G : Group} {x : At} (d : Reg) (w : Nat) (f : Nat → List Word) :
    ((advanced s x G).write x.seq x.T x.N d w f).s = sWrite G x d f := by
  cases d with
  | v n => simp only [Group.write, sWrite]; rfl
  | s n =>
    cases h : lowest x.N with
    | none => simp only [Group.write, sWrite, h]; rfl
    | some k => simp only [Group.write, sWrite, h]; exact Group.setSs_s (G := G) (G' := advanced s x G) rfl _ _

/-! ### SRD and SWR (R13 to R16, R302) -/

/-- What SRD reads does not depend on the lanes' own advance. -/
theorem special_advanced (s : State) (x : At) {G : Group} {T : Team} (n : SpecReg) :
    (fun l => [(s.advance x).special x.g (advanced s x G) T n l]) = fun l => [s.special x.g G T n l] := by
  funext l
  have hl : ∀ f : Lane → Word, (∀ L : Lane, f (L.moveOn x (s.now x.g)) = f L) → f ((advanced s x G).lane l) = f (G.lane l) := fun f hf => by
    by_cases h : l < G.lanes.length
    · have := Group.lane_updLanes G x.B (fun _ L => L.moveOn x (s.now x.g)) l h
      simp only [Group.lane] at this
      simp only [advanced, Group.lane, this]
      split
      · exact hf _
      · rfl
    · rw [Group.lane_of_ge G (Nat.le_of_not_lt h), Group.lane_of_ge (advanced s x G) (by simpa [advanced] using h)]
  cases n with
  | thread => exact congrArg (fun w => [w]) (hl (fun L => threadWord T.idx G.idx l L.helper) fun _ => rfl)
  | cychi => exact congrArg (fun w => [w]) (hl (fun L => L.cychi) fun _ => rfl)
  | sptlo => exact congrArg (fun w => [w]) (hl (fun L => loWord L.spt) fun _ => rfl)
  | spthi => exact congrArg (fun w => [w]) (hl (fun L => hiWord L.spt) fun _ => rfl)
  | rsdepth => exact congrArg (fun w => [w]) (hl (fun L => BitVec.ofNat 32 L.rs.length) fun _ => rfl)
  | place | cluster | clcount | karglo | karghi | cyclo | pkrlo | pkrhi => rfl

theorem special_thread (s : State) (g : Nat) (G : Group) (T : Team) (l : Nat) : s.special g G T .thread l =
    BitVec.ofNat 32 ((if (G.lane l).helper then 2 ^ 14 else 0) + T.idx % 4 * 2 ^ 12 + G.idx % 16 * 32 + l % 32) := by
  simp only [State.special, threadWord]
  cases (G.lane l).helper <;> rfl

theorem loWord_eq (w : DWord) : loWord w = BitVec.ofNat 32 w.toNat := by
  apply BitVec.eq_of_toNat_eq
  simp [loWord]

theorem hiWord_eq (w : DWord) : hiWord w = BitVec.ofNat 32 (w.toNat / 2 ^ 32) := by
  apply BitVec.eq_of_toNat_eq
  simp [hiWord, Nat.shiftRight_eq_div_pow]

/-- SRD of another register than CYCLO. -/
theorem execSrd_lands {s : State} {h : Hdr} {d : Reg} {G : Group} {x : At} {T : Team} (i : Issues s h .core [(d, 1)] noHandles G x)
    (hT : s.team? G.team = some T) {n : SpecReg} (hn : n ≠ .cyclo) :
    Lands s G x d (fun l => [s.special x.g G T n l]) (execSrd h d n s) := by
  have a := atOf i.bundle
  have hb : execSrd h d n s = issue s h .core [(d, 1)] noHandles fun u y => u.result y d 1 fun G l => [(s.advance x).special x.g G T n l] := by
    rw [execSrd, issue_next i, issue_next i]
    simp only [advance_group a, show (s.advance x).team? (advanced s x G).team = some T from hT, hn, if_false]
  rw [hb]
  exact lands_of i (special_advanced s x n)

/-- A result, and then a change of the lanes that took part. -/
theorem wrote_write_then {s : State} {h : Hdr} {G : Group} {x : At} (a : AtOf s h G x) (d : Reg) (w : Nat) (ws : Nat → List Word)
    (k : Nat → Lane → Lane) :
    Wrote s (s.bump.updGroup x.g fun G => ((advanced s x G).write x.seq x.T x.N d w ws).updLanes x.T k) G x
      (fun l L => k l (vWrite d ws l L)) (sWrite G x d ws) := by
  refine wrote_of (F := fun G => (G.write x.seq x.T x.N d w ws).updLanes x.T k) a (by simp) (fun l hl => ?_) (Group.write_s d w ws)
    (Group.undisc_write _ _ _ _ _ _ _) ?_
  · rw [Group.lane_updLanes _ _ _ _ (by simpa using hl), Group.lane_write _ _ _ _ _ _ _ (by simpa using hl)]
    split <;> rfl
  · have := Group.write_frame (advanced s x G) x.seq x.T x.N d w ws
    simp only [Group.updLanes]
    rw [this]

/-- The lanes of an issue go on as one, whatever else of them changes. -/
theorem straight_updLanes {s : State} {h : Hdr} {G H : Group} {x : At} (a : AtOf s h G x) {k : Nat → Lane → Lane}
    (hlen : H.lanes.length = G.lanes.length)
    (hk : ∀ l, inMask x.B l = true → let L := (advanced s x G).lane l
      let M := if inMask x.T l then k l (H.lane l) else H.lane l
      M.pc = L.pc ∧ M.wait = L.wait ∧ M.live = L.live ∧ M.traps = L.traps) : Straight x G (H.updLanes x.T k) :=
  straight_of a fun l hl => by
    rw [Group.lane_updLanes _ _ _ _ (by rw [hlen]; exact a.length hl)]
    exact hk l hl

theorem vWrite_keeps (d : Reg) (ws : Nat → List Word) (l : Nat) (L : Lane) :
    (vWrite d ws l L).pc = L.pc ∧ (vWrite d ws l L).wait = L.wait ∧ (vWrite d ws l L).live = L.live ∧ (vWrite d ws l L).traps = L.traps := by
  cases d with
  | v n => rw [vWrite, Lane.setVs_frame]; exact ⟨rfl, rfl, rfl, rfl⟩
  | s n => exact ⟨rfl, rfl, rfl, rfl⟩

/-- SRD of CYCLO also takes the snapshot that CYCHI gives (R16). -/
theorem execSrd_cyclo {s : State} {h : Hdr} {d : Reg} {G : Group} {x : At} {T : Team} (i : Issues s h .core [(d, 1)] noHandles G x)
    (hT : s.team? G.team = some T) :
    ∃ u, Wrote s u G x (fun l L => vWrite d (fun _ => [BitVec.ofNat 32 (s.now x.g)]) l { L with cychi := BitVec.ofNat 32 (s.now x.g / 2 ^ 32) })
        (sWrite G x d fun _ => [BitVec.ofNat 32 (s.now x.g)]) ∧ execSrd h d .cyclo s = .next (u.marked x) := by
  have a := atOf i.bundle
  set hi : Word := BitVec.ofNat 32 (s.now x.g / 2 ^ 32)
  set ws : Nat → List Word := fun _ => [BitVec.ofNat 32 (s.now x.g)]
  have hb : execSrd h d .cyclo s = issue s h .core [(d, 1)] noHandles fun u y =>
      u.updGroup y.g fun G => (G.write x.seq x.T x.N d 1 ws).updLanes x.T fun _ L => { L with cychi := hi } := by
    rw [execSrd, issue_next i, issue_next i]
    simp only [advance_group a, show (s.advance x).team? (advanced s x G).team = some T from hT, if_true, State.result, State.updGroup_updGroup]
    rfl
  have hst : Straight x G (((advanced s x G).write x.seq x.T x.N d 1 ws).updLanes x.T fun _ L => { L with cychi := hi }) := by
    refine straight_updLanes a (by simp) fun l hl => ?_
    rw [Group.lane_write _ _ _ _ _ _ _ (by simpa using a.length hl)]
    split
    · exact vWrite_keeps d ws l _
    · exact ⟨rfl, rfl, rfl, rfl⟩
  have hcomm : (fun l L => { vWrite d ws l L with cychi := hi }) = fun l L => vWrite d ws l { L with cychi := hi } := by
    cases d <;> rfl
  refine ⟨_, hcomm ▸ wrote_write_then a d 1 ws fun _ L => { L with cychi := hi }, ?_⟩
  rw [hb]
  exact issue_straight i (F := fun G => (G.write x.seq x.T x.N d 1 ws).updLanes x.T fun _ L => { L with cychi := hi }) rfl hst

theorem writeSpt_eq (L : Lane) (hi : Bool) (w : Word) :
    L.writeSpt hi w = { L with spt := BitVec.ofNat 64 (if hi then L.spt.toNat % 2 ^ 32 + 2 ^ 32 * w.toNat
      else L.spt.toNat / 2 ^ 32 * 2 ^ 32 + w.toNat / 8 * 8) } := by
  have hs := L.spt.isLt
  have hw := w.isLt
  have h7 : (w &&& ~~~(7 : Word)).toNat = w.toNat / 8 * 8 := by
    have : w &&& ~~~(7 : Word) = w >>> 3 <<< 3 := by
      apply BitVec.eq_of_getLsbD_eq
      intro k hk
      simp only [BitVec.getLsbD_and, BitVec.getLsbD_not, BitVec.getLsbD_shiftLeft, BitVec.getLsbD_ushiftRight, hk, decide_true, Bool.true_and]
      have h7b : ∀ j, j < 32 → (7 : Word).getLsbD j = decide (j < 3) := by decide
      rw [h7b k hk]
      by_cases h3 : k < 3
      · simp [h3]
      · simp [h3, show 3 + (k - 3) = k by omega]
    rw [this, BitVec.toNat_shiftLeft, BitVec.toNat_ushiftRight, Nat.shiftRight_eq_div_pow, Nat.shiftLeft_eq]
    omega
  rw [Lane.writeSpt]
  congr 1
  apply BitVec.eq_of_toNat_eq
  cases hi
  · simp only [Bool.false_eq_true, if_false, pairOf, hiWord, toNat_append_eq_add, h7, BitVec.extractLsb'_toNat, BitVec.toNat_ofNat, Nat.shiftRight_eq_div_pow]
    omega
  · simp only [if_true, pairOf, loWord, toNat_append_eq_add, BitVec.extractLsb'_toNat, BitVec.toNat_ofNat, Nat.shiftRight_eq_div_pow]
    omega

/-- SWR replaces a half of SPT in the lanes that take part (R16). -/
theorem execSwr_wrote {s : State} {h : Hdr} {hi : Bool} {a : Reg} {G : Group} {x : At} (i : Issues s h .core [(a, 1)] noHandles G x) :
    ∃ u, Wrote s u G x (fun l L => { L with spt := BitVec.ofNat 64 (if hi then L.spt.toNat % 2 ^ 32 + 2 ^ 32 * (G.reg l a 0).toNat
        else L.spt.toNat / 2 ^ 32 * 2 ^ 32 + (G.reg l a 0).toNat / 8 * 8) }) G.s ∧
      execSwr h hi a s = .next (u.marked x) := by
  have at' := atOf i.bundle
  have hst : Straight x G ((advanced s x G).updLanes x.T fun l L => L.writeSpt hi ((advanced s x G).reg l a 0)) :=
    straight_updLanes at' (by simp) fun l _ => by
      split <;> exact ⟨rfl, rfl, rfl, rfl⟩
  refine ⟨_, ?_, issue_straight i (F := fun G => G.updLanes x.T fun l L => L.writeSpt hi (G.reg l a 0)) rfl hst⟩
  refine wrote_of (F := fun G => G.updLanes x.T fun l L => L.writeSpt hi (G.reg l a 0)) at' (by simp) (fun l hl => ?_) rfl rfl rfl
  rw [Group.lane_updLanes _ _ _ _ (by simpa using hl), advanced_reg, writeSpt_eq]

/-! ### KEYW and KEYR (R303, R304) -/

/-- What the lanes' own advance leaves. -/
theorem moved_advance {s : State} {h : Hdr} {G : Group} {x : At} (a : AtOf s h G x) : Moved s (s.advance x) G x keep := by
  refine ⟨rfl, fun k hk => by rw [State.advance_eq, State.group?_updGroup, if_neg (Ne.symm hk)]; rfl, advanced s x G, advance_group a, fun l => ?_, rfl⟩
  simp only [keep, ite_self]
  by_cases hB : inMask x.B l = true
  · rw [if_pos hB, advanced_lane_B a hB]
  · rw [if_neg hB]
    by_cases hl : l < G.lanes.length
    · have := Group.lane_updLanes G x.B (fun _ L => L.moveOn x (s.now x.g)) l hl
      rw [if_neg hB] at this
      exact this
    · rw [Group.lane_of_ge G (Nat.le_of_not_lt hl), Group.lane_of_ge (advanced s x G) (by simpa using hl)]

/-- An instruction without an effect only moves its lanes on. -/
theorem turns_of_issue {s : State} {h : Hdr} {site : Site} {regs : List (Reg × Nat)} {handles : State → Group → List (Nat × Bool)} {G : Group}
    {x : At} (i : Issues s h site regs handles G x) {body : State → At → State} (hb : body (s.advance x) x = s.advance x) :
    Turns s G x keep (issue s h site regs handles body) :=
  ⟨s.advance x, moved_advance (atOf i.bundle), by rw [issue_next i, hb]⟩

theorem yields_of_issue {s : State} {h : Hdr} {site : Site} {regs : List (Reg × Nat)} {handles : State → Group → List (Nat × Bool)} {G : Group}
    {x : At} (i : Issues s h site regs handles G x) {body : State → At → State} {op : State → State} (hb : body (s.advance x) x = op (s.advance x)) :
    Yields s G x op (issue s h site regs handles body) := by
  rw [Yields, issue_next i, hb]

theorem execKeyw_yields {s : State} {h : Hdr} {sa : SReg} {G : Group} {x : At} (i : Issues s h .core [(.s sa, 2)] noHandles G x) (hN : x.N ≠ 0) :
    Yields s G x (fun u => u.updGroup x.g fun G' => { G' with pkr := G.sreg64 sa.val }) (execKeyw h sa s) :=
  yields_of_issue i (by
    rw [if_neg hN]
    exact State.updGroup_congr (advance_group (atOf i.bundle)) rfl)

theorem execKeyw_turns {s : State} {h : Hdr} {sa : SReg} {G : Group} {x : At} (i : Issues s h .core [(.s sa, 2)] noHandles G x) (hN : x.N = 0) :
    Turns s G x keep (execKeyw h sa s) :=
  turns_of_issue i (if_pos hN)

/-- A result of lanes that supply its destination becomes outstanding. -/
theorem pended_addPend {s : State} {h : Hdr} {G : Group} {x : At} (a : AtOf s h G x) (kind : PKind) (d : Reg) (w : Nat) (f : Nat → PLane)
    (hd : supplies x d) :
    Pended s ((s.advance x).addPend x kind { reg := some (.inl d), w } (pendLanes d x f)) G x keep (pendOf G x kind d w f) := by
  have hT : x.T ≠ 0 := by
    cases d with
    | v n => exact hd
    | s n =>
      intro h0
      refine hd (mask_ext fun l _ => ?_)
      rw [a.N, h0, inMask_and, inMask_zero, Bool.false_and]
  have hlanes : pendLanes d x f = (lanesOf x.T).map fun l => (l, f l) := by
    cases d with
    | v n => rfl
    | s n => exact if_neg hd
  have hne : ((lanesOf x.T).map fun l => (l, f l)).isEmpty = false := by
    rw [Bool.eq_false_iff, ne_eq, List.isEmpty_iff, List.map_eq_nil_iff]
    intro h0
    refine hT (mask_ext fun l _ => ?_)
    rw [inMask_zero, Bool.eq_false_iff]
    exact fun hl => List.not_mem_nil (h0 ▸ mem_lanesOf.2 hl)
  obtain ⟨hrest, hothers, K, hK, hlane, hframe⟩ := moved_advance a
  have hKeq : K = advanced s x G := Option.some.inj (hK.symm.trans (advance_group a))
  rw [State.addPend, State.addPendKey, hlanes, hne]
  refine ⟨rfl, fun k hk => ?_, { K with pend := K.pend ++ [pendOf G x kind d w f] }, ?_, hlane, ?_⟩
  · simp only [Bool.false_eq_true, if_false]
    rw [State.group?_updGroup, if_neg (Ne.symm hk), hothers k hk]
  · simp only [Bool.false_eq_true, if_false]
    rw [State.group?_updGroup_self, hK, hKeq]
    rfl
  · rw [hKeq]
    rfl

theorem execKeyr_pended {s : State} {h : Hdr} {d a : Reg} {disp : Word} {G : Group} {x : At} (i : Issues s h .core [(d, 1), (a, 2)] noHandles G x)
    (hd : supplies x d) :
    ∃ u, Pended s u G x keep (pendOf G x .keyr d 1 fun l => .waiting (G.reg64 l a + disp.signExtend 64)) ∧
      execKeyr h d a disp s = .next (u.close x G) := by
  have at' := atOf i.bundle
  refine ⟨_, pended_addPend at' .keyr d 1 _ hd, ?_⟩
  rw [execKeyr, issue_next i]
  simp only [advance_group at', Group.addr, dispAdd, advanced_reg64]

/-! ### The return of KEYR -/

theorem lanesOf_one_bit {l : Nat} (hl : l < 32) : lanesOf ((1 <<< l : Nat) : Word) = [l] := by
  have h : ∀ l, l < 32 → lanesOf ((1 <<< l : Nat) : Word) = [l] := by decide
  exact h l hl

theorem one_bit_ne_zero {l : Nat} (hl : l < 32) : ((1 <<< l : Nat) : Word) ≠ 0 := fun h => by
  have := lanesOf_one_bit hl
  rw [h] at this
  exact List.cons_ne_nil l [] (this.symm.trans rfl)

theorem farPoison_nil (s : State) : s.farPoison [] = s := rfl

theorem exec_keyr_return {s s' : State} {g idx l part : Nat} {stale : Bool} {G : Group} {p : Pend} {va : DWord} {f : Option Leaf}
    (hG : s.group? g = some G) (hp : G.pend[idx]? = some p) (hl : l < 32) (hw : AMap.get? p.lanes l = some (.waiting va)) (hk : p.kind = .keyr)
    (hheld : s.probeHeld (via g G) va = false) (hprobe : s.probe (via g G) va = (s', f)) :
    exec (.variableResultReturn g idx ((1 <<< l : Nat) : Word) ⟨stale, part, []⟩) s =
      .next (s'.setPLane g p.seq l (.back [(f.map fun e => keyrWord e p.pkr).getD 0])) := by
  show execVariableResultReturn g idx _ _ s = _
  cases f <;>
    simp only [execVariableResultReturn, farPoison_nil, hG, Option.bind_some, hp, hk, one_bit_ne_zero hl, if_false, lanesOf_one_bit hl, State.lanesReturn,
      State.laneReturn, hw, State.keyrReturn, hheld, hprobe, Bool.false_eq_true, event, Option.getD_some, Option.map_some, Option.map_none, Option.getD_none]

theorem b2n_le_one (b : Bool) : b2n b ≤ 1 := by cases b <;> decide

/-- KEYR's word: valid, and the level, the key's rights and the page's (R304). -/
theorem keyrWord_fields (f : Leaf) (pkr : DWord) (hf : f.lvl < 4) :
    (keyrWord f pkr).toNat / 2 ^ 31 = 1 ∧ (keyrWord f pkr).toNat / 2 ^ 22 % 512 = f.lvl ∧
      (keyrWord f pkr).toNat / 2 ^ 21 % 2 = b2n (pkr.getLsbD (2 * pteKey f.e + 1)) ∧
      (keyrWord f pkr).toNat / 2 ^ 20 % 2 = b2n (pkr.getLsbD (2 * pteKey f.e)) ∧
      (keyrWord f pkr).toNat / 2 % 8 = b2n (pteR f.e) + b2n (pteW f.e) * 2 + b2n (pteX f.e) * 4 := by
  have hk : pteKey f.e < 32 := Nat.mod_lt _ (by decide)
  have h0 := b2n_le_one (pkr.getLsbD (2 * pteKey f.e + 1))
  have h1 := b2n_le_one (pkr.getLsbD (2 * pteKey f.e))
  have h2 := b2n_le_one (pteHost f.e)
  have h3 := b2n_le_one (pteTier f.e)
  have h4 := b2n_le_one (pteD f.e)
  have h5 := b2n_le_one (pteA f.e)
  have h6 := b2n_le_one (pteX f.e)
  have h7 := b2n_le_one (pteW f.e)
  have h8 := b2n_le_one (pteR f.e)
  simp only [keyrWord, BitVec.toNat_ofNat]
  generalize b2n (pkr.getLsbD (2 * pteKey f.e + 1)) = c0 at *
  generalize b2n (pkr.getLsbD (2 * pteKey f.e)) = c1 at *
  generalize pteKey f.e = k at *
  omega

end Sys2Proof.Machine
end

section
/-! SUPPORT. Maintenance (R305): what the memory side leaves alone, lines that are written back, ranges of addresses, and the settling of
O41. -/

namespace Sys2Proof.Machine

/-! ### The memory side changes nothing in front of it (R150 to R163) -/

/-- The machine in front of its memory: without cells, packets, and the counters of the device. -/
def State.ahead (s : State) : State :=
  { s with dram := [], dramPois := [], dramUe := [], packets := [], writes := [], portQ := [], pendPar := [], jobs := [], locks := [], dev := {} }

theorem State.ahead_foldl {α : Type} {f : State → α → State} (h : ∀ s a, (f s a).ahead = s.ahead) :
    ∀ (l : List α) (s : State), (l.foldl f s).ahead = s.ahead
  | [], _ => rfl
  | a :: l, s => (State.ahead_foldl h l (f s a)).trans (h s a)

@[simp] theorem State.ahead_setDram : ∀ (bs : List Byte) (s : State) (t off : Nat), (s.setDram t off bs).ahead = s.ahead
  | [], _, _, _ => rfl
  | b :: bs, s, t, off => State.ahead_setDram bs { s with dram := AMap.set 0 s.dram (dramKey t off) b } t (off + 1)

@[simp] theorem State.ahead_markWord (s : State) (t off : Nat) (b : Bool) : (s.markWord t off b).ahead = s.ahead := rfl

@[simp] theorem State.ahead_writeWord (s : State) (t off : Nat) (bs : List Byte) : (s.writeWord t off bs).ahead = s.ahead := by
  rw [State.writeWord, State.ahead_markWord, State.ahead_setDram]

@[simp] theorem State.ahead_setStack (s : State) (t : Nat) (f : StackHealth → StackHealth) : (s.setStack t f).ahead = s.ahead := by
  simp only [State.setStack]; split <;> rfl

@[simp] theorem State.ahead_meet (s : State) (t off : Nat) (e : EccState) : (s.meet t off e).ahead = s.ahead := by
  simp only [State.meet]
  split
  · rfl
  · cases e with
    | good => rfl
    | corrected => exact State.ahead_setStack s t _
    | uncorrectable => exact State.ahead_setStack { s with dramUe := _ } t _

@[simp] theorem State.ahead_meetAll (s : State) (t : Nat) (offs : List Nat) (es : List EccState) : (s.meetAll t offs es).ahead = s.ahead :=
  State.ahead_foldl (fun s (e : Nat × EccState) => State.ahead_meet s t e.1 e.2) _ s

@[simp] theorem State.ahead_rebuild (s : State) (t off : Nat) : (s.rebuild t off).ahead = s.ahead := by
  simp only [State.rebuild]
  split_ifs <;> simp

@[simp] theorem State.ahead_failPartners (s : State) (ps : List Nat) (off : Nat) : (s.failPartners ps off).ahead = s.ahead :=
  State.ahead_foldl (fun s k => by split <;> rfl) _ s

@[simp] theorem State.ahead_parityOnly (s : State) (t off : Nat) (b : Beat) : (s.parityOnly t off b).ahead = s.ahead := by
  simp only [State.parityOnly]
  split_ifs <;> simp

@[simp] theorem State.ahead_putWord (s : State) (t off : Nat) (b : Beat) : (s.putWord t off b).ahead = s.ahead := by
  simp only [State.putWord]
  split_ifs <;> simp

@[simp] theorem State.ahead_send (s : State) (p : Packet) : (s.send p).ahead = s.ahead := rfl

@[simp] theorem State.ahead_sendLocks (s : State) (j : Nat) (J : StripeJob) : (s.sendLocks j J).ahead = s.ahead :=
  State.ahead_foldl (fun s _ => State.ahead_send s _) _ _

@[simp] theorem State.ahead_startJob (s : State) (t : Nat) (p : Packet) (e : Option Nat) : (s.startJob t p e).ahead = s.ahead := by
  simp only [State.startJob]
  split
  · rfl
  · simp

@[simp] theorem State.ahead_repair (s : State) (t : Nat) (offs : List Nat) : (s.repair t offs).ahead = s.ahead := by
  simp only [State.repair]
  split_ifs
  · rfl
  · exact State.ahead_foldl (fun s off => State.ahead_rebuild s t off) _ s
  · rfl
  · simp

@[simp] theorem State.ahead_serveRead (s : State) (p : Packet) : (s.serveRead p).ahead = s.ahead := by
  simp only [State.serveRead]
  split_ifs <;> simp

@[simp] theorem State.ahead_ackWrite (s : State) (k : Nat) (p : Packet) : (s.ackWrite k p).ahead = s.ahead := rfl

theorem State.ahead_putWords (s : State) (t : Nat) (p : Packet) :
    (p.words.foldl (fun (s : State) w => s.putWord t w.2 (p.beat w.1)) s).ahead = s.ahead :=
  State.ahead_foldl (fun s (w : Nat × Nat) => State.ahead_putWord s t w.2 (p.beat w.1)) _ s

@[simp] theorem State.ahead_applyWrite (s : State) (k : Nat) (p : Packet) : (s.applyWrite k p).ahead = s.ahead := by
  have hw : ∀ news : List (List Byte), (p.words.foldl (fun s w =>
      if (p.beat w.1).pois = true then s.markWord p.target w.2 true else s.setDram p.target w.2 (news.getD w.1 [])) s).ahead = s.ahead :=
    fun news => State.ahead_foldl (fun s w => by split <;> simp) _ s
  simp only [State.applyWrite]
  split
  · rw [State.ahead_ackWrite, State.ahead_putWords]
  · split
    · rw [State.ahead_ackWrite, hw]
    · exact hw _

@[simp] theorem State.ahead_serveWrite (s : State) (k : Nat) : (s.serveWrite k).ahead = s.ahead := by
  simp only [State.serveWrite]
  split
  · rfl
  · split_ifs <;> simp [State.ahead_putWords]

@[simp] theorem State.ahead_accept (s : State) (p : Packet) : (s.accept p).ahead = s.ahead := by
  have hm : (if (p.late && p.budget != 0) = true then s.countMiss p.port else s).ahead = s.ahead := by split <;> rfl
  simp only [State.accept]
  split
  · exact (State.ahead_serveWrite _ _).trans hm
  · exact (State.ahead_serveRead _ _).trans hm

@[simp] theorem State.ahead_request (s : State) (p : Packet) : (s.request p).ahead = s.ahead := by
  simp only [State.request]
  split
  · simp
  · rfl

theorem State.request_caches (s : State) (p : Packet) : (s.request p).l1 = s.l1 ∧ (s.request p).l2 = s.l2 := by
  have h1 : (s.request p).ahead.l1 = s.ahead.l1 := congrArg State.l1 (State.ahead_request s p)
  have h2 : (s.request p).ahead.l2 = s.ahead.l2 := congrArg State.l2 (State.ahead_request s p)
  exact ⟨h1, h2⟩

/-! ### A line that is written back is clean (R151, R305) -/

/-- The line that is written back becomes clean, and the caches keep everything else. -/
theorem State.writeBack_caches (s : State) (line : Nat) :
    (s.writeBack line).l1 = s.l1 ∧ ∀ k, AMap.get? (s.writeBack line).l2 k =
      (AMap.get? s.l2 k).map fun l => if line = k then { l with dirty := false } else l := by
  have hid : ∀ k, (∀ l, AMap.get? s.l2 k = some l → line = k → l.dirty = false) →
      AMap.get? s.l2 k = (AMap.get? s.l2 k).map fun l => if line = k then { l with dirty := false } else l := fun k h => by
    cases hk : AMap.get? s.l2 k with
    | none => rfl
    | some l =>
      by_cases hl : line = k
      · have := h l hk hl
        cases l
        simp_all
      · simp [hl]
  simp only [State.writeBack]
  cases hl : AMap.get? s.l2 line with
  | none => exact ⟨rfl, fun k => hid k fun l hk hlk => by rw [← hlk, hl] at hk; cases hk⟩
  | some l =>
    by_cases hd : l.dirty = true
    · have hput : ∀ k, AMap.get? (AMap.put s.l2 line { l with dirty := false }) k =
          (AMap.get? s.l2 k).map fun l => if line = k then { l with dirty := false } else l := fun k => by
        rw [AMap.get?_put]
        by_cases hk : line = k
        · subst hk; simp [hl]
        · cases AMap.get? s.l2 k <;> simp [hk]
      simp only [hd, Bool.not_true, Bool.false_eq_true, if_false]
      split
      · exact ⟨(State.request_caches _ _).1, fun k => by rw [(State.request_caches _ _).2, hput]⟩
      · exact ⟨(State.request_caches _ _).1, fun k => by rw [(State.request_caches _ _).2, hput]⟩
      · exact ⟨rfl, hput⟩
    · simp only [Bool.eq_false_iff.2 hd, Bool.not_false, if_true]
      exact ⟨trivial, fun k => hid k fun l' hk hlk => by rw [← hlk, hl] at hk; cases hk; simpa using hd⟩

/-- After some lines have been written back, each of them is clean, and no line is new. -/
theorem State.foldl_writeBack_l2 : ∀ (ls : List Nat) (s : State) {k : Nat} {x : L2Line},
    AMap.get? (ls.foldl (fun s l => s.writeBack l) s).l2 k = some x → ∃ y, AMap.get? s.l2 k = some y ∧ (x.dirty = true → y.dirty = true ∧ k ∉ ls)
  | [], s, k, x, h => ⟨x, h, fun hd => ⟨hd, List.not_mem_nil⟩⟩
  | l :: ls, s, k, x, h => by
    obtain ⟨y, hy, hd⟩ := State.foldl_writeBack_l2 ls (s.writeBack l) h
    rw [(State.writeBack_caches s l).2 k] at hy
    obtain ⟨z, hz, hzy⟩ := Option.map_eq_some_iff.1 hy
    refine ⟨z, hz, fun hx => ?_⟩
    obtain ⟨hyd, hn⟩ := hd hx
    by_cases hlk : l = k
    · rw [if_pos hlk] at hzy
      rw [← hzy] at hyd
      cases hyd
    · rw [if_neg hlk] at hzy
      exact ⟨hzy ▸ hyd, fun hm => (List.mem_cons.1 hm).elim (fun h => hlk h.symm) hn⟩

theorem State.foldl_writeBack_l1 (ls : List Nat) (s : State) : (ls.foldl (fun s l => s.writeBack l) s).l1 = s.l1 := by
  induction ls generalizing s with
  | nil => rfl
  | cons l ls ih => rw [List.foldl_cons, ih, (State.writeBack_caches s l).1]

theorem AMap.mem_of_get? {β : Type} {m : AMap β} {a : Nat} {x : β} (h : AMap.get? m a = some x) : (a, x) ∈ m := by
  induction m with
  | nil => cases h
  | cons e m ih =>
    obtain ⟨k, v⟩ := e
    rw [AMap.get?] at h
    split at h
    · next hk => cases h; rw [hk]; exact List.mem_cons_self
    · exact List.mem_cons_of_mem _ (ih h)

/-! ### Ranges of addresses, modulo 2^64 (R305) -/

theorem meets_rangeOf {a len : DWord} (hlen : len ≠ 0) (lo : Nat) {n : Nat} (hn : 0 < n) :
    meets (rangeOf a len) lo n = false ↔
      ∀ i, i < len.toNat → (a.toNat + i) % 2 ^ 64 < lo ∨ lo + n ≤ (a.toNat + i) % 2 ^ 64 := by
  have ha := a.isLt
  have hl : 0 < len.toNat := Nat.pos_of_ne_zero fun h => hlen (BitVec.eq_of_toNat_eq h)
  have hm : ∀ rs : List (Nat × Nat), meets rs lo n = false ↔ ∀ r ∈ rs, r.2 ≤ lo ∨ lo + n ≤ r.1 := fun rs => by
    simp only [meets, List.any_eq_false, Bool.and_eq_true, decide_eq_true_eq]
    exact forall₂_congr fun r _ => by omega
  rw [hm, rangeOf]
  split
  · next he =>
    simp only [List.mem_singleton, forall_eq]
    refine ⟨fun h i hi => by rw [Nat.mod_eq_of_lt (by omega)]; omega, fun h => ?_⟩
    by_contra hc
    have := h (max lo a.toNat - a.toNat) (by omega)
    rw [Nat.mod_eq_of_lt (by omega)] at this
    omega
  · next he =>
    simp only [List.mem_cons, List.not_mem_nil, or_false, forall_eq_or_imp, forall_eq]
    refine ⟨fun ⟨h1, h2⟩ i hi => ?_, fun h => ⟨?_, ?_⟩⟩
    · by_cases hw : a.toNat + i < 2 ^ 64
      · rw [Nat.mod_eq_of_lt hw]; omega
      · rw [Nat.mod_eq_sub_mod (by omega), Nat.mod_eq_of_lt (by omega)]; omega
    · by_contra hc
      have := h (max lo a.toNat - a.toNat) (by omega)
      rw [Nat.mod_eq_of_lt (by omega)] at this
      omega
    · by_contra hc
      have := h (2 ^ 64 - a.toNat + lo) (by omega)
      rw [Nat.mod_eq_sub_mod (by omega), Nat.mod_eq_of_lt (by omega)] at this
      omega

/-! ### The maintenance instructions (R305) -/

/-- Bytes of a range that its leaf lets be read: what the statement says of a page. -/
def State.inRange (s : State) (ctx : Nat) (a len : DWord) (lo n : Nat) : Prop :=
  ∃ p ∈ s.rangePages ctx a len, pteR p.2.2.e = true ∧ 0 < n ∧
    p.2.2.pa (BitVec.ofNat 64 p.1) < lo + n ∧ lo < p.2.2.pa (BitVec.ofNat 64 p.1) + (p.2.1 - p.1)

theorem meets_physRanges {ps : List (Nat × Nat × Leaf)} {p : Nat × Nat × Leaf} (hp : p ∈ ps) {lo n : Nat}
    (h1 : p.2.2.pa (BitVec.ofNat 64 p.1) < lo + n) (h2 : lo < p.2.2.pa (BitVec.ofNat 64 p.1) + (p.2.1 - p.1)) : meets (physRanges ps) lo n = true :=
  List.any_eq_true.2 ⟨_, List.mem_map.2 ⟨p, hp, rfl⟩, by simp only [h1, h2, decide_true, Bool.and_self]⟩

theorem State.maintain_tlb (s : State) (core ctx : Nat) (a len : DWord) (e : TlbEntry) :
    e ∈ (s.maintain core ctx 0 a len).tlb ↔ e ∈ s.tlb ∧ (e.ctx = ctx → len ≠ 0 ∧ ∀ i, i < len.toNat →
      (a.toNat + i) % 2 ^ 64 < e.vpn * 2 ^ pageLog e.lvl ∨ (e.vpn + 1) * 2 ^ pageLog e.lvl ≤ (a.toNat + i) % 2 ^ 64) := by
  have hmem : e ∈ (s.maintain core ctx 0 a len).tlb ↔ e ∈ s.tlb ∧
      (e.ctx = ctx → ¬ (len = 0 ∨ meets (rangeOf a len) (e.vpn * 2 ^ pageLog e.lvl) (2 ^ pageLog e.lvl) = true)) := by
    simp only [State.maintain, State.dropTranslations, List.mem_filter]
    refine and_congr_right fun _ => ?_
    simp only [Bool.not_eq_true', Bool.and_eq_false_imp, beq_iff_eq, Bool.or_eq_false_iff, beq_eq_false_iff_ne, not_or, Bool.not_eq_true, ne_eq]
  rw [hmem]
  refine and_congr_right fun _ => imp_congr_right fun _ => ?_
  rw [not_or, Bool.not_eq_true]
  refine and_congr_right fun hlen => ?_
  rw [meets_rangeOf hlen _ (Nat.two_pow_pos _), Nat.succ_mul]

/-- A CACHEWB leaves every line of its range clean. -/
theorem State.maintain_clean (s : State) (core ctx : Nat) (a len : DWord) {line : Nat} {x : L2Line}
    (h : AMap.get? (s.maintain core ctx 1 a len).l2 line = some x) (hin : s.inRange ctx a len (64 * line) 64) : x.dirty = false := by
  obtain ⟨y, hy, hd⟩ := State.foldl_writeBack_l2 (s.linesIn ctx a len) s h
  rw [Bool.eq_false_iff]
  intro hx
  refine (hd hx).2 ?_
  obtain ⟨p, hp, hr, -, h1, h2⟩ := hin
  refine List.mem_map.2 ⟨(line, y), List.mem_filter.2 ⟨AMap.mem_of_get? hy, ?_⟩, rfl⟩
  exact meets_physRanges (List.mem_filter.2 ⟨hp, hr⟩) h1 h2

theorem not_inRange_of_not_meets {s : State} {ctx : Nat} {a len : DWord} {lo n : Nat}
    (h : meets (physRanges (s.rangePages ctx a len)) lo n = false) : ¬ s.inRange ctx a len lo n :=
  fun ⟨_, hp, _, _, h1, h2⟩ => Bool.noConfusion ((meets_physRanges hp h1 h2).symm.trans h)

/-- A CACHEINV keeps what the core's L1 owns and what other cores hold, and drops the words of its range else. -/
theorem State.mem_maintain_l1 (s : State) (core ctx : Nat) (a len : DWord) (e : Nat × L1Word) :
    e ∈ (s.maintain core ctx 2 a len).l1 ↔ e ∈ s.l1 ∧
      (e.1 / 2 ^ 46 ≠ core ∨ e.2.owned = true ∨ meets (physRanges (s.rangePages ctx a len)) (e.1 % 2 ^ 46 * 4) 4 = false) := by
  simp only [State.maintain, List.mem_filter, Bool.or_eq_true, bne_iff_ne, Bool.not_eq_true', or_assoc, ne_eq]

theorem State.mem_maintain_icache (s : State) (core ctx : Nat) (a len : DWord) (e : Nat × Word) :
    e ∈ (s.maintain core ctx 2 a len).icache ↔ e ∈ s.icache ∧ meets (physRanges (s.rangePages ctx a len)) (e.1 % 2 ^ 46 * 4) 4 = false := by
  simp only [State.maintain, List.mem_filter, Bool.not_eq_true']

theorem State.maintain_writeBack_keeps (s : State) (core ctx : Nat) (a len : DWord) : s.KeepsMem (s.maintain core ctx 1 a len) :=
  State.KeepsMem.foldl (f := fun s l => s.writeBack l) State.writeBack_keeps _ s

/-- Whether a release has to wait does not depend on the lanes' own advance. -/
theorem mustHold_advance {s : State} {h : Hdr} {G : Group} {x : At} (a : AtOf s h G x) (q : Nat) (m : Word) :
    (s.advance x).mustHold x.g q m = s.mustHold x.g q m := by
  have hG : s.group? x.g = some G := a.g ▸ a.group
  simp only [State.mustHold, State.loadsBefore, advance_group a, hG]
  rfl

theorem maintOp_yields {s : State} {h : Hdr} {sa : SReg} {b : SSrc} {G : Group} {x : At} (i : Issues s h .core ((.s sa, 2) :: ssrcReg b 1) noHandles G x)
    (hN : x.N ≠ 0) (what : Nat) :
    Yields s G x (fun u =>
      if s.mustHold x.g x.seq x.T ∨ u.maintHeld x.g what (G.sreg64 sa.val) ((G.ssrc b).setWidth 64) then
        u.holdAct x.g x.seq x.T x.T (.maint what (G.sreg64 sa.val) ((G.ssrc b).setWidth 64) x.T false)
      else
        let v := u.maintain (x.g / 64) G.ctx what (G.sreg64 sa.val) ((G.ssrc b).setWidth 64)
        if what = 1 ∧ v.wbDone G.ctx (G.sreg64 sa.val) ((G.ssrc b).setWidth 64) = false then
          v.holdAct x.g x.seq x.T x.T (.maint what (G.sreg64 sa.val) ((G.ssrc b).setWidth 64) x.T true)
        else v) (maintOp s h what sa b) := by
  have a := atOf i.bundle
  refine yields_of_issue i ?_
  simp only [advance_group a, hN, if_false, mustHold_advance a, Group.sreg64, advanced_sreg, advanced_ssrc, coreOf, Bool.or_eq_true, Bool.and_eq_true,
    Bool.not_eq_true', decide_eq_true_eq]
  rfl

/-- Settles O41, instruction by instruction: SRD and SWR (`execSrd_lands`, `execSrd_cyclo`, `execSwr_wrote`), KEYW and KEYR (`execKeyw_…`,
`execKeyr_pended`, `exec_keyr_return`, `keyrWord_fields`), and the maintenance (`maintOp_yields`, and what `maintain` leaves). -/
theorem specialRegistersAndKeys : Obligations.SpecialRegistersAndKeys := by
  refine ⟨fun s h G x T hT => ⟨fun d i => ?_, fun hi a i => execSwr_wrote i⟩,
    ⟨fun s h G x => ⟨fun sa i => ⟨execKeyw_yields i, execKeyw_turns i⟩, fun d a disp i hd => execKeyr_pended i hd⟩, ?_⟩,
    fun s h sa b G x i hN => ⟨maintOp_yields i hN 0, maintOp_yields i hN 1, maintOp_yields i hN 2⟩, ?_⟩
  · have key : ∀ (n : SpecReg) (v : Nat → Nat), n ≠ .cyclo → (∀ l, s.special x.g G T n l = BitVec.ofNat 32 (v l)) →
        Lands s G x d (fun l => [BitVec.ofNat 32 (v l)]) (exec (.srd h d n) s) := fun n v hn hv => by
      simp only [← hv]
      exact execSrd_lands i hT hn
    exact ⟨key _ _ (by decide) (special_thread s x.g G T), key _ _ (by decide) fun _ => rfl, key _ _ (by decide) fun _ => rfl, key _ _ (by decide) fun _ => rfl,
      key _ _ (by decide) fun _ => loWord_eq _, key _ _ (by decide) fun _ => hiWord_eq _, key _ _ (by decide) fun l => by rw [BitVec.ofNat_toNat, BitVec.setWidth_eq]; rfl,
      key _ _ (by decide) fun _ => loWord_eq _, key _ _ (by decide) fun _ => hiWord_eq _, key _ _ (by decide) fun _ => rfl,
      key _ _ (by decide) fun _ => loWord_eq _, key _ _ (by decide) fun _ => hiWord_eq _, execSrd_cyclo i hT⟩
  · intro s s' g idx l part stale G p va f hG hp hl hw hk hheld hprobe
    refine ⟨_, exec_keyr_return hG hp hl hw hk hheld hprobe, fun hf => by rw [hf]; rfl, fun e hf he => ?_⟩
    rw [hf]
    obtain ⟨h1, h2, h3, h4, h5⟩ := keyrWord_fields e p.pkr he
    refine ⟨h1, h2, h3, h4, h5.trans ?_⟩
    cases pteR e.e <;> cases pteW e.e <;> cases pteX e.e <;> rfl
  · intro s core ctx a len
    have hk := s.maintain_writeBack_keeps core ctx a len
    refine ⟨⟨rfl, rfl, rfl⟩, ⟨hk.mem, hk.groups, hk.lsq⟩, ⟨rfl, rfl, rfl⟩, rfl, rfl, State.foldl_writeBack_l1 _ s, rfl, rfl,
      s.maintain_tlb core ctx a len, fun line x hx hin => s.maintain_clean core ctx a len hx hin, fun e he => ?_, fun e he hc => ?_, fun e he => ?_⟩
    · obtain ⟨h1, h2⟩ := (s.mem_maintain_l1 core ctx a len e).1 he
      exact ⟨h1, fun hc ho => not_inRange_of_not_meets ((h2.resolve_left (not_not_intro hc)).resolve_left (by rw [ho]; decide))⟩
    · exact (s.mem_maintain_l1 core ctx a len e).2 ⟨he, hc.imp id .inl⟩
    · obtain ⟨h1, h2⟩ := (s.mem_maintain_icache core ctx a len e).1 he
      exact ⟨h1, not_inRange_of_not_meets h2⟩

end Sys2Proof.Machine
end

section
/-! SUPPORT. Which waiters of a fault entry act when it is answered (R299, R300): lanes are served from 31 down, and a lane beyond the 32 of a
group is served by nothing. -/

namespace Sys2Proof.Machine

/-- A group with one lane more than the hardware has; that lane waits for the service of a fetch. -/
def widerGroup : Group :=
  { ctx := 0, team := 0, idx := 0, regs := 8, lanes := List.replicate 32 {} ++ [{ wait := .fault 0 .fetch 0 none }] }

/-- The entry that the lane waits on, in the host's queue. -/
def widerFault : FaultEntry :=
  { va := 0, cause := .translation, sub := 0, kind := .fetch, src := .ls, ctx := 0, source := 0, waiters := [.lane 0 32], addr := some 0, queued := true }

/-- The host has written RESOLVED in the entry's REPLY word. -/
def widerState : State := { mem := [(0x14, 1)], groups := [(0, widerGroup)], faults := [[widerFault]] }

/-- Whether an outcome leaves lane 32 of group 0 waiting as it was. -/
def leavesWaiting (o : Host.Outcome State Fault Refusal) : Bool := match o with
  | .next t => (t.lane 0 32).wait == .fault 0 .fetch 0 none
  | _ => false

theorem widerState_reply : leavesWaiting (exec (.faultReply 0 0 true) widerState) = true := by decide +kernel

theorem widerGroup_lane (k : Nat) : (widerGroup.lane k).due = none ∧ (k ≠ 32 → (widerGroup.lane k).wait = .none) := by
  have h : ∀ k, k < 33 → (widerGroup.lane k).due = none ∧ (k ≠ 32 → (widerGroup.lane k).wait = .none) := by decide
  by_cases hk : k < 33
  · exact h k hk
  · rw [Group.lane_of_ge widerGroup (by show 33 ≤ k; omega)]
    exact ⟨rfl, fun _ => rfl⟩

/-- Refutes O46, in its clause of a lane whose fetch is resolved: it asks only that the lane is one of its group's list, and lane 32 of a
longer list than the hardware's is not served, so that it waits on. -/
theorem not_faultReplies : ¬ Obligations.FaultReplies := by
  rintro ⟨-, -, h⟩
  obtain ⟨-, -, hfetch, -⟩ := h widerState 0 0 widerFault rfl rfl
  have halone : ∀ g H k, widerState.group? g = some H → some (0, 32) ≠ some (g, k) → ∀ v a q r, (H.lane k).wait ≠ .fault v a q r := by
    intro g H k hg hne v a q r hw
    have hg0 : g = 0 := by
      by_contra h0
      simp [State.group?, widerState, AMap.get?, h0] at hg
    subst hg0
    obtain rfl : widerGroup = H := Option.some.inj hg
    rw [(widerGroup_lane k).2 fun hk => hne (by rw [hk])] at hw
    cases hw
  have hreply : leNat (widerState.bytes (0 + 0x14) 4) ≠ 0 ∧ (leNat (widerState.bytes (0 + 0x14) 4) = 1 ↔ true = true) := by decide
  obtain ⟨t, G', ht, -, hG', hwait, -, -⟩ := hfetch 0 32 widerGroup 0 0 none hreply rfl rfl (by decide) rfl halone fun k => (widerGroup_lane k).1
  have hl : leavesWaiting (.next t) = true := ht ▸ widerState_reply
  have hlane : t.lane 0 32 = G'.lane 32 := by rw [State.lane, hG']
  rw [leavesWaiting, hlane, hwait] at hl
  cases hl

end Sys2Proof.Machine
end

section
/-! SUPPORT. Words of the manual (R27 to R39): a word is read by finding the well-formed instruction that it encodes. -/

namespace Sys2Proof

/-- The decoder answers a well-formed instruction on its word, by the agreement of decoder and encoder. -/
theorem decode_of_encode {i : Instr} {w : BitVec 96} (hw : i.wellFormed = true) (he : encode i = some w) : decode w = .ok i :=
  decodeAndEncodeAgree.1 i w hw he

/-- Settles O2: each instruction is well-formed and encodes as the word written out, so that the word decodes to it (`decode_of_encode`). -/
theorem manualWordsDecode : Obligations.ManualWordsDecode :=
  ⟨decode_of_encode rfl rfl, decode_of_encode rfl rfl, decode_of_encode rfl rfl, decode_of_encode rfl rfl, decode_of_encode rfl rfl,
    decode_of_encode rfl rfl, decode_of_encode rfl rfl, decode_of_encode rfl rfl, decode_of_encode rfl rfl, decode_of_encode rfl rfl,
    decode_of_encode rfl rfl, decode_of_encode rfl rfl, decode_of_encode rfl rfl⟩

end Sys2Proof
end

section
/-! SUPPORT. Control transfers and rejoin registers (R44, R51 to R53, R136 to R138): what an effect on the lanes that take part leaves, and
what RVSET and RVWAIT do to their group. -/

namespace Sys2Proof.Machine

/-! ### Lanes changed one after the other -/

theorem Group.updLanes_eq {G : Group} {m n : Word} {f k : Nat → Lane → Lane}
    (h : ∀ l L, (if inMask m l then f l L else L) = if inMask n l then k l L else L) : G.updLanes m f = G.updLanes n k := by
  simp only [Group.updLanes, h]

/-- A field of a lane that a change of lanes leaves alone is as it was in every lane of the group. -/
theorem Group.lane_updLanes_keeps {α : Type} (p : Lane → α) {f : Nat → Lane → Lane} (hf : ∀ l L, p (f l L) = p L) (G : Group) (m : Word) (l : Nat) :
    p ((G.updLanes m f).lane l) = p (G.lane l) := by
  by_cases hl : l < G.lanes.length
  · rw [Group.lane_updLanes _ _ _ _ hl]
    split
    · exact hf _ _
    · rfl
  · rw [Group.lane_of_ge G (Nat.le_of_not_lt hl), Group.lane_of_ge _ (by simpa using hl)]

theorem Group.lane_updLanes_of_not {G : Group} {m : Word} {f : Nat → Lane → Lane} {l : Nat} (h : inMask m l = false) :
    (G.updLanes m f).lane l = G.lane l := by
  by_cases hl : l < G.lanes.length
  · rw [Group.lane_updLanes _ _ _ _ hl, h]
    rfl
  · rw [Group.lane_of_ge G (Nat.le_of_not_lt hl), Group.lane_of_ge _ (by simpa using hl)]

theorem State.updLane_congr {s : State} {g l : Nat} {G : Group} (hG : s.group? g = some G) {f k : Lane → Lane} (h : f (G.lane l) = k (G.lane l)) :
    s.updLane g l f = s.updLane g l k := by
  refine State.updGroup_congr hG ?_
  simp only [Group.updLane, modAt]
  congr 1
  split
  · next L hL => rw [Group.lane, List.getD_eq_getElem?_getD, hL] at h; exact congrArg _ h
  · rfl

/-- Changing lane `l` and then those of a list that does not name it changes those of the longer list. -/
theorem mapIdx_modAt {xs : List Lane} {f : Nat → Lane → Lane} {l : Nat} {ls : List Nat} (hl : l ∉ ls) :
    (modAt xs l (f l)).mapIdx (fun k L => if k ∈ ls then f k L else L) = xs.mapIdx fun k L => if k ∈ l :: ls then f k L else L := by
  refine List.ext_getElem? fun k => ?_
  have hk : (modAt xs l (f l))[k]? = if l = k then (xs[k]?).map (f l) else xs[k]? := by
    unfold modAt
    split
    · next L hL =>
      obtain ⟨hlt, -⟩ := List.getElem?_eq_some_iff.1 hL
      rw [List.getElem?_set]
      split <;> simp_all
    · next hn => split <;> simp_all
  rw [List.getElem?_mapIdx, List.getElem?_mapIdx, hk]
  by_cases h : l = k
  · subst h
    cases xs[l]? <;> simp [hl]
  · simp [h, Ne.symm h]

/-- Lanes of a list that are changed one after the other, each as it stood before, are changed together. -/
theorem foldl_updLane {g : Nat} {G K : Group} {f : Nat → Lane → Lane} {op : State → Nat → State} {s : State} (hK : s.group? g = some K) :
    ∀ {ls : List Nat} {F : Group → Group}, ls.Nodup → (∀ l ∈ ls, (F K).lane l = G.lane l) →
      (∀ l ∈ ls, ∀ (u : State) (H : Group), u.group? g = some H → H.lane l = G.lane l → op u l = u.updLane g l (f l)) →
      ls.foldl op (s.updGroup g F) =
        s.updGroup g fun H => { F H with lanes := (F H).lanes.mapIdx fun l L => if l ∈ ls then f l L else L }
  | [], F, _, _, _ => by
    have hid : ∀ xs : List Lane, xs.mapIdx (fun _ L => L) = xs := fun xs => List.mapIdx_eq_iff.2 fun i => by simp
    simp only [List.foldl_nil, List.not_mem_nil, if_false, hid]
  | l :: ls, F, hnd, hsame, hop => by
    obtain ⟨hl, hnd⟩ := List.nodup_cons.1 hnd
    have hF : (s.updGroup g F).group? g = some (F K) := by rw [State.group?_updGroup_self, hK]; rfl
    have hstep : op (s.updGroup g F) l = s.updGroup g fun H => (F H).updLane l (f l) := by
      rw [hop l List.mem_cons_self _ _ hF (hsame l List.mem_cons_self), State.updLane, State.updGroup_updGroup]
    have hsame' : ∀ k ∈ ls, ((F K).updLane l (f l)).lane k = G.lane k := fun k hk => by
      rw [Group.lane_updLane, if_neg fun c : l = k ∧ _ => hl (c.1 ▸ hk), hsame k (List.mem_cons_of_mem _ hk)]
    rw [List.foldl_cons, hstep, foldl_updLane hK hnd hsame' fun k hk => hop k (List.mem_cons_of_mem _ hk)]
    simp only [Group.updLane, mapIdx_modAt hl]

/-- An operation that changes one lane, done for the lanes of a mask, changes the lanes of the mask. -/
theorem foldl_lanesOf_advance {s : State} {h : Hdr} {G : Group} {x : At} (a : AtOf s h G x) {m : Word} {f : Nat → Lane → Lane}
    {op : State → Nat → State}
    (hop : ∀ l, inMask m l = true → ∀ (u : State) (H : Group), u.group? x.g = some H → H.lane l = (advanced s x G).lane l →
      op u l = u.updLane x.g l (f l)) :
    (lanesOf m).foldl op (s.advance x) = (s.advance x).updGroup x.g fun K => K.updLanes m f := by
  have hfold := foldl_updLane (ls := lanesOf m) (F := advanced s x) (show s.bump.group? x.g = some G from a.g ▸ a.group)
    (List.nodup_range.filter _) (fun _ _ => rfl) fun l hl => hop l (mem_lanesOf.1 hl)
  rw [State.advance_eq, hfold, State.updGroup_updGroup]
  simp only [mem_lanesOf, Group.updLanes]

/-! ### Control transfers (R51 to R53) -/

theorem advanced_lane_eq {s : State} {h : Hdr} {G : Group} {x : At} (a : AtOf s h G x) (l : Nat) :
    (advanced s x G).lane l = if inMask x.B l then (G.lane l).moveOn x (s.now x.g) else G.lane l := by
  split
  · next hB => exact advanced_lane_B a hB
  · next hB => exact Group.lane_updLanes_of_not (f := fun _ L => L.moveOn x (s.now x.g)) (Bool.eq_false_iff.2 hB)

/-- An effect on the lanes that take part moves them. -/
theorem moved_updLanes {s : State} {h : Hdr} {G : Group} {x : At} (a : AtOf s h G x) (f : Nat → Lane → Lane) :
    Moved s ((s.advance x).updGroup x.g fun H => H.updLanes x.T f) G x f := by
  refine ⟨rfl, fun k hk => ?_, (advanced s x G).updLanes x.T f, ?_, fun l => ?_, rfl⟩
  · rw [State.group?_updGroup, if_neg (Ne.symm hk), (moved_advance a).others k hk]
  · rw [State.group?_updGroup_self, advance_group a]
    rfl
  · dsimp only
    rw [← advanced_lane_eq a]
    split
    · next hT => rw [Group.lane_updLanes _ _ _ _ (by rw [advanced_length]; exact a.length (a.inB hT)), if_pos hT]
    · next hT => exact Group.lane_updLanes_of_not (Bool.eq_false_iff.2 hT)

theorem turns_updLanes {s : State} {h : Hdr} {site : Site} {regs : List (Reg × Nat)} {handles : State → Group → List (Nat × Bool)} {G : Group}
    {x : At} (i : Issues s h site regs handles G x) {body : State → At → State} {f : Nat → Lane → Lane}
    (hb : body (s.advance x) x = (s.advance x).updGroup x.g fun H => H.updLanes x.T f) : Turns s G x f (issue s h site regs handles body) :=
  ⟨_, moved_updLanes (atOf i.bundle) f, by rw [issue_next i, hb]⟩

theorem turns_jump {s : State} {h : Hdr} {site : Site} {regs : List (Reg × Nat)} {handles : State → Group → List (Nat × Bool)} {G : Group}
    {x : At} (i : Issues s h site regs handles G x) (tgt : At → Group → Nat → DWord) :
    Turns s G x (fun l L => { L with pc := tgt x (advanced s x G) l }) (issue s h site regs handles fun s x => s.jump x x.T (tgt x)) :=
  turns_updLanes i (State.updGroup_congr (advance_group (atOf i.bundle)) rfl)

/-- A relative target as a sum of integers (R44, R51). -/
theorem relTarget_eq (pc : DWord) (disp : Word) : relTarget pc disp = BitVec.ofInt 64 ((pc.toNat : Int) + 12 + disp.toInt) := by
  rw [relTarget, dispAdd, BitVec.signExtend, BitVec.ofInt_add, BitVec.ofInt_add, BitVec.ofInt_natCast, BitVec.ofNat_toNat, BitVec.setWidth_eq]
  rfl

/-- The own advance of a lane that takes part leaves its return stack. -/
theorem advanced_rs {s : State} {h : Hdr} {G : Group} {x : At} (a : AtOf s h G x) {l : Nat} (hl : inMask x.T l = true) :
    ((advanced s x G).lane l).rs = (G.lane l).rs := by
  rw [advanced_lane_B a (a.inB hl)]
  rfl

/-- A call of a lane whose return stack has room (R53). -/
theorem State.callLane_of_room {s : State} {x : At} {l : Nat} {H : Group} (hH : s.group? x.g = some H) (hroom : (H.lane l).rs.length < 4)
    (target : DWord) : s.callLane x l target = s.updLane x.g l fun L => { L with rs := L.rs ++ [x.pc + 12], pc := target } := by
  simp only [State.callLane, State.lane, hH, hroom, if_true]

/-- A return of a lane whose return stack has an entry (R53). -/
theorem State.retLane_of_entry {s : State} {x : At} {l : Nat} {H : Group} (hH : s.group? x.g = some H) (hrs : (H.lane l).rs ≠ []) :
    s.retLane x l = s.updLane x.g l fun L => { L with rs := L.rs.dropLast, pc := L.rs.getLast?.getD 0 } := by
  obtain ⟨t, ht⟩ := Option.isSome_iff_exists.1 (List.getLast?_isSome.2 hrs)
  simp only [State.retLane, State.lane, hH, ht]
  exact State.updLane_congr hH (by simp only [ht, Option.getD_some])

/-- Calls with room in the return stacks move the lanes to their targets (R51, R53). -/
theorem foldl_callLane {s : State} {h : Hdr} {G : Group} {x : At} (a : AtOf s h G x)
    (hroom : ∀ l, inMask x.T l = true → (G.lane l).rs.length < 4) (target : Nat → DWord) :
    (lanesOf x.T).foldl (fun s l => s.callLane x l (target l)) (s.advance x) =
      (s.advance x).updGroup x.g fun H => H.updLanes x.T fun l L => { L with rs := L.rs ++ [x.pc + 12], pc := target l } :=
  foldl_lanesOf_advance a fun l hl u H hH hlane => State.callLane_of_room hH (by rw [hlane, advanced_rs a hl]; exact hroom l hl) _

theorem foldl_retLane {s : State} {h : Hdr} {G : Group} {x : At} (a : AtOf s h G x)
    (hrs : ∀ l, inMask x.T l = true → (G.lane l).rs ≠ []) :
    (lanesOf x.T).foldl (fun s l => s.retLane x l) (s.advance x) =
      (s.advance x).updGroup x.g fun H => H.updLanes x.T fun _ L => { L with rs := L.rs.dropLast, pc := L.rs.getLast?.getD 0 } :=
  foldl_lanesOf_advance a fun l hl u H hH hlane => State.retLane_of_entry hH (by rw [hlane, advanced_rs a hl]; exact hrs l hl)

theorem execNop_turns {s : State} {h : Hdr} {G : Group} {x : At} (i : Issues s h .both [] noHandles G x) : Turns s G x keep (execNop h s) :=
  turns_of_issue i rfl

/-- YIELD orders the lanes that take part behind the others (R51, R122). -/
theorem execYield_turns {s : State} {h : Hdr} {G : Group} {x : At} (i : Issues s h .both [] noHandles G x) :
    Turns s G x (fun _ L => { L with yielded := true }) (execYield h s) := by
  refine turns_updLanes i (congrArg _ (funext fun H => Group.updLanes_eq fun l L => ?_))
  by_cases hT : inMask x.T l = true
  · simp only [hT, (atOf i.bundle).inB hT, Bool.or_true, if_true]
  · simp only [hT, Bool.or_false, ite_self]
    rfl

theorem execBra_turns {s : State} {h : Hdr} {G : Group} {x : At} (i : Issues s h .both [] noHandles G x) (disp : Word) :
    Turns s G x (fun _ L => { L with pc := BitVec.ofInt 64 ((x.pc.toNat : Int) + 12 + disp.toInt) }) (execBra h disp s) := by
  rw [← relTarget_eq]
  exact turns_jump i fun x _ _ => relTarget x.pc disp

theorem execCall_turns {s : State} {h : Hdr} {G : Group} {x : At} (i : Issues s h .both [] noHandles G x) (disp : Word)
    (hroom : ∀ l, inMask x.T l = true → (G.lane l).rs.length < 4) :
    Turns s G x (fun _ L => { L with rs := L.rs ++ [x.pc + 12], pc := BitVec.ofInt 64 ((x.pc.toNat : Int) + 12 + disp.toInt) })
      (execCall h disp s) := by
  rw [← relTarget_eq]
  exact turns_updLanes i (foldl_callLane (atOf i.bundle) hroom _)

theorem execRet_turns {s : State} {h : Hdr} {G : Group} {x : At} (i : Issues s h .both [] noHandles G x)
    (hrs : ∀ l, inMask x.T l = true → (G.lane l).rs ≠ []) :
    Turns s G x (fun _ L => { L with rs := L.rs.dropLast, pc := L.rs.getLast?.getD 0 }) (execRet h s) :=
  turns_updLanes i (foldl_retLane (atOf i.bundle) hrs)

theorem execJmpx_turns {s : State} {h : Hdr} {r : Reg} {G : Group} {x : At} (i : Issues s h .both [(r, 2)] noHandles G x) :
    Turns s G x (fun l L => { L with pc := G.reg64 l r }) (execJmpx h r s) := by
  simp only [← advanced_reg64 s x G]
  exact turns_jump i fun _ H l => H.reg64 l r

theorem execCallx_turns {s : State} {h : Hdr} {r : Reg} {G : Group} {x : At} (i : Issues s h .both [(r, 2)] noHandles G x)
    (hroom : ∀ l, inMask x.T l = true → (G.lane l).rs.length < 4) :
    Turns s G x (fun l L => { L with rs := L.rs ++ [x.pc + 12], pc := G.reg64 l r }) (execCallx h r s) := by
  have a := atOf i.bundle
  refine turns_updLanes i ?_
  simp only [advance_group a, advanced_reg64]
  exact foldl_callLane a hroom _

/-! ### Rejoin registers (R136, R137) -/

/-- Lanes that waited at a rejoin register go on at an address, as one joined set. -/
def Group.goOn (G : Group) (now : Nat) (m : Word) (pc : DWord) : Group :=
  (G.updLanes m fun _ L => { L.wakeUp now with pc := pc }).joinSet m

/-- A field of a lane that neither its waking nor its new joined set changes is as it was. -/
theorem Group.lane_goOn_keeps {α : Type} (p : Lane → α) {now : Nat} {pc : DWord} (hw : ∀ L : Lane, p { L.wakeUp now with pc := pc } = p L)
    (hj : ∀ (L : Lane) (n : Nat), p { L with jset := n } = p L) (G : Group) (m : Word) (l : Nat) : p ((G.goOn now m pc).lane l) = p (G.lane l) :=
  (Group.lane_updLanes_keeps p (fun _ L => hj L _) _ m l).trans (Group.lane_updLanes_keeps p (fun _ L => hw L) G m l)

theorem Group.live_goOn (G : Group) (now : Nat) (m : Word) (pc : DWord) : (G.goOn now m pc).live = G.live := by
  simp only [Group.live, Group.lane_goOn_keeps Lane.live (fun _ => rfl) (fun _ _ => rfl)]

theorem Group.helpers_goOn (G : Group) (now : Nat) (m : Word) (pc : DWord) : (G.goOn now m pc).helpers = G.helpers := by
  simp only [Group.helpers, Group.lane_goOn_keeps Lane.helper (fun _ => rfl) (fun _ _ => rfl)]

theorem Group.lane_goOn_pc (G : Group) (now : Nat) {m : Word} (pc : DWord) {l : Nat} (hm : inMask m l = true) (hl : l < G.lanes.length) :
    ((G.goOn now m pc).lane l).pc = pc := by
  rw [Group.goOn, Group.joinSet, Group.lane_updLanes _ _ _ _ (by simpa using hl), Group.lane_updLanes _ _ _ _ hl, if_pos hm, if_pos hm]

theorem Group.lane_goOn_of_not (G : Group) (now : Nat) {m : Word} (pc : DWord) {l : Nat} (hm : inMask m l = false) :
    (G.goOn now m pc).lane l = G.lane l := by
  rw [Group.goOn, Group.joinSet, Group.lane_updLanes_of_not hm, Group.lane_updLanes_of_not hm]

theorem live_advanced (s : State) (x : At) (G : Group) : (advanced s x G).live = G.live :=
  congrArg maskOf (funext fun l => Group.lane_updLanes_keeps Lane.live (f := fun _ L => L.moveOn x (s.now x.g)) (fun _ _ => rfl) G x.B l)

theorem helpers_advanced (s : State) (x : At) (G : Group) : (advanced s x G).helpers = G.helpers := by
  simp only [Group.helpers, advanced_lane]

/-- The lanes at the old record of a rejoin register, if any, go on before RVSET makes the new one (R136). -/
theorem Group.rvset_lane {G : Group} {j : JReg} {r : Rejoin} (hr : G.rj.getD j.val {} = r) (now : Nat) (m : Word) (target : DWord) (l : Nat) :
    (G.rvset now j m target).lane l =
      (if r.valid = true ∧ r.arrived ≠ 0 then G.goOn now r.arrived (r.target + 12) else G).lane l := by
  simp only [Group.rvset, hr, Bool.and_eq_true, bne_iff_ne]
  rfl

/-- The record that RVSET makes (R136). -/
def Rejoin.made (m : Word) (target : DWord) : Rejoin := { valid := m != 0, mask := m, target, arrived := 0 }

theorem Group.rvset_rj (G : Group) (now : Nat) (j : JReg) (m : Word) (target : DWord) :
    (G.rvset now j m target).rj = G.rj.set j.val (.made ((m ||| G.helpers) &&& G.live) target) := by
  have hh := G.helpers_goOn now (G.rj.getD j.val {}).arrived ((G.rj.getD j.val {}).target + 12)
  have hl := G.live_goOn now (G.rj.getD j.val {}).arrived ((G.rj.getD j.val {}).target + 12)
  simp only [Group.goOn] at hh hl
  simp only [Group.rvset]
  split
  · rw [hh, hl]
    rfl
  · rfl

/-- A rejoin register that has still to be reached by lanes of its mask stays (R137). -/
theorem Group.rejoinCheck_of_open {G : Group} {j : Nat} {r : Rejoin} (hr : G.rj[j]? = some r) (hv : r.valid = true) (hm : r.mask ≠ 0)
    (ha : r.arrived ≠ r.mask) (now : Nat) : G.rejoinCheck now j = G := by
  simp only [Group.rejoinCheck, hr, hv, hm, Ne.symm ha, Bool.not_true, Bool.false_eq_true, if_false]

/-- A rejoin register that all lanes of its mask have reached is cleared, and they go on (R137). -/
theorem Group.rejoinCheck_of_full {G : Group} {j : Nat} {r : Rejoin} (hr : G.rj[j]? = some r) (hv : r.valid = true) (hm : r.mask ≠ 0)
    (ha : r.arrived = r.mask) (now : Nat) :
    G.rejoinCheck now j = ({ G with rj := G.rj.set j { target := r.target } } : Group).goOn now r.mask (r.target + 12) := by
  simp only [Group.rejoinCheck, hr, hv, hm, ha, Bool.not_true, Bool.false_eq_true, if_false, if_true]
  rfl

/-- The lanes that take part and that the record `r` of a rejoin register names have arrived there. -/
def Group.arrive (G : Group) (x : At) (j : JReg) (r : Rejoin) : Group :=
  { G.updLanes (x.T &&& r.mask) (fun _ L => { L with pc := x.pc, wait := .rejoin j }) with
    rj := G.rj.set j.val { r with arrived := r.arrived ||| (x.T &&& r.mask) } }

@[simp] theorem Group.length_arrive (G : Group) (x : At) (j : JReg) (r : Rejoin) : (G.arrive x j r).lanes.length = G.lanes.length :=
  Group.length_updLanes G _ _

theorem Group.lane_arrive (G : Group) (x : At) (j : JReg) (r : Rejoin) {l : Nat} (hT : inMask x.T l = true) (hm : inMask r.mask l = true)
    (hl : l < G.lanes.length) : (G.arrive x j r).lane l = { G.lane l with pc := x.pc, wait := .rejoin j } :=
  (Group.lane_updLanes G _ _ l hl).trans (if_pos (by rw [inMask_and, hT, hm]; rfl))

theorem Group.lane_arrive_of_not (G : Group) (x : At) (j : JReg) (r : Rejoin) {l : Nat} (hm : inMask r.mask l = false) :
    (G.arrive x j r).lane l = G.lane l :=
  Group.lane_updLanes_of_not (f := fun _ L => { L with pc := x.pc, wait := .rejoin j }) (by rw [inMask_and, hm, Bool.and_false])

section
variable {G : Group} {x : At} {j : JReg} {r : Rejoin} (hr : G.rj.getD j.val {} = r)
include hr

/-- RVWAIT elsewhere than at the register's address does nothing (R137). -/
theorem Group.rvwait_of_not (h : ¬ (r.valid = true ∧ r.target = x.pc)) (now : Nat) : G.rvwait x now j = G := by
  simp only [Group.rvwait, hr, Bool.and_eq_true, beq_iff_eq, h, if_false]

variable (hv : r.valid = true)
include hv

theorem Group.arrive_rj : (G.arrive x j r).rj[j.val]? = some { r with arrived := r.arrived ||| (x.T &&& r.mask) } := by
  have hj : j.val < G.rj.length := by
    by_contra hn
    rw [List.getD_eq_getElem?_getD, List.getElem?_eq_none (Nat.le_of_not_lt hn)] at hr
    rw [← hr] at hv
    cases hv
  exact List.getElem?_set_self hj

variable (ht : r.target = x.pc)
include ht

theorem Group.rvwait_eq (now : Nat) : G.rvwait x now j = (G.arrive x j r).rejoinCheck now j.val := by
  subst hr
  exact if_pos (by rw [hv, ht, beq_self_eq_true, Bool.and_self])

variable (hm : r.mask ≠ 0)
include hm

/-- RVWAIT that is not the last arrival: lanes wait (R137). -/
theorem Group.rvwait_of_open (ha : r.arrived ||| (x.T &&& r.mask) ≠ r.mask) (now : Nat) : G.rvwait x now j = G.arrive x j r := by
  rw [Group.rvwait_eq hr hv ht, Group.rejoinCheck_of_open (Group.arrive_rj hr hv) hv hm ha]

/-- RVWAIT that is the last arrival: all lanes of the record go on, and it is cleared (R137). -/
theorem Group.rvwait_of_full (ha : r.arrived ||| (x.T &&& r.mask) = r.mask) (now : Nat) :
    G.rvwait x now j = ({ G.arrive x j r with rj := G.rj.set j.val { target := x.pc } } : Group).goOn now r.mask (x.pc + 12) := by
  rw [Group.rvwait_eq hr hv ht, Group.rejoinCheck_of_full (Group.arrive_rj hr hv) hv hm ha]
  simp only [Group.arrive, List.set_set, ht]

/-- RVWAIT leaves lanes that the record does not name (R137). -/
theorem Group.rvwait_lane_of_not (now : Nat) {l : Nat} (hl : inMask r.mask l = false) : (G.rvwait x now j).lane l = G.lane l := by
  by_cases ha : r.arrived ||| (x.T &&& r.mask) = r.mask
  · rw [Group.rvwait_of_full hr hv ht hm ha, Group.lane_goOn_of_not _ _ _ hl]
    exact G.lane_arrive_of_not x j r hl
  · rw [Group.rvwait_of_open hr hv ht hm ha, G.lane_arrive_of_not x j r hl]

end

/-- The state and the group that an effect on the own group of an issue leaves. -/
theorem issue_updGroup {s : State} {h : Hdr} {site : Site} {regs : List (Reg × Nat)} {handles : State → Group → List (Nat × Bool)} {G : Group}
    {x : At} (i : Issues s h site regs handles G x) {body : State → At → State} {F : Group → Group}
    (hb : body (s.advance x) x = (s.advance x).updGroup x.g F) :
    ∃ u : State, issue s h site regs handles body = .next (u.close x G) ∧ u.group? x.g = some (F (advanced s x G)) :=
  ⟨_, by rw [issue_next i, hb], by rw [State.group?_updGroup_self, advance_group (atOf i.bundle)]; rfl⟩

/-- RVSET without a lane that takes part does nothing (R136). -/
theorem execRvset_turns {s : State} {h : Hdr} {j : JReg} {sa : SReg} {disp : Word} {G : Group} {x : At}
    (i : Issues s h .both [(.s sa, 1)] noHandles G x) (hT : x.T = 0) : Turns s G x keep (execRvset h j sa disp s) :=
  turns_of_issue i (if_pos hT)

theorem execRvset_next {s : State} {h : Hdr} {j : JReg} {sa : SReg} {disp : Word} {G : Group} {x : At}
    (i : Issues s h .both [(.s sa, 1)] noHandles G x) (hT : x.T ≠ 0) :
    ∃ u : State, execRvset h j sa disp s = .next (u.close x G) ∧
      u.group? x.g = some ((advanced s x G).rvset (s.now x.g) j (G.sreg sa.val) (relTarget x.pc disp)) :=
  issue_updGroup i (F := fun H => H.rvset (s.now x.g) j (H.sreg sa.val) (relTarget x.pc disp)) (if_neg hT)

/-- RVWAIT elsewhere than at the register's address does nothing (R137). -/
theorem execRvwait_turns {s : State} {h : Hdr} {j : JReg} {G : Group} {x : At} (i : Issues s h .both [] noHandles G x)
    (hn : ¬ ((G.rj.getD j.val {}).valid = true ∧ (G.rj.getD j.val {}).target = x.pc)) : Turns s G x keep (execRvwait h j s) := by
  have hsame : (advanced s x G).rvwait x (s.now x.g) j = advanced s x G := Group.rvwait_of_not (G := advanced s x G) rfl hn _
  refine turns_of_issue i ((State.updGroup_congr (f' := id) (advance_group (atOf i.bundle)) hsame).trans ?_)
  rw [State.advance_eq, State.updGroup_updGroup]
  rfl

theorem execRvwait_next {s : State} {h : Hdr} {j : JReg} {G : Group} {x : At} (i : Issues s h .both [] noHandles G x) :
    ∃ u : State, execRvwait h j s = .next (u.close x G) ∧ u.group? x.g = some ((advanced s x G).rvwait x (s.now x.g) j) :=
  issue_updGroup i (F := fun H => H.rvwait x (s.now x.g) j) rfl

/-- What RVSET leaves (R136): the record, the lanes at the old one past it, and every other lane where it went. -/
theorem rvset_leaves {s : State} {h : Hdr} {G : Group} {x : At} (a : AtOf s h G x) (j : JReg) (m : Word) (target : DWord) :
    let r := G.rj.getD j.val {}
    let G' := (advanced s x G).rvset (s.now x.g) j m target
    G'.rj = G.rj.set j.val (.made ((m ||| G.helpers) &&& G.live) target) ∧
      (r.valid = true → ∀ l, l < G.lanes.length → inMask r.arrived l = true → (G'.lane l).pc = r.target + 12) ∧
      (r.valid = false ∨ r.arrived = 0 → ∀ l, (G'.lane l).pc = if inMask x.B l then x.pc + 12 else (G.lane l).pc) := by
  intro r G'
  have hlane : ∀ l, G'.lane l = _ := Group.rvset_lane (G := advanced s x G) (r := r) rfl (s.now x.g) m target
  refine ⟨?_, fun hv l hl hr => ?_, fun hr l => ?_⟩
  · have hrj := Group.rvset_rj (advanced s x G) (s.now x.g) j m target
    rwa [live_advanced, helpers_advanced] at hrj
  · have h0 : r.arrived ≠ 0 := fun h0 => by rw [h0, inMask_zero] at hr; cases hr
    rw [hlane, if_pos ⟨hv, h0⟩, Group.lane_goOn_pc _ _ _ hr (by rwa [advanced_length])]
  · have hno : ¬ (r.valid = true ∧ r.arrived ≠ 0) := fun ⟨hv, h0⟩ => hr.elim (fun c => Bool.false_ne_true (c.symm.trans hv)) h0
    rw [hlane, if_neg hno, advanced_lane_eq a]
    split <;> rfl

/-- What RVWAIT at the address of the record leaves (R137): lanes wait, or all lanes of the record go on behind it. -/
theorem rvwait_leaves {s : State} {h : Hdr} {G : Group} {x : At} (a : AtOf s h G x) {j : JReg} {r : Rejoin} (hr : G.rj.getD j.val {} = r)
    (hv : r.valid = true) (ht : r.target = x.pc) (hm : r.mask ≠ 0) :
    let G' := (advanced s x G).rvwait x (s.now x.g) j
    let n := r.arrived ||| (x.T &&& r.mask)
    (n ≠ r.mask → G'.rj = G.rj.set j.val { r with arrived := n } ∧
      ∀ l, inMask x.T l = true → inMask r.mask l = true → (G'.lane l).wait = .rejoin j ∧ (G'.lane l).pc = x.pc) ∧
    (∀ l, inMask x.B l = true → inMask r.mask l = false → inMask r.arrived l = false → (G'.lane l).wait = .none ∧ (G'.lane l).pc = x.pc + 12) ∧
    (n = r.mask → G'.rj = G.rj.set j.val { valid := false, mask := 0, target := r.target, arrived := 0 } ∧
      ∀ l, inMask r.mask l = true → l < G.lanes.length → (G'.lane l).pc = x.pc + 12) := by
  intro G' n
  have hr' : (advanced s x G).rj.getD j.val {} = r := hr
  refine ⟨fun hn => ?_, fun l hB hl _ => ?_, fun hn => ?_⟩
  · have hG' : G' = (advanced s x G).arrive x j r := Group.rvwait_of_open hr' hv ht hm hn _
    refine ⟨by rw [hG']; rfl, fun l hT hl => ?_⟩
    rw [hG', Group.lane_arrive _ x j r hT hl (by rw [advanced_length]; exact a.length (a.inB hT))]
    exact ⟨rfl, rfl⟩
  · have hlane : G'.lane l = (advanced s x G).lane l := Group.rvwait_lane_of_not hr' hv ht hm _ hl
    rw [hlane, advanced_lane_B a hB]
    exact ⟨rfl, rfl⟩
  · have hG' : G' = _ := Group.rvwait_of_full hr' hv ht hm hn _
    refine ⟨by rw [hG', ht]; rfl, fun l hl hlen => ?_⟩
    rw [hG']
    exact Group.lane_goOn_pc _ _ _ hl (by simpa using hlen)

/-- Settles O17: transfers move the lanes that take part (`turns_updLanes`), calls and returns one after the other
(`foldl_lanesOf_advance`), and the rejoin instructions leave what `rvset_leaves` and `rvwait_leaves` say. -/
theorem branchesAndRejoins : Obligations.BranchesAndRejoins := by
  refine ⟨fun s h G x => ⟨fun i => ⟨execNop_turns i, execYield_turns i, execBra_turns i, execCall_turns i, execRet_turns i⟩,
    fun r i => ⟨execJmpx_turns i, execCallx_turns i⟩⟩, fun s h j G x => ⟨fun sa disp i => ⟨execRvset_turns i, fun hT => ?_⟩,
    fun i => ⟨execRvwait_turns i, fun hv ht hm => ?_⟩⟩⟩
  · obtain ⟨u, hu, hg⟩ := execRvset_next i hT
    exact ⟨u, _, hu, hg, rvset_leaves (atOf i.bundle) j _ _⟩
  · obtain ⟨u, hu, hg⟩ := execRvwait_next i
    exact ⟨u, _, hu, hg, rvwait_leaves (atOf i.bundle) rfl hv ht hm⟩

end Sys2Proof.Machine
end

section
/-! SUPPORT. Lane-wise numbers (R74, R86 to R90): what the shapes of the floating-point instructions leave, one lemma per shape, and the
selections on bit patterns. -/

namespace Sys2Proof.Machine

/-! ### Operands that an issue's lanes read are those before it -/

@[simp] theorem advanced_srcD (s : State) (x : At) (G : Group) (l : Nat) (a : Src) : (advanced s x G).srcD l a = G.srcD l a := by
  cases a <;> simp [Group.srcD]

/-! ### The shapes: each names the result as a function of the operands before the issue -/

section
variable {s : State} {h : Hdr} {d : Reg} {p : PReg} {a b : Src} {G : Group} {x : At}

/-- A result computed from the word of one source. -/
theorem fixedOp_src_lands {w k : Nat} (i : Issues s h .both ((d, w) :: srcReg a k) noHandles G x) (f : Word → List Word) :
    Lands s G x d (fun l => f (G.src l a)) (fixedOp s h d w (srcReg a k) fun G l => f (G.src l a)) :=
  fixedOp_lands i (by funext l; rw [advanced_src])

theorem fixedOp_srcD_lands {w k : Nat} (i : Issues s h .both ((d, w) :: srcReg a k) noHandles G x) (f : Nat → List Word) :
    Lands s G x d (fun l => f (G.srcD l a)) (fixedOp s h d w (srcReg a k) fun G l => f (G.srcD l a)) :=
  fixedOp_lands i (by funext l; rw [advanced_srcD])

theorem unary_lands (i : Issues s h .both ((d, 1) :: srcReg a 1) noHandles G x) (f : Word → Word) :
    Lands s G x d (fun l => [f (G.src l a)]) (unary s h d a f) :=
  fixedOp_src_lands i fun v => [f v]

theorem binary_lands (i : Issues s h .both ((d, 1) :: (srcReg a 1 ++ srcReg b 1)) noHandles G x) (f : Word → Word → Word) :
    Lands s G x d (fun l => [f (G.src l a) (G.src l b)]) (binary s h d a b f) :=
  fixedOp_lands i (by funext l; rw [advanced_src, advanced_src])

theorem ternary_lands {a b c : Reg} (i : Issues s h .both [(d, 1), (a, 1), (b, 1), (c, 1)] noHandles G x) (f : Word → Word → Word → Word) :
    Lands s G x d (fun l => [f (G.reg l a 0) (G.reg l b 0) (G.reg l c 0)]) (ternary s h d a b c f) :=
  fixedOp_lands i (by funext l; rw [advanced_reg, advanced_reg, advanced_reg])

theorem compare32_lands (i : Issues s h .both (srcReg a 1 ++ srcReg b 1) noHandles G x) (f : Word → Word → Bool) :
    LandsP s G x p (fun l => f (G.src l a) (G.src l b)) (compare32 s h p a b f) :=
  predOp_lands i (by funext l; rw [advanced_src, advanced_src])

theorem unaryF_lands (i : Issues s h .both ((d, 1) :: srcReg a 1) noHandles G x) (f : Nat → Nat) :
    Lands s G x d (fun l => [codeWord (f (G.src l a).toNat)]) (unaryF s h d a f) :=
  unary_lands i fun v => codeWord (f v.toNat)

/-- A code that is a known function of the operand's bits. -/
theorem unaryF_lands_of_eq (i : Issues s h .both ((d, 1) :: srcReg a 1) noHandles G x) {f : Nat → Nat} {g : Word → Word}
    (hf : ∀ v : Word, codeWord (f v.toNat) = g v) : Lands s G x d (fun l => [g (G.src l a)]) (unaryF s h d a f) := by
  rw [← funext hf]
  exact unaryF_lands i f

theorem binaryF_lands (i : Issues s h .both ((d, 1) :: (srcReg a 1 ++ srcReg b 1)) noHandles G x) (f : Nat → Nat → Nat) :
    Lands s G x d (fun l => [codeWord (f (G.src l a).toNat (G.src l b).toNat)]) (binaryF s h d a b f) :=
  binary_lands i fun v w => codeWord (f v.toNat w.toNat)

theorem compareF_lands (i : Issues s h .both (srcReg a 1 ++ srcReg b 1) noHandles G x) (f : Nat → Nat → Bool) :
    LandsP s G x p (fun l => f (G.src l a).toNat (G.src l b).toNat) (compareF s h p a b f) :=
  compare32_lands i fun v w => f v.toNat w.toNat

theorem unaryD_lands (i : Issues s h .both ((d, 2) :: srcReg a 2) noHandles G x) (f : Nat → Nat) :
    Lands s G x d (fun l => codeWords (f (G.srcD l a))) (unaryD s h d a f) :=
  fixedOp_srcD_lands i fun v => codeWords (f v)

theorem binaryD_lands (i : Issues s h .both ((d, 2) :: (srcReg a 2 ++ srcReg b 2)) noHandles G x) (f : Nat → Nat → Nat) :
    Lands s G x d (fun l => codeWords (f (G.srcD l a) (G.srcD l b))) (binaryD s h d a b f) :=
  fixedOp_lands i (by funext l; rw [advanced_srcD, advanced_srcD])

theorem compareD_lands (i : Issues s h .both (srcReg a 2 ++ srcReg b 2) noHandles G x) (f : Nat → Nat → Bool) :
    LandsP s G x p (fun l => f (G.srcD l a) (G.srcD l b)) (compareD s h p a b f) :=
  predOp_lands i (by funext l; rw [advanced_srcD, advanced_srcD])

theorem execDfma_lands {a b c : Reg} (i : Issues s h .both [(d, 2), (a, 2), (b, 2), (c, 2)] noHandles G x) :
    Lands s G x d (fun l => codeWords (f64.fma (G.reg64 l a).toNat (G.reg64 l b).toNat (G.reg64 l c).toNat)) (execDfma h d a b c s) :=
  fixedOp_lands i (by funext l; rw [advanced_reg64, advanced_reg64, advanced_reg64])

end

/-! ### Signs of FP32 patterns (R87) -/

@[simp] theorem f32_signBit : f32.signBit = 2 ^ 31 := rfl

/-- A pattern without its sign bit. -/
theorem codeWord_abs (a : Word) : codeWord (f32.abs a.toNat) = if f32.isNan a.toNat then 0x7FC00000 else a &&& 0x7FFFFFFF := by
  unfold Fmt.abs codeWord
  split
  · rfl
  · apply BitVec.eq_of_toNat_eq
    have hand : a.toNat &&& 0x7FFFFFFF = a.toNat % 2 ^ 31 := Nat.and_two_pow_sub_one_eq_mod a.toNat 31
    rw [f32_signBit, BitVec.toNat_ofNat, BitVec.toNat_and, Nat.mod_eq_of_lt (by omega)]
    exact hand.symm

/-- The top bit of a number of k + 1 bits turned over. -/
theorem xor_two_pow_eq {n k : Nat} (hn : n < 2 ^ (k + 1)) : n ^^^ 2 ^ k = (n + 2 ^ k) % (2 * 2 ^ k) := by
  have hlow : (n ^^^ 2 ^ k) % 2 ^ k = n % 2 ^ k := by rw [Nat.xor_mod_two_pow, Nat.mod_self, Nat.xor_zero]
  have htop : (n ^^^ 2 ^ k) / 2 ^ k = n / 2 ^ k ^^^ 1 := by rw [Nat.xor_div_two_pow, Nat.div_self (Nat.two_pow_pos k)]
  have hsplit := Nat.div_add_mod (n ^^^ 2 ^ k) (2 ^ k)
  rw [hlow, htop] at hsplit
  have hn' := Nat.div_add_mod n (2 ^ k)
  have hlt := Nat.mod_lt n (Nat.two_pow_pos k)
  rw [Nat.pow_succ'] at hn
  have hbit : n / 2 ^ k < 2 := Nat.div_lt_of_lt_mul (by rwa [Nat.mul_comm])
  rcases (Nat.le_one_iff_eq_zero_or_eq_one.1 (Nat.le_of_lt_succ hbit)) with h | h
  · rw [h] at hsplit hn'
    simp only [Nat.zero_xor] at hsplit
    rw [Nat.mod_eq_of_lt (by omega)]
    omega
  · rw [h] at hsplit hn'
    simp only [Nat.xor_self] at hsplit
    rw [Nat.mod_eq_sub_mod (by omega), Nat.mod_eq_of_lt (by omega)]
    omega

/-- A pattern with its sign bit turned over. -/
theorem codeWord_neg (a : Word) : codeWord (f32.neg a.toNat) = if f32.isNan a.toNat then 0x7FC00000 else a ^^^ 0x80000000 := by
  unfold Fmt.neg codeWord
  split
  · rfl
  · apply BitVec.eq_of_toNat_eq
    rw [f32_signBit, BitVec.toNat_ofNat, BitVec.toNat_xor, Nat.mod_eq_of_lt (by omega)]
    exact (xor_two_pow_eq a.isLt).symm

/-- Settles O9: each instruction is its shape (`unaryF_lands`, `binaryF_lands`, `binaryD_lands`, `compareF_lands`, …) with the operation on codes
that R81, R83, R88 give; FABS and FNEG on the bits of the pattern (`codeWord_abs`, `codeWord_neg`). -/
theorem floatingResults : Obligations.FloatingResults := by
  refine ⟨fun s h d G x => ⟨fun a b i => ?_, fun a b c i => ?_, fun a i => ?_, fun a b i => ?_, fun a b c i => ?_, fun a i => ?_⟩,
    fun s h G x => ⟨fun d a b i => ?_, fun d a b i => ?_, fun d a i => ?_, fun d a b i => ?_, fun d a b i => ?_⟩⟩
  · exact ⟨binaryF_lands i f32.add, binaryF_lands i f32.sub, binaryF_lands i f32.mul⟩
  · exact ternary_lands i fun x y z => codeWord (f32.fma x.toNat y.toNat z.toNat)
  · exact unaryF_lands i f32.sqrt
  · exact ⟨binaryD_lands i f64.add, binaryD_lands i f64.sub, binaryD_lands i f64.mul, binaryD_lands i f64.div⟩
  · exact execDfma_lands i
  · exact unaryD_lands i f64.sqrt
  · exact ⟨binaryF_lands i f32.min, binaryF_lands i f32.max⟩
  · exact ⟨binaryD_lands i f64.min, binaryD_lands i f64.max⟩
  · exact ⟨unaryF_lands_of_eq i codeWord_abs, unaryF_lands_of_eq i codeWord_neg, unaryF_lands i fun v => 2 ^ classBit v⟩
  · exact ⟨compareF_lands i f32.ceq, compareF_lands i f32.clt, compareF_lands i f32.cle, compareF_lands i f32.cun⟩
  · exact ⟨compareD_lands i f64.ceq, compareD_lands i f64.clt, compareD_lands i f64.cle, compareD_lands i f64.cun⟩

end Sys2Proof.Machine
end

section
/-! SUPPORT. The approximate instructions (R84, R85): a special result goes before the choice of the part. -/

namespace Sys2Proof.Machine

/-- A special result of R84 is the result, whatever the part chooses elsewhere. -/
theorem ApproxOp.eval_of_special {op : ApproxOp} {a : Word} {c : Nat} (h : op.special a.toNat = some c) : op.eval a = BitVec.ofNat 32 c := by
  rw [ApproxOp.eval, h]

theorem ApproxOp.special_of_isNan (op : ApproxOp) {x : Nat} (h : f32.isNan x = true) : op.special x = some f32.nanCode := by
  have hv : f32.val x = .nan := by
    unfold Fmt.isNan Val.isNan at h
    split at h
    · assumption
    · cases h
  cases op <;> simp only [ApproxOp.special, hv]

/-- The reciprocal square root and the logarithm of a negative operand are the canonical NaN. -/
theorem ApproxOp.special_of_neg {op : ApproxOp} (hop : op = .rsq ∨ op = .log2) {x m : Nat} {e : Int} (h : f32.val x = .fin true m e) (hm : m ≠ 0) :
    op.special x = some f32.nanCode := by
  rcases hop with rfl | rfl <;> simp only [ApproxOp.special, h, hm, if_true, if_false]

/-- Settles O10: the instructions are `unary` and `unaryD` with a function of the operand's bits; each special result is the one of `ApproxOp.special`
(`eval_of_special`). -/
theorem approximateResults : Obligations.ApproximateResults := by
  refine ⟨fun s h d a G x => ⟨fun i => ?_, fun i => ?_⟩, fun op a h => ApproxOp.eval_of_special (op.special_of_isNan h), ?_⟩
  · have lands := fun op : ApproxOp => unary_lands i op.eval
    exact ⟨lands .rcp, lands .rsq, lands .exp2, lands .log2, lands .sin, lands .cos, lands .tanh, lands .sig⟩
  · have lands := unaryD_lands i fun v => (rcp64 (BitVec.ofNat 64 v)).toNat
    simp only [codeWords, BitVec.ofNat_toNat, BitVec.setWidth_eq] at lands
    exact lands
  · have special := fun (op : ApproxOp) (a : Word) (c : Nat) (h : op.special a.toNat = some c) => ApproxOp.eval_of_special h
    refine ⟨special .rcp 0x00000000 _ rfl, special .rcp 0x80000000 _ rfl, special .rcp 0x7F800000 _ rfl, special .rcp 0xFF800000 _ rfl,
      special .rsq 0x00000000 _ rfl, special .rsq 0x80000000 _ rfl, special .rsq 0x7F800000 _ rfl,
      special .exp2 0x00000000 _ rfl, special .exp2 0x80000000 _ rfl, special .exp2 0xFF800000 _ rfl, special .exp2 0x7F800000 _ rfl,
      special .log2 0x00000000 _ rfl, special .log2 0x80000000 _ rfl, special .log2 0x7F800000 _ rfl, special .log2 0x3F800000 _ rfl,
      fun n m e a h hn hm => ?_,
      special .sin 0x00000000 _ rfl, special .sin 0x80000000 _ rfl, special .sin 0x7F800000 _ rfl, special .cos 0x80000000 _ rfl,
      special .cos 0xFF800000 _ rfl, special .tanh 0x80000000 _ rfl, special .tanh 0x7F800000 _ rfl, special .tanh 0xFF800000 _ rfl,
      special .sig 0x00000000 _ rfl, special .sig 0x7F800000 _ rfl, special .sig 0xFF800000 _ rfl⟩
    subst hn
    exact ⟨ApproxOp.eval_of_special (ApproxOp.special_of_neg (.inl rfl) h hm), ApproxOp.eval_of_special (ApproxOp.special_of_neg (.inr rfl) h hm)⟩

end Sys2Proof.Machine
end

section
/-! SUPPORT. Worked values (R75 to R78, R96, R132): the narrow codes name different values, each read back from its own, and the running
sum at the last slot is the sum. -/

namespace Sys2Proof.Machine

/-- A value that a narrow code has is narrowed to that code (R75 to R77). -/
theorem narrow_codes_of_values : ∀ c, c < 256 → toE4m3k (e4m3kVal c) = c ∧ toE5m2k (e5m2kVal c) = c ∧ toInt8 (int8Val c) = c := by
  decide +kernel

/-- A level of the codebook is nearest to itself, and FP32 has it (R78, R96). -/
theorem q4n_codes_of_levels : ∀ n, n < 16 → toQ4n (q4nVal n) = n ∧ f32.val (f32.code (q4nVal n)) ≠ .nan := by
  decide +kernel

/-- The running sum of all 32 slots is one aligned block (R132). -/
theorem treePrefix_all (xs : List Word) : treePrefix xs 32 = treeBlock xs 5 0 := rfl

/-- Settles O15: the read-back of every code (`narrow_codes_of_values`, `q4n_codes_of_levels`), the running sum of all slots (`treePrefix_all`), and
values that the model computes. -/
theorem workedValues : Obligations.WorkedValues := by
  refine ⟨⟨?_, ?_, ?_, ?_, ?_, ?_, ?_, ?_, ?_, ?_, narrow_codes_of_values, q4n_codes_of_levels, ?_, ?_⟩, ?_, ?_, ?_, ?_, ?_, ?_, treePrefix_all, ?_⟩
  all_goals decide +kernel

end Sys2Proof.Machine
end

section
/-! SUPPORT. Rounding to nearest even (R77, R81): the codes of a format in order name values in order, and the rounded code is the nearest of
them. All values are rational numbers; nothing here depends on the widths of a format. -/

namespace Sys2Proof.Machine

/-! ### Values as rational numbers -/

/-- The magnitude of a finite value. -/
def magRat (m : Nat) (e : Int) : ℚ := m * (2 : ℚ) ^ e

/-- The sign of a value as a factor. -/
def signRat (n : Bool) : ℚ := if n then -1 else 1

theorem Val.rat_fin (n : Bool) (m : Nat) (e : Int) : Val.rat (.fin n m e) = signRat n * magRat m e := rfl

theorem magRat_nonneg (m : Nat) (e : Int) : 0 ≤ magRat m e := by unfold magRat; positivity

@[simp] theorem magRat_zero (e : Int) : magRat 0 e = 0 := by simp [magRat]

theorem abs_signRat_mul (n : Bool) (x : ℚ) : |signRat n * x| = |x| := by cases n <;> simp [signRat]

theorem abs_signRat_mul_sub (n : Bool) (x y : ℚ) : |signRat n * x - signRat n * y| = |x - y| := by rw [← mul_sub, abs_signRat_mul]

/-- The same magnitude with another last place. -/
theorem magRat_eq_mul (m : Nat) (e q : Int) : magRat m e = magRat m (e - q) * (2 : ℚ) ^ q := by
  rw [magRat, magRat, mul_assoc, ← zpow_add₀ two_ne_zero, sub_add_cancel]

theorem magRat_natCast (m k : Nat) : magRat m k = (m * 2 ^ k : Nat) := by simp [magRat]

theorem magRat_neg_natCast (m k : Nat) : magRat m (-k) = m / (2 ^ k : Nat) := by simp [magRat, div_eq_mul_inv]

/-! ### Rounding to a multiple of the last place -/

/-- m as a count of twice `h`, rounded to nearest, ties to even. -/
def halfEven (m h : Nat) : Nat :=
  if m % (2 * h) > h || (m % (2 * h) == h && m / (2 * h) % 2 == 1) then m / (2 * h) + 1 else m / (2 * h)

theorem roundTo_of_le {e q : Int} (h : q ≤ e) (m : Nat) : roundTo m e q = m * 2 ^ (e - q).toNat := by rw [roundTo, if_pos h]

theorem roundTo_of_lt {e q : Int} {k : Nat} (h : e - q = -(k + 1 : Nat)) (m : Nat) : roundTo m e q = halfEven m (2 ^ k) := by
  simp only [roundTo, halfEven, if_neg (show ¬ e ≥ q by omega), show (q - e).toNat = k + 1 by omega, Nat.add_sub_cancel, Nat.pow_succ']

/-- The part beyond the whole counts: below 1, and against 1/2 as the remainder is against half the divisor. -/
theorem remainder_spec (m : Nat) {h : Nat} (hh : 0 < h) :
    let u : ℚ := (m % (2 * h) : Nat) / (2 * h : Nat)
    (m : ℚ) / (2 * h : Nat) = (m / (2 * h) : Nat) + u ∧ 0 ≤ u ∧ u < 1 ∧ (h < m % (2 * h) ↔ 1 / 2 < u) ∧ (m % (2 * h) = h ↔ u = 1 / 2) := by
  intro u
  have hd : (0 : ℚ) < (2 * h : Nat) := by positivity
  have hhalf : (h : ℚ) / (2 * h : Nat) = 1 / 2 := by push_cast; field_simp
  refine ⟨?_, by positivity, ?_, ?_, ?_⟩
  · have hm : ((2 * h * (m / (2 * h)) + m % (2 * h) : Nat) : ℚ) = m := by rw [Nat.div_add_mod]
    rw [← hm, Nat.cast_add, add_div, Nat.cast_mul, mul_div_cancel_left₀ _ hd.ne']
  · rw [div_lt_one hd]
    exact_mod_cast Nat.mod_lt m (by omega)
  · rw [← hhalf, div_lt_div_iff_of_pos_right hd, Nat.cast_lt]
  · rw [← hhalf, div_left_inj' hd.ne', Nat.cast_inj]

theorem halfEven_nearest (m : Nat) {h : Nat} (hh : 0 < h) :
    |(halfEven m h : ℚ) - m / (2 * h : Nat)| ≤ 1 / 2 ∧ (|(halfEven m h : ℚ) - m / (2 * h : Nat)| = 1 / 2 → halfEven m h % 2 = 0) := by
  obtain ⟨hm, hu0, hu1, hgt, heq⟩ := remainder_spec m hh
  simp only [halfEven, hm, Bool.or_eq_true, Bool.and_eq_true, beq_iff_eq, decide_eq_true_eq, gt_iff_lt, hgt, heq]
  generalize ((m % (2 * h) : Nat) : ℚ) / (2 * h : Nat) = u at *
  generalize m / (2 * h) = t
  split
  · next hup =>
    have hup' : 1 / 2 ≤ u := hup.elim le_of_lt fun h => h.1.ge
    rw [show ((t + 1 : Nat) : ℚ) - (t + u) = 1 - u by push_cast; ring, abs_of_nonneg (by linarith)]
    refine ⟨by linarith, fun hu2 => ?_⟩
    rcases hup with h | h
    · exact absurd h (by linarith)
    · omega
  · next hdown =>
    rw [show (t : ℚ) - (t + u) = -u by ring, abs_neg, abs_of_nonneg hu0]
    refine ⟨le_of_not_gt fun h => hdown (.inl h), fun hu2 => ?_⟩
    by_contra ht
    exact hdown (.inr ⟨hu2, by omega⟩)

/-- The rounded count is at most half a unit off, and even where it is half a unit off. -/
theorem roundTo_nearest (m : Nat) (e q : Int) :
    |(roundTo m e q : ℚ) - magRat m (e - q)| ≤ 1 / 2 ∧ (|(roundTo m e q : ℚ) - magRat m (e - q)| = 1 / 2 → roundTo m e q % 2 = 0) := by
  rcases le_or_gt q e with h | h
  · obtain ⟨k, hk⟩ := Int.eq_ofNat_of_zero_le (Int.sub_nonneg.2 h)
    rw [roundTo_of_le h, hk, Int.toNat_natCast, magRat_natCast, sub_self, abs_zero]
    norm_num
  · obtain ⟨k, hk⟩ : ∃ k : Nat, e - q = -(k + 1 : Nat) := ⟨(q - e - 1).toNat, by omega⟩
    rw [roundTo_of_lt hk, hk, magRat_neg_natCast, Nat.pow_succ']
    exact halfEven_nearest m (Nat.two_pow_pos k)

/-- A count within half a unit is one of the two next to the value. -/
theorem floor_or_succ {y : ℚ} {l t : Nat} (hl : (l : ℚ) ≤ y) (hl' : y < l + 1) (ht : |(t : ℚ) - y| ≤ 1 / 2) : t = l ∨ t = l + 1 := by
  obtain ⟨ht1, ht2⟩ := abs_le.1 ht
  have hlo : (l : ℚ) < t + 1 := by linarith
  have hhi : (t : ℚ) < l + 2 := by linarith
  have hlo' : l < t + 1 := by exact_mod_cast hlo
  have hhi' : t < l + 2 := by exact_mod_cast hhi
  omega

/-- Of the points of a grid with `l` and `l + 1` next to each other, the rounded count is nearest, alone but for a tie. -/
theorem nearest_of_grid {y z : ℚ} {l t : Nat} (hl : (l : ℚ) ≤ y) (hl' : y < l + 1) (ht : |(t : ℚ) - y| ≤ 1 / 2)
    (hz : z ≤ l ∨ (l : ℚ) + 1 ≤ z) :
    |(t : ℚ) - y| ≤ |z - y| ∧ (|(t : ℚ) - y| = |z - y| → z ≠ t → |(t : ℚ) - y| = 1 / 2) := by
  obtain ⟨ht1, ht2⟩ := abs_le.1 ht
  rcases floor_or_succ hl hl' ht with rfl | rfl
  · rw [abs_of_nonpos (by linarith : (t : ℚ) - y ≤ 0)] at *
    rcases hz with hz | hz
    · rw [abs_of_nonpos (by linarith)]
      exact ⟨by linarith, fun h hne => absurd (by linarith) hne⟩
    · rw [abs_of_nonneg (by linarith)]
      exact ⟨by linarith, fun h _ => by linarith⟩
  · push_cast at *
    rw [abs_of_nonneg (by linarith : 0 ≤ (l : ℚ) + 1 - y)] at *
    rcases hz with hz | hz
    · rw [abs_of_nonpos (by linarith)]
      exact ⟨by linarith, fun h _ => by linarith⟩
    · rw [abs_of_nonneg (by linarith)]
      exact ⟨by linarith, fun h hne => absurd (by linarith) hne⟩

/-! ### Magnitude codes -/

/-- The value of a magnitude code (R73, R75). -/
def codeRat (fbits : Nat) (qmin : Int) (c : Nat) : ℚ :=
  if c / 2 ^ fbits = 0 then magRat (c % 2 ^ fbits) qmin else magRat (2 ^ fbits + c % 2 ^ fbits) (qmin + (c / 2 ^ fbits : Nat) - 1)

theorem finVal_rat (fbits : Nat) (qmin : Int) (n : Bool) (c : Nat) : (finVal fbits qmin n c).rat = signRat n * codeRat fbits qmin c := by
  simp only [finVal, codeRat]
  split <;> rfl

/-- A code as a count of a last place: also at the upper end of the binade. -/
theorem codeRat_grid {fbits : Nat} (qmin : Int) {j t : Nat} (ht : t ≤ 2 * 2 ^ fbits) (hj : j = 0 ∨ 2 ^ fbits ≤ t) :
    codeRat fbits qmin (j * 2 ^ fbits + t) = magRat t (qmin + j) := by
  have hpos := Nat.two_pow_pos fbits
  have hdiv : (j * 2 ^ fbits + t) / 2 ^ fbits = j + t / 2 ^ fbits := by rw [Nat.add_comm, Nat.add_mul_div_right _ _ hpos, Nat.add_comm]
  have hmod : (j * 2 ^ fbits + t) % 2 ^ fbits = t % 2 ^ fbits := by rw [Nat.add_comm, Nat.add_mul_mod_self_right]
  rw [codeRat, hdiv, hmod]
  rcases Nat.lt_or_ge t (2 ^ fbits) with h | h
  · obtain rfl := hj.resolve_right (by omega)
    rw [Nat.div_eq_of_lt h, Nat.mod_eq_of_lt h, if_pos rfl, Nat.cast_zero, add_zero]
  · rcases Nat.lt_or_ge t (2 * 2 ^ fbits) with h2 | h2
    · have hq : t / 2 ^ fbits = 1 := Nat.div_eq_of_lt_le (by omega) (by omega)
      have hr : t % 2 ^ fbits = t - 2 ^ fbits := by rw [Nat.mod_eq_sub_mod h, Nat.mod_eq_of_lt (by omega)]
      rw [hq, hr, if_neg (by omega), Nat.add_sub_cancel' h]
      congr 1
      push_cast
      ring
    · obtain rfl := Nat.le_antisymm ht h2
      rw [Nat.mul_div_cancel _ hpos, Nat.mul_mod_left, if_neg (by omega), Nat.add_zero, magRat, magRat]
      push_cast
      rw [show qmin + ((j : Int) + 2) - 1 = (qmin + j) + 1 by ring, zpow_add_one₀ two_ne_zero]
      ring

theorem codeRat_lt_succ (fbits : Nat) (qmin : Int) (c : Nat) : codeRat fbits qmin c < codeRat fbits qmin (c + 1) := by
  have hpos := Nat.two_pow_pos fbits
  obtain ⟨j, t, rfl, ht, hj⟩ : ∃ j t, c = j * 2 ^ fbits + t ∧ t < 2 * 2 ^ fbits ∧ (j = 0 ∨ 2 ^ fbits ≤ t) := by
    have hc := Nat.div_add_mod' c (2 ^ fbits)
    have hlt := Nat.mod_lt c hpos
    cases hq : c / 2 ^ fbits with
    | zero => exact ⟨0, c, by omega, by rw [hq] at hc; omega, .inl rfl⟩
    | succ j => exact ⟨j, 2 ^ fbits + c % 2 ^ fbits, by rw [hq, Nat.succ_mul] at hc; omega, by omega, .inr (by omega)⟩
  rw [Nat.add_assoc, codeRat_grid qmin (by omega) hj, codeRat_grid qmin (by omega) (hj.imp_right (by omega)), magRat, magRat]
  gcongr
  exact Nat.lt_succ_self t

theorem codeRat_strictMono (fbits : Nat) (qmin : Int) : StrictMono (codeRat fbits qmin) := strictMono_nat_of_lt_succ (codeRat_lt_succ fbits qmin)

@[simp] theorem codeRat_zero (fbits : Nat) (qmin : Int) : codeRat fbits qmin 0 = 0 := by simp [codeRat]

theorem codeRat_nonneg (fbits : Nat) (qmin : Int) (c : Nat) : 0 ≤ codeRat fbits qmin c := by
  rw [← codeRat_zero fbits qmin]
  exact (codeRat_strictMono fbits qmin).monotone (Nat.zero_le c)

/-! ### The rounded code -/

/-- What the last place of a value is for: the value counts below two binades of units, and from one binade on above the least last place. -/
theorem lastPlace_spec (fbits : Nat) (qmin : Int) {m : Nat} (hm : m ≠ 0) (e : Int) :
    let q := lastPlace fbits qmin m e
    qmin ≤ q ∧ magRat m (e - q) < (2 * 2 ^ fbits : Nat) ∧ (q = qmin ∨ (2 ^ fbits : Nat) ≤ magRat m (e - q)) := by
  intro q
  have hlo : ((2 : ℚ) ^ (Nat.log2 m : Int)) ≤ m := by rw [zpow_natCast]; exact_mod_cast Nat.log2_self_le hm
  have hhi : (m : ℚ) < (2 : ℚ) ^ ((Nat.log2 m : Int) + 1) := by exact_mod_cast Nat.lt_log2_self
  have hle : (1 : ℚ) ≤ 2 := one_le_two
  have hq : q = if (Nat.log2 m : Int) + e - fbits < qmin then qmin else (Nat.log2 m : Int) + e - fbits := rfl
  have hq1 : qmin ≤ q := by rw [hq]; split <;> omega
  have hq2 : (Nat.log2 m : Int) + e - fbits ≤ q := by rw [hq]; split <;> omega
  refine ⟨hq1, ?_, ?_⟩
  · calc magRat m (e - q) < (2 : ℚ) ^ ((Nat.log2 m : Int) + 1) * 2 ^ (e - q) := by unfold magRat; gcongr
      _ = 2 ^ ((Nat.log2 m : Int) + 1 + (e - q)) := (zpow_add₀ two_ne_zero _ _).symm
      _ ≤ 2 ^ ((fbits : Int) + 1) := zpow_le_zpow_right₀ hle (by omega)
      _ = (2 * 2 ^ fbits : Nat) := by rw [zpow_add_one₀ two_ne_zero]; push_cast; rw [zpow_natCast]; ring
  · rcases lt_or_ge ((Nat.log2 m : Int) + e - fbits) qmin with h | h
    · exact .inl (by rw [hq, if_pos h])
    · right
      have hq' : q = (Nat.log2 m : Int) + e - fbits := by rw [hq, if_neg (by omega)]
      calc ((2 ^ fbits : Nat) : ℚ) = 2 ^ (fbits : Int) := by push_cast; rw [zpow_natCast]
        _ = 2 ^ ((Nat.log2 m : Int) + (e - q)) := by congr 1; omega
        _ = 2 ^ (Nat.log2 m : Int) * 2 ^ (e - q) := zpow_add₀ two_ne_zero _ _
        _ ≤ magRat m (e - q) := by unfold magRat; gcongr

/-- No code lies between two counts of a last place that are next to each other. -/
theorem codeRat_le_or_ge {fbits : Nat} (qmin : Int) {j l : Nat} (hl : l < 2 * 2 ^ fbits) (hj : j = 0 ∨ 2 ^ fbits ≤ l) (c : Nat) :
    codeRat fbits qmin c ≤ magRat l (qmin + j) ∨ magRat (l + 1) (qmin + j) ≤ codeRat fbits qmin c := by
  have hmono := (codeRat_strictMono fbits qmin).monotone
  rw [← codeRat_grid qmin hl.le hj, ← codeRat_grid qmin hl (hj.imp_right (by omega))]
  exact (le_or_gt c (j * 2 ^ fbits + l)).imp (hmono ·) fun h => hmono h

/-- The rounded code is the nearest of all codes, and even where another is as near (R77, R81). -/
theorem roundCode_nearest {fbits : Nat} (hf : 0 < fbits) (qmin : Int) (m : Nat) (e : Int) (c : Nat) :
    let near := |codeRat fbits qmin (roundCode fbits qmin m e) - magRat m e|
    let other := |codeRat fbits qmin c - magRat m e|
    near ≤ other ∧ (near = other → codeRat fbits qmin c ≠ codeRat fbits qmin (roundCode fbits qmin m e) → roundCode fbits qmin m e % 2 = 0) := by
  rcases eq_or_ne m 0 with rfl | hm
  · simp [roundCode]
  obtain ⟨hq, hhi, hlo⟩ := lastPlace_spec fbits qmin hm e
  obtain ⟨hnear, heven⟩ := roundTo_nearest m e (lastPlace fbits qmin m e)
  have hc : roundCode fbits qmin m e =
      (lastPlace fbits qmin m e - qmin).toNat * 2 ^ fbits + roundTo m e (lastPlace fbits qmin m e) := by rw [roundCode, if_neg hm]
  rw [magRat_eq_mul m e (lastPlace fbits qmin m e), hc]
  generalize lastPlace fbits qmin m e = q at *
  generalize roundTo m e q = t at *
  obtain ⟨j, rfl⟩ := Int.le.dest hq
  rw [add_sub_cancel_left, Int.toNat_natCast]
  have hy := magRat_nonneg m (e - (qmin + j))
  generalize magRat m (e - (qmin + j)) = y at *
  have hl := Nat.floor_le hy
  have hl' := Nat.lt_floor_add_one y
  have hlhi : ⌊y⌋₊ < 2 * 2 ^ fbits := (Nat.floor_lt hy).2 hhi
  have hllo : j = 0 ∨ 2 ^ fbits ≤ ⌊y⌋₊ := hlo.imp (by omega) Nat.le_floor
  generalize ⌊y⌋₊ = l at *
  have hu : (0 : ℚ) < 2 ^ (qmin + (j : Int)) := by positivity
  have ht : codeRat fbits qmin (j * 2 ^ fbits + t) = magRat t (qmin + j) := by
    have := floor_or_succ hl hl' hnear
    exact codeRat_grid qmin (by omega) (hllo.imp_right (by omega))
  obtain ⟨z, hz⟩ : ∃ z, codeRat fbits qmin c = z * 2 ^ (qmin + (j : Int)) := ⟨_, (div_mul_cancel₀ _ hu.ne').symm⟩
  have hside : z ≤ l ∨ (l : ℚ) + 1 ≤ z := by
    have := codeRat_le_or_ge qmin hlhi hllo c
    simp only [hz, magRat] at this
    exact this.imp (le_of_mul_le_mul_right · hu) fun h => by exact_mod_cast le_of_mul_le_mul_right h hu
  obtain ⟨hle, htie⟩ := nearest_of_grid hl hl' hnear hside
  rw [ht, hz, magRat, ← sub_mul, ← sub_mul, abs_mul, abs_mul, abs_of_pos hu]
  refine ⟨mul_le_mul_of_nonneg_right hle hu.le, fun heq hne => ?_⟩
  have ht2 := heven (htie (mul_right_cancel₀ hu.ne' heq) fun h => hne (by rw [h]))
  rw [Nat.add_mod, ht2, ← Nat.succ_pred_eq_of_pos hf, Nat.pow_succ, ← Nat.mul_assoc, Nat.mul_mod_left]

end Sys2Proof.Machine
end

section
/-! SUPPORT. The wide formats (R73, R81 to R83): what a code names, the NaN that arithmetic writes, and the order of the codes. A format has
an exponent and a fraction; nothing else is used of the four. -/

namespace Sys2Proof.Machine

/-! ### What a code names -/

/-- The value of a sign and a magnitude code. -/
def Fmt.signedVal (f : Fmt) (n : Bool) (c : Nat) : Val :=
  if c > f.infCode then .nan else if c = f.infCode then .inf n else finVal f.fbits f.qmin n c

/-- The sign of a code, as its value has it. -/
def Fmt.signOf (f : Fmt) (x : Nat) : Bool := x / f.signBit % 2 == 1

/-- The magnitude of a sign and a magnitude code as a number, that of an infinity above all others. -/
def Fmt.signedRat (f : Fmt) (n : Bool) (c : Nat) : ℚ := signRat n * codeRat f.fbits f.qmin c

/-- The codes of a format without special ones name finite values. -/
theorem finVal_eq_fin (fbits : Nat) (qmin : Int) (n : Bool) (c : Nat) : ∃ m e, finVal fbits qmin n c = .fin n m e := by
  simp only [finVal]
  split
  · exact ⟨_, _, rfl⟩
  · exact ⟨_, _, rfl⟩

theorem Fmt.val_eq (f : Fmt) (x : Nat) : f.val x = f.signedVal (f.signOf x) (x % f.signBit) := rfl

theorem Fmt.signBit_pos (f : Fmt) : 0 < f.signBit := Nat.two_pow_pos _

theorem Fmt.infCode_lt (f : Fmt) : f.infCode < f.signBit := by
  rw [Fmt.infCode, Fmt.signBit, Nat.pow_add]
  exact Nat.mul_lt_mul_of_pos_right (Nat.sub_lt (Nat.two_pow_pos _) one_pos) (Nat.two_pow_pos _)

theorem Fmt.signedVal_isNan (f : Fmt) (n : Bool) (c : Nat) : (f.signedVal n c).isNan = true ↔ f.infCode < c := by
  unfold Fmt.signedVal
  split
  · simpa [Val.isNan]
  · next h =>
    refine iff_of_false ?_ h
    split
    · exact Bool.false_ne_true
    · obtain ⟨m, e, hfin⟩ := finVal_eq_fin f.fbits f.qmin n c
      rw [hfin]
      exact Bool.false_ne_true

theorem Fmt.isNan_iff (f : Fmt) (x : Nat) : f.isNan x = true ↔ f.infCode < x % f.signBit := f.signedVal_isNan _ _

theorem Fmt.isNan_eq_false_iff (f : Fmt) (x : Nat) : f.isNan x = false ↔ x % f.signBit ≤ f.infCode := by
  rw [← Bool.not_eq_true, f.isNan_iff, Nat.not_lt]

theorem Fmt.signedVal_of_lt (f : Fmt) (n : Bool) {c : Nat} (h : c < f.infCode) : f.signedVal n c = finVal f.fbits f.qmin n c := by
  rw [Fmt.signedVal, if_neg (by omega), if_neg (by omega)]

theorem Fmt.rat_val (f : Fmt) {x : Nat} (h : x % f.signBit < f.infCode) : (f.val x).rat = f.signedRat (f.signOf x) (x % f.signBit) := by
  rw [f.val_eq, f.signedVal_of_lt _ h, finVal_rat]
  rfl

/-! ### Sign and magnitude of a code -/

theorem Fmt.signed_mod (f : Fmt) (n : Bool) {c : Nat} (h : c < f.signBit) : (b2n n * f.signBit + c) % f.signBit = c := by
  rw [Nat.add_comm, Nat.add_mul_mod_self_right, Nat.mod_eq_of_lt h]

theorem Fmt.signed_signOf (f : Fmt) (n : Bool) {c : Nat} (h : c < f.signBit) : f.signOf (b2n n * f.signBit + c) = n := by
  rw [Fmt.signOf, Nat.add_comm, Nat.add_mul_div_right _ _ f.signBit_pos, Nat.div_eq_of_lt h, Nat.zero_add]
  cases n <;> rfl

theorem Fmt.exists_signed (f : Fmt) {x : Nat} (h : x < 2 * f.signBit) : ∃ n c, x = b2n n * f.signBit + c ∧ c < f.signBit := by
  rcases Nat.lt_or_ge x f.signBit with hx | hx
  · exact ⟨false, x, by rw [b2n, if_neg Bool.false_ne_true, Nat.zero_mul, Nat.zero_add], hx⟩
  · exact ⟨true, x - f.signBit, by rw [b2n, if_pos rfl]; omega, by omega⟩

/-! ### Canonical NaNs (R82) -/

/-- The code of a finite value: its sign, and the rounded magnitude up to that of an infinity (R81). -/
theorem Fmt.code_fin (f : Fmt) (n : Bool) (m : Nat) (e : Int) :
    f.code (.fin n m e) = b2n n * f.signBit + Min.min (roundCode f.fbits f.qmin m e) f.infCode := by
  simp only [Fmt.code]
  congr 1
  split <;> omega

theorem Fmt.isNan_signed (f : Fmt) (n : Bool) {c : Nat} (h : c ≤ f.infCode) : f.isNan (b2n n * f.signBit + c) = false := by
  rwa [f.isNan_eq_false_iff, f.signed_mod n (h.trans_lt f.infCode_lt)]

/-- Only NaN has a code that is a NaN, the canonical one. -/
theorem Fmt.code_of_isNan {f : Fmt} {v : Val} (h : f.isNan (f.code v) = true) : f.code v = f.nanCode := by
  cases v with
  | nan => rfl
  | inf n => exact absurd h (Bool.eq_false_iff.1 (f.isNan_signed n le_rfl))
  | fin n m e =>
    rw [f.code_fin] at h
    exact absurd h (Bool.eq_false_iff.1 (f.isNan_signed n (min_le_right _ _)))

/-- A minimum or a maximum, by whether the second of two numbers is taken. -/
def Fmt.select (f : Fmt) (second : Bool) (a b : Nat) : Nat :=
  if f.isNan a then (if f.isNan b then f.nanCode else b) else if f.isNan b then a else if second then b else a

theorem Fmt.min_eq_select (f : Fmt) (a b : Nat) : f.min a b = f.select (f.below b a) a b := rfl

theorem Fmt.max_eq_select (f : Fmt) (a b : Nat) : f.max a b = f.select (f.below a b) a b := rfl

theorem Fmt.select_of_nan_nan {f : Fmt} {a b : Nat} (second : Bool) (ha : f.isNan a = true) (hb : f.isNan b = true) :
    f.select second a b = f.nanCode := by rw [Fmt.select, if_pos ha, if_pos hb]

theorem Fmt.select_of_nan_left {f : Fmt} {a b : Nat} (second : Bool) (ha : f.isNan a = true) (hb : f.isNan b = false) :
    f.select second a b = b := by rw [Fmt.select, if_pos ha, hb, if_neg Bool.false_ne_true]

theorem Fmt.select_of_nan_right {f : Fmt} {a b : Nat} (second : Bool) (ha : f.isNan a = false) (hb : f.isNan b = true) :
    f.select second a b = a := by rw [Fmt.select, ha, if_neg Bool.false_ne_true, if_pos hb]

theorem Fmt.select_of_numbers {f : Fmt} {a b : Nat} (second : Bool) (ha : f.isNan a = false) (hb : f.isNan b = false) :
    f.select second a b = if second then b else a := by rw [Fmt.select, ha, hb, if_neg Bool.false_ne_true, if_neg Bool.false_ne_true]

/-- A selection between operands writes no NaN of theirs. -/
theorem Fmt.select_of_isNan {f : Fmt} {second : Bool} {a b : Nat} (h : f.isNan (f.select second a b) = true) : f.select second a b = f.nanCode := by
  cases ha : f.isNan a <;> cases hb : f.isNan b
  · rw [Fmt.select_of_numbers second ha hb] at h
    cases second <;> simp_all
  · rw [Fmt.select_of_nan_right second ha hb, ha] at h
    cases h
  · rw [Fmt.select_of_nan_left second ha hb, hb] at h
    cases h
  · exact Fmt.select_of_nan_nan second ha hb

/-- A pattern of the same magnitude is a NaN or none, as the first is. -/
theorem Fmt.isNan_congr (f : Fmt) {x y : Nat} (h : x % f.signBit = y % f.signBit) : f.isNan x = f.isNan y := by
  rw [Bool.eq_iff_iff, f.isNan_iff, f.isNan_iff, h]

theorem Fmt.abs_of_isNan {f : Fmt} {a : Nat} (h : f.isNan (f.abs a) = true) : f.abs a = f.nanCode := by
  unfold Fmt.abs at h ⊢
  split at h
  · next ha => rw [if_pos ha]
  · next ha => exact absurd ((f.isNan_congr (Nat.mod_mod _ _)).symm.trans h) ha

theorem Fmt.neg_of_isNan {f : Fmt} {a : Nat} (h : f.isNan (f.neg a) = true) : f.neg a = f.nanCode := by
  unfold Fmt.neg at h ⊢
  split at h
  · next ha => rw [if_pos ha]
  · next ha =>
    refine absurd ((f.isNan_congr ?_).symm.trans h) ha
    rw [Nat.mod_mul_left_mod, Nat.add_mod_right]

/-! ### Rounding to a format (R81) -/

theorem signRat_of_ne {n k : Bool} (h : k ≠ n) : signRat k = -signRat n := by cases n <;> cases k <;> simp_all [signRat]

/-- A finite result is the nearest value of the format, and its code even where another value is as near. -/
theorem Fmt.code_nearest {f : Fmt} (hf : 0 < f.fbits) (n : Bool) (m : Nat) (e : Int) (hfin : f.code (.fin n m e) % f.signBit < f.infCode)
    {c : Nat} (hc : c % f.signBit < f.infCode) :
    let near := |(f.val (f.code (.fin n m e))).rat - Val.rat (.fin n m e)|
    let other := |(f.val c).rat - Val.rat (.fin n m e)|
    near ≤ other ∧ (near = other → (f.val c).rat ≠ (f.val (f.code (.fin n m e))).rat → f.code (.fin n m e) % 2 = 0) := by
  have hr : roundCode f.fbits f.qmin m e < f.infCode := by
    rw [f.code_fin, f.signed_mod n ((min_le_right _ _).trans_lt f.infCode_lt)] at hfin
    omega
  have hcode : f.code (.fin n m e) = b2n n * f.signBit + roundCode f.fbits f.qmin m e := by rw [f.code_fin, min_eq_left hr.le]
  have heven : f.code (.fin n m e) % 2 = roundCode f.fbits f.qmin m e % 2 := by
    rw [hcode, Fmt.signBit, ← Nat.succ_pred_eq_of_pos hf, Nat.add_succ, Nat.pow_succ, ← Nat.mul_assoc, Nat.add_comm, Nat.add_mul_mod_self_right]
  rw [f.rat_val hfin, f.rat_val hc, heven, hcode, f.signed_signOf n (hr.trans f.infCode_lt), f.signed_mod n (hr.trans f.infCode_lt), Val.rat_fin,
    Fmt.signedRat, Fmt.signedRat, abs_signRat_mul_sub]
  obtain ⟨hle, htie⟩ := roundCode_nearest hf f.qmin m e (c % f.signBit)
  obtain ⟨hle0, htie0⟩ := roundCode_nearest hf f.qmin m e 0
  rw [codeRat_zero, zero_sub, abs_neg, abs_of_nonneg (magRat_nonneg m e)] at hle0 htie0
  have hA := codeRat_nonneg f.fbits f.qmin (roundCode f.fbits f.qmin m e)
  have hB := codeRat_nonneg f.fbits f.qmin (c % f.signBit)
  have hX := magRat_nonneg m e
  by_cases hs : f.signOf c = n
  · rw [hs, abs_signRat_mul_sub]
    exact ⟨hle, fun h hne => htie h fun h' => hne (by rw [h'])⟩
  · rw [signRat_of_ne hs, neg_mul, ← neg_add', abs_neg, ← mul_add, abs_signRat_mul, abs_of_nonneg (add_nonneg hB hX)]
    refine ⟨by linarith, fun h hne => htie0 (by linarith) fun h0 => hne ?_⟩
    rw [show codeRat f.fbits f.qmin (c % f.signBit) = 0 by linarith, ← h0, mul_zero, neg_zero]

/-! ### The order of codes (R83) -/

theorem signedAt_rat (n : Bool) (m : Nat) {e q : Int} (h : q ≤ e) : (signedAt n m e q : ℚ) * 2 ^ q = signRat n * magRat m e := by
  obtain ⟨k, rfl⟩ := Int.le.dest h
  rw [magRat_eq_mul m _ q, add_sub_cancel_left, magRat_natCast, ← mul_assoc]
  congr 1
  cases n <;> simp [signedAt, signRat]

/-- The comparison of two finite values is that of the numbers. -/
theorem Val.lt_fin_iff (n k : Bool) (m p : Nat) (e g : Int) : (Val.fin n m e).lt (.fin k p g) = true ↔ (Val.fin n m e).rat < (Val.fin k p g).rat := by
  have hu : ∀ q : Int, (0 : ℚ) < 2 ^ q := fun q => by positivity
  have key : ∀ q : Int, q ≤ e → q ≤ g →
      (signedAt n m e q < signedAt k p g q ↔ signRat n * magRat m e < signRat k * magRat p g) := fun q he hg => by
    rw [← signedAt_rat n m he, ← signedAt_rat k p hg, mul_lt_mul_iff_left₀ (hu q), Int.cast_lt]
  simp only [Val.lt, decide_eq_true_eq, Val.rat_fin]
  split
  · exact key e le_rfl (by omega)
  · exact key g (by omega) le_rfl

/-- A number stands for a value in comparisons: that of a finite value, or the bound of all finite ones for an infinity. -/
def Val.Ranks (bound : ℚ) : Val → ℚ → Prop
  | .nan, _ => False
  | .inf n, r => r = signRat n * bound
  | .fin n m e, r => r = (Val.fin n m e).rat ∧ |r| < bound

theorem Val.Ranks.lt {bound r t : ℚ} {v w : Val} (hb : 0 < bound) (hv : v.Ranks bound r) (hw : w.Ranks bound t) (h : v.lt w = true) : r < t := by
  cases v with
  | nan => exact hv.elim
  | inf n =>
    cases w with
    | nan => exact hw.elim
    | inf k =>
      rw [show r = _ from hv, show t = _ from hw]
      cases n <;> cases k <;> simp [Val.lt] at h
      simpa [signRat] using hb
    | fin k p g =>
      obtain rfl : n = true := h
      rw [show r = _ from hv, signRat, if_pos rfl, neg_one_mul]
      exact (abs_lt.1 hw.2).1
  | fin n m e =>
    cases w with
    | nan => exact hw.elim
    | inf k =>
      obtain rfl : k = false := by simpa [Val.lt] using h
      rw [show t = _ from hw, signRat, if_neg Bool.false_ne_true, one_mul]
      exact (abs_lt.1 hv.2).2
    | fin k p g => rwa [hv.1, hw.1, ← Val.lt_fin_iff]

/-- Sign and magnitude code rank a value, the code of the infinities as if a number were above the greatest. -/
theorem Fmt.signedVal_ranks (f : Fmt) (n : Bool) {c : Nat} (hc : c ≤ f.infCode) :
    (f.signedVal n c).Ranks (codeRat f.fbits f.qmin f.infCode) (f.signedRat n c) := by
  rcases hc.lt_or_eq with hc | rfl
  · obtain ⟨m, e, hfin⟩ := finVal_eq_fin f.fbits f.qmin n c
    have hrat := finVal_rat f.fbits f.qmin n c
    have habs : |f.signedRat n c| < codeRat f.fbits f.qmin f.infCode := by
      rw [Fmt.signedRat, abs_signRat_mul, abs_of_nonneg (codeRat_nonneg _ _ c)]
      exact codeRat_strictMono f.fbits f.qmin hc
    rw [f.signedVal_of_lt n hc, hfin]
    rw [hfin] at hrat
    exact ⟨hrat.symm, habs⟩
  · rw [Fmt.signedVal, if_neg (by omega), if_pos rfl]
    rfl

/-- The key by which minima and maxima order codes that are no NaN (R83). -/
def Fmt.orderKey (f : Fmt) (x : Nat) : Int := if x ≥ f.signBit then -((x % f.signBit : Nat) : Int) - 1 else (x : Int)

theorem Fmt.below_iff (f : Fmt) (a b : Nat) : f.below a b = true ↔ f.orderKey a < f.orderKey b := decide_eq_true_iff

theorem Fmt.orderKey_signed (f : Fmt) (n : Bool) {c : Nat} (h : c < f.signBit) :
    f.orderKey (b2n n * f.signBit + c) = if n then -(c : Int) - 1 else c := by
  have hmod := f.signed_mod n h
  unfold Fmt.orderKey
  rw [hmod]
  cases n
  · rw [if_neg (by simp [b2n]; omega), if_neg Bool.false_ne_true]
    simp [b2n]
  · rw [if_pos (by simp [b2n]), if_pos rfl]

theorem Fmt.infCode_pos {f : Fmt} (hf : 0 < f.ebits) : 0 < f.infCode :=
  Nat.mul_pos (Nat.sub_pos_of_lt (Nat.one_lt_two_pow hf.ne')) (Nat.two_pow_pos _)

/-- The order by keys agrees with the compares. -/
theorem Fmt.orderKey_lt_of_clt {f : Fmt} (hf : 0 < f.ebits) {a b : Nat} (ha : a < 2 * f.signBit) (hb : b < 2 * f.signBit)
    (hna : f.isNan a = false) (hnb : f.isNan b = false) (h : f.clt a b = true) : f.orderKey a < f.orderKey b := by
  obtain ⟨n, c, rfl, hc⟩ := f.exists_signed ha
  obtain ⟨k, d, rfl, hd⟩ := f.exists_signed hb
  rw [f.isNan_eq_false_iff, f.signed_mod _ hc] at hna
  rw [f.isNan_eq_false_iff, f.signed_mod _ hd] at hnb
  rw [Fmt.clt, f.val_eq, f.val_eq, f.signed_signOf n hc, f.signed_signOf k hd, f.signed_mod n hc, f.signed_mod k hd] at h
  have hbound := codeRat_strictMono f.fbits f.qmin (Fmt.infCode_pos hf)
  rw [codeRat_zero] at hbound
  have hlt := (f.signedVal_ranks n hna).lt hbound (f.signedVal_ranks k hnb) h
  rw [f.orderKey_signed n hc, f.orderKey_signed k hd]
  have hcd := (codeRat_strictMono f.fbits f.qmin).lt_iff_lt (a := c) (b := d)
  have hdc := (codeRat_strictMono f.fbits f.qmin).lt_iff_lt (a := d) (b := c)
  have hc0 := codeRat_nonneg f.fbits f.qmin c
  have hd0 := codeRat_nonneg f.fbits f.qmin d
  simp only [Fmt.signedRat, signRat] at hlt
  cases n <;> cases k <;> simp only [if_true, if_false, Bool.false_eq_true, one_mul, neg_one_mul, neg_lt_neg_iff] at hlt ⊢
  · exact_mod_cast hcd.1 hlt
  · linarith
  · omega
  · have := hdc.1 hlt
    omega

/-! ### Minima, maxima and compares (R83) -/

/-- What minima and maxima give of two numbers that are not equal. -/
theorem Fmt.min_max_of_clt {f : Fmt} (hf : 0 < f.ebits) {a b : Nat} (ha : a < 2 * f.signBit) (hb : b < 2 * f.signBit)
    (hna : f.isNan a = false) (hnb : f.isNan b = false) (h : f.clt a b = true) :
    (f.min a b = a ∧ f.max a b = b) ∧ (f.min b a = a ∧ f.max b a = b) := by
  have hlt := Fmt.orderKey_lt_of_clt hf ha hb hna hnb h
  have hab := (f.below_iff a b).2 hlt
  have hba : f.below b a = false := Bool.eq_false_iff.2 fun h' => absurd ((f.below_iff b a).1 h') (by omega)
  simp only [Fmt.min_eq_select, Fmt.max_eq_select, Fmt.select_of_numbers _ hna hnb, Fmt.select_of_numbers _ hnb hna, hab, hba, if_true,
    Bool.false_eq_true, if_false, and_self]

theorem Val.lt_of_isNan {v w : Val} (h : v.isNan = true ∨ w.isNan = true) : v.lt w = false := by
  cases v <;> cases w <;> simp_all [Val.isNan, Val.lt]

theorem Val.eq_of_isNan {v w : Val} (h : v.isNan = true ∨ w.isNan = true) : v.eq w = false := by
  rcases h with h | h <;> simp [Val.eq, h]

/-- Settles O11: the nearest code (`code_nearest`), the canonical NaN (`code_of_isNan`, `select_of_isNan`, …), and the order of codes
(`select_of_nan_…`, `min_max_of_clt`). -/
theorem roundingNanAndOrderRules : Obligations.RoundingNanAndOrderRules := by
  have hfmt : ∀ f ∈ [f64, f32, f16, bf16], 0 < f.ebits ∧ 0 < f.fbits := by decide
  refine ⟨fun f hf n m e hfin c _ hc => Fmt.code_nearest (hfmt f hf).2 n m e hfin hc, fun f hf a b c => ?_, fun f hf a b ha hb => ?_⟩
  · simp only [List.forall_mem_cons]
    exact ⟨Fmt.code_of_isNan, Fmt.code_of_isNan, Fmt.code_of_isNan, Fmt.code_of_isNan, Fmt.code_of_isNan, Fmt.code_of_isNan, Fmt.select_of_isNan,
      Fmt.select_of_isNan, Fmt.abs_of_isNan, Fmt.neg_of_isNan, Fmt.code_of_isNan, Fmt.code_of_isNan, fun _ h => absurd h List.not_mem_nil⟩
  · have zeros : ∀ f ∈ [f64, f32, f16, bf16], f.min 0 f.signBit = f.signBit ∧ f.max 0 f.signBit = 0 ∧ f.ceq 0 f.signBit = true ∧
        f.clt f.signBit 0 = false := by decide +kernel
    obtain ⟨hmin, hmax, heq, hlt⟩ := zeros f hf
    refine ⟨fun hna hnb => ?_, fun hna hnb => ?_, fun hna hnb => ?_, fun hna hnb => ⟨fun h => ?_, fun h => ?_⟩, hmin, hmax, fun h => ?_, heq, hlt⟩
    · exact ⟨Fmt.select_of_nan_nan _ hna hnb, Fmt.select_of_nan_nan _ hna hnb⟩
    · exact ⟨Fmt.select_of_nan_left _ hna hnb, Fmt.select_of_nan_left _ hna hnb⟩
    · exact ⟨Fmt.select_of_nan_right _ hna hnb, Fmt.select_of_nan_right _ hna hnb⟩
    · exact (Fmt.min_max_of_clt (hfmt f hf).1 ha hb hna hnb h).1
    · exact (Fmt.min_max_of_clt (hfmt f hf).1 hb ha hnb hna h).2
    · have hclt : f.clt a b = false := Val.lt_of_isNan h
      have hceq : f.ceq a b = false := Val.eq_of_isNan h
      exact ⟨hceq, hclt, by rw [Fmt.cle, show (f.val a).lt (f.val b) = false from hclt, show (f.val a).eq (f.val b) = false from hceq]; rfl⟩

end Sys2Proof.Machine
end

section
/-! SUPPORT. Conversions (R77, R91 to R96): the integer of a float, the words of a 64-bit integer, and what the conversions and quantisations
leave. -/

namespace Sys2Proof.Machine

/-! ### The integer of a float (R91) -/

/-- A clamp is a minimum and a maximum. -/
theorem clamp_eq {lo hi : Int} (h : lo ≤ hi) (x : Int) : (if x < lo then lo else if x > hi then hi else x) = max lo (min hi x) := by
  split
  · omega
  · split <;> omega

theorem Val.toInt_fin (r : Nat → Int → Nat) {lo hi : Int} (h : lo ≤ hi) (n : Bool) (m : Nat) (e : Int) :
    Val.toInt r lo hi (.fin n m e) = max lo (min hi (if n then -(r m e : Int) else r m e)) := clamp_eq h _

theorem truncNat_eq_floor (m : Nat) (e : Int) : (truncNat m e : Int) = ⌊magRat m e⌋ := by
  unfold truncNat
  split
  · next h =>
    obtain ⟨k, rfl⟩ := Int.eq_ofNat_of_zero_le h
    rw [Int.toNat_natCast, magRat_natCast, Int.floor_natCast]
  · next h =>
    obtain ⟨k, rfl⟩ : ∃ k : Nat, e = -k := ⟨(-e).toNat, by omega⟩
    rw [neg_neg, Int.toNat_natCast, magRat_neg_natCast, ← Int.natCast_floor_eq_floor (by positivity), Nat.floor_div_eq_div]

/-- The truncation of a finite value is its whole part, towards zero. -/
theorem Val.toInt_trunc {lo hi : Int} (h : lo ≤ hi) (n : Bool) (m : Nat) (e : Int) :
    let q := Val.rat (.fin n m e)
    Val.toInt truncNat lo hi (.fin n m e) = max lo (min hi (if 0 ≤ q then ⌊q⌋ else ⌈q⌉)) := by
  intro q
  rw [Val.toInt_fin _ h, truncNat_eq_floor]
  have hX := magRat_nonneg m e
  cases n with
  | false =>
    have hq : q = magRat m e := one_mul _
    rw [hq, if_neg Bool.false_ne_true, if_pos hX]
  | true =>
    have hq : q = -magRat m e := neg_one_mul _
    rw [hq, if_pos rfl, Int.ceil_neg]
    split
    · next h0 =>
      rw [show magRat m e = 0 by linarith]
      simp
    · rfl

/-- The rounding of a finite value is a nearest integer, the even one of two. -/
theorem Val.toInt_round {lo hi : Int} (h : lo ≤ hi) (n : Bool) (m : Nat) (e : Int) :
    let q := Val.rat (.fin n m e)
    ∃ z : Int, Val.toInt roundNat lo hi (.fin n m e) = max lo (min hi z) ∧ |q - z| ≤ 1 / 2 ∧ (|q - z| = 1 / 2 → z % 2 = 0) := by
  obtain ⟨hle, heven⟩ := roundTo_nearest m e 0
  rw [sub_zero, abs_sub_comm] at hle heven
  refine ⟨_, Val.toInt_fin _ h n m e, ?_⟩
  have hz : ((if n then -(roundNat m e : Int) else roundNat m e : Int) : ℚ) = signRat n * (roundTo m e 0 : Nat) := by
    cases n <;> simp [signRat, roundNat]
  rw [hz, Val.rat_fin, abs_signRat_mul_sub]
  refine ⟨hle, fun h => ?_⟩
  have := heven h
  simp only [roundNat]
  split <;> omega

/-! ### Words and fields -/

theorem bitsAt_eq {w : Nat} (x : BitVec w) (lo n : Nat) : bitsAt x lo n = x.toNat / 2 ^ lo % 2 ^ n := by
  rw [bitsAt, BitVec.extractLsb'_toNat, Nat.shiftRight_eq_div_pow]

theorem words64_ofInt (v : Int) : words64 (BitVec.ofInt 64 v) = pairWords v := by
  simp only [words64, pairWords, loWord, hiWord, List.cons.injEq, and_true]
  constructor <;> apply BitVec.eq_of_toNat_eq <;>
    simp only [BitVec.extractLsb'_toNat, BitVec.toNat_ofInt, Nat.shiftRight_eq_div_pow] <;> omega

/-- Four digits and their weights. The weights are a variable, since the kernel unfolds a product with a large numeral one by one. -/
theorem sum_zipIdx_four (p : Nat → Nat) (w0 w1 w2 w3 : Nat) :
    ([w0, w1, w2, w3].zipIdx.map fun e => e.1 * p e.2).sum = w0 * p 0 + w1 * p 1 + w2 * p 2 + w3 * p 3 := by
  simp only [List.zipIdx_cons, List.zipIdx_nil, List.map_cons, List.map_nil, List.sum_cons, List.sum_nil, Nat.add_assoc, Nat.add_zero]

/-- Four narrow codes as the bytes of a word, the first lowest (R92). -/
theorem packNarrow_regs (f : Val → Nat) (G : Group) (l : Nat) (a : Reg) :
    let c := fun i => f (f32.val (G.reg l a i).toNat)
    packNarrow f (G.regs' l a 4) = BitVec.ofNat 32 (c 0 + c 1 * 2 ^ 8 + c 2 * 2 ^ 16 + c 3 * 2 ^ 24) := by
  intro c
  have hsum := sum_zipIdx_four (fun i => 2 ^ (8 * i)) (c 0) (c 1) (c 2) (c 3)
  rw [Nat.mul_zero, Nat.pow_zero, Nat.mul_one] at hsum
  exact congrArg (BitVec.ofNat 32) hsum

/-- The bytes of a word as four values (R92). -/
theorem unpackNarrow_eq (f : Nat → Val) (a : Word) :
    let c := fun i => codeWord (f32.code (f (a.toNat / 2 ^ (8 * i) % 256)))
    unpackNarrow f a = [c 0, c 1, c 2, c 3] := by
  simp only [unpackNarrow, byteOf, bitsAt_eq]
  rfl

/-- The fields of a word as eight levels, each scaled and rounded once (R93). -/
theorem unpackQ4n_eq (a b : Word) :
    let e := fun i => bf16.code ((f32.val b.toNat).mul (q4nVal (a.toNat / 2 ^ (4 * i) % 16)))
    unpackQ4n a b = [packHalves (e 0) (e 1), packHalves (e 2) (e 3), packHalves (e 4) (e 5), packHalves (e 6) (e 7)] := by
  simp only [unpackQ4n, bitsAt_eq]
  rfl

/-! ### What the conversions leave -/

@[simp] theorem advanced_blockOf (s : State) (x : At) (G : Group) (N : Word) (a : VReg) : blockOf (advanced s x G) N a = blockOf G N a := by
  simp only [blockOf, advanced_vreg]

section
variable {s : State} {h : Hdr} {d : Reg} {G : Group} {x : At}

/-- A float as an integer clamped to a range (R91). -/
theorem toInt32_lands {a : Src} (i : Issues s h .both ((d, 1) :: srcReg a 1) noHandles G x) (r : Nat → Int → Nat) {lo hi lo' hi' : Int}
    (hlo : lo = lo') (hhi : hi = hi') :
    Lands s G x d (fun l => [BitVec.ofInt 32 ((f32.val (G.src l a).toNat).toInt r lo' hi')]) (unaryF s h d a (toInt32 r lo hi)) :=
  unaryF_lands_of_eq i (g := fun v => BitVec.ofInt 32 ((f32.val v.toNat).toInt r lo' hi')) fun v => by
    rw [codeWord, toInt32, BitVec.ofNat_toNat, BitVec.setWidth_eq, hlo, hhi]

theorem execCvtdl_lands {a : Src} (i : Issues s h .both ((d, 2) :: srcReg a 2) noHandles G x) :
    Lands s G x d (fun l => pairWords ((f64.val (G.srcD l a)).toInt truncNat (-9223372036854775808) 9223372036854775807)) (execCvtdl h d a s) :=
  fixedOp_lands i (by funext l; rw [advanced_srcD, words64_ofInt]; norm_num)

theorem packNarrow_lands {a : Reg} (i : Issues s h .both [(d, 1), (a, 4)] noHandles G x) (f : Val → Nat) :
    Lands s G x d (fun l =>
        let c := fun i => f (f32.val (G.reg l a i).toNat)
        [BitVec.ofNat 32 (c 0 + c 1 * 2 ^ 8 + c 2 * 2 ^ 16 + c 3 * 2 ^ 24)])
      (fixedOp s h d 1 [(a, 4)] fun G l => [packNarrow f (G.regs' l a 4)]) :=
  fixedOp_lands i (by funext l; rw [advanced_regs', packNarrow_regs])

theorem unpackNarrow_lands {a : Src} (i : Issues s h .both ((d, 4) :: srcReg a 1) noHandles G x) (f : Nat → Val) :
    Lands s G x d (fun l =>
        let c := fun i => codeWord (f32.code (f ((G.src l a).toNat / 2 ^ (8 * i) % 256)))
        [c 0, c 1, c 2, c 3])
      (fixedOp s h d 4 (srcReg a 1) fun G l => unpackNarrow f (G.src l a)) := by
  simpa only [unpackNarrow_eq] using fixedOp_src_lands i (unpackNarrow f)

theorem execCvtq4f_lands {a b : Src} (i : Issues s h .both ((d, 4) :: (srcReg a 1 ++ srcReg b 1)) noHandles G x) :
    Lands s G x d (fun l =>
        let e := fun i => bf16.code ((f32.val (G.src l b).toNat).mul (q4nVal ((G.src l a).toNat / 2 ^ (4 * i) % 16)))
        [packHalves (e 0) (e 1), packHalves (e 2) (e 3), packHalves (e 4) (e 5), packHalves (e 6) (e 7)])
      (execCvtq4f h d a b s) :=
  fixedOp_lands i (by funext l; rw [advanced_src, advanced_src, unpackQ4n_eq])

/-- A result that the body computes from the issue itself too (R125). -/
theorem lands_of_at {site : Site} {regs : List (Reg × Nat)} {handles : State → Group → List (Nat × Bool)} (i : Issues s h site regs handles G x)
    {w : Nat} {f : At → Group → Nat → List Word} {ws : Nat → List Word} (hws : f x (advanced s x G) = ws) :
    Lands s G x d ws (issue s h site regs handles fun s x => s.result x d w (f x)) := by
  have hbody := issue_next i fun s x => s.result x d w (f x)
  rw [hbody, ← issue_next i fun s y => s.result y d w (f x)]
  exact lands_of i hws

theorem quantOp_lands {d a : VReg} {b : SSrc} (i : Issues s h .both ([(.v d, 1), (.v a, 2)] ++ ssrcReg b 1) noHandles G x)
    (q : Val → List Val → Nat × List Nat) {pack pack' : Nat → Nat → Nat → Nat} (hp : ∀ c lo hi, pack c lo hi = pack' c lo hi) :
    Lands s G x (.v d) (fun l =>
        let r := q (f32.val (G.ssrc b).toNat) (blockOf G x.N a)
        [codeWord (pack' r.1 (r.2.getD (2 * l) 0) (r.2.getD (2 * l + 1) 0))])
      (quantOp s h d a b q pack) :=
  lands_of_at i (f := fun x G l => let r := q (f32.val (G.ssrc b).toNat) (blockOf G x.N a)
      [codeWord (pack r.1 (r.2.getD (2 * l) 0) (r.2.getD (2 * l + 1) 0))]) (by funext l; simp only [advanced_ssrc, advanced_blockOf, hp])

theorem execQblk_lands {d a : VReg} {b : SSrc} (i : Issues s h .both ([(.v d, 1), (.v a, 2)] ++ ssrcReg b 1) noHandles G x) :
    Lands s G x (.v d) (fun l =>
        let q := quantise 1 7 (fun _ => 7) toQ4n (f32.val (G.ssrc b).toNat) (blockOf G x.N a)
        [codeWord (q.1 * 2 ^ 8 + q.2.getD (2 * l + 1) 0 * 2 ^ 4 + q.2.getD (2 * l) 0)])
      (execQblk h d a b s) :=
  quantOp_lands i (quantise 1 7 (fun _ => 7) toQ4n) (pack := fun c lo hi => 256 * c + 16 * hi + lo)
    (pack' := fun c lo hi => c * 2 ^ 8 + hi * 2 ^ 4 + lo) fun c lo hi => by ring

theorem execQblke4_lands {d a : VReg} {b : SSrc} (i : Issues s h .both ([(.v d, 1), (.v a, 2)] ++ ssrcReg b 1) noHandles G x) :
    Lands s G x (.v d) (fun l =>
        let q := quantise 480 0 toE4m3k toE4m3k (f32.val (G.ssrc b).toNat) (blockOf G x.N a)
        [codeWord (q.1 * 2 ^ 16 + q.2.getD (2 * l + 1) 0 * 2 ^ 8 + q.2.getD (2 * l) 0)])
      (execQblke4 h d a b s) :=
  quantOp_lands i (quantise 480 0 toE4m3k toE4m3k) (pack := fun c lo hi => 65536 * c + 256 * hi + lo)
    (pack' := fun c lo hi => c * 2 ^ 16 + hi * 2 ^ 8 + lo) fun c lo hi => by ring

end

/-- Settles O12: the conversions are their shapes, the integer of a float is its truncation or its nearest integer within the range
(`toInt_trunc`, `toInt_round`), and narrow codes and blocks are packed as R92 to R96 say (`packNarrow_lands`, `quantOp_lands`, …). -/
theorem conversionResults : Obligations.ConversionResults := by
  refine ⟨fun s h d G x => ⟨fun a i => ?_, fun a i => ?_, fun a i => ?_, fun a i => ?_, fun a b i => ?_⟩, fun lo hi hle m => ?_,
    fun s h G x => ⟨fun d a i => ?_, fun d a i => ?_, fun d a b i => ?_, fun d a b i => ?_⟩⟩
  · refine ⟨unary_lands i fun v => codeWord (f32.code (ofInt v.toInt)), unaryF_lands i fun v => f32.code (ofInt v),
      toInt32_lands i truncNat (by norm_num) (by norm_num), toInt32_lands i roundNat (by norm_num) (by norm_num),
      toInt32_lands i truncNat rfl (by norm_num)⟩
  · exact ⟨fixedOp_src_lands i fun v => codeWords (f32.convert f64 v.toNat), fixedOp_src_lands i (widen bf16), fixedOp_src_lands i (widen f16)⟩
  · exact fixedOp_srcD_lands i fun v => [codeWord (f64.convert f32 v)]
  · exact ⟨fixedOp_lands i (by funext l; rw [advanced_src64]), execCvtdl_lands i⟩
  · exact ⟨binary_lands i (cvtHalves bf16), binary_lands i (cvtHalves f16)⟩
  · exact ⟨rfl, rfl, rfl, fun n k e => ⟨Val.toInt_trunc hle n k e, Val.toInt_round hle n k e⟩⟩
  · exact ⟨packNarrow_lands i toE4m3k, packNarrow_lands i toE5m2k, packNarrow_lands i toInt8⟩
  · exact ⟨unpackNarrow_lands i e4m3kVal, unpackNarrow_lands i e5m2kVal, unpackNarrow_lands i int8Val⟩
  · exact execCvtq4f_lands i
  · exact ⟨execQblk_lands i, execQblke4_lands i⟩

end Sys2Proof.Machine
end

section
/-! SUPPORT. Packed numbers and pruning (R90, R256). A pruning selects an index by how many others outrank it: of n indices the k that fewer
than k outrank. -/

namespace Sys2Proof.Machine

/-! ### Ranks -/

/-- Index `j` goes before index `i`: it is of larger magnitude, or of the same and lower. -/
def outranks (mags : List Nat) (j i : Nat) : Bool :=
  decide (mags.getD j 0 > mags.getD i 0) || (mags.getD j 0 == mags.getD i 0 && decide (j < i))

theorem outranks_iff (mags : List Nat) (j i : Nat) :
    outranks mags j i = true ↔ mags.getD i 0 < mags.getD j 0 ∨ mags.getD j 0 = mags.getD i 0 ∧ j < i := by
  simp [outranks]

theorem outranks_trans {mags : List Nat} {i j k : Nat} (h : outranks mags k j = true) (h' : outranks mags j i = true) :
    outranks mags k i = true := by
  rw [outranks_iff] at *
  omega

theorem outranks_irrefl (mags : List Nat) (i : Nat) : ¬ outranks mags i i = true := by
  rw [outranks_iff]
  omega

theorem outranks_total (mags : List Nat) {i j : Nat} (h : i ≠ j) : outranks mags i j = true ∨ outranks mags j i = true := by
  rw [outranks_iff, outranks_iff]
  omega

/-- The indices that outrank one. -/
def above (mags : List Nat) (i : Nat) : Finset Nat := (Finset.range mags.length).filter fun j => outranks mags j i = true

theorem above_ssubset {mags : List Nat} {i j : Nat} (hi : i < mags.length) (h : outranks mags i j = true) : above mags i ⊂ above mags j := by
  have hij : i ∈ above mags j := Finset.mem_filter.2 ⟨Finset.mem_range.2 hi, h⟩
  have hii : i ∉ above mags i := fun hm => outranks_irrefl mags i (Finset.mem_filter.1 hm).2
  exact Finset.ssubset_iff_subset_ne.2
    ⟨fun k hk => Finset.mem_filter.2 ⟨(Finset.mem_filter.1 hk).1, outranks_trans (Finset.mem_filter.1 hk).2 h⟩, fun he => hii (he ▸ hij)⟩

theorem card_above_lt {mags : List Nat} {i : Nat} (hi : i < mags.length) : (above mags i).card < mags.length := by
  have hss : above mags i ⊂ Finset.range mags.length := Finset.filter_ssubset.2 ⟨i, Finset.mem_range.2 hi, outranks_irrefl mags i⟩
  simpa using Finset.card_lt_card hss

theorem card_above_injOn (mags : List Nat) : Set.InjOn (fun i => (above mags i).card) (Finset.range mags.length) := by
  intro i hi j hj h
  by_contra hne
  rcases outranks_total mags hne with hr | hr
  · exact absurd (Finset.card_lt_card (above_ssubset (by simpa using hi) hr)) (by simp_all)
  · exact absurd (Finset.card_lt_card (above_ssubset (by simpa using hj) hr)) (by simp_all)

/-- The ranks of `n` indices are the numbers below `n`, so that `k` of them are below `k`. -/
theorem card_selected {mags : List Nat} {k : Nat} (hk : k ≤ mags.length) :
    ((Finset.range mags.length).filter fun i => (above mags i).card < k).card = k := by
  have himage : (Finset.range mags.length).image (fun i => (above mags i).card) = Finset.range mags.length := by
    refine Finset.eq_of_subset_of_card_le (Finset.image_subset_iff.2 fun i hi => ?_) (by rw [Finset.card_image_of_injOn (card_above_injOn mags)])
    exact Finset.mem_range.2 (card_above_lt (Finset.mem_range.1 hi))
  have hinj : Set.InjOn (fun i => (above mags i).card) ((Finset.range mags.length).filter fun i => (above mags i).card < k) :=
    (card_above_injOn mags).mono (Finset.coe_subset.2 (Finset.filter_subset _ _))
  have hbelow : (Finset.range mags.length).filter (· < k) = Finset.range k := by
    ext r
    rw [Finset.mem_filter, Finset.mem_range, Finset.mem_range]
    omega
  rw [← Finset.card_image_of_injOn hinj, ← Finset.filter_image (p := (· < k)), himage, hbelow, Finset.card_range]

/-! ### The largest of a list -/

theorem length_filter_range (n : Nat) (p : Nat → Bool) : ((List.range n).filter p).length = ((Finset.range n).filter fun i => p i = true).card := by
  rw [Finset.card_def, Finset.filter_val, Finset.range_val, ← Multiset.coe_range, Multiset.filter_coe, Multiset.coe_card]
  simp

theorem mem_largest {mags : List Nat} {k i : Nat} : i ∈ largest k mags ↔ i < mags.length ∧ (above mags i).card < k := by
  simp only [largest, List.mem_filter, List.mem_range, decide_eq_true_eq]
  rw [above, ← length_filter_range]
  rfl

theorem length_largest {mags : List Nat} {k : Nat} (hk : k ≤ mags.length) : (largest k mags).length = k := by
  have hsel : (largest k mags).toFinset = (Finset.range mags.length).filter fun i => (above mags i).card < k := by
    ext i
    rw [List.mem_toFinset, mem_largest, Finset.mem_filter, Finset.mem_range]
  have hnodup : (largest k mags).Nodup := List.nodup_range.filter _
  rw [← List.toFinset_card_of_nodup hnodup]
  exact (congrArg Finset.card hsel).trans (card_selected hk)

theorem pairwise_largest (k : Nat) (mags : List Nat) : (largest k mags).Pairwise (· < ·) := List.pairwise_lt_range.filter _

theorem outranks_of_largest {mags : List Nat} {k i j : Nat} (hi : i ∈ largest k mags) (hj : j < mags.length) (hn : j ∉ largest k mags) :
    outranks mags i j = true := by
  rw [mem_largest] at hi hn
  have hne : i ≠ j := fun h => hn (h ▸ hi)
  refine (outranks_total mags hne).resolve_right fun h => hn ⟨hj, ?_⟩
  exact (Finset.card_lt_card (above_ssubset hj h)).trans hi.2

/-- Of 2n numbered values the n of largest magnitude, the lower number first of two that are equal, in ascending order (R256). -/
def BestOf (mag : Nat → Nat) (lo n : Nat) (sel : List Nat) : Prop :=
  sel.length = n ∧ sel.Pairwise (· < ·) ∧ ∀ i ∈ sel, lo ≤ i ∧ i < lo + 2 * n ∧
    ∀ j, lo ≤ j → j < lo + 2 * n → j ∉ sel → mag j < mag i ∨ mag j = mag i ∧ i < j

theorem largest_bestOf (mag : Nat → Nat) (lo n : Nat) :
    BestOf mag lo n ((largest n ((List.range (2 * n)).map fun i => mag (lo + i))).map (lo + ·)) := by
  set mags := (List.range (2 * n)).map fun i => mag (lo + i) with hmags
  have hlen : mags.length = 2 * n := by simp [hmags]
  have hget : ∀ i, i < 2 * n → mags.getD i 0 = mag (lo + i) := fun i hi => by simp [hmags, List.getD_eq_getElem?_getD, hi]
  refine ⟨by rw [List.length_map, length_largest (by omega)], (pairwise_largest n mags).map _ fun i j h => by omega, fun i hi => ?_⟩
  obtain ⟨i, hsel, rfl⟩ := List.mem_map.1 hi
  have hilt := (mem_largest.1 hsel).1
  refine ⟨by omega, by omega, fun j hlo hhi hj => ?_⟩
  obtain ⟨j, rfl⟩ := Nat.exists_eq_add_of_le hlo
  have hr := outranks_of_largest hsel (j := j) (by omega) fun h => hj (List.mem_map.2 ⟨j, h, rfl⟩)
  rw [outranks_iff, hget i (by omega), hget j (by omega)] at hr
  omega

/-! ### The two prunings -/

theorem prune8_eq {xs : List Byte} (hx : xs.length = 8) :
    ∃ i0 i1 i2 i3, BestOf (fun i => (xs.getD i 0).toInt.natAbs) 0 4 [i0, i1, i2, i3] ∧
      prune8 xs = [leWord ([i0, i1, i2, i3].map fun i => xs.getD i 0), BitVec.ofNat 32 (i0 + 8 * i1 + 64 * i2 + 512 * i3)] := by
  have hmags : (xs.map fun b => b.toInt.natAbs) = (List.range (2 * 4)).map fun i => (xs.getD (0 + i) 0).toInt.natAbs := by
    refine List.ext_getElem (by simp [hx]) fun i h1 h2 => ?_
    rw [List.length_map] at h1
    simp [List.getD_eq_getElem?_getD, h1]
  have hbest := largest_bestOf (fun i => (xs.getD i 0).toInt.natAbs) 0 4
  rw [← hmags] at hbest
  simp only [Nat.zero_add, List.map_id'] at hbest
  obtain ⟨i0, i1, i2, i3, hsel⟩ := List.length_eq_four.1 hbest.1
  refine ⟨i0, i1, i2, i3, hsel ▸ hbest, ?_⟩
  rw [prune8, hsel]
  simp only [sum_zipIdx_four (fun i => 8 ^ i)]
  congr 3
  omega

theorem prune4_eq (xs : List Byte) :
    ∃ i0 i1 j0 j1, BestOf (fun i => (xs.getD i 0).toNat % 128) 0 2 [i0, i1] ∧ BestOf (fun i => (xs.getD i 0).toNat % 128) 4 2 [j0, j1] ∧
      prune4 xs = [leWord ([i0, i1, j0, j1].map fun i => xs.getD i 0),
        BitVec.ofNat 32 (i0 + 4 * i1 + 16 * (j0 - 4) + 64 * (j1 - 4))] := by
  have hlo := largest_bestOf (fun i => (xs.getD i 0).toNat % 128) 0 2
  have hhi := largest_bestOf (fun i => (xs.getD i 0).toNat % 128) 4 2
  simp only [Nat.zero_add, List.map_id'] at hlo
  obtain ⟨i0, i1, hi⟩ := List.length_eq_two.1 hlo.1
  have hlen : (largest 2 ((List.range (2 * 2)).map fun i => (xs.getD (4 + i) 0).toNat % 128)).length = 2 := by simpa using hhi.1
  obtain ⟨k0, k1, hk⟩ := List.length_eq_two.1 hlen
  rw [hi] at hlo
  rw [hk] at hhi
  refine ⟨i0, i1, 4 + k0, 4 + k1, hlo, hhi, ?_⟩
  simp only [prune4, Nat.mul_zero, Nat.zero_add, Nat.mul_one, hi, hk, List.cons_append, List.nil_append, sum_zipIdx_four (fun i => 4 ^ i),
    Nat.add_sub_cancel_left]
  congr 3
  omega

/-- The bytes of a pair, the low word first. -/
theorem pairBytes_eq (G : Group) (l : Nat) (a : VReg) :
    pairBytes G l a = leBytes 4 (G.reg l (.v a) 0).toNat ++ leBytes 4 (G.reg l (.v a) 1).toNat := by
  rw [pairBytes, Group.data, Group.regs', show List.range 2 = [0, 1] from rfl, List.map_cons, List.map_cons, List.map_nil, wordsBytes, List.flatMap_cons,
    List.flatMap_cons, List.flatMap_nil, List.append_nil]

theorem prune_lands {s : State} {h : Hdr} {d a : VReg} {G : Group} {x : At} (i : Issues s h .core [(.v d, 2), (.v a, 2)] noHandles G x)
    (f : List Byte → List Word) :
    Lands s G x (.v d) (fun l => f (leBytes 4 (G.reg l (.v a) 0).toNat ++ leBytes 4 (G.reg l (.v a) 1).toNat))
      (issue s h .core [(.v d, 2), (.v a, 2)] noHandles fun s x => s.result x (.v d) 2 fun G l => f (pairBytes G l a)) :=
  lands_of i (by funext l; rw [pairBytes_eq, advanced_reg, advanced_reg])

/-- Settles O32: the packed instructions are `binary` and `ternary` on the halves; a pruning keeps what `largest_bestOf` says of the eight bytes
(`prune8_eq`, `prune4_eq`). -/
theorem packedAndPrunedResults : Obligations.PackedAndPrunedResults := by
  refine ⟨fun s h d G x => ⟨fun a b i => ?_, fun a b c i => ?_⟩, fun s h d a G x i => ⟨prune_lands i prune8, prune_lands i prune4⟩,
    fun xs hx => ⟨prune8_eq hx, prune4_eq xs⟩⟩
  · have lands := fun f => binary_lands i (halves2 f)
    exact ⟨lands f16.add, lands f16.mul, lands f16.min, lands f16.max, lands bf16.add, lands bf16.mul, lands bf16.min, lands bf16.max⟩
  · exact ⟨ternary_lands i (halves3 f16.fma), ternary_lands i (halves3 bf16.fma), ternary_lands i (dot2 f16), ternary_lands i (dot2 bf16)⟩

end Sys2Proof.Machine
end

section
/-! SUPPORT. The scheduler (R114 to R122): the first of a list under an order, what a core cycle changes, the candidates of a cycle with
their bundles, and the unfiled PCs of a group. -/

namespace Sys2Proof.Machine

/-! ### The first of a list -/

section First
variable {α : Type} {lt : α → α → Bool}

theorem best_eq_none {xs : List α} : best lt xs = none ↔ xs = [] := by
  cases xs with
  | nil => simp [best]
  | cons x xs =>
    simp only [best]
    split
    · simp
    · split <;> simp

theorem best_mem {xs : List α} {a : α} (h : best lt xs = some a) : a ∈ xs := by
  induction xs generalizing a with
  | nil => cases h
  | cons x xs ih =>
    simp only [best] at h
    split at h
    · cases h; exact List.mem_cons_self
    · next y hy =>
      split at h <;> cases h
      · exact List.mem_cons_of_mem _ (ih hy)
      · exact List.mem_cons_self

/-- Nothing of the list comes before its first, where "not before" is transitive. -/
theorem best_first (asymm : ∀ a b, lt a b = true → lt b a = false) (trans : ∀ a b c, lt b a = false → lt c b = false → lt c a = false)
    {xs : List α} {a : α} (h : best lt xs = some a) : ∀ e ∈ xs, lt e a = false := by
  have irrefl : ∀ a, lt a a = false := fun a => Bool.eq_false_iff.2 fun h => Bool.eq_false_iff.1 (asymm a a h) h
  induction xs generalizing a with
  | nil => cases h
  | cons x xs ih =>
    simp only [best] at h
    split at h
    · next hn =>
      cases h
      rw [best_eq_none.1 hn]
      simpa using irrefl x
    · next y hy =>
      have first := ih hy
      split at h
      · next hlt =>
        cases h
        exact List.forall_mem_cons.2 ⟨asymm _ _ hlt, first⟩
      · next hge =>
        cases h
        exact List.forall_mem_cons.2 ⟨irrefl x, fun e he => trans x y e (Bool.eq_false_iff.2 hge) (first e he)⟩

theorem best_filter_eq_none {p : α → Bool} {xs : List α} : best lt (xs.filter p) = none ↔ ∀ e ∈ xs, p e = false := by
  simp [best_eq_none, List.filter_eq_nil_iff]

theorem best_filter {p : α → Bool} (asymm : ∀ a b, lt a b = true → lt b a = false)
    (trans : ∀ a b c, lt b a = false → lt c b = false → lt c a = false) {xs : List α} {a : α} (h : best lt (xs.filter p) = some a) :
    a ∈ xs ∧ p a = true ∧ ∀ e ∈ xs, p e = true → lt e a = false := by
  obtain ⟨hm, hp⟩ := List.mem_filter.1 (best_mem h)
  exact ⟨hm, hp, fun e he hpe => best_first asymm trans h e (List.mem_filter.2 ⟨he, hpe⟩)⟩

theorem best_filter_isSome {p : α → Bool} {xs : List α} {a : α} (ha : a ∈ xs) (hp : p a = true) : ∃ b, best lt (xs.filter p) = some b := by
  rw [← Option.ne_none_iff_exists']
  intro h
  rw [best_filter_eq_none.1 h a ha] at hp
  cases hp

end First

/-! ### Swaps (R114 to R117) -/

theorem ahead_eq_false {a b : Nat × Group} : ahead a b = false ↔
    a.2.effClass < b.2.effClass ∨ a.2.effClass = b.2.effClass ∧ (a.2.age < b.2.age ∨ a.2.age = b.2.age ∧ b.1 ≤ a.1) := by
  simp only [ahead, bne_iff_ne, ne_eq, ite_not]
  split_ifs <;> simp only [decide_eq_false_iff_not] <;> omega

theorem ahead_asymm (a b : Nat × Group) (h : ahead a b = true) : ahead b a = false := by
  have := mt ahead_eq_false.2 (Bool.not_eq_false _ ▸ h : ¬ ahead a b = false)
  rw [ahead_eq_false]
  omega

theorem ahead_trans (a b c : Nat × Group) (h : ahead b a = false) (k : ahead c b = false) : ahead c a = false := by
  rw [ahead_eq_false] at *
  omega

/-- A pending group that the next swap may take. -/
def State.pends (s : State) (e : Nat × Group) : Bool := !e.2.active && s.started e.2 && s.groupReady e.1 e.2

/-- Such a group that ageing has raised. -/
def State.raised (s : State) (e : Nat × Group) : Bool := s.pends e && decide (1024 ≤ e.2.age) && decide (e.2.cls < 3)

/-- An active group that has been so for 1,024 cycles of its core. -/
def State.settled (s : State) (core : Nat) (e : Nat × Group) : Bool := e.2.active && decide (e.2.entered + 1024 ≤ (s.core core).cycles)

theorem State.nextPending_eq (s : State) (core : Nat) : s.nextPending core = best Machine.ahead ((s.residents core).filter s.pends) := rfl

theorem State.agedPending_eq (s : State) (core : Nat) : s.agedPending core = best Machine.ahead ((s.residents core).filter s.raised) := by
  unfold State.agedPending
  congr 2
  funext e
  simp only [State.raised, State.pends, ge_iff_le]
  ac_rfl

theorem State.oldestActive_eq (s : State) (core : Nat) :
    s.oldestActive core = best (fun a b => decide (a.2.entered < b.2.entered)) ((s.residents core).filter (s.settled core)) := rfl

theorem entered_first {P : Nat × Group → Bool} {rs : List (Nat × Group)} {o : Nat × Group}
    (h : best (fun a b : Nat × Group => decide (a.2.entered < b.2.entered)) (rs.filter P) = some o) :
    o ∈ rs ∧ P o = true ∧ ∀ e ∈ rs, P e = true → o.2.entered ≤ e.2.entered := by
  obtain ⟨hm, hp, hf⟩ := best_filter (by simp only [decide_eq_true_eq, decide_eq_false_iff_not]; omega)
    (by simp only [decide_eq_false_iff_not]; omega) h
  exact ⟨hm, hp, fun e he hpe => by simpa using hf e he hpe⟩

theorem exec_agedDisplacement (core : Nat) (s : State) : exec (.agedDisplacement core) s = execAgedDisplacement core s := rfl

/-- The swap takes place (R115, R116). -/
theorem execGroupSwap_of {s : State} {core g : Nat} {G : Group} {e : Nat × Group} (hG : s.group? g = some G) (he : s.nextPending core = some e)
    (hact : G.active = true) (hcore : coreOf g = core) (hwait : s.waiting g G = true) (hfree : s.swapFree core = true) (hc : core < 384) :
    execGroupSwap core g e.1 s = .next ((s.deactivate g).activate e.1) := by
  simp [execGroupSwap, event, hG, he, hact, hcore, hwait, hfree, hc]

/-- The displacement takes place (R117). -/
theorem execAgedDisplacement_of {s : State} {core : Nat} {a o : Nat × Group} (ha : s.agedPending core = some a) (ho : s.oldestActive core = some o)
    (hfree : s.swapFree core = true) : execAgedDisplacement core s = .next ((s.displace o.1).activate a.1) := by
  simp [execAgedDisplacement, event, ha, ho, hfree]

theorem execAgedDisplacement_passOver {s : State} {core : Nat}
    (h : s.agedPending core = none ∨ s.oldestActive core = none ∨ s.swapFree core = false) : execAgedDisplacement core s = .next s.passOver := by
  unfold execAgedDisplacement
  rcases h with h | h | h
  · rw [h]; rfl
  · rw [h]; cases s.agedPending core <;> rfl
  · rw [h]
    split <;> rfl

theorem State.displace_eq (s : State) (g : Nat) :
    s.displace g = s.updGroup g fun G => { G with active := false, fallback := none, run := none, age := 0 } := by
  simp only [State.displace, State.deactivate, State.updGroup, AMap.upd_upd]

/-! ### A core cycle (R119, R120) -/

/-- A change of the groups alone. -/
theorem foldl_groups {α : Type} {f : State → α → State} (h : ∀ s a, ∃ gs, f s a = { s with groups := gs }) (l : List α) (s : State) :
    ∃ gs, l.foldl f s = { s with groups := gs } := by
  induction l generalizing s with
  | nil => exact ⟨s.groups, rfl⟩
  | cons a l ih =>
    obtain ⟨gs, e⟩ := h s a
    obtain ⟨gs', e'⟩ := ih (f s a)
    exact ⟨gs', by rw [List.foldl_cons, e', e]⟩

theorem State.fillActive_eq (s : State) (core : Nat) : ∃ gs, s.fillActive core = { s with groups := gs } := by
  simp only [State.fillActive]
  split
  · exact foldl_groups (fun s e => ⟨_, rfl⟩) _ s
  · split
    · exact ⟨s.groups, rfl⟩
    · split
      · exact ⟨_, rfl⟩
      · exact ⟨s.groups, rfl⟩

/-- The start of a cycle changes groups and the core's PC table. -/
theorem State.prepare_eq (s : State) (core : Nat) :
    ∃ gs pcs, s.prepare core = { s with groups := gs, cores := AMap.put s.cores core { s.core core with pcs } } := by
  unfold State.prepare
  split
  · obtain ⟨gs, e⟩ := (s.stampWaits core).fillActive_eq core
    exact ⟨gs, _, (congrArg (State.refile · core) e).trans rfl⟩
  · exact ⟨_, _, rfl⟩

/-- The bundles of a cycle change groups, the core's count of cycles, the turn and the issue queue. -/
theorem State.launchBundles_eq (s : State) (core : Nat) (fresh : BitVec 3) (bs : List Pick) :
    ∃ gs n, s.launchBundles core fresh bs = { s with
      groups := gs, turn := n, cores := AMap.put s.cores core { s.core core with cycles := (s.core core).cycles + 1 }
      issueQ := s.issueQ ++ bs.map fun e => { g := e.g, lanes := e.lanes, fresh := fresh } } := by
  obtain ⟨gs, e⟩ := foldl_groups (f := fun (s : State) (e : Pick) => s.updGroup e.g fun G => G.counted' e.point.pc e.point.only.isSome e.others)
    (fun s e => ⟨_, rfl⟩) bs s
  simp only [State.launchBundles, e]
  exact ⟨_, _, rfl⟩

theorem State.core_setCore (s : State) (c d : Nat) (C : Core) : (s.setCore c C).core d = if c = d then C else s.core d := by
  simp only [State.core, State.setCore, AMap.getD, AMap.get?_put]
  split <;> rfl

theorem chosen_eq (core : Nat) {cs : List Cand} {c : Cand} (h : pick cs = some c) :
    chosen core cs = c :: if core < 384 then (pick (cs.filter fun d => d.point != c.point)).toList else [] := by
  simp only [chosen, h]

theorem chosen_nil (core : Nat) : chosen core [] = [] := rfl

theorem State.map_picks (s : State) (fresh : BitVec 3) (cs ch : List Cand) :
    ((ch.flatMap (s.picks cs)).map fun e => ({ g := e.g, lanes := e.lanes, fresh } : Bundle)) =
      ch.flatMap fun d => (s.bundle d).map fun e => { g := e.1, lanes := e.2, fresh } := by
  simp only [List.map_flatMap, State.picks, List.map_map]
  rfl

/-- A core with its clock running takes its cycle: the chosen candidates' bundles join the issue queue (R120, R344). -/
theorem execBundleSelect_spec {s : State} {core : Nat} (fresh : BitVec 3) (hc : core < 1920) (hp : s.dev.power = 0 ∨ s.residents core ≠ []) :
    ∃ t : State, execBundleSelect core fresh s = .next t ∧ t.mem = s.mem ∧ (t.core core).cycles = (s.core core).cycles + 1 ∧
      t.issueQ = s.issueQ ++ (chosen core ((s.prepare core).candidates core)).flatMap fun d =>
        ((s.prepare core).bundle d).map fun e => { g := e.1, lanes := e.2, fresh } := by
  have hgate : (decide (core ≥ issueUnits) || (decide (0 < s.dev.power) && (s.residents core).isEmpty)) = false := by
    rcases hp with hp | hp <;> simp [issueUnits, hp, hc]
  obtain ⟨gs, pcs, hprep⟩ := s.prepare_eq core
  have hmem : (s.prepare core).mem = s.mem := by rw [hprep]
  have hq : (s.prepare core).issueQ = s.issueQ := by rw [hprep]
  have hcyc : ((s.prepare core).core core).cycles = (s.core core).cycles := by
    rw [hprep]
    exact (congrArg Core.cycles ((s.core_setCore core core _).trans (if_pos rfl))).trans rfl
  generalize hu : s.prepare core = u at *
  cases hch : chosen core (u.candidates core) with
  | nil =>
    have hsel : u.select core fresh = none := by simp only [State.select, hch]
    refine ⟨(u.ageGroups core []).tick core, by simp only [execBundleSelect, hgate, hu, hsel, event]; rfl, hmem, ?_, hq.trans (List.append_nil _).symm⟩
    rw [← hcyc]
    exact congrArg Core.cycles ((u.core_setCore core core _).trans (if_pos rfl))
  | cons c cs =>
    obtain ⟨gs', n, e⟩ := u.launchBundles_eq core fresh ((c :: cs).flatMap (u.picks (u.candidates core)))
    have hsel : u.select core fresh = some (u.launchBundles core fresh ((c :: cs).flatMap (u.picks (u.candidates core)))) := by
      simp only [State.select, hch]
    refine ⟨_, by simp only [execBundleSelect, hgate, hu, hsel, event]; rfl, ?_, ?_, ?_⟩ <;> rw [e]
    · exact hmem
    · rw [← hcyc]
      exact congrArg Core.cycles ((u.core_setCore core core _).trans (if_pos rfl))
    · rw [← hq]
      exact congrArg (u.issueQ ++ ·) (u.map_picks fresh _ _)

/-! ### Candidates and their bundles (R120 to R122) -/

section Folds
variable {α : Type} (f : α → Nat)

theorem le_foldl_max (l : List α) (b : Nat) :
    b ≤ l.foldl (fun m e => max m (f e)) b ∧ ∀ e ∈ l, f e ≤ l.foldl (fun m e => max m (f e)) b := by
  induction l generalizing b with
  | nil => simp
  | cons a l ih =>
    obtain ⟨h, k⟩ := ih (max b (f a))
    simp only [List.foldl_cons, List.forall_mem_cons]
    exact ⟨by omega, by omega, k⟩

theorem foldl_max_attained (l : List α) (b : Nat) :
    l.foldl (fun m e => max m (f e)) b = b ∨ ∃ e ∈ l, l.foldl (fun m e => max m (f e)) b = f e := by
  induction l generalizing b with
  | nil => exact .inl rfl
  | cons a l ih =>
    rw [List.foldl_cons]
    rcases ih (max b (f a)) with h | ⟨e, he, h⟩
    · rcases max_choice b (f a) with hm | hm
      · exact .inl (h.trans hm)
      · exact .inr ⟨a, List.mem_cons_self, h.trans hm⟩
    · exact .inr ⟨e, List.mem_cons_of_mem _ he, h⟩

/-- Of a list with members, the largest value over 0 is that of a member. -/
theorem exists_foldl_max {l : List α} (hl : l ≠ []) : ∃ e ∈ l, l.foldl (fun m e => max m (f e)) 0 = f e := by
  rcases foldl_max_attained f l 0 with h | h
  · obtain ⟨e, he⟩ := List.exists_mem_of_ne_nil l hl
    have := (le_foldl_max f l 0).2 e he
    exact ⟨e, he, by omega⟩
  · exact h

theorem foldl_min_le (l : List α) (b : Nat) : l.foldl (fun m e => min m (f e)) b ≤ b ∧ ∀ e ∈ l, l.foldl (fun m e => min m (f e)) b ≤ f e := by
  induction l generalizing b with
  | nil => simp
  | cons a l ih =>
    obtain ⟨h, k⟩ := ih (min b (f a))
    simp only [List.foldl_cons, List.forall_mem_cons]
    exact ⟨by omega, by omega, k⟩

end Folds

theorem mem_candidates {s : State} {core : Nat} {c : Cand} (h : c ∈ s.candidates core) :
    c.point ∈ s.points core ∧ c.groups = s.pointGroups core c.point ∧ c.groups ≠ [] ∧ c = candOf c.point c.groups := by
  obtain ⟨p, hp, hc⟩ := List.mem_filterMap.1 h
  simp only at hc
  split at hc
  · cases hc
  · next hne =>
    cases hc
    exact ⟨hp, rfl, by simpa [candOf] using hne, rfl⟩

theorem Cand.before_eq_false {a b : Cand} : a.before b = false ↔
    a.cls < b.cls ∨ a.cls = b.cls ∧ (a.wait < b.wait ∨ a.wait = b.wait ∧ (b.slot < a.slot ∨ b.slot = a.slot ∧ b.point.pc ≤ a.point.pc)) := by
  simp only [Cand.before, bne_iff_ne, ne_eq, ite_not, BitVec.le_def]
  split_ifs <;> simp only [decide_eq_false_iff_not] <;> omega

theorem Cand.before_asymm (a b : Cand) (h : a.before b = true) : b.before a = false := by
  have := mt Cand.before_eq_false.2 (Bool.not_eq_false _ ▸ h : ¬ a.before b = false)
  rw [Cand.before_eq_false]
  simp only [BitVec.le_def] at *
  omega

theorem Cand.before_trans (a b c : Cand) (h : b.before a = false) (k : c.before b = false) : c.before a = false := by
  simp only [Cand.before_eq_false, BitVec.le_def] at *
  omega

/-- What issues first: a point that is not deferred if there is one, and of its kind nothing goes before it. -/
theorem pick_spec {cs : List Cand} {c : Cand} (h : pick cs = some c) :
    c ∈ cs ∧ (c.deferred cs = false ∨ ∀ d ∈ cs, d.deferred cs = true) ∧ ∀ d ∈ cs, d.deferred cs = c.deferred cs → d.before c = false := by
  unfold pick at h
  split at h
  · next b hb =>
    cases h
    obtain ⟨hm, hp, hf⟩ := best_filter Cand.before_asymm Cand.before_trans hb
    have hd : c.deferred cs = false := by simpa using hp
    exact ⟨hm, .inl hd, fun d hd' he => hf d hd' (by rw [he, hd]; rfl)⟩
  · next hn =>
    refine ⟨best_mem h, .inr fun d hd => by simpa using best_filter_eq_none.1 hn d hd, fun d hd _ => ?_⟩
    exact best_first Cand.before_asymm Cand.before_trans h d hd

theorem pick_eq_none {cs : List Cand} : pick cs = none ↔ cs = [] := by
  unfold pick
  split
  · next b hb =>
    simp only [reduceCtorEq, false_iff]
    rintro rfl
    cases hb
  · exact best_eq_none

/-- The class that a group gives to a point: its lanes' longest wait raises it as its own age does (R116, R120). -/
def memberCls (e : Nat × Group × Word × Nat) : Nat := if 1024 ≤ e.2.2.2 ∨ 1024 ≤ e.2.1.age then 3 else e.2.1.cls

theorem memberCls_eq (e : Nat × Group × Word × Nat) : (if e.2.2.2 ≥ 1024 then 3 else e.2.1.effClass) = memberCls e := by
  by_cases h : 1024 ≤ e.2.2.2 <;> simp [memberCls, Group.effClass, h]

theorem inOrder_mem : ∀ (n : Nat) (gs : List (Nat × Group × Word × Nat)), ∀ b ∈ inOrder n gs, b ∈ gs
  | 0, _, _, h => absurd h List.not_mem_nil
  | n + 1, gs, b, h => by
    simp only [inOrder] at h
    split at h
    · cases h
    · next g hg =>
      rcases List.mem_cons.1 h with rfl | h
      · exact best_mem hg
      · exact List.mem_of_mem_filter (inOrder_mem n _ b h)

theorem inOrder_ne_nil {n : Nat} {gs : List (Nat × Group × Word × Nat)} (hn : n ≠ 0) (hgs : gs ≠ []) : inOrder n gs ≠ [] := by
  obtain ⟨n, rfl⟩ := Nat.exists_eq_succ_of_ne_zero hn
  simp only [inOrder]
  split
  · next h => exact absurd (best_eq_none.1 h) hgs
  · exact List.cons_ne_nil _ _

/-- What is drawn meets nothing that was drawn before, and is of the list. -/
theorem drawBundle_spec (single : Bool) : ∀ (gs : List (Nat × Group × Word × Nat)) (used : Word),
    (∀ b ∈ drawBundle single used gs, b.2 &&& used = 0 ∧ ∃ e ∈ gs, b = (e.1, e.2.2.1)) ∧
      (drawBundle single used gs).Pairwise fun a b => a.2 &&& b.2 = 0
  | [], used => by simp [drawBundle]
  | e :: gs, used => by
    simp only [drawBundle]
    split
    · obtain ⟨h, k⟩ := drawBundle_spec single gs used
      exact ⟨fun b hb => ⟨(h b hb).1, (h b hb).2.imp fun _ hx => ⟨List.mem_cons_of_mem _ hx.1, hx.2⟩⟩, k⟩
    · next hfree =>
      obtain ⟨h, k⟩ := drawBundle_spec single gs (used ||| e.2.2.1)
      have hand : ∀ x : Word, x &&& (used ||| e.2.2.1) = 0 → x &&& used = 0 ∧ e.2.2.1 &&& x = 0 := fun x hx => by
        rw [BitVec.and_or_distrib_left] at hx
        replace hx := BitVec.or_eq_zero_iff.1 hx
        exact ⟨hx.1, BitVec.and_comm x _ ▸ hx.2⟩
      have hself : e.2.2.1 &&& used = 0 := by
        by_cases hu : used = 0
        · rw [hu]; exact BitVec.and_zero
        · simp only [Bool.and_eq_true, bne_iff_ne, ne_eq, hu, not_false_eq_true, true_and, Bool.or_eq_true, not_or, not_not] at hfree
          exact hfree.2
      refine ⟨List.forall_mem_cons.2 ⟨⟨hself, e, List.mem_cons_self, rfl⟩, fun b hb => ?_⟩, List.pairwise_cons.2 ⟨fun b hb => (hand b.2 (h b hb).1).2, k⟩⟩
      exact ⟨(hand b.2 (h b hb).1).1, (h b hb).2.imp fun _ hx => ⟨List.mem_cons_of_mem _ hx.1, hx.2⟩⟩

/-- A candidate's bundle: lanes of its groups that do not meet (R120, R121). -/
theorem State.bundle_spec (s : State) {c : Cand} (h : c.groups ≠ []) :
    s.bundle c ≠ [] ∧ (s.bundle c).Pairwise (fun a b => a.2 &&& b.2 = 0) ∧ ∀ b ∈ s.bundle c, ∃ e ∈ c.groups, b = (e.1, e.2.2.1) := by
  have hmem := inOrder_mem 64 c.groups
  have hne := inOrder_ne_nil (n := 64) (by decide) h
  simp only [State.bundle]
  split
  · next hn => exact absurd hn hne
  · next e gs hcons =>
    rw [hcons] at hmem ⊢
    have draw := fun single => drawBundle_spec single (e :: gs) 0
    refine ⟨by simp [drawBundle], (draw _).2, fun b hb => ?_⟩
    obtain ⟨f, hf, hbf⟩ := ((draw _).1 b hb).2
    exact ⟨f, hmem f hf, hbf⟩

/-! ### The fallback point (R119) -/

theorem mem_setIns {a b : Nat} {l : List Nat} : b ∈ setIns a l ↔ b = a ∨ b ∈ l := by
  induction l with
  | nil => simp [setIns]
  | cons c l ih =>
    simp only [setIns]
    split_ifs with h1 h2
    · simp
    · subst h2; simp
    · simp only [List.mem_cons, ih]
      tauto

theorem pairwise_setIns {a : Nat} {l : List Nat} (h : l.Pairwise (· < ·)) : (setIns a l).Pairwise (· < ·) := by
  induction l with
  | nil => simp [setIns]
  | cons c l ih =>
    obtain ⟨hc, hl⟩ := List.pairwise_cons.1 h
    simp only [setIns]
    split_ifs with h1 h2
    · exact List.pairwise_cons.2 ⟨List.forall_mem_cons.2 ⟨h1, fun b hb => h1.trans (hc b hb)⟩, h⟩
    · exact h
    · refine List.pairwise_cons.2 ⟨fun b hb => ?_, ih hl⟩
      rcases mem_setIns.1 hb with rfl | hb
      · omega
      · exact hc b hb

/-- Members put in place one by one, where a test admits them. -/
theorem foldl_setIns (p : Nat → Bool) (f : Nat → Nat) (ls : List Nat) (acc : List Nat) (hacc : acc.Pairwise (· < ·)) :
    let r := ls.foldl (fun ps l => if p l then setIns (f l) ps else ps) acc
    r.Pairwise (· < ·) ∧ ∀ b, b ∈ r ↔ b ∈ acc ∨ ∃ l ∈ ls, p l = true ∧ b = f l := by
  induction ls generalizing acc with
  | nil => simp [hacc]
  | cons l ls ih =>
    simp only [List.foldl_cons]
    split
    · next hp =>
      obtain ⟨h, k⟩ := ih (setIns (f l) acc) (pairwise_setIns hacc)
      refine ⟨h, fun b => (k b).trans ?_⟩
      simp only [mem_setIns, List.exists_mem_cons_iff, hp, true_and]
      tauto
    · next hp =>
      obtain ⟨h, k⟩ := ih acc hacc
      refine ⟨h, fun b => (k b).trans ?_⟩
      simp [hp]

/-- A lane of a group that is alive and whose PC has no entry in the core's table (R119). -/
def State.unfiledLane (s : State) (core : Nat) (G : Group) (l : Nat) : Prop :=
  l < 32 ∧ (G.lane l).live = true ∧ ∀ e ∈ (s.core core).pcs, e.2 ≠ (G.lane l).pc

theorem State.unfiled_spec (s : State) (core : Nat) (G : Group) :
    (s.unfiled core G).Pairwise (· < ·) ∧ ∀ p, p ∈ s.unfiled core G ↔ ∃ l, s.unfiledLane core G l ∧ p = (G.lane l).pc.toNat := by
  obtain ⟨h, k⟩ := foldl_setIns (fun l => (G.lane l).live && !((s.core core).pcs.any fun e => e.2 == (G.lane l).pc))
    (fun l => (G.lane l).pc.toNat) (List.range 32) [] .nil
  refine ⟨h, fun p => (k p).trans ?_⟩
  simp [State.unfiledLane, and_assoc]

/-- The first member above a bound, or, wrapping round, the first of all. -/
def nextAbove (ps : List Nat) (n : Nat) : Option Nat := match ps.find? fun p => decide (n < p) with
  | some p => some p
  | none => ps.head?

/-- Of a rising list, that is the least member above the bound, or the least of all. -/
theorem nextAbove_spec {ps : List Nat} (hs : ps.Pairwise (· < ·)) (n : Nat) :
    (nextAbove ps n = none ↔ ps = []) ∧ ∀ q, nextAbove ps n = some q → q ∈ ps ∧ ((∃ p ∈ ps, n < p) → n < q ∧ ∀ p ∈ ps, n < p → q ≤ p) ∧
      ((∀ p ∈ ps, p ≤ n) → ∀ p ∈ ps, q ≤ p) := by
  unfold nextAbove
  cases hf : ps.find? fun p => decide (n < p) with
  | some p =>
    obtain ⟨hp, as, bs, rfl, has⟩ := List.find?_eq_some_iff_append.1 hf
    simp only [decide_eq_true_eq, Bool.not_eq_true', decide_eq_false_iff_not] at hp has
    obtain ⟨-, hbs, -⟩ := List.pairwise_append.1 hs
    refine ⟨by simp, fun q hq => ?_⟩
    cases hq
    refine ⟨by simp, fun _ => ⟨hp, fun x hx hnx => ?_⟩, fun hall => absurd (hall p (by simp)) (by omega)⟩
    rcases List.mem_append.1 hx with hx | hx
    · exact absurd hnx (has x hx)
    · rcases List.mem_cons.1 hx with rfl | hx
      · exact le_rfl
      · exact ((List.pairwise_cons.1 hbs).1 x hx).le
  | none =>
    have hle : ∀ p ∈ ps, ¬ n < p := by simpa using hf
    cases ps with
    | nil => simp
    | cons p ps =>
      refine ⟨by simp, fun q hq => ?_⟩
      cases hq
      refine ⟨List.mem_cons_self, fun ⟨x, hx, hnx⟩ => absurd hnx (hle x hx), fun _ => List.forall_mem_cons.2 ⟨le_rfl, fun x hx => ?_⟩⟩
      exact ((List.pairwise_cons.1 hs).1 x hx).le

theorem execFallbackAdvance_spent {s : State} {g : Nat} {G : Group} {pc : DWord} {n : Nat} (hG : s.group? g = some G)
    (hf : G.fallback = some (pc, n)) (hn : 256 ≤ n) :
    execFallbackAdvance g s = .next (s.updGroup g fun H =>
      { H with fallback := (nextAbove (s.unfiled (issueUnit g) G) pc.toNat).map fun p => (BitVec.ofNat 64 p, 0) }) := by
  simp only [execFallbackAdvance, hG, hf, event, Nat.not_lt.2 hn, if_false, gt_iff_lt]
  rfl

theorem execFallbackAdvance_unspent {s : State} {g : Nat} {G : Group} {pc : DWord} {n : Nat} (hG : s.group? g = some G)
    (hf : G.fallback = some (pc, n)) (hn : n < 256) : execFallbackAdvance g s = .next s.passOver := by
  simp [execFallbackAdvance, hG, hf, event, hn]

/-- Settles O45: what comes first is the best of a filtered list (`best_filter`, `entered_first`, `pick_spec`), the events are
`execGroupSwap_of`, `execAgedDisplacement_of`, `execBundleSelect_spec` and `execFallbackAdvance_spent`, the bundles those of
`State.bundle_spec`. -/
theorem scheduling : Obligations.Scheduling := by
  refine ⟨fun s core => ⟨fun a ha => ?_, best_filter_eq_none, fun a ha => ?_, ?_, fun o ho => entered_first (s.oldestActive_eq core ▸ ho), best_filter_eq_none,
    fun a ha hc hfree g G hG hact hcore hwait => ?_, fun a o ha hra ho hso hfree => ?_, fun h => ?_⟩,
    fun s core fresh hc hp => ⟨?_, fun hne hn => hne (pick_eq_none.1 hn), fun ds c hc => ?_, fun c hc => ?_⟩,
    fun s g G pc n hG hf => ⟨execFallbackAdvance_unspent hG hf, fun hn => ⟨_, execFallbackAdvance_spent hG hf hn, ?_⟩⟩⟩
  · obtain ⟨hm, hp, hf⟩ := best_filter ahead_asymm ahead_trans (s.nextPending_eq core ▸ ha)
    exact ⟨hm, hp, fun e he hpe => ahead_eq_false.1 (hf e he hpe)⟩
  · obtain ⟨hm, hp, hf⟩ := best_filter ahead_asymm ahead_trans (s.agedPending_eq core ▸ ha)
    exact ⟨hm, hp, fun e he hpe => ahead_eq_false.1 (hf e he hpe)⟩
  · rw [s.agedPending_eq core]
    exact best_filter_eq_none
  · obtain ⟨e, he⟩ := best_filter_isSome (lt := Machine.ahead) (p := s.pends) ha.1 ha.2.1
    exact ⟨e, he, execGroupSwap_of hG he hact hcore hwait hfree hc⟩
  · obtain ⟨a', ha'⟩ := best_filter_isSome (lt := Machine.ahead) (p := s.raised) ha hra
    obtain ⟨o', ho'⟩ := best_filter_isSome (lt := fun a b : Nat × Group => decide (a.2.entered < b.2.entered)) (p := s.settled core) ho hso
    refine ⟨a', o', (s.agedPending_eq core).trans ha', ho', ?_⟩
    rw [exec_agedDisplacement, execAgedDisplacement_of ((s.agedPending_eq core).trans ha') ho' hfree, s.displace_eq]
    rfl
  · refine execAgedDisplacement_passOver (h.imp (fun h => ?_) (Or.imp_left fun h => best_filter_eq_none.2 h))
    rw [s.agedPending_eq core]
    exact best_filter_eq_none.2 h
  · obtain ⟨t, ht, hmem, hcyc, hq⟩ := execBundleSelect_spec fresh hc hp
    refine ⟨t, ht, hmem, hcyc, fun hnil => ?_, fun c hpick => ?_⟩
    · rw [hq, hnil, chosen_nil, List.flatMap_nil, List.append_nil]
    · rw [hq, chosen_eq core hpick]
  · obtain ⟨hm, hd, hf⟩ := pick_spec hc
    exact ⟨hm, hd, fun d hd' he => Cand.before_eq_false.1 (hf d hd' he)⟩
  · obtain ⟨hpt, hgs, hne, hcand⟩ := mem_candidates hc
    obtain ⟨hb, hpair, hbmem⟩ := (s.prepare core).bundle_spec hne
    have hcls : c.cls = c.groups.foldl (fun c e => max c (if e.2.2.2 ≥ 1024 then 3 else e.2.1.effClass)) 0 := congrArg Cand.cls hcand
    have hwait : c.wait = c.groups.foldl (fun w e => max w e.2.2.2) 0 := congrArg Cand.wait hcand
    have hslot : c.slot = c.groups.foldl (fun k e => min k e.1) 1000000 := congrArg Cand.slot hcand
    simp only [memberCls_eq] at hcls
    refine ⟨hpt, hgs, hne, fun e he => ⟨?_, ?_, ?_⟩, ?_, ?_, hb, hpair, hbmem⟩
    · rw [hcls]; exact (le_foldl_max memberCls _ _).2 e he
    · rw [hwait]; exact (le_foldl_max (fun e => e.2.2.2) _ _).2 e he
    · rw [hslot]; exact (foldl_min_le _ _ _).2 e he
    · rw [hwait]; exact exists_foldl_max _ hne
    · rw [hcls]; exact exists_foldl_max memberCls hne
  · obtain ⟨hsorted, hmem⟩ := s.unfiled_spec (issueUnit g) G
    obtain ⟨hnone, hsome⟩ := nextAbove_spec hsorted pc.toNat
    have hin : ∀ l, s.unfiledLane (issueUnit g) G l → (G.lane l).pc.toNat ∈ s.unfiled (issueUnit g) G := fun l hl => (hmem _).2 ⟨l, hl, rfl⟩
    refine ⟨?_, fun pc' m hpc => ?_⟩
    · rw [Option.map_eq_none_iff, hnone, List.eq_nil_iff_forall_not_mem]
      exact ⟨fun h l hl => h _ (hin l hl), fun h p hp => (hmem p).1 hp |>.elim fun l hl => h l hl.1⟩
    · obtain ⟨q, hq, he⟩ := Option.map_eq_some_iff.1 hpc
      cases he
      obtain ⟨hqm, habove, hwrap⟩ := hsome q hq
      obtain ⟨l, hl, rfl⟩ := (hmem q).1 hqm
      rw [BitVec.ofNat_toNat, BitVec.setWidth_eq]
      refine ⟨rfl, ⟨l, hl, rfl⟩, fun ⟨k, hk, hlt⟩ => ?_, fun hall k hk => ?_⟩
      · obtain ⟨h1, h2⟩ := habove ⟨_, hin k hk, hlt⟩
        exact ⟨h1, fun j hj hlt => h2 _ (hin j hj) hlt⟩
      · exact hwrap (fun p hp => (hmem p).1 hp |>.elim fun j hj => hj.2 ▸ hall j hj.1) _ (hin k hk)

end Sys2Proof.Machine
end

section
/-! SUPPORT. An operation that completes wakes the TFREEs that wait for its tiles (R226, R252). -/

namespace Sys2Proof.Machine

/-- A grouped operation whose groups are all empty, with A in tile 0: it completes at its first event (R255). -/
def emptyGroups : MmaOp :=
  { parts := [{ team := 0, g := 0, gi := 0, img := { op := 0xB0E, d := 0, a := .tile 0, imm := 0, word := 0 }, addr := 0, pkr := 0 }]
    conv := 0, order := 0, begun := true, sizes := [0] }

/-- The operation is active on array 0, and a thread of its team waits at a TFREE of tile 0, which is READY. -/
def freeingState : State :=
  { groups := [(0, { ctx := 0, team := 0, idx := 0, regs := 8, lanes := [{ live := true, wait := .tfree 0 }], active := true })]
    teams := [(0, { ctx := 0, unit := 0, share := 0, core := 0, idx := 0, desc := {}, groups := [0], fin := [false], started := true })]
    shares := [(0, { tiles := List.replicate 64 { size := 8, st := .ready, defined := true } })]
    arrays := [(0, { active := some (0, emptyGroups) })] }

/-- Whether an outcome leaves lane 0 of group 0 at its TFREE. -/
def leavesFreeing (o : Host.Outcome State Fault Refusal) : Bool := match o with
  | .next t => (t.lane 0 0).wait == .tfree 0
  | _ => false

theorem freeingState_complete : leavesFreeing (exec (.mmaComplete 0) freeingState) = false := by decide +kernel

/-- Refutes O60, in its clause of MMA_COMPLETE: the completion of an operation with its rows in a tile ends a TFREE that waits for the tile,
so that the groups do not stay as they are (R226, R252). -/
theorem not_eventsTakePlace : ¬ Obligations.EventsTakePlace := by
  rintro ⟨-, -, -, -, -, -, hcomplete, -⟩
  have htile : ∀ p, emptyGroups.cur = some p → ∃ h, p.img.a = .tile h := by
    intro p hp
    cases hp
    exact ⟨0, rfl⟩
  obtain ⟨t, ht, -, hgroups, -⟩ := hcomplete freeingState 0 0 emptyGroups rfl htile
  have hwaits : leavesFreeing (.next t) = true := by
    rw [leavesFreeing, State.lane, State.group?, hgroups]
    rfl
  rw [← ht, freeingState_complete] at hwaits
  cases hwaits

end Sys2Proof.Machine
end

section
/-! SUPPORT. What the device's own accesses to memory leave alone: the tables of what runs, and the settings of the device (R150 to R163, R171); what
the bytes of a contiguous write read as afterwards. -/

namespace Sys2Proof.Machine

/-! ### The tables of what runs -/

/-- The tables of teams, launches, queues and contexts, the stamp and the fault queues. -/
def State.tables (s : State) : AMap Team × AMap Share × AMap CUnit × AMap Context × AMap UQueue × AMap Launch × Nat × List (List FaultEntry) :=
  (s.teams, s.shares, s.units, s.contexts, s.queues, s.launches, s.seq, s.faults)

theorem State.KeepsMem.tables {s u : State} (h : s.KeepsMem u) : u.tables = s.tables := congrArg (·.2.2.2) h.1

theorem teams_of_tables {s u : State} (h : u.tables = s.tables) : u.teams = s.teams := congrArg (·.1) h
theorem shares_of_tables {s u : State} (h : u.tables = s.tables) : u.shares = s.shares := congrArg (·.2.1) h
theorem units_of_tables {s u : State} (h : u.tables = s.tables) : u.units = s.units := congrArg (·.2.2.1) h
theorem queues_of_tables {s u : State} (h : u.tables = s.tables) : u.queues = s.queues := congrArg (·.2.2.2.2.1) h
theorem launches_of_tables {s u : State} (h : u.tables = s.tables) : u.launches = s.launches := congrArg (·.2.2.2.2.2.1) h
theorem seq_of_tables {s u : State} (h : u.tables = s.tables) : u.seq = s.seq := congrArg (·.2.2.2.2.2.2.1) h

theorem State.writeByte_tables (s : State) (a : Nat) (x : Byte) : (s.writeByte a x).tables = s.tables := by
  simp only [State.writeByte]
  split <;> split <;> (try split) <;> rfl

theorem State.writeList_tables : ∀ (es : List (Nat × Byte)) (s : State), (s.writeList es).tables = s.tables
  | [], _ => rfl
  | e :: es, s => (State.writeList_tables es _).trans (s.writeByte_tables e.1 e.2)

theorem State.homeWrite_tables (s : State) (k : Option Nat) (d : List Nat) (es : List (Nat × Byte)) : (s.homeWrite k d es).tables = s.tables := by
  obtain ⟨v, k', hk, e⟩ := State.homeWrite_eq s k d es
  rw [e]
  exact (State.writeList_tables (homed es) v).trans hk.tables

theorem State.devWrite_tables (s : State) (es : List (Nat × Byte)) : (s.devWrite es).tables = s.tables := by
  unfold State.devWrite
  split
  · rfl
  · exact s.homeWrite_tables none [] es

/-! ### The settings of the device -/

/-- The device's registers without what the memory side and the links count and queue. -/
def Dev.settings (v : Dev) : Dev := { v with stkh := [], misses := [], msix := [], hostLines := [], ports := [] }

/-- Those, and which stacks are lost. -/
def State.settings (s : State) : Dev × List Bool := (s.dev.settings, s.dev.stkh.map StackHealth.lost)

theorem isLost_of_settings {s u : State} (h : u.settings = s.settings) (k : Nat) : u.isLost k = s.isLost k := by
  have lost (t : State) : t.isLost k = t.settings.2.getD k false := by
    simp only [State.isLost, State.settings, List.getD_eq_getElem?_getD, List.getElem?_map]
    cases t.dev.stkh[k]? <;> rfl
  rw [lost, lost, h]

theorem power_of_settings {s u : State} (h : u.settings = s.settings) : u.dev.power = s.dev.power := congrArg (·.1.power) h

theorem State.settings_foldl {α : Type} {f : State → α → State} (h : ∀ s a, (f s a).settings = s.settings) :
    ∀ (l : List α) (s : State), (l.foldl f s).settings = s.settings
  | [], _ => rfl
  | a :: l, s => (State.settings_foldl h l (f s a)).trans (h s a)

@[simp] theorem State.settings_setDram : ∀ (bs : List Byte) (s : State) (t off : Nat), (s.setDram t off bs).settings = s.settings
  | [], _, _, _ => rfl
  | b :: bs, s, t, off => State.settings_setDram bs { s with dram := AMap.set 0 s.dram (dramKey t off) b } t (off + 1)

@[simp] theorem State.settings_markWord (s : State) (t off : Nat) (b : Bool) : (s.markWord t off b).settings = s.settings := rfl

@[simp] theorem State.settings_writeWord (s : State) (t off : Nat) (bs : List Byte) : (s.writeWord t off bs).settings = s.settings := by
  rw [State.writeWord, State.settings_markWord, State.settings_setDram]

theorem map_modAt_eq {α β : Type} {g : α → β} {f : α → α} (h : ∀ x, g (f x) = g x) (l : List α) (i : Nat) : (modAt l i f).map g = l.map g := by
  unfold modAt
  cases hi : l[i]? with
  | none => rfl
  | some x =>
    obtain ⟨hlt, rfl⟩ := List.getElem?_eq_some_iff.1 hi
    refine List.ext_getElem (by simp) fun k h1 h2 => ?_
    simp only [List.getElem_map, List.getElem_set]
    split
    · next hk => simp only [← hk, h]
    · rfl

/-- A change of a stack's counters. -/
theorem State.settings_setStack (s : State) (t : Nat) {f : StackHealth → StackHealth} (h : ∀ x, (f x).lost = x.lost) :
    (s.setStack t f).settings = s.settings := by
  have hl : (modAt s.dev.stkh t f).map StackHealth.lost = s.dev.stkh.map StackHealth.lost := map_modAt_eq h _ t
  simp only [State.setStack]
  split <;> exact congrArg (Prod.mk s.dev.settings) hl

@[simp] theorem State.settings_meet (s : State) (t off : Nat) (e : EccState) : (s.meet t off e).settings = s.settings := by
  simp only [State.meet]
  split
  · rfl
  · cases e with
    | good => rfl
    | corrected => exact s.settings_setStack t fun _ => rfl
    | uncorrectable => exact State.settings_setStack { s with dramUe := _ } t fun _ => rfl

@[simp] theorem State.settings_meetAll (s : State) (t : Nat) (offs : List Nat) (es : List EccState) : (s.meetAll t offs es).settings = s.settings :=
  State.settings_foldl (fun s (e : Nat × EccState) => s.settings_meet t e.1 e.2) _ s

@[simp] theorem State.settings_rebuild (s : State) (t off : Nat) : (s.rebuild t off).settings = s.settings := by
  simp only [State.rebuild]
  split_ifs <;> simp

@[simp] theorem State.settings_parityOnly (s : State) (t off : Nat) (b : Beat) : (s.parityOnly t off b).settings = s.settings := by
  have partners (ks : List Nat) : (s.failPartners ks off).settings = s.settings := State.settings_foldl (fun s k => by split <;> rfl) ks s
  simp only [State.parityOnly]
  split_ifs <;> simp [partners]

@[simp] theorem State.settings_putWord (s : State) (t off : Nat) (b : Beat) : (s.putWord t off b).settings = s.settings := by
  simp only [State.putWord]
  split_ifs <;> simp

@[simp] theorem State.settings_send (s : State) (p : Packet) : (s.send p).settings = s.settings := rfl

@[simp] theorem State.settings_startJob (s : State) (t : Nat) (p : Packet) (e : Option Nat) : (s.startJob t p e).settings = s.settings := by
  simp only [State.startJob]
  split
  · rfl
  · exact State.settings_foldl (fun s _ => s.settings_send _) _ _

@[simp] theorem State.settings_repair (s : State) (t : Nat) (offs : List Nat) : (s.repair t offs).settings = s.settings := by
  simp only [State.repair]
  split_ifs
  · rfl
  · exact State.settings_foldl (fun s off => s.settings_rebuild t off) _ s
  · rfl
  · simp

@[simp] theorem State.settings_serveRead (s : State) (p : Packet) : (s.serveRead p).settings = s.settings := by
  simp only [State.serveRead]
  split_ifs <;> simp

@[simp] theorem State.settings_ackWrite (s : State) (k : Nat) (p : Packet) : (s.ackWrite k p).settings = s.settings := rfl

theorem State.settings_putWords (s : State) (t : Nat) (p : Packet) :
    (p.words.foldl (fun (s : State) w => s.putWord t w.2 (p.beat w.1)) s).settings = s.settings :=
  State.settings_foldl (fun s (w : Nat × Nat) => s.settings_putWord t w.2 (p.beat w.1)) _ s

@[simp] theorem State.settings_applyWrite (s : State) (k : Nat) (p : Packet) : (s.applyWrite k p).settings = s.settings := by
  have written (news : List (List Byte)) : (p.words.foldl (fun s w =>
      if (p.beat w.1).pois = true then s.markWord p.target w.2 true else s.setDram p.target w.2 (news.getD w.1 [])) s).settings = s.settings :=
    State.settings_foldl (fun s w => by split <;> simp) _ s
  simp only [State.applyWrite]
  split
  · rw [State.settings_ackWrite, State.settings_putWords]
  · split
    · rw [State.settings_ackWrite, written]
    · exact written _

@[simp] theorem State.settings_serveWrite (s : State) (k : Nat) : (s.serveWrite k).settings = s.settings := by
  simp only [State.serveWrite]
  split
  · rfl
  · split_ifs <;> simp [State.settings_putWords]

@[simp] theorem State.settings_request (s : State) (p : Packet) : (s.request p).settings = s.settings := by
  have miss : (if (p.late && p.budget != 0) = true then s.countMiss p.port else s).settings = s.settings := by split <;> rfl
  simp only [State.request, State.accept]
  split
  · split
    · exact (State.settings_serveWrite _ _).trans miss
    · exact (State.settings_serveRead _ _).trans miss
  · rfl

theorem State.settings_writeBack (s : State) (line : Nat) : (s.writeBack line).settings = s.settings := by
  simp only [State.writeBack]
  split
  · rfl
  · split
    · rfl
    · split
      · exact State.settings_request _ _
      · exact State.settings_request _ _
      · rfl

theorem State.settings_makeRoom (s : State) (line : Nat) : (s.makeRoom line).settings = s.settings := by
  simp only [State.makeRoom]
  split_ifs
  · rfl
  · rfl
  · exact State.settings_foldl (f := fun s line => (s.writeBack line).dropLine line) (fun s l => s.settings_writeBack l) _ s

theorem State.settings_alloc (s : State) (pa : Nat) (m : Half) : (s.alloc pa m).settings = s.settings := by
  simp only [State.alloc]
  split
  · rfl
  · split
    · split
      · rfl
      · exact (State.settings_foldl (fun s i => by split <;> rfl) _ _).trans rfl
    · refine Eq.trans ?_ (s.settings_makeRoom (pa / 64))
      split <;> split <;> rfl

theorem State.settings_writeList : ∀ (es : List (Nat × Byte)) (s : State), (s.writeList es).settings = s.settings
  | [], _ => rfl
  | e :: es, s => by
    refine (State.settings_writeList es _).trans ?_
    simp only [State.writeByte]
    split <;> split <;> (try split) <;> rfl

/-- A write at the home leaves the settings alone. -/
theorem State.settings_homeWrite (s : State) (k : Option Nat) (d : List Nat) (es : List (Nat × Byte)) : (s.homeWrite k d es).settings = s.settings := by
  have lines (u : State) (pas : List Nat) : ((u.backInv pas).allocAll pas).settings = u.settings :=
    (State.settings_foldl (fun s pa => s.settings_alloc pa _) pas (u.backInv pas)).trans rfl
  simp only [State.homeWrite]
  refine (State.settings_writeList (homed es) _).trans ?_
  split
  · exact (lines _ _).trans rfl
  · exact lines s _

theorem State.settings_devWrite (s : State) (es : List (Nat × Byte)) : (s.devWrite es).settings = s.settings := by
  unfold State.devWrite
  split
  · rfl
  · exact s.settings_homeWrite none [] es

/-! ### The bytes of a contiguous write -/

theorem span_fst (pa : Nat) (bs : List Byte) : (span pa bs).map (·.1) = (List.range bs.length).map (pa + ·) := by
  refine List.ext_getElem (by simp [span]) fun i h1 h2 => ?_
  simp [span]

/-- A byte of a write that no wave holds. -/
theorem State.homeWrite_span_byte (s : State) (k : Option Nat) (d : List Nat) {pa i : Nat} {bs : List Byte} (hlen : bs.length < 2 ^ 48) (hi : i < bs.length) :
    (s.homeWrite k d (span pa bs)).byte (homeOf (pa + i)) = bs[i] := by
  refine s.homeWrite_byte_of_mem k d (nodup_homed_span pa bs hlen) ?_
  rw [homed_span]
  exact List.mem_of_getElem? (i := i) (by rw [List.getElem?_mapIdx, List.getElem?_eq_getElem hi]; rfl)

/-- The bytes that a contiguous write has left at their homes. -/
theorem State.homeWrite_span_bytes (s : State) (k : Option Nat) (d : List Nat) (pa : Nat) {bs : List Byte} (hlen : bs.length < 2 ^ 48) :
    ((List.range bs.length).map fun i => (s.homeWrite k d (span pa bs)).byte (homeOf (pa + i))) = bs := by
  refine List.ext_getElem (by simp) fun i h1 h2 => ?_
  rw [List.getElem_map, List.getElem_range, s.homeWrite_span_byte k d hlen h2]

/-- A byte that a device write does not name, be it performed at once or after a wave. -/
theorem State.devWrite_byte_of_not_mem (s : State) {es : List (Nat × Byte)} {a : Nat} (h : a ∉ es.map fun e => homeOf e.1) :
    (s.devWrite es).byte a = s.byte a := by
  unfold State.devWrite
  split
  · rfl
  · exact s.homeWrite_byte_of_not_mem none [] es a h

theorem State.devWrite_eq {s : State} {es : List (Nat × Byte)} (h : s.waveHolds (es.map (·.1)) = false) : s.devWrite es = s.homeWrite none [] es := by
  rw [State.devWrite, if_neg (by rw [h]; exact Bool.false_ne_true)]

theorem not_mem_span {a pa : Nat} {bs : List Byte} (h : ∀ i, i < bs.length → a ≠ homeOf (pa + i)) : a ∉ (span pa bs).map fun e => homeOf e.1 := by
  intro hm
  obtain ⟨q, hq, rfl⟩ := List.mem_map.1 hm
  obtain ⟨i, hi, rfl⟩ := List.mem_mapIdx.1 hq
  exact h i hi rfl

/-! ### The units of a core's L1 (R145, R146) -/

theorem State.l1Resize_keeps (s : State) (core n : Nat) : s.KeepsMem (s.l1Resize core n) := by
  simp only [State.l1Resize]
  refine State.KeepsMem.trans (.of_eq ?_ ?_) (State.KeepsMem.foldl (fun s set => State.l1Fit_keeps core set none 96 s) _ _) <;> rfl

/-- The division of a core's units changes its L1 alone. -/
theorem State.repartition_keeps (s : State) (cores : List Nat) : s.KeepsMem (s.repartition cores) :=
  State.KeepsMem.foldl (fun s c => s.l1Resize_keeps c _) cores s

end Sys2Proof.Machine
end

section
/-! SUPPORT. Placement, the start and the retirement of teams, and the bins of graphs (R109 to R113, R265, R274 to R276). -/

namespace Sys2Proof.Machine

theorem exec_clusterPlacement (k : Nat) (cores : List Nat) (s : State) : exec (.clusterPlacement k cores) s = execClusterPlacement k cores s := rfl
theorem exec_teamStart (k : Nat) (s : State) : exec (.teamStart k) s = execTeamStart k s := rfl
theorem exec_teamRetire (k : Nat) (s : State) : exec (.teamRetire k) s = execTeamRetire k s := rfl
theorem exec_seedEntry (k node : Nat) (s : State) : exec (.seedEntry k node) s = execSeedEntry k node s := rfl
theorem exec_binTimerExpiry (k die node : Nat) (s : State) : exec (.binTimerExpiry k die node) s = execBinTimerExpiry k die node s := rfl
theorem exec_binCountTrigger (k die node core : Nat) (s : State) : exec (.binCountTrigger k die node core) s = execBinCountTrigger k die node core s := rfl

/-! ### Tables -/

theorem AMap.get?_filter {β : Type} (m : AMap β) (p : Nat → Bool) (a : Nat) :
    AMap.get? (m.filter fun e => p e.1) a = if p a then AMap.get? m a else none := by
  induction m with
  | nil => simp
  | cons e m ih =>
    obtain ⟨k, v⟩ := e
    by_cases hk : a = k
    · subst hk
      cases hp : p a <;> simp [AMap.get?, hp, ih]
    · cases hp : p k <;> simp [AMap.get?, hp, ih, hk]

/-- Entries put at consecutive keys. -/
theorem get?_foldl_put {α β : Type} (f : α → β) (h : Nat) : ∀ (xs : List α) (n : Nat) (m : AMap β),
    (∀ k, k < h + n → AMap.get? ((xs.zipIdx n).foldl (fun m e => AMap.put m (h + e.2) (f e.1)) m) k = AMap.get? m k) ∧
    ∀ i (hi : i < xs.length), AMap.get? ((xs.zipIdx n).foldl (fun m e => AMap.put m (h + e.2) (f e.1)) m) (h + (n + i)) = some (f xs[i])
  | [], n, m => by simp
  | x :: xs, n, m => by
    obtain ⟨before, at'⟩ := get?_foldl_put f h xs (n + 1) (AMap.put m (h + n) (f x))
    simp only [List.zipIdx_cons, List.foldl_cons]
    refine ⟨fun k hk => by rw [before k (by omega), AMap.get?_put_ne _ _ (by omega)], fun i hi => ?_⟩
    cases i with
    | zero => exact (before (h + n) (by omega)).trans (AMap.get?_put_self ..)
    | succ i => rw [show n + (i + 1) = n + 1 + i by omega, at' i (by simpa using hi)]; rfl

/-- Values set at consecutive keys. -/
theorem getD_foldl_set (off : Nat) : ∀ (bs : List Byte) (n : Nat) (m : AMap Byte),
    (∀ k, k < off + n → AMap.getD ((bs.zipIdx n).foldl (fun m e => AMap.set 0 m (off + e.2) e.1) m) k 0 = AMap.getD m k 0) ∧
    ∀ i (hi : i < bs.length), AMap.getD ((bs.zipIdx n).foldl (fun m e => AMap.set 0 m (off + e.2) e.1) m) (off + (n + i)) 0 = bs[i]
  | [], n, m => by simp
  | b :: bs, n, m => by
    obtain ⟨before, at'⟩ := getD_foldl_set off bs (n + 1) (AMap.set 0 m (off + n) b)
    simp only [List.zipIdx_cons, List.foldl_cons]
    refine ⟨fun k hk => by rw [before k (by omega), AMap.getD_set, if_neg (by omega)], fun i hi => ?_⟩
    cases i with
    | zero => exact (before (off + n) (by omega)).trans ((AMap.getD_set ..).trans (if_pos rfl))
    | succ i => rw [show n + (i + 1) = n + 1 + i by omega, at' i (by simpa using hi)]; rfl

theorem Share.setBytes_scratch (h : Share) (off : Nat) (bs : List Byte) (i : Nat) (hi : i < bs.length) :
    AMap.getD (h.setBytes off bs).scratch (off + i) 0 = bs[i] := by
  have := (getD_foldl_set off bs 0 h.scratch).2 i hi
  rwa [Nat.zero_add] at this

theorem distinct_of_nodup : ∀ {l : List Nat}, l.Nodup → distinct l = true
  | [], _ => rfl
  | a :: l, h => by
    obtain ⟨ha, hl⟩ := List.nodup_cons.1 h
    simp [distinct, ha, distinct_of_nodup hl]

/-! ### Placement (R111 to R113, R265) -/

/-- Entries of the tables of a descriptor leave the scratchpad alone. -/
theorem foldl_keeps_scratch {α : Type} {f : Share → α → Share} (hf : ∀ h a, (f h a).scratch = h.scratch ∧ (f h a).size = h.size) (l : List α) (h : Share) :
    (l.foldl f h).scratch = h.scratch ∧ (l.foldl f h).size = h.size := by
  induction l generalizing h with
  | nil => exact ⟨rfl, rfl⟩
  | cons a l ih => exact ⟨(ih _).1.trans (hf h a).1, (ih _).2.trans (hf h a).2⟩

/-- A team starts with an empty scratchpad of its descriptor's size (R113). -/
theorem startShare_scratch (ds : List KDesc) : (startShare ds).scratch = [] ∧ (startShare ds).size = (ds.head?.map KDesc.scratch).getD 0 := by
  obtain ⟨h1, h2⟩ := foldl_keeps_scratch (f := Share.loadTile) (fun _ _ => ⟨rfl, rfl⟩) (ds.flatMap KDesc.tiles)
    ({ size := (ds.head?.map KDesc.scratch).getD 0 } : Share)
  obtain ⟨h3, h4⟩ := foldl_keeps_scratch (f := Share.loadPipe) (fun _ _ => ⟨rfl, rfl⟩) (ds.flatMap KDesc.pipes)
    ((ds.flatMap KDesc.tiles).foldl Share.loadTile { size := (ds.head?.map KDesc.scratch).getD 0 })
  exact ⟨h3.trans h1, h4.trans h2⟩

/-- A team as it is placed: for a launch, of a unit, with a share, as the team of an index on a core. -/
structure Team.Placed (T : Team) (l : Launch) (cl clCount u share ti core : Nat) (d : KDesc) : Prop where
  idx : T.idx = ti
  core : T.core = core
  desc : T.desc = d
  unit : T.unit = u
  share : T.share = share
  started : T.started = false
  karg : T.karg = l.karg
  clIdx : T.clIdx = cl
  clCount : T.clCount = clCount
  berths : T.berths = List.replicate d.berths {}

theorem State.placeTeam_eq (s : State) (lk : Nat) (l : Launch) (k : UKind) (cl clCount u share t ti core : Nat) (d : KDesc) :
    ∃ T gs, Team.Placed T l cl clCount u share ti core d ∧
      s.placeTeam lk l k cl clCount u share t ti core d = { s with teams := AMap.put s.teams t T, groups := gs } := by
  obtain ⟨gs, e⟩ := foldl_groups (fun (s' : State) (e : Nat × Nat) => ⟨AMap.put s'.groups e.1 (startGroup l t d e.2 (s.core core).cycles fun ln =>
    l.sptbase + BitVec.ofNat 64 ((spillSlot k d cl ti core (slotOf e.1) e.2 ln + 1) * l.stride)), rfl⟩)
    (s.freeSlots core d.groups).zipIdx { s with teams := AMap.put s.teams t _ }
  exact ⟨_, gs, ⟨rfl, rfl, rfl, rfl, rfl, rfl, rfl, rfl, rfl, rfl⟩, e⟩

/-- The teams of a unit take their places one after the other. -/
theorem State.placeTeams_eq (lk : Nat) (l : Launch) (k : UKind) (cl clCount u t : Nat) (ks : Nat → Nat) :
    ∀ (ps : List (KDesc × Nat)) (n : Nat) (s : State), ∃ ts gs,
      (ps.zipIdx n).foldl (fun (s : State) e => s.placeTeam lk l k cl clCount u (ks e.2) (t + e.2) e.2 e.1.2 e.1.1) s =
        { s with teams := ts, groups := gs } ∧
      (∀ a, a < t + n → AMap.get? ts a = AMap.get? s.teams a) ∧
      ∀ i (hi : i < ps.length), ∃ T, AMap.get? ts (t + (n + i)) = some T ∧ Team.Placed T l cl clCount u (ks (n + i)) (n + i) ps[i].2 ps[i].1
  | [], n, s => ⟨s.teams, s.groups, rfl, fun _ _ => rfl, fun i hi => absurd hi (Nat.not_lt_zero i)⟩
  | p :: ps, n, s => by
    obtain ⟨T, gs, hT, e⟩ := s.placeTeam_eq lk l k cl clCount u (ks n) (t + n) n p.2 p.1
    obtain ⟨ts, gs', e', before, at'⟩ := State.placeTeams_eq lk l k cl clCount u t ks ps (n + 1) { s with teams := AMap.put s.teams (t + n) T, groups := gs }
    refine ⟨ts, gs', ?_, fun a ha => by rw [before a (by omega), AMap.get?_put_ne _ _ (by omega)], fun i hi => ?_⟩
    · rw [List.zipIdx_cons, List.foldl_cons, e, e']
    · cases i with
      | zero => exact ⟨T, (before (t + n) (by omega)).trans (AMap.get?_put_self ..), hT⟩
      | succ i =>
        obtain ⟨T', h1, h2⟩ := at' i (by simpa using hi)
        rw [show n + (i + 1) = n + 1 + i by omega]
        exact ⟨T', h1, h2⟩

/-- The number of the share of the team at an index of a unit: the teams of a gang share one (R265). -/
def shareNo (k : UKind) (u i : Nat) : Nat := if k = .gang then u else u + i

theorem State.reload_eq (s : State) (ctx : Nat) : ∃ cs, s.reload ctx = { s with contexts := cs } := by
  unfold State.reload
  split
  · exact ⟨s.contexts, rfl⟩
  · split
    · exact ⟨s.contexts, rfl⟩
    · exact ⟨_, rfl⟩

/-- The shares of a unit, one for each team but for a gang's, which is one. -/
theorem State.placeShares_spec (s : State) (k : UKind) (u : Nat) (ps : List (KDesc × Nat)) :
    ∃ hs, (if k = .gang then { s with shares := AMap.put s.shares u (startShare (ps.map (·.1))) }
      else ps.zipIdx.foldl (fun (s : State) e => { s with shares := AMap.put s.shares (shareNo k u e.2) (startShare [e.1.1]) }) s) =
        { s with shares := hs } ∧
      (k ≠ .gang → ∀ i (hi : i < ps.length), AMap.get? hs (u + i) = some (startShare [ps[i].1])) := by
  by_cases hk : k = .gang
  · exact ⟨_, if_pos hk, fun h => absurd hk h⟩
  · have fold : ∀ (xs : List ((KDesc × Nat) × Nat)) (v : State),
        xs.foldl (fun (s : State) e => { s with shares := AMap.put s.shares (shareNo k u e.2) (startShare [e.1.1]) }) v =
          { v with shares := xs.foldl (fun m e => AMap.put m (u + e.2) (startShare [e.1.1])) v.shares } := by
      intro xs
      induction xs with
      | nil => exact fun v => rfl
      | cons x xs ih =>
        intro v
        simp only [List.foldl_cons, shareNo, if_neg hk] at ih ⊢
        rw [ih]
    refine ⟨_, (if_neg hk).trans (fold ps.zipIdx s), fun _ i hi => ?_⟩
    have := (get?_foldl_put (fun p : KDesc × Nat => startShare [p.1]) u ps 0 s.shares).2 i hi
    rwa [Nat.zero_add] at this

/-- A unit that takes its place: its teams, each on its core, their shares, and the launch's count. -/
theorem State.placeUnit_spec (s : State) (lk : Nat) (l : Launch) (k : UKind) (cl clCount : Nat) (ps : List (KDesc × Nat)) :
    ∃ t, s.placeUnit lk l k cl clCount ps = t ∧ t.mem = s.mem ∧ t.launches = AMap.upd s.launches lk (fun l => { l with placed := l.placed + 1 }) ∧
      (∀ i (hi : i < ps.length), ∃ T, t.team? (s.freshId + i) = some T ∧
        Team.Placed T l cl clCount s.freshId (shareNo k s.freshId i) i ps[i].2 ps[i].1) ∧
      (k ≠ .gang → ∀ i (hi : i < ps.length), AMap.get? t.shares (s.freshId + i) = some (startShare [ps[i].1])) := by
  obtain ⟨cs, hre⟩ := s.reload_eq l.ctx
  have hfresh : (s.reload l.ctx).freshId = s.freshId := by rw [hre]; rfl
  have hrest : (s.reload l.ctx).mem = s.mem ∧ (s.reload l.ctx).launches = s.launches := by rw [hre]; exact ⟨rfl, rfl⟩
  unfold State.placeUnit
  generalize s.reload l.ctx = r at hfresh hrest
  extract_lets r' u t ks s1 s2 s3 s4
  have hu : u = s.freshId := hfresh
  have ht : t = s.freshId := hfresh
  clear_value t u
  subst hu ht
  obtain ⟨hs, e2, hshare⟩ := s1.placeShares_spec k s.freshId ps
  obtain ⟨ts, gs, e3, -, hteams⟩ := State.placeTeams_eq lk l k cl clCount s.freshId s.freshId (shareNo k s.freshId) ps 0 s2
  have keeps : s3.KeepsMem s4 := s3.repartition_keeps _
  have h2 : s2 = { s1 with shares := hs } := e2
  have h3 : s3 = { s2 with teams := ts, groups := gs } := e3
  refine ⟨_, rfl, ?_, ?_, fun i hi => ?_, fun hk i hi => ?_⟩
  · exact keeps.mem.trans (by rw [h3, h2]; exact hrest.1)
  · have : s4.launches = s.launches := (launches_of_tables keeps.tables).trans (by rw [h3, h2]; exact hrest.2)
    rw [State.updLaunch_launches]
    exact congrArg (AMap.upd · lk _) this
  · obtain ⟨T, hT, hp⟩ := hteams i hi
    rw [Nat.zero_add] at hT hp
    refine ⟨T, (congrArg (AMap.get? · _) ((teams_of_tables keeps.tables).trans ?_)).trans hT, hp⟩
    rw [h3]
  · refine (congrArg (AMap.get? · _) ((shares_of_tables keeps.tables).trans ?_)).trans (hshare hk i hi)
    rw [h3, h2]

end Sys2Proof.Machine
end

section
namespace Sys2Proof.Machine

/-- R112: the next cluster of a grid takes its place. -/
theorem exec_clusterPlacement_grid {s : State} {k : Nat} {l : Launch} (hl : AMap.get? s.launches k = some l) (hs : l.started = true)
    (hp : l.placed < l.ncl) {d : KDesc} {cores : List Nat} (hk : l.kind = .grid) (hd : l.descs = [d]) (hne : cores ≠ [])
    (hlen : cores.length = d.clt) (hnd : cores.Nodup)
    (hfit : ∀ c ∈ cores, c / 4 = cores.headD 0 / 4 ∧ s.fitsOn c (d.need d.groups) = true) :
    exec (.clusterPlacement k cores) s = .next (s.placeUnit k l .cluster l.placed l.ncl (cores.map fun c => (d, c))) := by
  cases cores with
  | nil => exact absurd rfl hne
  | cons c cs =>
    have hall : ((c :: cs).all fun c' => tetradOf c' == tetradOf c && s.fitsOn c' (d.need d.groups)) = true := by
      refine List.all_eq_true.2 fun c' hc => ?_
      obtain ⟨h1, h2⟩ := hfit c' hc
      rw [h2, Bool.and_true, beq_iff_eq]
      exact h1
    rw [exec_clusterPlacement]
    simp only [execClusterPlacement, hl, hs, hk, hd, hlen, distinct_of_nodup hnd, hall, Nat.not_le.2 hp]
    simp [event]

/-- R265: the next gang takes its place. -/
theorem exec_clusterPlacement_gang {s : State} {k : Nat} {l : Launch} (hl : AMap.get? s.launches k = some l) (hs : l.started = true)
    (hp : l.placed < l.ncl) {c : Nat} (hk : l.kind = .gang) (hfit : s.fitsOn c (gangNeed l.descs) = true) :
    exec (.clusterPlacement k [c]) s = .next (s.placeUnit k l .gang l.placed l.ncl (l.descs.map fun d => (d, c))) := by
  rw [exec_clusterPlacement]
  simp only [execClusterPlacement, hl, hs, hk, hfit, Nat.not_le.2 hp]
  simp [event]

theorem State.team?_updTeam_self {s : State} {k : Nat} {T : Team} (h : s.team? k = some T) (f : Team → Team) :
    (s.updTeam k f).team? k = some (f T) := by
  refine (AMap.get?_upd s.teams k k f).trans ((if_pos rfl).trans ?_)
  exact congrArg (Option.map f) h

/-- R113: a team without a load list starts at once, after an acquire. -/
theorem State.beginTeam_of_no_tids {s : State} {k : Nat} {T : Team} (hT : s.team? k = some T) (htids : T.desc.tids = []) (hf : T.loadFail = none) :
    (s.beginTeam k).mem = s.mem ∧ (s.beginTeam k).team? k = some { T with started := true, extents := [] } := by
  have e : s.buildExtents k = s.updTeam k fun T => { T with extents := [] } := by simp [State.buildExtents, hT, htids]
  have hT' := State.team?_updTeam_self hT fun T => { T with extents := [] }
  simp only [State.beginTeam, e, hT', hf]
  exact ⟨rfl, (State.team?_updTeam_self (s := (s.updTeam k _).acquire T.core) hT' fun T => { T with started := true }).trans (by rw [hf])⟩

/-- An entry of a load list of a team waits for service. -/
def State.loadWaits (s : State) (k : Nat) : Bool :=
  s.faults.any fun q => q.any fun e => e.waiters.any fun w => match w with
    | .load t _ => t == k
    | _ => false

theorem State.loadWaits_eq_false {s : State} {k : Nat} (h : ∀ q ∈ s.faults, ∀ e ∈ q, ∀ t n, .load t n ∈ e.waiters → t ≠ k) : s.loadWaits k = false := by
  refine List.any_eq_false.2 fun q hq => ?_
  rw [Bool.not_eq_true, List.any_eq_false]
  intro e he
  rw [Bool.not_eq_true, List.any_eq_false]
  intro w hw
  cases w with
  | load t n => simpa using h q hq e he t n hw
  | _ => exact Bool.false_ne_true

theorem exec_teamStart_of_team {s : State} {k : Nat} {T : Team} (hT : s.team? k = some T) :
    exec (.teamStart k) s = event s (if T.started || s.loadWaits k then none
      else match s.runLoads k T.loads with
        | none => none
        | some (s, false) => some s
        | some (s, true) => some (s.beginTeam k)) := by
  rw [exec_teamStart]
  unfold execTeamStart
  rw [hT]
  rfl

theorem exec_teamStart_of_waiting {s : State} {k : Nat} {T : Team} (hT : s.team? k = some T) (hns : T.started = false)
    (hw : ∀ q ∈ s.faults, ∀ e ∈ q, ∀ t n, .load t n ∈ e.waiters → t ≠ k) {s' : State} (hr : s.runLoads k T.loads = some (s', true)) :
    exec (.teamStart k) s = .next (s'.beginTeam k) := by
  rw [exec_teamStart_of_team hT, hns, State.loadWaits_eq_false hw, hr]
  rfl

theorem exec_teamStart_of_no_loads {s : State} {k : Nat} {T : Team} (hT : s.team? k = some T) (hns : T.started = false)
    (hw : ∀ q ∈ s.faults, ∀ e ∈ q, ∀ t n, .load t n ∈ e.waiters → t ≠ k) (hl : T.loads = []) (htids : T.desc.tids = []) (hf : T.loadFail = none) :
    ∃ t : State, exec (.teamStart k) s = .next t ∧ t.mem = s.mem ∧ t.team? k = some { T with started := true, extents := [] } := by
  have hr : s.runLoads k T.loads = some (s.updTeam k fun T => { T with loads := [] }, true) := by rw [hl]; rfl
  have hT' := State.team?_updTeam_self hT fun T => { T with loads := [] }
  obtain ⟨hm, ht⟩ := State.beginTeam_of_no_tids hT' htids hf
  refine ⟨_, exec_teamStart_of_waiting hT hns hw hr, hm, ht.trans ?_⟩
  rw [← hl]

/-! ### Retirement (R109) -/

theorem State.flushRecs_of_none {s : State} {gs : List Nat} (ho : ∀ e ∈ s.recsOut, e.1 ∉ gs) (hq : ∀ r ∈ s.qreplies, ∀ w, r.req.who = some w → w.1 ∉ gs) :
    s.flushRecs gs = s := by
  have hmine : ∀ r ∈ s.qreplies, (match r.req.who with | some (g, _) => gs.contains g | none => false) = false := by
    intro r hr
    cases hw : r.req.who with
    | none => rfl
    | some w => simpa using hq r hr w hw
  have hout : ∀ e ∈ s.recsOut, gs.contains e.1 = false := fun e he => by simpa using ho e he
  unfold State.flushRecs
  extract_lets mine late out
  have hlate : late = [] := by
    simp only [late, List.map_eq_nil_iff, List.filter_eq_nil_iff]
    intro r hr
    have : mine r = false := hmine r hr
    simp [this]
  have hrecs : out = [] := by
    simp only [out, List.map_eq_nil_iff, List.filter_eq_nil_iff]
    intro e he
    simpa using ho e he
  have h1 : (s.qreplies.filter fun r => !mine r) = s.qreplies :=
    List.filter_eq_self.2 fun r hr => by have : mine r = false := hmine r hr; rw [this]; rfl
  have h2 : (s.recsOut.filter fun e => !gs.contains e.1) = s.recsOut :=
    List.filter_eq_self.2 fun e he => by rw [hout e he]; rfl
  rw [hlate, hrecs, h1, h2]
  rfl

theorem exec_teamRetire_of_over {s t : State} {k : Nat} {T : Team} (hT : s.team? k = some T) (ho : s.teamOver k T = true)
    (hw : s.waits (.launch (.team k)) = false) (hd : s.teamDone k false = some t) : exec (.teamRetire k) s = .next t := by
  rw [exec_teamRetire]
  simp only [execTeamRetire, hT, ho, hw, hd]
  rfl

/-- A team of a unit with another team that has not retired: its groups leave and nothing else of them changes. -/
theorem State.teamDone_spec {s : State} {k : Nat} {T : Team} (hT : s.team? k = some T) {v : CUnit} {j : Nat} {J : Team} (hev : T.desc.teamev = 0)
    (hv : AMap.get? s.units T.unit = some v) (hj : j ∈ v.teams) (hjk : j ≠ k) (hJ : s.team? j = some J) (hJr : J.retired = false)
    (ho : ∀ e ∈ s.recsOut, e.1 ∉ T.groups) (hq : ∀ r ∈ s.qreplies, ∀ w, r.req.who = some w → w.1 ∉ T.groups) :
    ∃ t : State, s.teamDone k false = some t ∧ t.mem = s.mem ∧ t.team? k = some { T with retired := true, slot := none } ∧
      t.groups = s.groups.filter fun e => !T.groups.contains e.1 := by
  have hwrite : s.launchWrite T.ctx T.desc.teamev (some T.pkr) true 1 (.team k) = some (s, true) := by rw [hev]; rfl
  simp only [State.teamDone, hT, hwrite, Bool.false_eq_true, if_false, State.flushRecs_of_none ho hq]
  generalize hz : ({ s with groups := _, arrays := _ } : State) = z
  have keeps := (z.updTeam k fun T => { T with retired := true, slot := none }).repartition_keeps [T.core]
  generalize State.repartition _ _ = r at keeps ⊢
  have hteams : r.teams = AMap.upd s.teams k fun T => { T with retired := true, slot := none } := by
    rw [teams_of_tables keeps.tables, ← hz]; rfl
  have hunits : AMap.get? r.units T.unit = some v := by
    rw [units_of_tables keeps.tables, ← hz]; exact hv
  have hjr : r.team? j = some J := by
    refine (congrArg (AMap.get? · j) hteams).trans ?_
    exact (AMap.get?_upd ..).trans ((if_neg hjk.symm).trans hJ)
  have hall : (v.teams.all fun t => match r.team? t with
      | some T => T.retired
      | none => true) = false := by
    rw [List.all_eq_false]
    exact ⟨j, hj, by rw [hjr]; simpa using hJr⟩
  refine ⟨r, ?_, ?_, ?_, ?_⟩
  · simp only [hunits]
    exact if_neg (by rw [Bool.not_eq_true]; exact hall)
  · rw [keeps.mem, ← hz]; rfl
  · refine (congrArg (AMap.get? · k) hteams).trans ?_
    rw [AMap.get?_upd, if_pos rfl]
    exact congrArg (Option.map _) hT
  · rw [keeps.groups, ← hz]; rfl

/-! ### Bins (R274 to R276) -/

theorem State.launches_updLaunch_self {s : State} {k : Nat} {l : Launch} (h : AMap.get? s.launches k = some l) (f : Launch → Launch) :
    AMap.get? (s.updLaunch k f).launches k = some (f l) := by
  rw [State.updLaunch_launches, AMap.get?_upd, if_pos rfl, h]; rfl

/-- R274: the first seed of a node whose bin has room enters it. -/
theorem exec_seedEntry_of_first {s : State} {k node j : Nat} {l : Launch} {e : Nat × List Byte} (hl : AMap.get? s.launches k = some l)
    (hk : l.kind = .graph) (hs : l.started = true) (he : (l.seeds.getD node [])[j]? = some e)
    (hfirst : ∀ i f, i < j → (l.seeds.getD node [])[i]? = some f →
      2 * (l.descs.getD node {}).ncount ≤ (l.bins.getD (4 * node + f.1 % 4) {}).recs.length)
    (hroom : (l.bins.getD (4 * node + e.1 % 4) {}).recs.length < 2 * (l.descs.getD node {}).ncount) :
    exec (.seedEntry k node) s = .next ((s.updLaunch k fun l' => { l' with seeds := l'.seeds.set node (dropAt (l.seeds.getD node []) j) }).setBin k
      (4 * node + e.1 % 4) ((l.bins.getD (4 * node + e.1 % 4) {}).push e.2)) := by
  have hfind : (l.seeds.getD node []).findIdx? (fun e => decide ((l.bin (binIx node (e.1 % 4))).recs.length < 2 * (l.descs.getD node {}).ncount)) = some j := by
    obtain ⟨hj, hje⟩ := List.getElem?_eq_some_iff.1 he
    refine List.findIdx?_eq_some_iff_getElem.2 ⟨hj, by rw [hje]; exact decide_eq_true hroom, fun i hi => ?_⟩
    have := hfirst i _ hi (List.getElem?_eq_getElem (hi.trans hj))
    simpa [Launch.bin, binIx] using this
  rw [exec_seedEntry]
  simp only [execSeedEntry, hl, hfind, he, hk, hs]
  simp [event, Launch.bin, binIx]

theorem seedEntry_spec {s : State} {k node j : Nat} {l : Launch} {e : Nat × List Byte} (hl : AMap.get? s.launches k = some l)
    (hk : l.kind = .graph) (hs : l.started = true) (he : (l.seeds.getD node [])[j]? = some e)
    (hfirst : ∀ i f, i < j → (l.seeds.getD node [])[i]? = some f →
      2 * (l.descs.getD node {}).ncount ≤ (l.bins.getD (4 * node + f.1 % 4) {}).recs.length)
    (hroom : (l.bins.getD (4 * node + e.1 % 4) {}).recs.length < 2 * (l.descs.getD node {}).ncount) :
    ∃ t : State, exec (.seedEntry k node) s = .next t ∧ t.mem = s.mem ∧ AMap.get? t.launches k =
      some { l with seeds := l.seeds.set node ((l.seeds.getD node []).eraseIdx j),
                    bins := l.bins.set (4 * node + e.1 % 4) ((l.bins.getD (4 * node + e.1 % 4) {}).push e.2) } := by
  refine ⟨_, exec_seedEntry_of_first hl hk hs he hfirst hroom, rfl, ?_⟩
  refine (State.launches_updLaunch_self (State.launches_updLaunch_self hl _) _).trans ?_
  rw [List.eraseIdx_eq_take_drop_succ]
  rfl

/-- R275: a bin's timer passes. -/
theorem binTimerExpiry_spec {s : State} {k die node : Nat} {l : Launch} (hl : AMap.get? s.launches k = some l) (hk : l.kind = .graph) (hd : die < 4)
    (ht : (l.bins.getD (4 * node + die) {}).timer = true) (hr : (l.bins.getD (4 * node + die) {}).recs ≠ []) :
    ∃ t : State, exec (.binTimerExpiry k die node) s = .next t ∧ t.mem = s.mem ∧ AMap.get? t.launches k =
      some { l with bins := l.bins.set (4 * node + die) { (l.bins.getD (4 * node + die) {}) with timer := false, expired := true } } := by
  have hne : (l.bins.getD (4 * node + die) {}).recs.isEmpty = false := by simpa using hr
  refine ⟨s.awake.setBin k (4 * node + die) { (l.bins.getD (4 * node + die) {}) with timer := false, expired := true }, ?_, rfl, ?_⟩
  · rw [exec_binTimerExpiry]
    simp only [execBinTimerExpiry, hl, hk, Launch.bin, binIx, ht, hne, hd, decide_true]
    simp [event]
  · exact State.launches_updLaunch_self (s := s.awake) hl _

/-- R275, R276: a group of the node takes the oldest records behind a header. -/
theorem exec_binCountTrigger_of_triggered {s p : State} {k die node core : Nat} {l : Launch} {d : KDesc} (hl : AMap.get? s.launches k = some l)
    (hk : l.kind = .graph) (hs : l.started = true) (hdie : die < 4) (hd : l.descs[node]? = some d) (hc : core / 96 = die)
    (hfit : s.fitsOn core (d.need d.groups) = true) {b : Bin} (hb : l.bins.getD (4 * node + die) {} = b) (hw : b.waiters = [])
    (htr : b.triggered d = true) (hp : s.placeUnit k l .node 0 1 [(d, core)] = p) :
    exec (.binCountTrigger k die node core) s = .next ((p.setBin k (4 * node + die)
      { b with recs := b.recs.drop d.ncount, timer := b.recs.drop d.ncount != [], expired := false }).updShare s.freshId fun sh =>
        sh.setBytes 0 (leBytes 4 (b.recs.take d.ncount).length ++ leBytes 4 (node + die * 2 ^ 16) ++ (b.recs.take d.ncount).flatten)) := by
  have hne : ∀ xs : List (List Byte), (!xs.isEmpty) = (xs != []) := fun xs => by cases xs <;> rfl
  rw [exec_binCountTrigger]
  simp only [execBinCountTrigger, hl, hd, hk, hs, Launch.bin, binIx, hb, htr, hfit, hp, hw, hne, dieOf, hc]
  rw [if_neg (by simpa using hdie)]
  rfl

theorem binCountTrigger_spec {s : State} {k die node core : Nat} {l : Launch} {d : KDesc} (hl : AMap.get? s.launches k = some l)
    (hk : l.kind = .graph) (hs : l.started = true) (hdie : die < 4) (hd : l.descs[node]? = some d) (hc : core / 96 = die)
    (hfit : s.fitsOn core (d.need d.groups) = true) {b : Bin} (hb : l.bins.getD (4 * node + die) {} = b) (hw : b.waiters = [])
    (htr : b.triggered d = true) :
    ∃ (t : State) (u : Nat), exec (.binCountTrigger k die node core) s = .next t ∧ t.mem = s.mem ∧
      AMap.get? t.launches k = some { l with placed := l.placed + 1, bins := l.bins.set (4 * node + die) { b with recs := b.recs.drop d.ncount, timer := b.recs.drop d.ncount != [], expired := false } } ∧
      (∃ T : Team, t.team? u = some T ∧ T.core = core ∧ T.desc = d) ∧
      ∀ j, j < (b.recs.take d.ncount).flatten.length → AMap.getD (t.share u).scratch (8 + j) 0 = (b.recs.take d.ncount).flatten.getD j 0 := by
  obtain ⟨p, hp, hmem, hlaunch, hteams, hshares⟩ := s.placeUnit_spec k l .node 0 1 [(d, core)]
  obtain ⟨T, hT, hplaced⟩ := hteams 0 Nat.zero_lt_one
  have hshare : AMap.get? p.shares s.freshId = some (startShare [d]) := hshares (by decide) 0 Nat.zero_lt_one
  have hl' : AMap.get? p.launches k = some { l with placed := l.placed + 1 } := by
    rw [hlaunch, AMap.get?_upd, if_pos rfl, hl]; rfl
  refine ⟨_, s.freshId, exec_binCountTrigger_of_triggered hl hk hs hdie hd hc hfit hb hw htr hp, hmem, State.launches_updLaunch_self hl' _,
    ⟨T, hT, hplaced.core, hplaced.desc⟩, fun j hj => ?_⟩
  have header : (leBytes 4 (b.recs.take d.ncount).length ++ leBytes 4 (node + die * 2 ^ 16)).length = 8 := by simp [leBytes_length]
  generalize leBytes 4 (b.recs.take d.ncount).length ++ leBytes 4 (node + die * 2 ^ 16) = head at header ⊢
  generalize (b.recs.take d.ncount).flatten = bs at hj ⊢
  have hpos : 8 + j < (head ++ bs).length := by rw [List.length_append, header]; omega
  have hset : AMap.get? (AMap.upd p.shares s.freshId fun sh => sh.setBytes 0 (head ++ bs)) s.freshId = some ((startShare [d]).setBytes 0 (head ++ bs)) := by
    rw [AMap.get?_upd, if_pos rfl, hshare]; rfl
  have hget := Share.setBytes_scratch (startShare [d]) 0 (head ++ bs) (8 + j) hpos
  rw [Nat.zero_add, List.getElem_append_right (by omega)] at hget
  have hsh : ((p.setBin k (4 * node + die) { b with recs := b.recs.drop d.ncount, timer := b.recs.drop d.ncount != [], expired := false }).updShare s.freshId
      fun sh => sh.setBytes 0 (head ++ bs)).share s.freshId = (startShare [d]).setBytes 0 (head ++ bs) := congrArg (fun o : Option Share => o.getD {}) hset
  rw [hsh, hget, List.getD_eq_getElem _ _ hj]
  congr 1
  omega

theorem exec_binCountTrigger_of_not_triggered {s : State} {k die node core : Nat} {l : Launch} {d : KDesc} (hl : AMap.get? s.launches k = some l)
    (hd : l.descs[node]? = some d) (htr : (l.bins.getD (4 * node + die) {}).triggered d = false) :
    exec (.binCountTrigger k die node core) s = .next s.passOver := by
  rw [exec_binCountTrigger]
  simp only [execBinCountTrigger, hl, hd, Launch.bin, binIx, htr]
  simp [event]

theorem Bin.triggered_iff (b : Bin) (d : KDesc) : b.triggered d = true ↔ d.ncount ≤ b.recs.length ∨ b.expired = true ∧ b.recs ≠ [] := by
  simp [Bin.triggered]

/-- Settles O44: each clause is the branch of its event; a unit's teams and shares are those of `State.placeUnit_spec`. -/
theorem placementBinsAndStart : Obligations.PlacementBinsAndStart := by
  refine ⟨⟨fun s k l hl hs hp => ⟨?grid, ?gang⟩, fun s k T hT hns hw => ⟨?load, ?start⟩, fun s k T hT ho hw => ⟨?done, ?kept⟩⟩,
    fun s k node l hl hk => ⟨?seed, fun die hdie => ⟨?timer, fun d core hs hd hc hfit _ hbw => ⟨?trigger, ?idle⟩⟩⟩⟩
  case grid =>
    intro d cores hk hd hne hlen hnd hfit
    obtain ⟨t, ht, hmem, hlaunch, hteams, hshares⟩ := s.placeUnit_spec k l .cluster l.placed l.ncl (cores.map fun c => (d, c))
    refine ⟨t, s.freshId, ht ▸ exec_clusterPlacement_grid hl hs hp hk hd hne hlen hnd hfit, hmem, ?_, fun i hi => ?_⟩
    · rw [hlaunch, AMap.get?_upd, if_pos rfl, hl]; rfl
    · have hi' : i < (cores.map fun c => (d, c)).length := by rwa [List.length_map]
      obtain ⟨T, hT, hpl⟩ := hteams i hi'
      have hget : (cores.map fun c => (d, c))[i] = (d, cores[i]) := List.getElem_map ..
      rw [hget] at hpl
      have hshare : t.share T.share = startShare [d] := by
        rw [hpl.share, State.share, AMap.getD]
        refine (congrArg (fun o : Option Share => o.getD {}) (hshares (by decide) i hi')).trans ?_
        rw [hget]; rfl
      obtain ⟨hscratch, hsize⟩ := startShare_scratch [d]
      rw [← hshare] at hscratch hsize
      exact ⟨T, hT, hpl.idx, hpl.core.trans (List.getD_eq_getElem _ _ hi).symm, hpl.desc, hpl.unit, hpl.started, hpl.karg, hpl.clIdx, hpl.clCount, hpl.berths,
        hscratch, hsize⟩
  case gang =>
    intro c hk hfit
    obtain ⟨t, ht, hmem, hlaunch, hteams, -⟩ := s.placeUnit_spec k l .gang l.placed l.ncl (l.descs.map fun d => (d, c))
    refine ⟨t, s.freshId, ht ▸ exec_clusterPlacement_gang hl hs hp hk hfit, hmem, ?_, fun i hi => ?_⟩
    · rw [hlaunch, AMap.get?_upd, if_pos rfl, hl]; rfl
    · obtain ⟨T, hT, hpl⟩ := hteams i (by rwa [List.length_map])
      rw [List.getElem_map] at hpl
      exact ⟨T, hT, hpl.idx, hpl.core, hpl.desc.trans (List.getD_eq_getElem _ _ hi).symm, hpl.share⟩
  case load => exact fun s' hr => exec_teamStart_of_waiting hT hns hw hr
  case start => exact fun hloads htids hf => exec_teamStart_of_no_loads hT hns hw hloads htids hf
  case done => exact fun t hd => exec_teamRetire_of_over hT ho hw hd
  case kept =>
    intro v j J hev hv hj hjk hJ hJr hro hrq
    obtain ⟨t, hd, hmem, hteam, hgroups⟩ := State.teamDone_spec hT hev hv hj hjk hJ hJr hro hrq
    have hget : ∀ g, t.group? g = if !T.groups.contains g then s.group? g else none := fun g =>
      (congrArg (AMap.get? · g) hgroups).trans (AMap.get?_filter s.groups (fun g => !T.groups.contains g) g)
    refine ⟨t, exec_teamRetire_of_over hT ho hw hd, hmem, hteam, fun g hg => ?_, fun g hg => ?_⟩
    · rw [hget, if_neg (by simpa using hg)]
    · rw [hget, if_pos (by simpa using hg)]
  case seed => exact fun j e hs _ he hfirst hroom => seedEntry_spec hl hk hs he hfirst hroom
  case timer => exact fun ht hr => binTimerExpiry_spec hl hk hdie ht hr
  case trigger => exact fun htr => binCountTrigger_spec hl hk hs hdie hd hc hfit rfl hbw ((Bin.triggered_iff ..).2 htr)
  case idle =>
    intro htr
    exact exec_binCountTrigger_of_not_triggered hl hd (Bool.eq_false_iff.2 fun h => htr ((Bin.triggered_iff ..).1 h))

end Sys2Proof.Machine
end

section
/-! SUPPORT. User queues, their packets and watches (R102 to R105, R108, R264, R273, R280). -/

namespace Sys2Proof.Machine

theorem exec_notify (q : Nat) (v : DWord) (s : State) : exec (.notify q v) s = execNotify q v s := rfl
theorem exec_packetRead (q : Nat) (s : State) : exec (.packetRead q) s = execPacketRead q s := rfl
theorem exec_grid (i : Nat) (s : State) : exec (.grid i) s = execGrid i s := rfl
theorem exec_gang (i : Nat) (s : State) : exec (.gang i) s = execGang i s := rfl
theorem exec_graph (i : Nat) (s : State) : exec (.graph i) s = execGraph i s := rfl
theorem exec_depend (i : Nat) (s : State) : exec (.depend i) s = execDepend i s := rfl
theorem exec_barrierAnd (i : Nat) (s : State) : exec (.barrierAnd i) s = execBarrierAnd i s := rfl
theorem exec_dependConditionHolds (i : Nat) (s : State) : exec (.dependConditionHolds i) s = execDependConditionHolds i s := rfl
theorem exec_launchListStart (die : Nat) (s : State) : exec (.launchListStart die) s = execLaunchListStart die s := rfl

/-! ### The descriptor of a queue (R102) -/

/-- The device's fields of a queue's descriptor, from offset 0x10. -/
def UQueue.deviceFields (u : UQueue) : List Byte := leBytes 8 u.rdidx ++ leBytes 8 u.wridx ++ leBytes 4 (u.st + 16 * u.code)

theorem UQueue.deviceFields_length (u : UQueue) : u.deviceFields.length = 20 := by simp [UQueue.deviceFields, leBytes_length]

theorem UQueue.deviceFields_wridx (u : UQueue) {i : Nat} (hi : i < 8) : u.deviceFields.getD (8 + i) 0 = (leBytes 8 u.wridx).getD i 0 := by
  have h8 : ∀ n, (leBytes 8 n).length = 8 := leBytes_length 8
  rw [UQueue.deviceFields, List.append_assoc, List.getD_append_right _ _ _ _ (by rw [h8]; omega), h8, Nat.add_sub_cancel_left,
    List.getD_append _ _ _ _ (by rw [h8]; exact hi)]

theorem State.writeQueue_eq (s : State) (q : Nat) (u : UQueue) :
    s.writeQueue q u = ({ s with queues := AMap.put s.queues q u } : State).devWrite (span (u.desc + 0x10) u.deviceFields) := rfl

theorem State.writeQueue_tables (s : State) (q : Nat) (u : UQueue) :
    (s.writeQueue q u).tables = ({ s with queues := AMap.put s.queues q u } : State).tables := State.devWrite_tables ..

theorem State.writeQueue_queue (s : State) (q : Nat) (u : UQueue) : AMap.get? (s.writeQueue q u).queues q = some u := by
  rw [queues_of_tables (s.writeQueue_tables q u)]
  exact AMap.get?_put_self ..

theorem State.writeQueue_launches (s : State) (q : Nat) (u : UQueue) : (s.writeQueue q u).launches = s.launches :=
  (launches_of_tables (s.writeQueue_tables q u)).trans rfl

theorem State.writeQueue_seq (s : State) (q : Nat) (u : UQueue) : (s.writeQueue q u).seq = s.seq := (seq_of_tables (s.writeQueue_tables q u)).trans rfl

/-- A write of the device's fields leaves every other byte alone. -/
theorem State.writeQueue_byte_of_ne (s : State) (q : Nat) (u : UQueue) {pa : Nat} (h : ∀ i, i < 20 → pa ≠ homeOf (u.desc + 0x10 + i)) :
    (s.writeQueue q u).byte pa = s.byte pa := by
  rw [State.writeQueue_eq, State.devWrite_byte_of_not_mem _ (not_mem_span fun i hi => h i (u.deviceFields_length ▸ hi))]
  rfl

/-- A queue's write index stands in its descriptor. -/
theorem State.writeQueue_wridx {s : State} {q : Nat} {u : UQueue} (hw : s.waveHolds ((List.range 20).map (u.desc + 0x10 + ·)) = false) (hlt : u.wridx < 2 ^ 64) :
    leNat ((List.range 8).map fun i => (s.writeQueue q u).byte (homeOf (u.desc + 0x18 + i))) = u.wridx := by
  have hlen := u.deviceFields_length
  have hspan : ({ s with queues := AMap.put s.queues q u } : State).waveHolds ((span (u.desc + 0x10) u.deviceFields).map (·.1)) = false := by
    rw [span_fst, hlen]; exact hw
  have hbytes : ((List.range 8).map fun i => (s.writeQueue q u).byte (homeOf (u.desc + 0x18 + i))) = leBytes 8 u.wridx := by
    refine List.ext_getElem (by simp [leBytes_length]) fun i h1 h2 => ?_
    have hi : i < 8 := by rwa [leBytes_length] at h2
    have hpos : 8 + i < u.deviceFields.length := by omega
    rw [List.getElem_map, List.getElem_range, State.writeQueue_eq, State.devWrite_eq hspan,
      show u.desc + 0x18 + i = u.desc + 0x10 + (8 + i) by omega, State.homeWrite_span_byte _ _ _ (by omega) hpos,
      ← List.getD_eq_getElem _ 0 hpos, u.deviceFields_wridx hi, List.getD_eq_getElem _ _ h2]
  rw [hbytes, leNat_leBytes]
  exact Nat.mod_eq_of_lt hlt

/-- A queue that enters ERROR (R105). -/
theorem State.queueError_spec (s : State) (q : Nat) (u : UQueue) (e : PktErr) :
    AMap.get? (s.queueError q u e).queues q = some { u with st := 1, code := e.code } ∧ (s.queueError q u e).launches = s.launches := by
  have hq := s.writeQueue_queue q { u with st := 1, code := e.code }
  have hl := s.writeQueue_launches q { u with st := 1, code := e.code }
  simp only [State.queueError]
  split
  · exact ⟨hq, hl⟩
  · exact ⟨hq, hl⟩

/-! ### NOTIFY (R102) -/

theorem exec_notify_of_queue {s : State} {q : Nat} {u : UQueue} (hq : q < 4096) (hu : AMap.get? s.queues q = some u) (v : DWord) :
    exec (.notify q v) s = event s (if v.toNat ≤ u.wridx then some s.awake
      else if v.toNat > u.rdidx + 2 ^ u.log2n then (if u.st = 0 then some (s.awake.queueError q u .overflow) else some s.awake)
      else some (s.awake.writeQueue q { u with wridx := v.toNat })) := by
  have hu' : AMap.get? s.awake.queues q = some u := hu
  rw [exec_notify]
  simp only [execNotify, hu', if_neg (Nat.not_le.2 hq)]

theorem notify_spec {s : State} {q : Nat} {u : UQueue} (hq : q < 4096) (hu : AMap.get? s.queues q = some u) {v : DWord}
    (hlo : u.wridx < v.toNat) (hhi : v.toNat ≤ u.rdidx + 2 ^ u.log2n) : ∃ t : State, exec (.notify q v) s = .next t ∧
      AMap.get? t.queues q = some { u with wridx := v.toNat } ∧ t.dev.power = 0 ∧
      (s.waveHolds ((List.range 20).map (u.desc + 0x10 + ·)) = false →
        leNat ((List.range 8).map fun i => t.byte (homeOf (u.desc + 0x18 + i))) = v.toNat ∧
        ∀ pa, (∀ i, i < 20 → pa ≠ homeOf (u.desc + 0x10 + i)) → t.byte pa = s.byte pa) := by
  refine ⟨s.awake.writeQueue q { u with wridx := v.toNat }, ?_, State.writeQueue_queue .., ?_, fun hw => ⟨?_, fun pa hpa => ?_⟩⟩
  · rw [exec_notify_of_queue hq hu, if_neg (Nat.not_le.2 hlo), if_neg (Nat.not_lt.2 hhi)]
    rfl
  · exact (power_of_settings (State.settings_devWrite ..)).trans rfl
  · exact State.writeQueue_wridx (s := s.awake) (u := { u with wridx := v.toNat }) hw v.isLt
  · exact State.writeQueue_byte_of_ne s.awake q { u with wridx := v.toNat } hpa

/-! ### PACKET_READ (R103 to R105) -/

/-- PACKET_READ of a queue. -/
def State.readPacket (s : State) (q : Nat) (u : UQueue) : Option State :=
  if !s.readable u || (s.startable q u && !s.queueTurn q) then none
  else if (s.poisonIn u.slot 64).isSome then some (s.queueError q u .badAddr)
  else match s.packetOf u.ctx (s.bytes u.slot 64) with
    | (s, .error e) => some (s.queueError q u e)
    | (s, .ok l) =>
      let s := s.devWrite [(u.slot, 0)]
      let s := s.writeQueue q { u with rdidx := u.rdidx + 1 }
      some { s with launches := AMap.put s.launches s.freshId { l with queue := some q, num := u.rdidx }, seq := s.seq + 16 }

theorem exec_packetRead_of_queue {s : State} {q : Nat} {u : UQueue} (hu : AMap.get? s.queues q = some u) :
    exec (.packetRead q) s = event s (s.readPacket q u) := by
  rw [exec_packetRead]
  unfold execPacketRead
  rw [hu]
  rfl

/-- It is a queue's turn just when no other startable queue of its launch processor has been served less recently (R103). -/
theorem State.queueTurn_iff {s : State} {q : Nat} {u : UQueue} (hu : AMap.get? s.queues q = some u) :
    s.queueTurn q = true ↔ ∀ e ∈ s.queues, e.1 ≠ q → e.2.served < u.served → s.startable e.1 e.2 = true →
      Config.launchDie e.1 ≠ Config.launchDie q := by
  simp [State.queueTurn, hu]

theorem State.readable_iff (s : State) (u : UQueue) : s.readable u = true ↔
    u.st = 0 ∧ u.rdidx < u.wridx ∧ u.dying = false ∧ s.alive u.ctx = true ∧ s.waveHolds [u.slot] = false ∧
      ((s.poisonIn u.slot 64).isSome = true ∨ pktType (s.bytes u.slot 64) ≠ 0) := by
  simp [State.readable, and_assoc]

/-- The guard of PACKET_READ. -/
theorem packetRead_guard {s : State} {q : Nat} {u : UQueue} (hu : AMap.get? s.queues q = some u) (hr : s.readable u = true) :
    (!s.readable u || (s.startable q u && !s.queueTurn q)) = true ↔
      ¬ (s.startable q u = true → ∀ e ∈ s.queues, e.1 ≠ q → e.2.served < u.served → s.startable e.1 e.2 = true →
        Config.launchDie e.1 ≠ Config.launchDie q) := by
  rw [← s.queueTurn_iff hu, hr]
  cases s.startable q u <;> simp

/-- What is left of an accepted packet: the launch, the queue and the freed slot. -/
def State.accepted (s : State) (q : Nat) (u : UQueue) (l : Launch) : State :=
  let r := (s.devWrite [(u.slot, 0)]).writeQueue q { u with rdidx := u.rdidx + 1 }
  { r with launches := AMap.put r.launches r.freshId { l with queue := some q, num := u.rdidx }, seq := r.seq + 16 }

theorem State.accepted_launch (s : State) (q : Nat) (u : UQueue) (l : Launch) :
    AMap.get? (s.accepted q u l).launches s.freshId = some { l with queue := some q, num := u.rdidx } := by
  have hseq : ((s.devWrite [(u.slot, 0)]).writeQueue q { u with rdidx := u.rdidx + 1 }).freshId = s.freshId := by
    rw [State.freshId, State.writeQueue_seq, seq_of_tables (s.devWrite_tables _)]; rfl
  unfold State.accepted
  extract_lets r
  change AMap.get? (AMap.put r.launches r.freshId _) _ = _
  rw [hseq]
  exact AMap.get?_put_self ..

theorem State.accepted_queue (s : State) (q : Nat) (u : UQueue) (l : Launch) :
    AMap.get? (s.accepted q u l).queues q = some { u with rdidx := u.rdidx + 1 } := State.writeQueue_queue ..

theorem State.accepted_slot {s : State} {q : Nat} {u : UQueue} {l : Launch} (hd : ∀ i, i < 20 → homeOf u.slot ≠ homeOf (u.desc + 0x10 + i))
    (hw : s.waveHolds [u.slot] = false) : (s.accepted q u l).byte (homeOf u.slot) = 0 := by
  have h1 : (s.accepted q u l).byte (homeOf u.slot) = ((s.devWrite [(u.slot, 0)]).writeQueue q { u with rdidx := u.rdidx + 1 }).byte (homeOf u.slot) := rfl
  rw [h1, State.writeQueue_byte_of_ne _ q { u with rdidx := u.rdidx + 1 } hd, State.devWrite_eq hw]
  exact State.homeWrite_span_byte s none [] (pa := u.slot) (i := 0) (bs := [0]) (by norm_num) Nat.one_pos

/-- PACKET_READ of a queue that has a packet to read and, if it may start, its turn. -/
theorem packetRead_spec {s : State} {q : Nat} {u : UQueue} (hu : AMap.get? s.queues q = some u) (hst : u.st = 0) (hlt : u.rdidx < u.wridx)
    (hdy : u.dying = false) (hal : s.alive u.ctx = true) (hw : s.waveHolds [u.slot] = false) (hp : (s.poisonIn u.slot 64).isSome = true ∨ pktType (s.bytes u.slot 64) ≠ 0)
    (hturn : s.startable q u = true → ∀ e ∈ s.queues, e.1 ≠ q → e.2.served < u.served → s.startable e.1 e.2 = true →
      Config.launchDie e.1 ≠ Config.launchDie q) :
    exec (.packetRead q) s = event s (if (s.poisonIn u.slot 64).isSome then some (s.queueError q u .badAddr)
      else match s.packetOf u.ctx (s.bytes u.slot 64) with
        | (s, .error e) => some (s.queueError q u e)
        | (s, .ok l) => some (s.accepted q u l)) := by
  have hr := (s.readable_iff u).2 ⟨hst, hlt, hdy, hal, hw, hp⟩
  rw [exec_packetRead_of_queue hu, State.readPacket, if_neg (fun h => (packetRead_guard hu hr).1 h hturn)]
  rfl

theorem packetRead_of_held_back {s : State} {q : Nat} {u : UQueue} (hu : AMap.get? s.queues q = some u)
    (h : ¬ (s.startable q u = true → ∀ e ∈ s.queues, e.1 ≠ q → e.2.served < u.served → s.startable e.1 e.2 = true →
      Config.launchDie e.1 ≠ Config.launchDie q)) : exec (.packetRead q) s = .next s.passOver := by
  have hg : (!s.readable u || (s.startable q u && !s.queueTurn q)) = true := by
    cases hr : s.readable u
    · rfl
    · have := (packetRead_guard hu hr).2 h
      rwa [hr] at this
  rw [exec_packetRead_of_queue hu, State.readPacket, if_pos hg]
  rfl

theorem packetRead_of_not_readable {s : State} {q : Nat} {u : UQueue} (hu : AMap.get? s.queues q = some u) (h : u.st ≠ 0 ∨ u.wridx ≤ u.rdidx) :
    exec (.packetRead q) s = .next s.passOver := by
  have hr : s.readable u = false := Bool.eq_false_iff.2 fun hr => by
    obtain ⟨hst, hlt, -⟩ := (s.readable_iff u).1 hr
    omega
  rw [exec_packetRead_of_queue hu, State.readPacket, if_pos (by rw [hr]; rfl)]
  rfl

/-- R274: a graph whose bins do not fit is no startable work. -/
theorem State.startable_of_no_room {s : State} {q : Nat} {u : UQueue} {e : Nat × Launch} {es : List (Nat × Launch)}
    (he : (s.launchesOf q).filter (fun e => !e.2.started) = e :: es) (hk : (s.reread e.2).2.kind = .graph)
    (hb : binRoom < s.binsTaken + ((s.reread e.2).2.descs.map binBytes).sum) : s.startable q u = false := by
  have hfit : s.binsFit (s.reread e.2).2 = false := by simp [State.binsFit, hk, hb]
  simp only [State.startable, he, hfit, Bool.and_false]

/-! ### The start of packets (R103, R104, R108) -/

/-- A packet that has started, read again: its queue has been served. -/
def State.startedAs (s : State) (i : Nat) (l : Launch) : State :=
  { s with
    queues := match l.queue with
      | some q => AMap.upd s.queues q fun u => { u with served := s.seq }
      | none => s.queues
    launches := AMap.put s.launches i { l with started := true } }

/-- The queue's service and the start one after the other. -/
theorem State.startedAs_eq (s : State) (i : Nat) (l : Launch) : s.startedAs i l =
    let t := match l.queue with
      | some q => { s with queues := AMap.upd s.queues q fun u => { u with served := s.seq } }
      | none => s
    { t with launches := AMap.put t.launches i { l with started := true } } := by
  unfold State.startedAs
  cases l.queue <;> rfl

theorem State.startedAs_launch (s : State) (i : Nat) (l : Launch) : AMap.get? (s.startedAs i l).launches i = some { l with started := true } :=
  AMap.get?_put_self ..

/-- Nothing holds a packet that has been read back: it is its queue's turn, and the packets before it let it start. -/
def State.mayStart (s : State) (l : Launch) : Bool :=
  match l.queue with
  | some q => s.queueLets q l.num l.bar && s.queueTurn q
  | none => true

theorem startPacket_of_launch {s : State} {i : Nat} {l : Launch} (hl : AMap.get? s.launches i = some l) (k : LKind) :
    startPacket k i s = if l.kind != k || l.started || !s.mayStart l then none
      else some ((s.bump.reread l).1.startedAs i (s.bump.reread l).2) := by
  unfold startPacket
  rw [hl]
  rw [State.startedAs_eq]
  rfl

theorem startPacket_of_turn {s s' : State} {i : Nat} {l l' : Launch} (hl : AMap.get? s.launches i = some l) (hns : l.started = false)
    (hq : ∀ q, l.queue = some q → s.queueLets q l.num l.bar = true ∧ s.queueTurn q = true) (hr : s.bump.reread l = (s', l')) :
    startPacket l.kind i s = some (s'.startedAs i l') := by
  have hok : s.mayStart l = true := by
    unfold State.mayStart
    split
    next q hlq =>
      obtain ⟨h1, h2⟩ := hq q hlq
      rw [h1, h2]; rfl
    · rfl
  rw [startPacket_of_launch hl, hns, hok, hr, if_neg (by simp)]

theorem startPacket_of_held_back {s : State} {i q : Nat} {l : Launch} (hl : AMap.get? s.launches i = some l) (hq : l.queue = some q)
    (hh : s.queueLets q l.num l.bar = false) (k : LKind) : startPacket k i s = none := by
  have hok : s.mayStart l = false := by simp only [State.mayStart, hq, hh, Bool.false_and]
  rw [startPacket_of_launch hl, hok, if_pos (by simp)]

/-- A read of a packet that still passes its check. -/
theorem State.reread_of_ok {s s' : State} {l l' : Launch} (h : s.packetOf l.ctx l.packet = (s', .ok l')) :
    s.reread l = (s', { l' with queue := l.queue, num := l.num }) := by simp only [State.reread, h]

theorem State.reread_of_error {s s' : State} {l : Launch} {e : PktErr} (h : s.packetOf l.ctx l.packet = (s', .error e)) : s.reread l = (s, l) := by
  simp only [State.reread, h]

theorem State.launchCheck_graph {s : State} {i : Nat} {l : Launch} (hl : AMap.get? s.launches i = some l) (hk : l.kind = .graph) :
    s.launchCheck i = if s.graphIdle i l then s.launchDone i false else some s := by
  simp only [State.launchCheck, hl, hk]

/-- A graph with seeds has something left to do. -/
theorem State.graphIdle_of_seeds {s : State} {i : Nat} {l : Launch} (h : l.seeds.any (fun e => e != []) = true) : s.graphIdle i l = false := by
  have : l.seeds.all List.isEmpty = false := by
    obtain ⟨e, he, hne⟩ := List.any_eq_true.1 h
    exact List.all_eq_false.2 ⟨e, he, by simpa using hne⟩
  simp [State.graphIdle, this]

/-! ### Completion (R108, R109) -/

/-- The key register of the write of a launch's value: a watch's is made without one. -/
def Launch.writeKey (l : Launch) : Option DWord :=
  match l.kind with
  | .depend | .barrier => none
  | _ => some l.pkr

theorem Launch.writeKey_eq (l : Launch) : l.writeKey = if l.kind = .depend ∨ l.kind = .barrier then none else some l.pkr := by
  unfold Launch.writeKey
  cases l.kind <;> rfl

/-- A launch that has ended leaves, with its interrupt. -/
def State.endLaunch (s : State) (i : Nat) (l : Launch) : State :=
  if l.irq then ({ s with launches := AMap.del s.launches i } : State).msi l.vec else { s with launches := AMap.del s.launches i }

theorem State.endLaunch_spec (s : State) (i : Nat) (l : Launch) : AMap.get? (s.endLaunch i l).launches i = none ∧ (s.endLaunch i l).mem = s.mem ∧
    (s.endLaunch i l).dev.msix = s.dev.msix ++ if l.irq then [l.vec] else [] := by
  have hdel : AMap.get? (AMap.del s.launches i) i = none := (AMap.get?_del ..).trans (if_pos rfl)
  unfold State.endLaunch
  cases l.irq
  · exact ⟨hdel, rfl, (List.append_nil _).symm⟩
  · exact ⟨hdel, rfl, rfl⟩

theorem State.launchDone_of_write {s s' : State} {i : Nat} {l : Launch} (hl : AMap.get? s.launches i = some l) (hrel : l.rel = false)
    (hw : s.launchWrite l.ctx l.caddr l.writeKey false l.cval (.launch i) = some (s', true)) : s.launchDone i false = some (s'.endLaunch i l) := by
  unfold State.launchDone
  rw [hl]
  change (match (if l.rel then s.hostClean else s).launchWrite l.ctx l.caddr l.writeKey false l.cval (.launch i) with
    | none => none
    | some (s, false) => some s
    | some (s, true) => some (s.endLaunch i l)) = _
  rw [if_neg (by rw [hrel]; exact Bool.false_ne_true), hw]

theorem State.launchWrite_zero (s : State) (ctx : Nat) (pkr : Option DWord) (add : Bool) (val : DWord) (step : LStep) :
    s.launchWrite ctx 0 pkr add val step = some (s, true) := rfl

/-- A value that is written where the walk leads. -/
theorem State.launchWrite_of_ok {s s' : State} {ctx : Nat} {va : DWord} {pkr : Option DWord} {val : DWord} {step : LStep} {pas : List Nat} (hne : va ≠ 0)
    (hx : s.xlate (lpVia ctx) va 8 .write pkr = (s', .ok pas)) (hw : s'.waveHolds [pas.getD 0 0] = false)
    (hr : isRemote (pas.getD 0 0) = true → remoteOk (pas.getD 0 0) = true) :
    s.launchWrite ctx va pkr false val step = some (s'.homeWrite none [] (span (pas.getD 0 0) (leBytes 8 val.toNat)), true) := by
  have hr' : (isRemote (pas.getD 0 0) && !remoteOk (pas.getD 0 0)) = false := by
    cases h : isRemote (pas.getD 0 0)
    · rfl
    · rw [hr h]; rfl
  simp only [State.launchWrite, hne, if_false, Bool.false_eq_true, hx, hw, hr', Bool.false_and]

/-- A watch ends when every condition holds (R108). -/
theorem exec_dependConditionHolds_of_watch {s : State} {i : Nat} {l : Launch} (hl : AMap.get? s.launches i = some l) (hs : l.started = true)
    (hk : l.kind = .depend ∨ l.kind = .barrier) (hw : s.waits (.launch (.launch i)) = false) :
    exec (.dependConditionHolds i) s = event s (match s.condsHold l.ctx l.conds with
      | (s, true) => s.launchDone i false
      | (_, false) => none) := by
  rw [exec_dependConditionHolds]
  unfold execDependConditionHolds
  rw [hl]
  have hwatch : (match l.kind with
      | .depend | .barrier => l.started
      | _ => false) = true := by
    rcases hk with hk | hk <;> rw [hk] <;> exact hs
  refine congrArg (event s) (if_neg ?_)
  rw [hw, Bool.or_false, Bool.not_eq_true', Bool.not_eq_false]
  exact hwatch

theorem exec_barrierAnd_of_launch {s : State} {i : Nat} {l : Launch} (hl : AMap.get? s.launches i = some l) :
    exec (.barrierAnd i) s = event s ((startPacket .barrier i s).bind fun s => if l.conds.isEmpty then s.launchDone i false else some s) := by
  rw [exec_barrierAnd]
  unfold execBarrierAnd
  rw [hl]

/-- The start of a graph that has been read again (R273, R274). -/
theorem exec_graph_of_start {s s' : State} {i : Nat} {l : Launch} (h : startPacket .graph i s = some (s'.startedAs i l)) :
    exec (.graph i) s = event s (if (s'.startedAs i l).binsTaken > binRoom then none else (s'.startedAs i l).launchCheck i) := by
  rw [exec_graph, execGraph, h]
  rfl

/-- Settles O43: NOTIFY and PACKET_READ through the queue's descriptor, the starts through `State.startedAs`, and completion through
`State.endLaunch`. -/
theorem queuesAndPackets : Obligations.QueuesAndPackets := by
  refine ⟨fun s q u hq hu => ⟨?notify, ?old, ?overflow, ?read, ?unreadable, ?noRoom⟩, fun s i l hl => ⟨?starts, ?heldBack, ?watch, ?plainEnd, ?valueEnd⟩,
    fun s die => ⟨?noList, ?list⟩⟩
  case notify => exact fun v hlo hhi => notify_spec hq hu hlo hhi
  case old =>
    intro v hv
    refine ⟨s.awake, ?_, rfl, rfl⟩
    rw [exec_notify_of_queue hq hu, if_pos hv]
    rfl
  case overflow =>
    intro v hlo hhi hst
    refine ⟨s.awake.queueError q u .overflow, ?_, (s.awake.queueError_spec q u .overflow).1⟩
    rw [exec_notify_of_queue hq hu, if_neg (Nat.not_le.2 hlo), if_pos hhi, if_pos hst]
    rfl
  case read =>
    intro hst hlt hdy hal hw b turn
    refine ⟨fun hpois htype hturn => ⟨fun s' l hp => ?_, fun s' e hp => ?_⟩, fun hpois hturn => ?_, packetRead_of_held_back hu⟩
    · refine ⟨s'.accepted q u l, ?_, s'.accepted_launch q u l, s'.accepted_queue q u l, State.accepted_slot⟩
      rw [packetRead_spec hu hst hlt hdy hal hw (.inr htype) hturn, hpois, hp]
      rfl
    · obtain ⟨h1, h2⟩ := s'.queueError_spec q u e
      refine ⟨s'.queueError q u e, ?_, h1, h2⟩
      rw [packetRead_spec hu hst hlt hdy hal hw (.inr htype) hturn, hpois, hp]
      rfl
    · obtain ⟨h1, h2⟩ := s.queueError_spec q u .badAddr
      have hsome := Option.isSome_iff_ne_none.2 hpois
      refine ⟨s.queueError q u .badAddr, ?_, h1, h2⟩
      rw [packetRead_spec hu hst hlt hdy hal hw (.inl hsome) hturn, if_pos hsome]
      rfl
  case unreadable => exact packetRead_of_not_readable hu
  case noRoom => exact fun e es he hk hb => State.startable_of_no_room he hk hb
  case starts =>
    intro hns hq
    refine ⟨fun s' l' => State.reread_of_ok, fun s' e => State.reread_of_error, fun s' l' hr => ?_⟩
    have hstart := startPacket_of_turn hl hns hq hr
    have hlaunch := s'.startedAs_launch i l'
    refine ⟨fun hk => ?_, fun hk => ?_, fun hk => ?_, fun hk hk' hroom hseeds => ?_, fun hk hk' hroom hidle u hu => ?_, fun hk hroom => ?_,
      fun hk hc => ?_, fun hk hc u hu => ?_⟩
    · rw [exec_grid, execGrid, ← hk, hstart]; rfl
    · rw [exec_gang, execGang, ← hk, hstart]; rfl
    · rw [exec_depend, execDepend, ← hk, hstart]; rfl
    · have hfits : ¬ binRoom < (s'.startedAs i l').binsTaken := Nat.not_lt.2 hroom
      rw [exec_graph_of_start (hk ▸ hstart), if_neg hfits, State.launchCheck_graph hlaunch hk', State.graphIdle_of_seeds (l := { l' with started := true }) hseeds]
      rfl
    · have hfits : ¬ binRoom < (s'.startedAs i l').binsTaken := Nat.not_lt.2 hroom
      rw [exec_graph_of_start (hk ▸ hstart), if_neg hfits, State.launchCheck_graph hlaunch hk', if_pos (show (s'.startedAs i l').graphIdle i { l' with started := true } = true from hidle)]
      exact congrArg (event s) hu
    · have hover : binRoom < (s'.startedAs i l').binsTaken := hroom
      rw [exec_graph_of_start (hk ▸ hstart), if_pos hover]
      rfl
    · have hne : l.conds.isEmpty = false := by simpa using hc
      rw [exec_barrierAnd_of_launch hl, ← hk, hstart, hne]
      rfl
    · rw [exec_barrierAnd_of_launch hl, ← hk, hstart, hc]
      exact congrArg (event s) hu
  case heldBack =>
    intro q _ hq hh
    have hnone := startPacket_of_held_back hl hq hh
    refine ⟨?_, ?_, ?_, ?_, ?_⟩
    · rw [exec_grid, execGrid, hnone]; rfl
    · rw [exec_gang, execGang, hnone]; rfl
    · rw [exec_graph, execGraph, hnone]; rfl
    · rw [exec_depend, execDepend, hnone]; rfl
    · rw [exec_barrierAnd_of_launch hl, hnone]; rfl
  case watch =>
    intro hs hk hw
    refine ⟨fun s' u hc hu => ?_, fun s' hc => ?_⟩
    · rw [exec_dependConditionHolds_of_watch hl hs hk hw, hc]
      exact congrArg (event s) hu
    · rw [exec_dependConditionHolds_of_watch hl hs hk hw, hc]
      rfl
  case plainEnd =>
    intro hc hrel
    obtain ⟨h1, h2, h3⟩ := s.endLaunch_spec i l
    exact ⟨s.endLaunch i l, State.launchDone_of_write hl hrel (by rw [hc]; exact State.launchWrite_zero ..), h1, h2, h3⟩
  case valueEnd =>
    intro s' pas hc hrel hx hw hr
    rw [← l.writeKey_eq] at hx
    obtain ⟨h1, h2, -⟩ := (s'.homeWrite none [] (span (pas.getD 0 0) (leBytes 8 l.cval.toNat))).endLaunch_spec i l
    refine ⟨_, State.launchDone_of_write hl hrel (State.launchWrite_of_ok hc hx hw hr), h1, ?_⟩
    have hbytes := s'.homeWrite_span_bytes none [] (pas.getD 0 0) (bs := leBytes 8 l.cval.toNat) (by rw [leBytes_length]; norm_num)
    rw [leBytes_length] at hbytes
    refine Eq.trans ?_ hbytes
    simp only [State.byte, h2]
  case noList =>
    intro h
    rw [exec_launchListStart, execLaunchListStart, h]
    rfl
  case list =>
    intro s' ctx b rest h
    refine ⟨fun l hp => ?_, fun e hp => ?_⟩
    · rw [exec_launchListStart]
      simp only [execLaunchListStart, h, hp]
      rfl
    · rw [exec_launchListStart]
      simp only [execLaunchListStart, h, hp]
      rfl

end Sys2Proof.Machine
end

section
/-! SUPPORT. The commands of the mailbox (R101, R164, R169, R291, R307, R324, R327, R328, R332, R346 to R349). -/

namespace Sys2Proof.Machine

theorem exec_createContext (s : State) : exec .createContext s = execCreateContext s := rfl
theorem exec_destroyContext (s : State) : exec .destroyContext s = execDestroyContext s := rfl
theorem exec_createQueue (s : State) : exec .createQueue s = execCreateQueue s := rfl
theorem exec_destroyQueue (s : State) : exec .destroyQueue s = execDestroyQueue s := rfl
theorem exec_resetQueue (s : State) : exec .resetQueue s = execResetQueue s := rfl
theorem exec_migrate (frame : Nat) (s : State) : exec (.migrate frame) s = execMigrate frame s := rfl
theorem exec_declareLost (s : State) : exec .declareLost s = execDeclareLost s := rfl
theorem exec_setMode (s : State) : exec .setMode s = execSetMode s := rfl
theorem exec_nonce (s : State) : exec .nonce s = execNonce s := rfl
theorem exec_token (s : State) : exec .token s = execToken s := rfl
theorem exec_attest (s : State) : exec .attest s = execAttest s := rfl

/-! ### The end of a command (R327) -/

/-- A message that is sent or not. -/
theorem State.msi_of_bit (s : State) (b : Bool) (vec : Nat) :
    (if b then s.msi vec else s) = s.setDev fun v => { v with msix := v.msix ++ if b then [vec] else [] } := by
  cases b
  · simp [State.setDev]
  · rfl

/-- The end of a command changes registers of the device and no other part of the state. -/
theorem State.mbDone_eq (s : State) (st : Nat) (res : Option DWord) : s.mbDone st res = s.setDev fun v => { v with
    mbbusy := false, mbstatus := st, mbarg := res.elim v.mbarg fun r => v.mbarg.set 0 r
    msix := v.msix ++ if v.mbvec.getLsbD 31 then [bitsAt v.mbvec 0 12] else [] } := by
  refine (State.msi_of_bit ..).trans ?_
  cases res <;> rfl

@[simp] theorem State.mbDone_mem (s : State) (st : Nat) (res : Option DWord) : (s.mbDone st res).mem = s.mem := by rw [State.mbDone_eq]; rfl
@[simp] theorem State.mbDone_groups (s : State) (st : Nat) (res : Option DWord) : (s.mbDone st res).groups = s.groups := by rw [State.mbDone_eq]; rfl
@[simp] theorem State.mbDone_contexts (s : State) (st : Nat) (res : Option DWord) : (s.mbDone st res).contexts = s.contexts := by rw [State.mbDone_eq]; rfl
@[simp] theorem State.mbDone_queues (s : State) (st : Nat) (res : Option DWord) : (s.mbDone st res).queues = s.queues := by rw [State.mbDone_eq]; rfl
@[simp] theorem State.mbDone_nonceLive (s : State) (st : Nat) (res : Option DWord) : (s.mbDone st res).dev.nonceLive = s.dev.nonceLive := by
  rw [State.mbDone_eq]; rfl
@[simp] theorem State.mbDone_nonces (s : State) (st : Nat) (res : Option DWord) : (s.mbDone st res).dev.nonces = s.dev.nonces := by rw [State.mbDone_eq]; rfl
@[simp] theorem State.mbDone_pendingFw (s : State) (st : Nat) (res : Option DWord) : (s.mbDone st res).dev.pendingFw = s.dev.pendingFw := by
  rw [State.mbDone_eq]; rfl
@[simp] theorem State.mbDone_hostMode (s : State) (st : Nat) (res : Option DWord) (i : Nat) : (s.mbDone st res).hostMode i = s.hostMode i := by
  rw [State.mbDone_eq]; rfl
@[simp] theorem State.mbDone_isLost (s : State) (st : Nat) (res : Option DWord) (k : Nat) : (s.mbDone st res).isLost k = s.isLost k := by
  rw [State.mbDone_eq]; rfl

theorem State.mbDone_mbarg_length (s : State) (st : Nat) (res : Option DWord) : (s.mbDone st res).dev.mbarg.length = s.dev.mbarg.length := by
  rw [State.mbDone_eq]
  cases res with
  | none => rfl
  | some r => exact List.length_set

/-- What a command gives back stands in MBARG 0. -/
theorem State.mbDone_arg (s : State) (st : Nat) (r : DWord) (h : s.dev.mbarg.length = 6) : (s.mbDone st (some r)).arg 0 = r := by
  rw [State.mbDone_eq]
  change (s.dev.mbarg.set 0 r).getD 0 0 = r
  rw [List.getD_eq_getElem _ _ (by rw [List.length_set]; omega), List.getElem_set_self]

theorem State.mbDone_bytes (s : State) (st : Nat) (res : Option DWord) (pa n : Nat) : (s.mbDone st res).bytes pa n = s.bytes pa n := by
  simp only [State.bytes, State.byte, State.mbDone_mem]

/-- Memory, groups, contexts and queues stay as they are. -/
def State.Same (s t : State) : Prop := t.mem = s.mem ∧ t.groups = s.groups ∧ t.contexts = s.contexts ∧ t.queues = s.queues

theorem State.same_mbDone (s : State) (st : Nat) (res : Option DWord) : s.Same (s.mbDone st res) := ⟨by simp, by simp, by simp, by simp⟩

/-- A step that ends a command with a status. -/
def Ends (st : Nat) (o : Host.Outcome State Fault Refusal) (P : State → Prop) : Prop :=
  ∃ t : State, o = .next t ∧ t.dev.mbbusy = false ∧ t.dev.mbstatus = st ∧ P t

theorem ends_of_mbDone {o : Host.Outcome State Fault Refusal} {v : State} {st : Nat} {res : Option DWord} {P : State → Prop}
    (ho : o = .next (v.mbDone st res)) (hP : P (v.mbDone st res)) : Ends st o P :=
  ⟨_, ho, by rw [State.mbDone_eq]; rfl, by rw [State.mbDone_eq]; rfl, hP⟩

/-- A command that runs acts. -/
theorem mailbox_of_running {s : State} (hb : s.dev.mbbusy = true) {code : Nat} (hc : s.dev.mbcmd = code) (f : State → Option State) :
    mailbox code f s = event s (f s) := by
  rw [mailbox, hb, hc, beq_self_eq_true]; rfl

/-- The lowest number that a table lacks. -/
theorem AMap.fresh_eq {β : Type} (m : AMap β) {n : Nat} (hn : AMap.get? m n = none) : ∀ (fuel k : Nat), k ≤ n → n < k + fuel →
    (∀ i, k ≤ i → i < n → (AMap.get? m i).isSome = true) → AMap.fresh m fuel k = n
  | 0, k, hk, hf, _ => by omega
  | fuel + 1, k, hk, hf, hall => by
    rw [AMap.fresh]
    rcases Nat.eq_or_lt_of_le hk with rfl | hlt
    · rw [hn]; rfl
    · rw [if_pos (hall k le_rfl hlt)]
      exact AMap.fresh_eq m hn fuel (k + 1) hlt (by omega) fun i hi => hall i (by omega)

/-! ### Addresses of this package (R149) -/

theorem region_lt {pa : Nat} (h : region pa = .hbm ∨ region pa = .tier2 ∨ region pa = .host) : pa < 2 ^ 48 - 1 := by
  unfold region at h
  by_contra hge
  rw [if_neg (by omega), if_neg (by omega), if_neg (by omega), if_neg (by omega), if_neg (by omega)] at h
  split_ifs at h <;> simp at h

/-- Bytes that lie in this package's memory or the host's have addresses of their own. -/
theorem lt_of_inLocal {pa n : Nat} (h : inLocal pa n = true) : n < 2 ^ 48 ∧ ∀ i, i < n → pa + i < 2 ^ 48 := by
  have hlast : pa + n - 1 < 2 ^ 48 - 1 := by
    refine region_lt ?_
    unfold inLocal inDevice at h
    cases h1 : region pa <;> cases h2 : region (pa + n - 1) <;> simp [h1, h2] at h ⊢
  exact ⟨by omega, fun i hi => by omega⟩

theorem homeOf_of_lt {pa : Nat} (h : pa < 2 ^ 48) : homeOf pa = pa := by
  unfold homeOf ownDevice
  rw [if_neg (by omega)]

/-- Bytes of this package that the device writes read back. -/
theorem State.devWrite_bytes {s : State} {pa : Nat} {bs : List Byte} (hl : inLocal pa bs.length = true)
    (hw : s.waveHolds ((List.range bs.length).map (pa + ·)) = false) : (s.devWrite (span pa bs)).bytes pa bs.length = bs := by
  obtain ⟨hlen, hlt⟩ := lt_of_inLocal hl
  rw [State.devWrite_eq (by rwa [span_fst])]
  refine Eq.trans ?_ (s.homeWrite_span_bytes none [] pa hlen)
  refine List.map_congr_left fun i hi => ?_
  rw [homeOf_of_lt (hlt i (List.mem_range.1 hi))]

/-! ### Contexts (R291, R307, R324) -/

theorem createContext_bad {s : State} (hb : s.dev.mbbusy = true) (hc : s.dev.mbcmd = 1)
    (h : (s.arg 0).toNat % 64 ≠ 0 ∨ inDevice (s.arg 0).toNat 64 = false ∨ s.readContext (s.arg 0).toNat = none) : Ends 1 (exec .createContext s) s.Same := by
  refine ends_of_mbDone (v := s) (res := none) ?_ (s.same_mbDone 1 none)
  rw [exec_createContext, execCreateContext, mailbox_of_running hb hc]
  by_cases hpa : ((s.arg 0).toNat % 64 != 0 || !inDevice (s.arg 0).toNat 64) = true
  · rw [if_pos hpa]; rfl
  · have hnone : s.readContext (s.arg 0).toNat = none := by
      simp only [Bool.or_eq_true, bne_iff_ne, Bool.not_eq_true', not_or, not_not] at hpa
      obtain ⟨h1, h2⟩ := hpa
      rcases h with h | h | h
      · exact absurd h1 h
      · exact absurd h h2
      · exact h
    rw [if_neg hpa, hnone]; rfl

theorem createContext_good {s : State} (hb : s.dev.mbbusy = true) (hc : s.dev.mbcmd = 1) {c : Context} {n : Nat} (hal : (s.arg 0).toNat % 64 = 0)
    (hin : inDevice (s.arg 0).toNat 64 = true) (hr : s.readContext (s.arg 0).toNat = some c) (hn : n < 65536) (hfree : AMap.get? s.contexts n = none)
    (hall : ∀ k < n, (AMap.get? s.contexts k).isSome = true) : Ends 0 (exec .createContext s) fun t =>
      AMap.get? t.contexts n = some c ∧ t.mem = s.mem ∧ (t.dev.mbarg.length = 6 → t.arg 0 = BitVec.ofNat 64 n) := by
  have hfresh : AMap.fresh s.contexts 65536 0 = n := AMap.fresh_eq _ hfree 65536 0 (Nat.zero_le n) (by omega) fun i _ => hall i
  refine ends_of_mbDone (v := { s with contexts := AMap.put s.contexts n c }) (res := some (BitVec.ofNat 64 n)) ?_
    ⟨?_, State.mbDone_mem .., fun h => State.mbDone_arg _ _ _ ((State.mbDone_mbarg_length ..).symm.trans h)⟩
  · rw [exec_createContext, execCreateContext, mailbox_of_running hb hc]
    simp only [hal, hin, hr, hfresh, if_neg (Nat.not_le.2 hn)]
    rfl
  · rw [State.mbDone_contexts]; exact AMap.get?_put_self ..

theorem destroyContext_live {s : State} (hb : s.dev.mbbusy = true) (hc : s.dev.mbcmd = 2) {c : Context}
    (hx : AMap.get? s.contexts (s.arg 0).toNat = some c) (hd : c.dead = false) :
    exec .destroyContext s = .next (s.terminate (s.arg 0).toNat { cause := .halt }) := by
  rw [exec_destroyContext, execDestroyContext, mailbox_of_running hb hc]
  simp only [hx, hd]
  rfl

/-- A context that is gone: evicted, and without its number, its queues and its halts. -/
def State.dropContext (s : State) (n : Nat) : State :=
  { s with
    contexts := AMap.del s.contexts n
    queues := s.queues.filter fun e => e.2.ctx != n
    dev := { s.dev with halts := s.dev.halts.filter fun h => h.ctx != n } }

theorem destroyContext_dead {s : State} (hb : s.dev.mbbusy = true) (hc : s.dev.mbcmd = 2) {c : Context}
    (hx : AMap.get? s.contexts (s.arg 0).toNat = some c) (hd : c.dead = true) (hl : ∀ e ∈ s.lsq, e.ctx ≠ (s.arg 0).toNat) :
    Ends 0 (exec .destroyContext s) fun t => AMap.get? t.contexts (s.arg 0).toNat = none ∧ ∀ e ∈ t.queues, e.2.ctx ≠ (s.arg 0).toNat := by
  have hlsq : (s.lsq.any fun e => e.ctx == (s.arg 0).toNat) = false := by simpa using hl
  refine ends_of_mbDone (v := (s.evict (s.arg 0).toNat).dropContext (s.arg 0).toNat) (res := none) ?_ ⟨?_, fun e he => ?_⟩
  · rw [exec_destroyContext, execDestroyContext, mailbox_of_running hb hc]
    simp only [hx, hd, hlsq]
    rfl
  · rw [State.mbDone_contexts]; exact (AMap.get?_del ..).trans (if_pos rfl)
  · rw [State.mbDone_queues] at he
    simpa using (List.mem_filter.1 he).2

/-! ### Queues (R101, R102, R328) -/

theorem createQueue_good {s : State} (hb : s.dev.mbbusy = true) (hc : s.dev.mbcmd = 3) {c : Context} {u : UQueue} {n : Nat}
    (hx : AMap.get? s.contexts (s.arg 0).toNat = some c) (hal : (s.arg 1).toNat % 64 = 0) (hin : inDevice (s.arg 1).toNat 64 = true)
    (hr : s.readQueueDesc (s.arg 0).toNat (s.arg 1).toNat = some u) (hn : n < 4096) (hfree : AMap.get? s.queues n = none)
    (hall : ∀ k < n, (AMap.get? s.queues k).isSome = true) :
    Ends 0 (exec .createQueue s) fun t => AMap.get? t.queues n = some u ∧ u.rdidx = 0 ∧ u.wridx = 0 ∧ u.st = 0 := by
  have hfresh : AMap.fresh s.queues 4096 0 = n := AMap.fresh_eq _ hfree 4096 0 (Nat.zero_le n) (by omega) fun i _ => hall i
  refine ends_of_mbDone (v := (s.devWrite ((List.range (2 ^ u.log2n)).map fun i => (u.ring + 64 * i, 0))).writeQueue n u)
    (res := some (BitVec.ofNat 64 n)) ?_ ⟨?_, ?_⟩
  · rw [exec_createQueue, execCreateQueue, mailbox_of_running hb hc]
    simp only [hx, hal, hin, hr, hfresh, if_neg (Nat.not_le.2 hn)]
    rfl
  · rw [State.mbDone_queues]; exact State.writeQueue_queue ..
  · unfold State.readQueueDesc at hr
    simp only [Option.ite_none_right_eq_some, Option.some.injEq] at hr
    obtain ⟨-, rfl⟩ := hr
    exact ⟨rfl, rfl, rfl⟩

theorem destroyQueue_running {s : State} (hb : s.dev.mbbusy = true) (hc : s.dev.mbcmd = 4) {u : UQueue} (hu : AMap.get? s.queues (s.arg 0).toNat = some u)
    (hd : u.dying = false) : ∃ t : State, exec .destroyQueue s = .next t ∧
      AMap.get? t.queues (s.arg 0).toNat = some { u with st := 2, code := 0, dying := true } := by
  refine ⟨(s.writeQueue (s.arg 0).toNat { u with st := 2, code := 0, dying := true }).dropWatchers (s.arg 0).toNat, ?_, State.writeQueue_queue ..⟩
  rw [exec_destroyQueue, execDestroyQueue, mailbox_of_running hb hc]
  simp only [hu, hd]
  rfl

theorem destroyQueue_stopped {s : State} (hb : s.dev.mbbusy = true) (hc : s.dev.mbcmd = 4) {u : UQueue} (hu : AMap.get? s.queues (s.arg 0).toNat = some u)
    (hd : u.dying = true) (hl : s.launchesOf (s.arg 0).toNat = []) :
    Ends 0 (exec .destroyQueue s) fun t => AMap.get? t.queues (s.arg 0).toNat = none ∧ t.mem = s.mem := by
  refine ends_of_mbDone (v := { s with queues := AMap.del s.queues (s.arg 0).toNat }) (res := none) ?_ ⟨?_, State.mbDone_mem ..⟩
  · rw [exec_destroyQueue, execDestroyQueue, mailbox_of_running hb hc]
    simp only [hu, hd, hl]
    rfl
  · rw [State.mbDone_queues]; exact (AMap.get?_del ..).trans (if_pos rfl)

theorem resetQueue_good {s : State} (hb : s.dev.mbbusy = true) (hc : s.dev.mbcmd = 5) {u : UQueue} (hu : AMap.get? s.queues (s.arg 0).toNat = some u)
    (hst : u.st ≠ 0) (hd : u.dying = false) (hskip : (s.arg 1).toNat < 2) : Ends 0 (exec .resetQueue s) fun t =>
      AMap.get? t.queues (s.arg 0).toNat = some { u with st := 0, code := 0, rdidx := u.rdidx + (s.arg 1).toNat } := by
  refine ends_of_mbDone (v := (if s.arg 1 = 1 then s.devWrite [(u.slot, 0)] else s).writeQueue (s.arg 0).toNat
    { u with st := 0, code := 0, rdidx := u.rdidx + (s.arg 1).toNat }) (res := none) ?_ ?_
  · rw [exec_resetQueue, execResetQueue, mailbox_of_running hb hc]
    have hgood : (decide (u.st = 0) || u.dying || decide (2 ≤ (s.arg 1).toNat)) = false := by simp [hst, hd, hskip]
    simp only [hu, hgood]
    rfl
  · rw [State.mbDone_queues]; exact State.writeQueue_queue ..

theorem resetQueue_bad {s : State} (hb : s.dev.mbbusy = true) (hc : s.dev.mbcmd = 5) {u : UQueue} (hu : AMap.get? s.queues (s.arg 0).toNat = some u)
    (h : u.st = 0 ∨ u.dying = true ∨ 2 ≤ (s.arg 1).toNat) : Ends 1 (exec .resetQueue s) s.Same := by
  refine ends_of_mbDone (v := s) (res := none) ?_ (s.same_mbDone 1 none)
  rw [exec_resetQueue, execResetQueue, mailbox_of_running hb hc]
  have hbad : (decide (u.st = 0) || u.dying || decide (2 ≤ (s.arg 1).toNat)) = true := by simpa [or_assoc] using h
  simp only [hu, hbad, if_true]
  rfl

/-! ### Modes, lost stacks and migration (R164, R169, R328, R332) -/

theorem modAt_getD {β : Type} (l : List β) {i : Nat} (hi : i < l.length) (f : β → β) (j : Nat) (d : β) :
    (modAt l i f).getD j d = if j = i then f (l.getD i d) else l.getD j d := by
  have hset : modAt l i f = l.set i (f l[i]) := by simp only [modAt, List.getElem?_eq_getElem hi]
  rw [hset, List.getD_eq_getElem?_getD, List.getElem?_set, List.getD_eq_getElem _ _ hi]
  by_cases h : i = j
  · subst h; simp [hi]
  · rw [if_neg h, if_neg fun e => h e.symm, List.getD_eq_getElem?_getD]

theorem setMode_good {s : State} (hb : s.dev.mbbusy = true) (hc : s.dev.mbcmd = 0xB) (hm : s.dev.managed.length = 6) (hlo : 0x10 ≤ (s.arg 0).toNat)
    (hhi : (s.arg 0).toNat ≤ 0x15) (hv : (s.arg 1).toNat ≤ 1) :
    Ends 0 (exec .setMode s) fun t => s.Same t ∧ ∀ i < 6, t.hostMode i = if i = (s.arg 0).toNat - 0x10 then s.arg 1 == 1 else s.hostMode i := by
  refine ends_of_mbDone (v := s.setDev fun v => { v with managed := modAt v.managed ((s.arg 0).toNat - 0x10) fun x => { x with host := (s.arg 1).toNat == 1 } })
    (res := none) ?_ ⟨State.same_mbDone _ 0 none, fun i _ => ?_⟩
  · rw [exec_setMode, execSetMode, mailbox_of_running hb hc]
    have hgood : (decide ((s.arg 0).toNat < 0x10) || decide (0x15 < (s.arg 0).toNat) || decide (1 < (s.arg 1).toNat)) = false := by
      simp [hlo, hhi, hv]
    simp only [hgood]
    rfl
  · have hone : ((s.arg 1).toNat == 1) = (s.arg 1 == 1) := by
      rw [Bool.eq_iff_iff, beq_iff_eq, beq_iff_eq, ← BitVec.toNat_inj]; rfl
    rw [State.mbDone_hostMode]
    change ((modAt s.dev.managed ((s.arg 0).toNat - 0x10) fun x => { x with host := (s.arg 1).toNat == 1 }).getD i {}).host = _
    rw [modAt_getD _ (by omega), hone]
    split <;> rfl

/-- A stack that is declared lost while nothing is on its way (R164). -/
theorem State.loseStack_spec {s : State} {k : Nat} (hp : s.packets = []) (hj : s.jobs = []) (hk : k < s.dev.stkh.length) :
    (s.loseStack k).isLost k = true ∧ (s.loseStack k).mem = s.mem := by
  unfold State.loseStack
  simp only [hp, hj, List.foldl_nil]
  generalize hz : State.cxlEvent _ 1 k _ = z
  have hmem : z.mem = s.mem := by rw [← hz]; rfl
  have hlost : z.isLost k = true := by
    rw [← hz]
    change ((modAt s.dev.stkh k fun h => { h with lost := true }).getD k {}).lost = true
    rw [modAt_getD _ hk, if_pos rfl]
  refine ⟨(isLost_of_settings (State.settings_foldl (fun s (e : Nat × HeldWrite) => s.settings_serveWrite e.1) _ _) k).trans hlost, ?_⟩
  exact (State.KeepsMem.foldl (fun s (e : Nat × HeldWrite) => s.serveWrite_keeps e.1) _ _).mem.trans hmem

theorem declareLost_denied {s : State} (hb : s.dev.mbbusy = true) (hc : s.dev.mbcmd = 9) (hm : s.hostMode 2 = false) : Ends 2 (exec .declareLost s) s.Same := by
  refine ends_of_mbDone (v := s) (res := none) ?_ (s.same_mbDone 2 none)
  rw [exec_declareLost, execDeclareLost, mailbox_of_running hb hc, State.assisted, hm]
  rfl

theorem exec_declareLost_of_stack {s : State} (hb : s.dev.mbbusy = true) (hc : s.dev.mbcmd = 9) (hm : s.hostMode 2 = true) (hk : (s.arg 0).toNat < 16) :
    exec .declareLost s = .next ((if s.isLost (s.arg 0).toNat then s else s.loseStack (s.arg 0).toNat).mbDone 0 none) := by
  rw [exec_declareLost, execDeclareLost, mailbox_of_running hb hc, State.assisted, hm]
  simp only [if_true, if_neg (Nat.not_le.2 hk)]
  rfl

theorem exec_migrate_of_leaf {s : State} (hb : s.dev.mbbusy = true) (hc : s.dev.mbcmd = 8) (hm : s.hostMode 1 = true) {c : Context} {f : Leaf} {frame : Nat}
    (hx : AMap.get? s.contexts (s.arg 0).toNat = some c) (ht : (s.arg 2).toNat < 2) (hh : s.probeHeld (lpVia (s.arg 0).toNat) (s.arg 1) = false)
    (hf : s.movable (s.arg 0).toNat (s.arg 1) (s.arg 2 == 1) = some f) : exec (.migrate frame) s = event s (
      if !frameOk frame (2 ^ pageLog f.lvl) (s.arg 2 == 1) then some (s.mbDone 3 none)
      else if s.moveWaits f frame (2 ^ pageLog f.lvl) then none
      else some ((s.movePage (s.arg 0).toNat (s.arg 1) f frame (s.arg 2 == 1)).mbDone 0 none)) := by
  have hgood : (Option.isNone (some c) || decide (1 < (s.arg 2).toNat)) = false := by simp; omega
  rw [exec_migrate, execMigrate, mailbox_of_running hb hc]
  simp only [hm, hx, hgood, hh, hf]
  rfl

/-! ### Tokens and attestation (R346 to R349) -/

/-- A fresh nonce is live (R346). -/
def State.drawNonce (s : State) : State := s.setDev fun v => { v with nonces := s.dev.nonces + 1, nonceLive := true }

theorem nonce_good {s : State} (hb : s.dev.mbbusy = true) (hc : s.dev.mbcmd = 0xC) : Ends 0 (exec .nonce s) fun t =>
    s.Same t ∧ t.dev.nonceLive = true ∧ t.dev.nonces = s.dev.nonces + 1 ∧ (s.dev.mbarg.length = 6 → t.arg 0 = Config.nonce (s.dev.nonces + 1)) := by
  refine ends_of_mbDone (v := s.drawNonce) (res := some (Config.nonce (s.dev.nonces + 1))) ?_
    ⟨s.drawNonce.same_mbDone 0 _, ?_, ?_, s.drawNonce.mbDone_arg 0 _⟩
  · rw [exec_nonce, execNonce, mailbox_of_running hb hc]; rfl
  · rw [State.mbDone_nonceLive]; rfl
  · rw [State.mbDone_nonces]; rfl

/-- The latest nonce is consumed (R346). -/
def State.spent (s : State) : State := s.setDev fun v => { v with nonceLive := false }

theorem State.applyToken_mem (s : State) (ty : Nat) (body : List Byte) : (s.applyToken ty body).1.mem = s.mem := by
  have hfold : ∀ (cs : List Nat) (v : State), (cs.foldl (fun s c => s.updCtx c fun x => { x with debug := true }) v).mem = v.mem := fun cs => by
    induction cs with
    | nil => exact fun _ => rfl
    | cons c cs ih => exact fun v => ih _
  unfold State.applyToken
  split
  · simp only []
    split <;> rfl
  · simp only []
    split
    · exact hfold _ _
    · rfl

/-- TOKEN consumes the nonce whatever it finds; without a live one it refuses (R346, R347). -/
theorem exec_token_ends {s : State} (hb : s.dev.mbbusy = true) (hc : s.dev.mbcmd = 0xD) : ∃ (st : Nat) (v : State),
    exec .token s = .next (v.spent.mbDone st none) ∧ v.mem = s.mem ∧ (s.dev.nonceLive = false → v = s ∧ st ≠ 0) := by
  rw [exec_token, execToken, mailbox_of_running hb hc]
  extract_lets pa len used b
  split
  · exact ⟨1, s, rfl, rfl, fun _ => ⟨rfl, Nat.one_ne_zero⟩⟩
  · split
    · exact ⟨1, s, rfl, rfl, fun _ => ⟨rfl, Nat.one_ne_zero⟩⟩
    next ty body _ =>
      split
      · exact ⟨2, s, rfl, rfl, fun _ => ⟨rfl, two_ne_zero⟩⟩
      next hgood =>
        refine ⟨(s.applyToken ty body).2, (s.applyToken ty body).1, rfl, s.applyToken_mem ty body, fun hlive => absurd ?_ hgood⟩
        simp [State.tokenGood, hlive]

/-- A token of good form for the latest nonce and this device: its signature decides (R347). -/
theorem exec_token_of_form {s : State} (hb : s.dev.mbbusy = true) (hc : s.dev.mbcmd = 0xD) {n ty : Nat} {body : List Byte} (hal : (s.arg 0).toNat % 8 = 0)
    (hin : inDevice (s.arg 0).toNat 16 = true) (hin' : inDevice (s.arg 0).toNat n = true) (hlen : leNat (s.bytes ((s.arg 0).toNat + 8) 4) = n)
    (h8 : n % 8 = 0) (hlo : 128 ≤ n) (hhi : n ≤ 2 ^ 26) (hp : s.poisonIn (s.arg 0).toNat n = none)
    (hf : tokenForm (s.bytes (s.arg 0).toNat n) = some (ty, body)) (hlive : s.dev.nonceLive = true)
    (hnonce : leNat (((s.bytes (s.arg 0).toNat n).drop 0x10).take 8) = (Config.nonce s.dev.nonces).toNat)
    (hdev : ((s.bytes (s.arg 0).toNat n).drop 0x18).take 32 = sha256 identityKey) :
    exec .token s = .next (
      if ecdsaOk Config.vendorKey ((s.bytes (s.arg 0).toNat n).take (n - 64)) ((s.bytes (s.arg 0).toNat n).drop (n - 64)) then
        (s.applyToken ty body).1.spent.mbDone (s.applyToken ty body).2 none
      else s.spent.mbDone 2 none) := by
  have hgood : ((s.arg 0).toNat % 8 != 0 || n % 8 != 0 || decide (n < 128) || decide (2 ^ 26 < n) || !inDevice (s.arg 0).toNat n
      || (s.poisonIn (s.arg 0).toNat n).isSome) = false := by
    simp [hal, h8, hlo, show n ≤ 67108864 from hhi, hin', hp]
  have hn : (s.bytes (s.arg 0).toNat n).length = n := by simp [State.bytes]
  have hfield : field64 (s.bytes (s.arg 0).toNat n) 0x10 = Config.nonce s.dev.nonces := by
    rw [field64, fieldAt, hnonce, BitVec.ofNat_toNat, BitVec.setWidth_eq]
  have htoken : s.tokenGood (s.bytes (s.arg 0).toNat n) =
      ecdsaOk Config.vendorKey ((s.bytes (s.arg 0).toNat n).take (n - 64)) ((s.bytes (s.arg 0).toNat n).drop (n - 64)) := by
    rw [State.tokenGood, hlive, hfield, hdev, hn, deviceId, beq_self_eq_true, beq_self_eq_true]
    rfl
  rw [exec_token, execToken, mailbox_of_running hb hc]
  simp only [hin, if_true, hlen, hgood, hf, htoken]
  cases ecdsaOk Config.vendorKey ((s.bytes (s.arg 0).toNat n).take (n - 64)) ((s.bytes (s.arg 0).toNat n).drop (n - 64)) <;> rfl

/-- A Snido image takes its place if its rollback number and its signature are good (R346, R347). -/
theorem State.applyToken_image (s : State) (body : List Byte) : s.applyToken 1 body =
    if leNat (body.take 4) < s.dev.fused ∨ imageOk ((body.drop 8).take (leNat ((body.drop 4).take 4))) = false then (s, 2)
    else (s.setDev fun v => { v with pendingFw := some (leNat (body.take 4), (body.drop 8).take (leNat ((body.drop 4).take 4))) }, 0) := by
  simp [State.applyToken, fieldAt]

theorem token_refused {s : State} {body : List Byte} (h : exec .token s = .next ((s.applyToken 1 body).1.spent.mbDone (s.applyToken 1 body).2 none))
    (hr : leNat (body.take 4) < s.dev.fused ∨ imageOk ((body.drop 8).take (leNat ((body.drop 4).take 4))) = false) :
    Ends 2 (exec .token s) fun t => s.Same t ∧ t.dev.pendingFw = s.dev.pendingFw := by
  rw [State.applyToken_image, if_pos hr] at h
  exact ends_of_mbDone h ⟨State.same_mbDone _ 2 none, (State.mbDone_pendingFw ..).trans rfl⟩

theorem token_accepted {s : State} {body : List Byte} (h : exec .token s = .next ((s.applyToken 1 body).1.spent.mbDone (s.applyToken 1 body).2 none))
    (hrb : s.dev.fused ≤ leNat (body.take 4)) (himg : imageOk ((body.drop 8).take (leNat ((body.drop 4).take 4))) = true) :
    Ends 0 (exec .token s) fun t => s.Same t ∧ t.dev.pendingFw = some (leNat (body.take 4), (body.drop 8).take (leNat ((body.drop 4).take 4))) := by
  rw [State.applyToken_image, if_neg (by rw [himg]; simpa using hrb)] at h
  exact ends_of_mbDone h ⟨State.same_mbDone _ 0 none, (State.mbDone_pendingFw ..).trans rfl⟩

theorem attest_good {s : State} (hb : s.dev.mbbusy = true) (hc : s.dev.mbcmd = 0xE) (hal : (s.arg 1).toNat % 8 = 0)
    (hlen : (s.report (s.arg 0)).length ≤ (s.arg 2).toNat) (hl : inLocal (s.arg 1).toNat (s.report (s.arg 0)).length = true)
    (hw : s.waveHolds ((List.range (s.report (s.arg 0)).length).map ((s.arg 1).toNat + ·)) = false) :
    Ends 0 (exec .attest s) fun t => t.bytes (s.arg 1).toNat (s.report (s.arg 0)).length = s.report (s.arg 0) := by
  refine ends_of_mbDone (v := s.devWrite (span (s.arg 1).toNat (s.report (s.arg 0)))) (res := none) ?_ ?_
  · have hgood : ((s.arg 1).toNat % 8 != 0 || decide ((s.arg 2).toNat < (s.report (s.arg 0)).length)
        || !inLocal (s.arg 1).toNat (s.report (s.arg 0)).length) = false := by simp [hal, hlen, hl]
    rw [exec_attest, execAttest, mailbox_of_running hb hc]
    simp only [hgood]
    rfl
  · rw [State.mbDone_bytes]
    exact State.devWrite_bytes hl hw

theorem attest_short {s : State} (hb : s.dev.mbbusy = true) (hc : s.dev.mbcmd = 0xE) (h : (s.arg 2).toNat < (s.report (s.arg 0)).length) :
    Ends 1 (exec .attest s) s.Same := by
  refine ends_of_mbDone (v := s) (res := none) ?_ (s.same_mbDone 1 none)
  rw [exec_attest, execAttest, mailbox_of_running hb hc]
  simp [h, event]

/-- Settles O54: each command's branch ends with `State.mbDone`. -/
theorem mailboxCommands : Obligations.MailboxCommands := by
  intro s hb a ends same
  refine ⟨fun hc => ⟨createContext_bad hb hc, fun c n => createContext_good hb hc⟩,
    fun hc c hx => ⟨destroyContext_live hb hc hx, destroyContext_dead hb hc hx⟩, fun hc c u n => createQueue_good hb hc,
    fun hc u hu => ⟨destroyQueue_running hb hc hu, destroyQueue_stopped hb hc hu⟩, fun hc u hu => ⟨resetQueue_good hb hc hu, resetQueue_bad hb hc hu⟩,
    fun hc hm c f frame hx ht hh hf => ⟨fun hok hw => ?_, fun hok => ?_⟩, fun hc => ⟨declareLost_denied hb hc, fun hm hk hlost => ?_, fun hm hk hlen hlost hp hj => ?_⟩,
    setMode_good hb, nonce_good hb, fun hc => ?_,
    fun hc n ty body hal hin hin' hlen h8 hlo hhi hp => ?_,
    fun hc => ⟨attest_good hb hc, attest_short hb hc⟩⟩
  · refine ends_of_mbDone (v := s.movePage (a 0).toNat (a 1) f frame (a 2 == 1)) (res := none) ?_ (State.mbDone_mem ..)
    rw [exec_migrate_of_leaf hb hc hm hx ht hh hf, hok, hw]
    rfl
  · refine ends_of_mbDone (v := s) (res := none) ?_ (s.same_mbDone 3 none)
    rw [exec_migrate_of_leaf hb hc hm hx ht hh hf, hok]
    rfl
  · refine ends_of_mbDone (v := s) (res := none) ?_ (s.same_mbDone 0 none)
    rw [exec_declareLost_of_stack hb hc hm hk, if_pos hlost]
  · obtain ⟨h1, h2⟩ := State.loseStack_spec hp hj hlen
    refine ends_of_mbDone (v := s.loseStack (a 0).toNat) (res := none) ?_ ⟨(State.mbDone_isLost ..).trans h1, (State.mbDone_mem ..).trans h2⟩
    rw [exec_declareLost_of_stack hb hc hm hk, if_neg (by rw [hlost]; exact Bool.false_ne_true)]
  · obtain ⟨st, v, ho, hmem, hdead⟩ := exec_token_ends hb hc
    refine ⟨st, ends_of_mbDone ho ⟨(State.mbDone_nonceLive ..).trans rfl, (State.mbDone_mem ..).trans hmem, fun hlive => ?_⟩⟩
    obtain ⟨rfl, hst⟩ := hdead hlive
    exact ⟨(State.mbDone_contexts ..).trans rfl, (State.mbDone_pendingFw ..).trans rfl, hst⟩
  · intro b hf hlive hnonce hdev
    have hexec := exec_token_of_form hb hc hal hin hin' hlen h8 hlo hhi hp hf hlive hnonce hdev
    refine ⟨fun hbad => ?_, fun hok hty => ?_⟩
    · refine ends_of_mbDone (v := s.spent) (res := none) (hexec.trans ?_) (State.same_mbDone _ 2 none)
      rw [hbad]
      rfl
    · subst hty
      rw [hok, if_pos rfl] at hexec
      exact ⟨token_refused hexec, token_accepted hexec⟩

end Sys2Proof.Machine
end

section
/-! SUPPORT. Group operations (R125 to R133): masks as numbers, folds over the values of the counted lanes, and what the shapes of the
group operations leave. -/

namespace Sys2Proof.Machine

/-! ### Masks as numbers -/

theorem foldl_count (p : Nat → Bool) (ls : List Nat) (n : Nat) :
    ls.foldl (fun n i => if p i then n + 1 else n) n = n + (ls.filter p).length := by
  induction ls generalizing n with
  | nil => rfl
  | cons l ls ih =>
    rw [List.foldl_cons, ih, List.filter_cons]
    cases p l
    · rfl
    · simp only [if_true, List.length_cons]
      omega

theorem popcount_eq_length (m : Word) : popcount m = (lanesOf m).length := by
  rw [popcount, foldl_count, Nat.zero_add]
  rfl

theorem lanesOf_maskOf (f : Nat → Bool) : lanesOf (maskOf f) = (List.range 32).filter f :=
  List.filter_congr fun l hl => by rw [inMask_maskOf, decide_eq_true (List.mem_range.1 hl), Bool.true_and]

/-- The mask of some lanes of a mask lists those lanes. -/
theorem lanesOf_maskOf_and (m : Word) (p : Nat → Bool) : lanesOf (maskOf fun l => inMask m l && p l) = (lanesOf m).filter p := by
  rw [lanesOf_maskOf, lanesOf, List.filter_filter]
  exact List.filter_congr fun l _ => Bool.and_comm _ _

/-- A mask is the sum of the powers of two of its lanes. -/
theorem eq_ofNat_sum_lanesOf (m : Word) : m = BitVec.ofNat 32 ((lanesOf m).map fun l => 2 ^ l).sum := by
  have hsorted : (lanesOf m).SortedLT := (List.pairwise_lt_range.filter _).sortedLT
  refine BitVec.eq_of_getLsbD_eq fun l hl => ?_
  rw [BitVec.getLsbD_ofNat, decide_eq_true hl, Bool.true_and, Bool.eq_iff_iff, ← Nat.mem_bitIndices, Nat.bitIndices_sum_map_two_pow hsorted, mem_lanesOf]
  rfl

/-! ### Folds over the values of the counted lanes (R131) -/

theorem foldl_add_eq_ofNat_sum (ws : List Word) (a : Word) :
    ws.foldl (· + ·) a = a + BitVec.ofNat 32 (ws.map BitVec.toNat).sum := by
  induction ws generalizing a with
  | nil => simp
  | cons w ws ih => rw [List.foldl_cons, ih, List.map_cons, List.sum_cons, BitVec.ofNat_add, BitVec.ofNat_toNat, BitVec.setWidth_eq, BitVec.add_assoc]

theorem foldl_add_zero (ws : List Word) : ws.foldl (· + ·) 0 = BitVec.ofNat 32 (ws.map BitVec.toNat).sum :=
  (foldl_add_eq_ofNat_sum ws 0).trans (BitVec.zero_add _)

theorem toInt_minS (a b : Word) : (minS a b).toInt = min a.toInt b.toInt := by
  unfold minS
  split
  · next h => exact (min_eq_left (BitVec.slt_iff_toInt_lt.1 h).le).symm
  · next h => exact (min_eq_right (not_lt.1 fun hlt => h (BitVec.slt_iff_toInt_lt.2 hlt))).symm

theorem toInt_maxS (a b : Word) : (maxS a b).toInt = max a.toInt b.toInt := by
  unfold maxS
  split
  · next h => exact (max_eq_right (BitVec.slt_iff_toInt_lt.1 h).le).symm
  · next h => exact (max_eq_left (not_lt.1 fun hlt => h (BitVec.slt_iff_toInt_lt.2 hlt))).symm

/-- A fold that acts on the signed readings as an operation whose order does not matter has its result. -/
theorem foldl_eq_ofInt_foldr {f : Word → Word → Word} {g : Int → Int → Int} [Std.Commutative g] [Std.Associative g]
    (h : ∀ a b, (f a b).toInt = g a.toInt b.toInt) (ws : List Word) (a : Word) :
    ws.foldl f a = BitVec.ofInt 32 ((ws.map BitVec.toInt).foldr g a.toInt) := by
  rw [← List.foldl_eq_foldr, List.foldl_map, List.foldl_hom BitVec.toInt fun a b => (h a b).symm, BitVec.ofInt_toInt]

/-! ### What the group operations leave -/

/-- An issue acts as any effect that agrees with its own on the bundle that is issued. -/
theorem issue_congr {s : State} {h : Hdr} {site : Site} {regs : List (Reg × Nat)} {handles : State → Group → List (Nat × Bool)} {G : Group}
    {x : At} (i : Issues s h site regs handles G x) {body body' : State → At → State} (hb : body (s.advance x) x = body' (s.advance x) x) :
    issue s h site regs handles body = issue s h site regs handles body' := by
  rw [issue_next i, issue_next i, hb]

@[simp] theorem ballotOf_advanced (s : State) (x : At) (G : Group) (a : PReg) : ballotOf (advanced s x G) x a = ballotOf G x a := by
  simp only [ballotOf, advanced_pred]

@[simp] theorem counted_advanced (s : State) (x : At) (G : Group) (a : VReg) : counted (advanced s x G) x a = counted G x a := by
  simp only [counted, advanced_vreg]

/-- What lane `l` reads of a source lane: its value if it takes part, else the own one. -/
def supplied (T : Word) (v : Nat → Word) (l : Nat) : Option Nat → Word
  | some k => if inMask T k then v k else v l
  | none => v l

section
variable {s : State} {h : Hdr} {d : Reg} {G : Group} {x : At} {regs : List (Reg × Nat)}

theorem groupOp_lands (i : Issues s h .both ((d, 1) :: regs) noHandles G x) {f : Group → At → Nat → Word} {v : Nat → Word}
    (hv : ∀ l, f (advanced s x G) x l = v l) : Lands s G x d (fun l => [v l]) (groupOp s h d regs f) := by
  rw [groupOp, issue_congr i (body' := fun s y => s.result y d 1 fun G l => [f G x l]) rfl]
  exact lands_of i (funext fun l => congrArg (fun w => [w]) (hv l))

/-- An exchange gives each lane what its source lane supplies (R127). -/
theorem exchange_lands {d a : VReg} (i : Issues s h .both ((.v d, 1) :: (.v a, 1) :: regs) noHandles G x) {src : Group → Nat → Option Nat}
    {k : Nat → Option Nat} (hk : ∀ l, src (advanced s x G) l = k l) :
    Lands s G x (.v d) (fun l => [supplied x.T (fun m => (G.lane m).vreg a.val) l (k l)]) (exchange s h d a regs src) :=
  groupOp_lands i fun l => by
    rw [hk]
    cases k l <;> simp only [supplied, advanced_vreg]

theorem vote_lands {d a : PReg} (i : Issues s h .both [] noHandles G x) {f : Word → Word → Bool} {b : Bool} (hb : f (ballotOf G x a) x.N = b) :
    LandsP s G x d (fun _ => b) (vote s h d a f) := by
  rw [vote, issue_congr i (body' := fun s y => s.resultP y d fun G _ => f (ballotOf G x a) x.N) rfl]
  exact landsP_of i (funext fun _ => by rw [ballotOf_advanced, hb])

theorem reduceOp_lands {a : VReg} (i : Issues s h .both [(d, 1), (.v a, 1)] noHandles G x) {f : List Word → Word} {w : Word}
    (hw : f (counted G x a) = w) : Lands s G x d (fun _ => [w]) (reduceOp s h d a f) :=
  groupOp_lands i fun _ => by rw [counted_advanced, hw]

end

/-! ### Exchanges (R126, R127) -/

/-- The lanes of a quad differ in the two low bits of their numbers. -/
theorem xor_eq_quad_add (l : Nat) {i : Nat} (hi : i < 4) : l ^^^ i = l - l % 4 + (l % 4 ^^^ i) := by
  have hdiv : (l ^^^ i) / 2 ^ 2 = l / 2 ^ 2 := by rw [Nat.xor_div_two_pow, Nat.div_eq_of_lt (a := i) hi, Nat.xor_zero]
  have hmod : (l ^^^ i) % 2 ^ 2 = l % 4 ^^^ i := by rw [Nat.xor_mod_two_pow, Nat.mod_eq_of_lt (a := i) hi]
  omega

/-- The lane beside, in the row of the quad. -/
theorem xor_one_eq (l : Nat) : l ^^^ 1 = if l % 2 = 0 then l + 1 else l - 1 := by
  have hquad : ∀ r, r < 4 → r ^^^ 1 = if r % 2 = 0 then r + 1 else r - 1 := by decide
  rw [xor_eq_quad_add l (by decide), hquad _ (Nat.mod_lt l (by decide))]
  split <;> split <;> omega

/-- The lane in the other row of the quad. -/
theorem xor_two_eq (l : Nat) : l ^^^ 2 = if l % 4 < 2 then l + 2 else l - 2 := by
  have hquad : ∀ r, r < 4 → r ^^^ 2 = if r < 2 then r + 2 else r - 2 := by decide
  rw [xor_eq_quad_add l (by decide), hquad _ (Nat.mod_lt l (by decide))]
  split <;> omega

/-- The lane across the quad. -/
theorem xor_three_eq (l : Nat) : l ^^^ 3 = l - l % 4 + (3 - l % 4) := by
  have hquad : ∀ r, r < 4 → r ^^^ 3 = 3 - r := by decide
  rw [xor_eq_quad_add l (by decide), hquad _ (Nat.mod_lt l (by decide))]

/-- Settles O13: each instruction is an exchange (`exchange_lands`), and a lane's partners in its quad are those that differ in the two low
bits of their numbers (`xor_one_eq`, `xor_two_eq`, `xor_three_eq`). -/
theorem exchangeResults : Obligations.ExchangeResults := by
  intro s h d a G x r
  have lands : ∀ {regs src k}, Issues s h .both ((.v d, 1) :: (.v a, 1) :: regs) noHandles G x → (∀ l, src (advanced s x G) l = k l) →
      r k (exchange s h d a regs src) := fun i hk => exchange_lands i hk
  clear_value r
  refine ⟨fun i => ⟨?_, ?_, ?_, fun q => ?_⟩, fun b i => ⟨?_, ?_, ?_, ?_⟩⟩
  · exact lands (src := fun _ l => some (l ^^^ 1)) i fun l => congrArg some (xor_one_eq l)
  · exact lands (src := fun _ l => some (l ^^^ 2)) i fun l => congrArg some (xor_two_eq l)
  · exact lands (src := fun _ l => some (l ^^^ 3)) i fun l => congrArg some (xor_three_eq l)
  · exact lands (src := fun _ l => some (l / 4 * 4 + q.val)) i fun l => by rw [show l / 4 * 4 = l - l % 4 by omega]
  · exact lands (src := fun G l => some ((G.src l b).toNat % 32)) i fun l => by rw [advanced_src]
  · exact lands (src := fun G l => if (G.src l b).toNat > l then none else some (l - (G.src l b).toNat)) i fun l => by rw [advanced_src]
  · exact lands (src := fun G l => if l + (G.src l b).toNat > 31 then none else some (l + (G.src l b).toNat)) i fun l => by rw [advanced_src]
  · exact lands (src := fun G l => some (l ^^^ ((G.src l b).toNat % 32))) i fun l => by rw [advanced_src]

/-! ### Votes, ballots and matches (R128, R129) -/

theorem maskOf_and_ne_zero (m : Word) (p : Nat → Bool) : ((maskOf fun l => inMask m l && p l) != 0) = (lanesOf m).any p := by
  rw [Bool.eq_iff_iff, bne_iff_ne, List.any_eq_true]
  constructor
  · intro hne
    by_contra hnone
    refine hne (mask_ext fun l hl => ?_)
    rw [inMask_zero, inMask_maskOf, decide_eq_true hl, Bool.true_and, Bool.eq_false_iff, ne_eq, Bool.and_eq_true]
    exact fun hp => hnone ⟨l, mem_lanesOf.2 hp.1, hp.2⟩
  · rintro ⟨l, hl, hp⟩ h0
    have hm := mem_lanesOf.1 hl
    have hin : inMask (maskOf fun l => inMask m l && p l) l = true := by simp [inMask_lt hm, hm, hp]
    rw [h0, inMask_zero] at hin
    cases hin

theorem maskOf_and_eq_self (m : Word) (p : Nat → Bool) : ((maskOf fun l => inMask m l && p l) == m) = (lanesOf m).all p := by
  rw [Bool.eq_iff_iff, beq_iff_eq, List.all_eq_true]
  constructor
  · intro h l hl
    have hm := mem_lanesOf.1 hl
    rw [← h, inMask_maskOf, Bool.and_eq_true, Bool.and_eq_true] at hm
    exact hm.2.2
  · intro h
    exact maskOf_eq (fun l hm => by rw [hm, h l (mem_lanesOf.2 hm)]; rfl) fun l hl => (Bool.and_eq_true _ _ ▸ hl).1

theorem maskOf_and_eq_ofNat (m : Word) (p : Nat → Bool) :
    (maskOf fun l => inMask m l && p l) = BitVec.ofNat 32 (((lanesOf m).filter p).map fun l => 2 ^ l).sum := by
  rw [← lanesOf_maskOf_and]
  exact eq_ofNat_sum_lanesOf _

/-! ### Intersection (R133) -/

/-- Without counted lanes both counts are 0. -/
theorem isectCounts_map (ls : List Nat) (a b : Nat → Word) : isectCounts (ls.map a) (ls.map b) =
    let m := min ((ls.map fun l => (a l).toNat).foldr max 0) ((ls.map fun l => (b l).toNat).foldr max 0)
    let n := fun (key : Nat → Word) => (ls.filter fun l => (key l).toNat ≤ m).length
    BitVec.ofNat 32 (n a + n b * 2 ^ 8) := by
  cases ls with
  | nil => simp [isectCounts]
  | cons l ls =>
    simp only [isectCounts, List.filter_map, List.length_map, List.map_map, List.foldl_eq_foldr]
    rw [Nat.add_comm, Nat.mul_comm]
    rfl

/-- Settles O14: votes, reductions and the others are their shapes (`vote_lands`, `reduceOp_lands`, `groupOp_lands`), a mask is read by the list
of its lanes (`maskOf_and_eq_ofNat`, `popcount_eq_length`), and a fold over the counted lanes is that of their readings
(`foldl_add_zero`, `foldl_eq_ofInt_foldr`). -/
theorem groupOperationResults : Obligations.GroupOperationResults := by
  intro s h G x
  refine ⟨fun d a i => ⟨?_, ?_⟩, fun d a i => ⟨?_, ?_⟩, fun d a i => ⟨?_, ?_, ?_, ?_, ?_, ?_⟩, fun d a i => ⟨?_, ?_, ?_⟩, fun d a b i => ?_,
    fun d a b i => ?_, fun d a i => ?_⟩
  · exact vote_lands (f := fun b _ => b != 0) i (maskOf_and_ne_zero _ _)
  · exact vote_lands (f := fun b n => b == n) i (maskOf_and_eq_self _ _)
  · exact groupOp_lands (f := fun G x _ => ballotOf G x a) i fun _ => (ballotOf_advanced ..).trans (maskOf_and_eq_ofNat _ _)
  · refine groupOp_lands (f := fun G x _ => BitVec.ofNat 32 (popcount (ballotOf G x a))) i fun _ => ?_
    rw [ballotOf_advanced, popcount_eq_length, ballotOf, lanesOf_maskOf_and]
    rfl
  · exact reduceOp_lands (f := fun ws => ws.foldl (· + ·) 0) i (foldl_add_zero _)
  · exact reduceOp_lands (f := fun ws => ws.foldl minS 0x7FFFFFFF) i (foldl_eq_ofInt_foldr toInt_minS _ _)
  · exact reduceOp_lands (f := fun ws => ws.foldl maxS 0x80000000) i (foldl_eq_ofInt_foldr toInt_maxS _ _)
  · exact reduceOp_lands (f := foldF f32.min) i rfl
  · exact reduceOp_lands (f := foldF f32.max) i rfl
  · refine groupOp_lands (f := fun G x _ => treeBlock (treeSlots x.N fun m => (G.lane m).vreg a.val) 5 0) i fun _ => ?_
    simp only [advanced_vreg]
    rfl
  · refine groupOp_lands (f := fun G x l => maskOf fun m => inMask x.N m && (G.lane m).vreg a.val == (G.lane l).vreg a.val) i fun l => ?_
    simp only [advanced_vreg]
    exact maskOf_and_eq_ofNat _ _
  · refine groupOp_lands (f := fun G x l => ((lanesOf x.N).filter (· ≤ l)).foldl (fun t m => t + (G.lane m).vreg a.val) 0) i fun l => ?_
    simp only [advanced_vreg]
    rw [← List.foldl_map (f := fun m => (G.lane m).vreg a.val) (g := (· + ·)), foldl_add_zero, List.map_map]
    rfl
  · refine groupOp_lands (f := fun G x l => treePrefix (treeSlots x.N fun m => (G.lane m).vreg a.val) (l + 1)) i fun _ => ?_
    simp only [advanced_vreg]
    rfl
  · change Lands s G x (.v d) _ (execIsect h d a b s)
    refine groupOp_lands i fun l => ?_
    simp only [advanced_vreg]
    rfl
  · refine groupOp_lands (f := fun G x _ => isectCounts (counted G x a) (counted G x b)) i fun _ => ?_
    rw [counted_advanced, counted_advanced]
    exact isectCounts_map _ _ _
  · refine groupOp_lands (f := fun G x l => BitVec.ofNat 32 ((lanesOf x.N).filter fun m => m < l && (G.lane m).pred a).length) i fun _ => ?_
    simp only [advanced_pred]
    rfl

end Sys2Proof.Machine
end

section
/-! SUPPORT. Barriers (R140 to R144): reading a barrier that was set, the completion of a phase, and what the barrier instructions leave. -/

namespace Sys2Proof.Machine

/-! ### Reading and setting a barrier (R140) -/

/-- The share or unit of a barrier exists and holds the barrier. -/
def State.hasBarrier (s : State) : BarAt → Prop
  | .share k n => ∃ sh, AMap.get? s.shares k = some sh ∧ n < sh.bars.length
  | .unit u n => ∃ v, AMap.get? s.units u = some v ∧ n < v.bars.length

theorem State.barrier_congr {s t : State} (hs : t.shares = s.shares) (hu : t.units = s.units) (b : BarAt) : t.barrier b = s.barrier b := by
  cases b <;> simp only [State.barrier, State.share, hs, hu]

theorem State.barrier_setBarrier {s : State} {b : BarAt} (hb : s.hasBarrier b) (y : Barrier) : (s.setBarrier b y).barrier b = y := by
  cases b with
  | share k n =>
    obtain ⟨sh, hk, hn⟩ := hb
    simp only [State.setBarrier, State.barrier, State.share, State.updShare, AMap.getD, AMap.get?_upd, if_true, hk, Option.map_some,
      Option.getD_some, List.getD_eq_getElem?_getD, List.getElem?_set_self hn]
  | unit u n =>
    obtain ⟨v, hu, hn⟩ := hb
    simp only [State.setBarrier, State.barrier, State.updUnit, AMap.get?_upd, if_true, hu, Option.map_some, List.getD_eq_getElem?_getD,
      List.getElem?_set_self hn, Option.getD_some]

theorem State.hasBarrier_setBarrier {s : State} {b : BarAt} (hb : s.hasBarrier b) (y : Barrier) : (s.setBarrier b y).hasBarrier b := by
  cases b with
  | share k n =>
    obtain ⟨sh, hk, hn⟩ := hb
    exact ⟨{ sh with bars := sh.bars.set n y }, by simp only [State.setBarrier, State.updShare, AMap.get?_upd, if_true, hk, Option.map_some],
      by rwa [List.length_set]⟩
  | unit u n =>
    obtain ⟨v, hu, hn⟩ := hb
    exact ⟨{ v with bars := v.bars.set n y }, by simp only [State.setBarrier, State.updUnit, AMap.get?_upd, if_true, hu, Option.map_some],
      by rwa [List.length_set]⟩

@[simp] theorem State.setBarrier_mem (s : State) (b : BarAt) (y : Barrier) : (s.setBarrier b y).mem = s.mem := by cases b <;> rfl

/-- EXP counts threads, which no barrier holds. -/
@[simp] theorem State.expected_setBarrier (s : State) (b c : BarAt) (y : Barrier) : (s.setBarrier b y).expected c = s.expected c := by
  cases b <;> rfl

/-! ### Completion (R142) -/

/-- Released lanes go on after an acquire, which no barrier and no byte of memory sees. -/
theorem State.releaseTokens_keeps (b : BarAt) (phase : Word) : ∀ (gs : List Nat) (s : State),
    (s.releaseTokens b phase gs).shares = s.shares ∧ (s.releaseTokens b phase gs).units = s.units ∧ (s.releaseTokens b phase gs).mem = s.mem
  | [], _ => ⟨rfl, rfl, rfl⟩
  | g :: gs, s => by
    unfold State.releaseTokens
    split
    · exact State.releaseTokens_keeps b phase gs s
    · dsimp only
      split
      · exact State.releaseTokens_keeps b phase gs s
      · exact State.releaseTokens_keeps b phase gs _

theorem State.barrier_pulse (s : State) (k e : Nat) (b : BarAt) : (s.updShare k fun h => h.pulse e).barrier b = s.barrier b := by
  cases b with
  | share j n =>
    simp only [State.barrier, State.share, State.updShare, AMap.getD, AMap.get?_upd]
    split
    · cases AMap.get? s.shares j <;> rfl
    · rfl
  | unit u n => rfl

/-- The pulse of a phase of team barrier 0 to 3 (R228). -/
def State.pulseBar (s : State) : BarAt → State
  | .share k n => if n < 4 then s.updShare k fun h => h.pulse (6 + n) else s
  | .unit _ _ => s

theorem State.pulseBar_barrier (s : State) (b c : BarAt) : (s.pulseBar b).barrier c = s.barrier c := by
  cases b with
  | share k n =>
    rw [State.pulseBar]
    split
    · exact s.barrier_pulse k (6 + n) c
    · rfl
  | unit u n => rfl

theorem State.pulseBar_mem (s : State) (b : BarAt) : (s.pulseBar b).mem = s.mem := by
  cases b with
  | share k n =>
    rw [State.pulseBar]
    split <;> rfl
  | unit u n => rfl

theorem State.completeBar_eq (s : State) (b : BarAt) : ∃ gs, s.completeBar b =
    ((s.setBarrier b { s.barrier b with phase := (s.barrier b).phase + 1, arr := 0 }).pulseBar b).releaseTokens b ((s.barrier b).phase + 1) gs := by
  cases b <;> exact ⟨_, rfl⟩

theorem State.completeBar_barrier {s : State} {b : BarAt} (hb : s.hasBarrier b) :
    (s.completeBar b).barrier b = { s.barrier b with phase := (s.barrier b).phase + 1, arr := 0 } := by
  obtain ⟨gs, h⟩ := s.completeBar_eq b
  obtain ⟨hs, hu, -⟩ := State.releaseTokens_keeps b ((s.barrier b).phase + 1) gs _
  rw [h, State.barrier_congr hs hu, State.pulseBar_barrier, State.barrier_setBarrier hb]

theorem State.completeBar_mem (s : State) (b : BarAt) : (s.completeBar b).mem = s.mem := by
  obtain ⟨gs, h⟩ := s.completeBar_eq b
  obtain ⟨-, -, hm⟩ := State.releaseTokens_keeps b ((s.barrier b).phase + 1) gs _
  rw [h, hm, State.pulseBar_mem, State.setBarrier_mem]

/-- check() of R142 at a barrier that was just set. -/
theorem State.checkBar_barrier {s : State} {b : BarAt} (hb : s.hasBarrier b) (y : Barrier) : ((s.setBarrier b y).checkBar b).barrier b =
    if 1 ≤ y.arr ∧ s.expected b ≤ y.arr ∧ y.bal.toInt ≤ 0 then { y with phase := y.phase + 1, arr := 0 } else y := by
  have hset := State.barrier_setBarrier hb y
  have hdone : (1 ≤ y.arr && (s.expected b ≤ y.arr : Bool) && y.bal.sle 0) = true ↔ 1 ≤ y.arr ∧ s.expected b ≤ y.arr ∧ y.bal.toInt ≤ 0 := by
    simp [BitVec.sle_iff_toInt_le, and_assoc]
  simp only [State.checkBar, hset, State.expected_setBarrier]
  by_cases h : 1 ≤ y.arr ∧ s.expected b ≤ y.arr ∧ y.bal.toInt ≤ 0
  · rw [if_pos h, if_pos (hdone.2 h), State.completeBar_barrier (State.hasBarrier_setBarrier hb y), hset]
  · rw [if_neg h, if_neg (mt hdone.1 h), hset]

theorem State.checkBar_mem (s : State) (b : BarAt) : (s.checkBar b).mem = s.mem := by
  unfold State.checkBar
  dsimp only
  split
  · exact s.completeBar_mem b
  · rfl

theorem State.arriveBar_mem (s : State) (b : BarAt) (k : Nat) : (s.arriveBar b k).mem = s.mem := by
  rw [State.arriveBar, State.checkBar_mem, State.setBarrier_mem]

/-- Completion leaves what is awaited alone. -/
theorem State.creditBar_bal {s : State} {b : BarAt} (hb : s.hasBarrier b) (n : Nat) :
    ((s.creditBar b n).barrier b).bal = (s.barrier b).bal - BitVec.ofNat 64 n := by
  rw [State.creditBar, State.checkBar_barrier hb]
  split <;> rfl

/-! ### Tokens (R142) -/

theorem passed_iff (phase tok : Word) : passed phase tok = true ↔ ¬ ((phase - tok).toNat = 0 ∨ 2 ^ 31 ≤ (phase - tok).toNat) := by
  rw [passed, Bool.not_eq_true', Bool.eq_false_iff, ne_eq, Bool.or_eq_true, beq_iff_eq, decide_eq_true_iff, ← BitVec.toNat_inj]
  rfl

/-! ### The barrier instructions (R141 to R144) -/

theorem barFor_of_team {s : State} {g : Nat} {G : Group} {t : Team} (hG : s.group? g = some G) (ht : s.team? G.team = some t) (bar : Bar) :
    s.barFor g bar = some (barOf t bar) := by
  rw [State.barFor, hG, Option.bind_some, ht, Option.map_some]

section
variable {s : State} {h : Hdr} {bar : Bar} {G : Group} {x : At} {t : Team} {d : Reg}

theorem barFor_advance (a : AtOf s h G x) (ht : s.team? G.team = some t) : (s.advance x).barFor x.g bar = some (barOf t bar) :=
  barFor_of_team (advance_group a) ht bar

theorem barrier_advance (s : State) (x : At) (b : BarAt) : (s.advance x).barrier b = s.barrier b := State.barrier_congr rfl rfl b

theorem ne_zero_of_supplies (a : AtOf s h G x) (hd : supplies x d) : x.T ≠ 0 := by
  cases d with
  | v n => exact hd
  | s n => exact fun h0 => hd (by rw [a.N, h0]; exact BitVec.zero_and)

theorem execBara_pended (i : Issues s h .core [(d, 1)] noHandles G x) (hd : supplies x d) :
    ∃ u, Pended s u G x keep (pendOf G x (.bara bar) d 1 fun _ => .waiting 0) ∧
      execBara h d bar s = .next ((if u.mustHold x.g x.seq x.T then u.holdAct x.g x.seq x.T 0 (.barA bar (popcount x.N) x.seq)
        else u.runBarA x.g bar (popcount x.N) x.seq).close x G) := by
  have a := atOf i.bundle
  refine ⟨_, pended_addPend a (.bara bar) d 1 _ hd, ?_⟩
  rw [execBara, issue_next i, if_neg (ne_zero_of_supplies a hd)]

theorem execBars_yields (i : Issues s h .core [] noHandles G x) (hT : x.T ≠ 0) :
    Yields s G x (fun u => if u.mustHold x.g x.seq x.T then u.holdAct x.g x.seq x.T x.T (.barS bar (popcount x.N) x.T)
      else u.runBarS x.g bar (popcount x.N) x.T) (execBars h bar s) :=
  yields_of_issue i (if_neg hT)

/-- The lanes whose token has not passed wait, and the others go on after an acquire. -/
theorem execBarw_eq {a : Reg} (i : Issues s h .core [(a, 1)] noHandles G x) (ht : s.team? G.team = some t) :
    let go := maskOf fun l => inMask x.T l && passed (s.barrier (barOf t bar)).phase (G.reg l a 0)
    let u := (s.advance x).updGroup x.g fun H => H.updLanes x.T fun l L => if inMask go l then L else { L with wait := .token bar (G.reg l a 0) }
    execBarw h a bar s = .next ((if go = 0 then u else u.acquire (coreOf x.g)).close x G) := by
  have at' := atOf i.bundle
  intro go u
  have hwait : (s.advance x).waitLanes x (x.T &&& ~~~go) (fun l => .token bar (G.reg l a 0)) = u := by
    refine congrArg ((s.advance x).updGroup x.g) (funext fun H => Group.updLanes_eq fun l L => ?_)
    rw [inMask_and_not]
    cases inMask x.T l <;> cases inMask go l <;> rfl
  rw [execBarw, issue_next i]
  simp only [advance_group at', barFor_advance at' ht, barrier_advance, advanced_reg]
  rw [← hwait]

theorem execBarw_turns {a : Reg} (i : Issues s h .core [(a, 1)] noHandles G x) (ht : s.team? G.team = some t)
    (hgo : (maskOf fun l => inMask x.T l && passed (s.barrier (barOf t bar)).phase (G.reg l a 0)) = 0) :
    Turns s G x (fun l L => { L with wait := .token bar (G.reg l a 0) }) (execBarw h a bar s) := by
  refine ⟨_, moved_updLanes (atOf i.bundle) _, ?_⟩
  have heq := execBarw_eq (bar := bar) i ht
  simpa only [hgo, inMask_zero, Bool.false_eq_true, if_false, if_true] using heq

theorem execBarw_acquires {a : Reg} (i : Issues s h .core [(a, 1)] noHandles G x) (ht : s.team? G.team = some t) {go : Word}
    (hgo : (maskOf fun l => inMask x.T l && passed (s.barrier (barOf t bar)).phase (G.reg l a 0)) = go) (hne : go ≠ 0) :
    ∃ u, Moved s u G x (fun l L => if inMask go l then L else { L with wait := .token bar (G.reg l a 0) }) ∧
      execBarw h a bar s = .next ((u.acquire (coreOf x.g)).close x G) := by
  subst hgo
  exact ⟨_, moved_updLanes (atOf i.bundle) _, (execBarw_eq i ht).trans (by rw [if_neg hne])⟩

theorem execBarx_yields {sa : SReg} (i : Issues s h .core [(.s sa, 1)] noHandles G x) (ht : s.team? G.team = some t) (hT : x.T ≠ 0) :
    Yields s G x (fun u => let b := u.barrier (barOf t bar)
      (u.setBarrier (barOf t bar) { b with bal := b.bal + BitVec.ofNat 64 (G.sreg sa.val).toNat }).checkBar (barOf t bar)) (execBarx h sa bar s) := by
  have a := atOf i.bundle
  refine yields_of_issue i ?_
  rw [if_neg hT]
  simp only [advance_group a, barFor_advance a ht, advanced_sreg, BitVec.ofNat_toNat]

end

/-- Settles O26: a check after a barrier was set (`State.checkBar_barrier`, `State.completeBar_barrier`), and one lemma for each instruction. -/
theorem barriers : Obligations.Barriers := by
  refine ⟨fun s b c hb => ?_, fun s h bar G x t ht => ⟨fun d i hd => execBara_pended i hd, fun i hT => execBars_yields i hT,
    fun a i => ⟨execBarw_turns i ht, execBarw_acquires i ht rfl⟩, fun sa i hT => execBarx_yields i ht hT, passed_iff⟩⟩
  have hb : s.hasBarrier b := by cases b <;> exact hb
  exact ⟨State.checkBar_barrier hb _, s.arriveBar_mem b c, State.creditBar_bal hb c⟩

end Sys2Proof.Machine
end

section
/-! SUPPORT. Power states and package reset (R166, R335, R343 to R346). -/

namespace Sys2Proof.Machine

theorem exec_powerStateEntry (s : State) : exec .powerStateEntry s = execPowerStateEntry s := rfl
theorem exec_wakeEvent (w : WakeCause) (s : State) : exec (.wakeEvent w) s = .next s.awake := rfl
theorem exec_powerThrottle (k : Nat) (s : State) : exec (.powerThrottle k) s = .next (s.setDev fun v => { v with throttle := k }) := rfl

/-! ### Power states (R335, R343, R344) -/

/-- The state after the power policy has entered one. -/
def State.enterPower (s : State) (p : Nat) : State := { s.setDev fun v => { v with power := p } with seq := s.seq + 1 }

theorem exec_powerStateEntry_of_some {s : State} {p : Nat} (h : s.powerNext (Config.linksQuiet s.seq) = some p) :
    exec .powerStateEntry s = .next (s.enterPower p) := by
  rw [exec_powerStateEntry, execPowerStateEntry, h]
  rfl

theorem exec_powerStateEntry_of_none {s : State} (h : s.powerNext (Config.linksQuiet s.seq) = none) :
    exec .powerStateEntry s = .next s.passOver := by
  rw [exec_powerStateEntry, execPowerStateEntry, h]
  rfl

theorem State.powerLimit_of_host {s : State} (h : s.hostMode 5 = true) (hf : s.dev.force ≤ 4) : s.powerLimit = s.dev.force := by
  rw [State.powerLimit, if_pos h, if_neg (by omega)]

theorem State.powerLimit_of_hardware {s : State} (h : s.hostMode 5 = false) : s.powerLimit = tolerated s.dev.ltol := by
  rw [State.powerLimit, h]
  rfl

/-- The bands of latency tolerance (R344). -/
theorem tolerated_bands (l : Nat) : (l < 2 → tolerated l = 0) ∧ (2 ≤ l → l < 20 → tolerated l = 1) ∧ (20 ≤ l → l < 200 → tolerated l = 2) ∧
    (200 ≤ l → l < 5000 → tolerated l = 3) ∧ (5000 ≤ l → tolerated l = 4) := by
  unfold tolerated
  split_ifs <;> omega

/-- A resident group keeps the package awake. -/
theorem State.idleDepth_of_group {s : State} {e : Nat × Group} (he : e ∈ s.groups) (hw : e.2.wave = none) (quiet : Bool) : s.idleDepth quiet = 0 := by
  have hany : (s.groups.any fun e => e.2.wave.isNone) = true := List.any_eq_true.2 ⟨e, he, by rw [hw]; rfl⟩
  rw [State.idleDepth, if_pos hany]

/-- How deep an idle package may go, and what each depth asks for. -/
theorem State.idleDepth_spec (s : State) (quiet : Bool) : s.idleDepth quiet ≤ 4 ∧ (s.idleDepth quiet = 4 → quiet = true) ∧
    (s.idleDepth quiet ≠ 0 → s.idleDepth quiet ≠ 1 → s.enginesIdle = true) ∧ (3 ≤ s.idleDepth quiet → s.packets = [] ∧ s.lsq = []) := by
  unfold State.idleDepth
  split
  · simp
  · split
    · simp
    · next he =>
      have hidle : s.enginesIdle = true := by simpa using he
      split
      · simp [hidle]
      · next hq =>
        simp only [Bool.not_eq_true', Bool.not_eq_false, Bool.and_eq_true, List.isEmpty_iff] at hq
        obtain ⟨⟨⟨⟨⟨hp, -⟩, -⟩, -⟩, hl⟩, -⟩ := hq
        cases quiet <;> simp [hidle, hp, hl]

/-- FORCE or LTOL lies below the present state. -/
theorem State.powerNext_of_lowered {s : State} (h : s.powerLimit < s.dev.power) (quiet : Bool) : s.powerNext quiet = some s.powerLimit := by
  have ht : ¬ s.dev.power < if s.hostMode 5 then s.powerLimit else min s.powerLimit (s.idleDepth quiet) := by split <;> omega
  simp only [State.powerNext]
  rw [if_neg ht, if_pos h]

theorem State.powerNext_of_hardware {s : State} (h : s.dev.power ≤ s.powerLimit) (hm : s.hostMode 5 = false) (quiet : Bool) :
    s.powerNext quiet = if s.dev.power < min s.powerLimit (s.idleDepth quiet) then some (min s.powerLimit (s.idleDepth quiet)) else none := by
  simp only [State.powerNext, hm, Bool.false_eq_true, if_false]
  rw [if_pos (min_le_right ..), if_neg (not_lt.2 h)]

theorem State.powerNext_of_host {s : State} (h : s.dev.power ≤ s.powerLimit) (hm : s.hostMode 5 = true) (quiet : Bool) :
    s.powerNext quiet = if s.dev.power < s.powerLimit ∧ s.powerLimit ≤ s.idleDepth quiet then some s.powerLimit else none := by
  simp only [State.powerNext, hm, if_true]
  rw [if_neg (not_lt.2 h), ite_and]

/-! ### Package reset (R164, R166, R346) -/

/-- The package after a reset, before the record of an update that was applied. -/
def State.restarted (s : State) : State := { State.reset with
  agenda := s.agenda, seq := s.seq
  mem := s.mem.filter fun e => region e.1 == .host || region e.1 == .fabric
  dev := s.dev.afterReset }

theorem exec_packageReset_eq (s : State) :
    exec .packageReset s = .next (if s.dev.pendingFw.isSome then s.restarted.cxlEvent 4 0 0 else s.restarted) := rfl

theorem State.restarted_isLost (s : State) (k : Nat) : s.restarted.isLost k = s.isLost k := by
  change ((s.dev.stkh.map fun h => ({ lost := h.lost } : StackHealth)).getD k {}).lost = (s.dev.stkh.getD k {}).lost
  rw [List.getD_eq_getElem?_getD, List.getD_eq_getElem?_getD, List.getElem?_map]
  cases s.dev.stkh[k]? <;> rfl

theorem State.restarted_byte (s : State) {a : Nat} (h : region a = .host ∨ region a = .fabric) : s.restarted.byte a = s.byte a := by
  have hp : (region a == .host || region a == .fabric) = true := by simpa using h
  change (AMap.get? (s.mem.filter fun e => region e.1 == .host || region e.1 == .fabric) a).getD 0 = _
  rw [AMap.get?_filter s.mem (fun k => region k == .host || region k == .fabric), if_pos hp]
  rfl

/-- What a reset leaves, but for the event record: the reset state, and what survives. -/
theorem State.restarted_dev (s : State) : s.restarted.dev.rollback = (s.dev.pendingFw.map (·.1)).getD s.dev.rollback ∧
    s.restarted.dev.recovery = !(imageOk s.restarted.dev.image.2 && decide (s.restarted.dev.fused ≤ s.restarted.dev.image.1)) := by
  refine ⟨?_, rfl⟩
  unfold State.restarted Dev.afterReset
  cases s.dev.pendingFw <;> rfl

/-- Settles O59: the policy's branches by what the limit and the idle depth are, and the reset through `State.restarted`, to which an
applied update only adds its event record. -/
theorem powerAndReset : Obligations.PowerAndReset := by
  refine ⟨fun s => ⟨fun p hp => ⟨s.enterPower p, exec_powerStateEntry_of_some hp, rfl, rfl, rfl⟩, exec_powerStateEntry_of_none⟩, fun s quiet => ?_,
    fun s w => ⟨s.awake, exec_wakeEvent w s, rfl, rfl, rfl, rfl⟩, fun s k => ⟨_, exec_powerThrottle k s, rfl, rfl, rfl, rfl, rfl⟩, fun s => ?_⟩
  · obtain ⟨hle, hquiet, hidle, hempty⟩ := s.idleDepth_spec quiet
    refine ⟨State.powerLimit_of_host, fun hm => ?_, fun ⟨e, he, hw⟩ => State.idleDepth_of_group he hw quiet, hle, hquiet, hidle, hempty,
      fun h => State.powerNext_of_lowered h quiet, fun h hm => State.powerNext_of_hardware h hm quiet, fun h hm => State.powerNext_of_host h hm quiet⟩
    rw [State.powerLimit_of_hardware hm]
    exact tolerated_bands s.dev.ltol
  · obtain ⟨hroll, hrec⟩ := s.restarted_dev
    refine ⟨_, exec_packageReset_eq s, ?_⟩
    cases hp : s.dev.pendingFw with
    | none =>
      rw [hp] at hroll
      exact ⟨rfl, rfl, rfl, rfl, rfl, s.restarted_isLost, rfl, rfl, rfl, rfl, congrArg (·.or s.dev.fw) hp, hroll, hrec, fun _ => rfl,
        fun h => absurd rfl h, fun a ha => s.restarted_byte ha⟩
    | some x =>
      rw [hp] at hroll
      exact ⟨rfl, rfl, rfl, rfl, rfl, s.restarted_isLost, rfl, rfl, rfl, rfl, congrArg (·.or s.dev.fw) hp, hroll, hrec, fun h => (nomatch h),
        fun _ => ⟨_, rfl, rfl⟩, fun a ha => s.restarted_byte ha⟩

end Sys2Proof.Machine
end

section
/-! SUPPORT. The base dies below the slices (R154 to R162): the words that a read meets, the packets and jobs that start, and what each leaves
alone. -/

namespace Sys2Proof.Machine

/-! ### Numbers of a table -/

/-- A listed key lies below the next number. -/
theorem AMap.lt_next_of_get? {β : Type} {m : AMap β} {k : Nat} {x : β} (h : AMap.get? m k = some x) : k < AMap.next m := by
  have grows : ∀ (l : AMap β) (n : Nat), n ≤ l.foldl (fun k e => if e.1 + 1 > k then e.1 + 1 else k) n := by
    intro l
    induction l with
    | nil => exact fun n => le_rfl
    | cons e l ih => exact fun n => le_trans (by beta_reduce; split <;> omega) (ih _)
  have above : ∀ (l : AMap β) (n : Nat), (k, x) ∈ l → k < l.foldl (fun k e => if e.1 + 1 > k then e.1 + 1 else k) n := by
    intro l
    induction l with
    | nil => exact fun n hm => nomatch hm
    | cons e l ih =>
      intro n hm
      rcases List.mem_cons.1 hm with rfl | hm
      · exact lt_of_lt_of_le (by beta_reduce; split <;> omega) (grows l _)
      · exact ih _ hm
  exact above m 1 (AMap.mem_of_get? h)

/-- An entry put under the next number leaves those that are listed. -/
theorem AMap.get?_put_next {β : Type} {m : AMap β} {k : Nat} {x : β} (y : β) (h : AMap.get? m k = some x) :
    AMap.get? (AMap.put m (AMap.next m) y) k = some x := by
  rw [AMap.get?_put_ne _ _ (AMap.lt_next_of_get? h).ne', h]

/-! ### Packets that start -/

theorem State.send_packet (s : State) (p : Packet) : AMap.get? (s.send p).packets (AMap.next s.packets) = some p := AMap.get?_put_self ..

/-- A state with other packets on their way and other jobs of stripes. -/
def State.withRing (s : State) (packets : AMap Packet) (jobs : AMap StripeJob) : State := { s with packets, jobs }

/-- Packets that start one after the other join those that are on their way. -/
theorem State.foldl_send_eq {α : Type} (f : α → Packet) : ∀ (l : List α) (s : State), ∃ ps : AMap Packet,
    l.foldl (fun (s : State) a => s.send (f a)) s = s.withRing ps s.jobs ∧
    ∀ k p, AMap.get? s.packets k = some p → AMap.get? ps k = some p
  | [], s => ⟨s.packets, rfl, fun _ _ h => h⟩
  | a :: l, s => by
    obtain ⟨ps, heq, hps⟩ := State.foldl_send_eq f l (s.send (f a))
    exact ⟨ps, heq, fun k p h => hps k p (AMap.get?_put_next (f a) h)⟩

/-! ### The health of a stack (R154, R161) -/

/-- A stack's health stands in the device's registers. -/
theorem State.setStack_eq (s : State) (t : Nat) (f : StackHealth → StackHealth) :
    ∃ d : Dev, s.setStack t f = s.setDev (fun _ => d) ∧ d.stkh = modAt s.dev.stkh t f := by
  simp only [State.setStack]
  split
  · exact ⟨_, rfl, rfl⟩
  · exact ⟨_, rfl, rfl⟩

theorem State.countCe_eq (s : State) {t : Nat} (ht : t < s.dev.stkh.length) : ∃ d : Dev, s.countCe t = s.setDev (fun _ => d) ∧
    (d.stkh.getD t {}).cecnt = min 255 ((s.dev.stkh.getD t {}).cecnt + 1) := by
  obtain ⟨d, heq, hd⟩ := s.setStack_eq t fun h => { h with cecnt := min 255 (h.cecnt + 1) }
  exact ⟨d, heq, by rw [hd, modAt_getD _ ht, if_pos rfl]⟩

theorem State.countUe_eq (s : State) {t : Nat} (ht : t < s.dev.stkh.length) : ∃ d : Dev, s.countUe t = s.setDev (fun _ => d) ∧
    (d.stkh.getD t {}).uecnt = min 255 ((s.dev.stkh.getD t {}).uecnt + 1) := by
  obtain ⟨d, heq, hd⟩ := s.setStack_eq t fun h => { h with uecnt := min 255 (h.uecnt + 1) }
  exact ⟨d, heq, by rw [hd, modAt_getD _ ht, if_pos rfl]⟩

theorem State.countUe_isLost (s : State) (t k : Nat) : (s.countUe t).isLost k = s.isLost k :=
  isLost_of_settings (s.settings_setStack t (f := fun h => { h with uecnt := min 255 (h.uecnt + 1) }) fun _ => rfl) k

/-! ### Words that are read (R154, R161) -/

/-- A word of unknown state. -/
def State.unmarked (s : State) (t off : Nat) : Bool := !(s.dramPois.contains (eccKey t off) || s.dramUe.contains (eccKey t off))

theorem State.meet_good (s : State) (t off : Nat) : s.meet t off .good = s := by
  simp only [State.meet]
  split <;> rfl

theorem State.meet_corrected {s : State} {t off : Nat} (h : s.unmarked t off = true) : s.meet t off .corrected = s.countCe t := by
  simp only [State.meet]
  rw [if_neg (by simpa [State.unmarked] using h)]

theorem State.meet_uncorrectable {s : State} {t off : Nat} (h : s.unmarked t off = true) :
    s.meet t off .uncorrectable = ({ s with dramUe := setIns (eccKey t off) s.dramUe }).countUe t := by
  simp only [State.meet]
  rw [if_neg (by simpa [State.unmarked] using h)]

/-- Nothing is met where every word is good. -/
theorem State.meetAll_good (s : State) (t : Nat) {offs : List Nat} {es : List EccState} (h : ∀ e ∈ es, e = .good) : s.meetAll t offs es = s := by
  rw [State.meetAll, List.foldl_ext _ (fun s _ => s) s fun s e he => by rw [h e.2 (List.of_mem_zip he).2, State.meet_good]]
  exact List.foldl_fixed _

/-! ### Repairs and reconstructions (R160, R161) -/

/-- Words that all can be corrected want no repair. -/
theorem State.repair_of_readable {s : State} {t : Nat} {offs : List Nat} (h : ∀ off ∈ offs, s.dramUe.contains (eccKey t off) = false) :
    s.repair t offs = s := by
  have hbad : (offs.filter fun off => s.dramUe.contains (eccKey t off)) = [] := List.filter_eq_nil_iff.2 fun off ho => by rw [h off ho]; exact Bool.false_ne_true
  simp only [State.repair, hbad]
  rfl

/-- The LOCKs of a reconstruction change no more than the packets and the jobs. -/
theorem State.sendLocks_eq (s : State) (j : Nat) (J : StripeJob) : ∃ ps : AMap Packet,
    s.sendLocks j J = s.withRing ps (AMap.put s.jobs j { J with started := true }) ∧
    ∀ k p, AMap.get? s.packets k = some p → AMap.get? ps k = some p := by
  obtain ⟨ps, heq, hps⟩ := State.foldl_send_eq (fun k => ringPacket .lock J.coord k (J.stripe * 256) 0 j) ((List.range 16).filter fun k => !s.isLost k)
    { s with jobs := AMap.put s.jobs j { J with started := true } }
  exact ⟨ps, heq, hps⟩

/-- A reconstruction starts or waits; it changes no more than the packets and the jobs. -/
theorem State.startJob_eq (s : State) (t : Nat) (req : Packet) (entry : Option Nat) : ∃ (ps : AMap Packet) (J : StripeJob),
    s.startJob t req entry = s.withRing ps (AMap.put s.jobs (AMap.next s.jobs) J) ∧ J.stripe = req.off / 256 ∧ J.want = t ∧
    J.req = req ∧ ∀ k p, AMap.get? s.packets k = some p → AMap.get? ps k = some p := by
  simp only [State.startJob]
  split
  · exact ⟨s.packets, _, rfl, rfl, rfl, rfl, fun _ _ h => h⟩
  · obtain ⟨ps, heq, hps⟩ := s.sendLocks_eq (AMap.next s.jobs)
      { stripe := req.off / 256, coord := s.coordOf t (req.off / 256), want := t, req, entry }
    exact ⟨ps, _, heq, rfl, rfl, rfl, hps⟩

theorem State.others_of_none_lost {s : State} (h : ∀ k, s.isLost k = false) (t : Nat) : (otherStacks t).any s.isLost = false :=
  List.any_eq_false.2 fun k _ => by rw [h k]; exact Bool.false_ne_true

/-- A word that cannot be corrected has its chunk reconstructed. -/
theorem State.repair_of_unreadable {s : State} {t off : Nat} (ht : t < 16) (hue : s.dramUe.contains (eccKey t off) = true)
    (hl : ∀ k, s.isLost k = false) (hj : ∀ e ∈ s.jobs, e.2.stripe ≠ off / 256) :
    s.repair t [off] = s.startJob t (ringPacket .rd t t (off / 256 * 256) 0 0) none := by
  have hbad : ([off].filter fun off => s.dramUe.contains (eccKey t off)) = [off] := List.filter_cons_of_pos (p := fun off => s.dramUe.contains (eccKey t off)) hue
  have hjobs : (s.jobs.any fun e => e.2.want == t && e.2.stripe == [off].headD 0 / 256) = false :=
    List.any_eq_false.2 fun e he => by simp [hj e he]
  simp only [State.repair, hbad]
  rw [if_neg (by exact Bool.false_ne_true), if_neg (by rw [s.others_of_none_lost hl, decide_eq_false (Nat.not_le.2 ht)]; exact Bool.false_ne_true),
    if_neg (by rw [hjobs]; exact Bool.false_ne_true)]
  rfl

end Sys2Proof.Machine
end

section
/-! SUPPORT. Scrubbing, the loss of a stack, and the move of a page (R154, R157, R161, R162, R164, R169, R342). -/

namespace Sys2Proof.Machine

theorem exec_patrolScrub (stack word : Nat) (found : EccState) (s : State) : exec (.patrolScrub stack word found) s = execPatrolScrub stack word found s := rfl
theorem exec_stackLoss (stack : Nat) (s : State) : exec (.stackLoss stack) s = execStackLoss stack s := rfl
theorem exec_tierMigration (ctx : Nat) (va : DWord) (tier : Bool) (frame : Nat) (s : State) :
    exec (.tierMigration ctx va tier frame) s = execTierMigration ctx va tier frame s := rfl

/-! ### Scrubbing -/

theorem exec_patrolScrub_of_stack {s : State} {stack word : Nat} (ht : stack < 16) (hw : word < 2 ^ 31) (hl : s.isLost stack = false) (found : EccState) :
    exec (.patrolScrub stack word found) s = .next ((s.meet stack (32 * word) found).repair stack [32 * word]) := by
  have hrange : (decide (stack ≥ 18) || decide (word ≥ if stack < 16 then 2 ^ 31 else 2 ^ 39) || s.isLost stack) = false := by
    rw [if_pos ht, hl]
    simp
    omega
  rw [exec_patrolScrub, execPatrolScrub, hrange]
  rfl

theorem mem_setIns_self (a : Nat) (l : List Nat) : (setIns a l).contains a = true := List.contains_iff_mem.2 (mem_setIns.2 (.inl rfl))

/-- A word that the scrub cannot correct is counted, and its reconstruction starts. -/
theorem scrub_of_uncorrectable {s : State} {stack word : Nat} (ht : stack < 16) (hu : s.unmarked stack (32 * word) = true) (hh : stack < s.dev.stkh.length)
    (hl : ∀ k, s.isLost k = false) (hj : ∀ e ∈ s.jobs, e.2.stripe ≠ word / 8) : ∃ (u : State) (j : Nat) (J : StripeJob),
    (s.meet stack (32 * word) .uncorrectable).repair stack [32 * word] = u ∧ u.mem = s.mem ∧ u.dram = s.dram ∧
      (u.dev.stkh.getD stack {}).uecnt = min 255 ((s.dev.stkh.getD stack {}).uecnt + 1) ∧
      AMap.get? u.jobs j = some J ∧ J.stripe = word / 8 ∧ J.want = stack := by
  obtain ⟨v, hv⟩ : ∃ v : State, v = { s with dramUe := setIns (eccKey stack (32 * word)) s.dramUe } := ⟨_, rfl⟩
  obtain ⟨d, hd, hcount⟩ := v.countUe_eq (t := stack) (by rw [hv]; exact hh)
  have hlost (k : Nat) : (v.countUe stack).isLost k = false := (v.countUe_isLost stack k).trans (by rw [hv]; exact hl k)
  have hue : (v.countUe stack).dramUe.contains (eccKey stack (32 * word)) = true := by rw [hd, hv]; exact mem_setIns_self ..
  have hjobs : ∀ e ∈ (v.countUe stack).jobs, e.2.stripe ≠ 32 * word / 256 := by
    rw [hd, hv]
    exact fun e he => by have := hj e he; omega
  obtain ⟨ps, J, hjob, hstripe, hwant, -, -⟩ := (v.countUe stack).startJob_eq stack (ringPacket .rd stack stack (32 * word / 256 * 256) 0 0) none
  refine ⟨(v.countUe stack).withRing ps (AMap.put (v.countUe stack).jobs (AMap.next (v.countUe stack).jobs) J), _, J, ?_, ?_, ?_, ?_,
    AMap.get?_put_self .., hstripe.trans ?_, hwant⟩
  · rw [State.meet_uncorrectable hu, ← hv, State.repair_of_unreadable ht hue hlost hjobs, hjob]
  · rw [hd, hv]; rfl
  · rw [hd, hv]; rfl
  · rw [hd]; exact hcount.trans (by rw [hv])
  · change 32 * word / 256 * 256 / 256 = word / 8
    omega

/-! ### The loss of a stack -/

/-- The record of a loss: the stack is lost, what its ring had is gone, and memory needs a replacement. -/
def State.recordLoss (s : State) (k : Nat) : State := { s with
  jobs := [], locks := [], pendPar := s.pendPar.filter fun e => e.1 % 32 != k
  dev := { s.dev with
    stkh := modAt s.dev.stkh k fun h => { h with lost := true }, repl := true
    lost := if s.dev.lost.length < 2 then s.dev.lost ++ [k] else s.dev.lost } }

/-- A loss while nothing is on its way is recorded and reported. -/
theorem State.loseStack_of_quiet {s : State} (hp : s.packets = []) (hj : s.jobs = []) (hw : s.writes = []) (k : Nat) :
    s.loseStack k = (s.recordLoss k).cxlEvent 1 k (s.recordLoss k).nLost := by
  unfold State.loseStack
  simp only [hp, hj, hw, List.foldl_nil, List.map_nil]
  generalize hz : State.cxlEvent _ 1 k _ = z
  have hzw : z.writes = [] := by rw [← hz]; rfl
  rw [hzw, List.foldl_nil, ← hz, State.recordLoss, ← hj, ← hp, ← hw]

theorem State.recordLoss_isLost {s : State} {k : Nat} (hk : k < s.dev.stkh.length) (i : Nat) :
    (s.recordLoss k).isLost i = if i = k then true else s.isLost i := by
  change ((modAt s.dev.stkh k fun h => { h with lost := true }).getD i {}).lost = _
  rw [modAt_getD _ hk]
  split <;> rfl

/-! ### The move of a page -/

/-- The bytes of memory after a move: a copy to the frame, then the new leaf. -/
theorem State.movePage_mem (s : State) (ctx : Nat) (va : DWord) (f : Leaf) (frame : Nat) (tier : Bool) : ∃ u v : State, u.mem = s.mem ∧
    v.mem = (u.homeWrite none [] (span frame (u.bytes (pteFrame f.e) (2 ^ pageLog f.lvl)))).mem ∧
    (s.movePage ctx va f frame tier).mem = (v.homeWrite none [] (span f.pte (leBytes 8 (movedLeaf f.e frame tier).toNat))).mem := by
  unfold State.movePage
  simp only
  generalize hs : State.dropFrames _ _ _ _ = s'
  have hs' : s'.mem = s.mem := by rw [← hs]; rfl
  generalize hv : List.foldl _ _ _ = v
  refine ⟨s'.fillRange (pteFrame f.e) (2 ^ pageLog f.lvl), v, (s'.fillRange_keeps ..).mem.trans hs', ?_, rfl⟩
  rw [← hv]
  exact (State.KeepsMem.foldl (f := fun (s : State) h => s.poisonHalf (frame / 32 + h)) (fun s h => .of_eq rfl rfl) _ _).mem

theorem frameOk_spec {frame n : Nat} {tier : Bool} (h : frameOk frame n tier = true) : frame % n = 0 ∧ frame + n - 1 < 2 ^ 48 - 1 := by
  simp only [frameOk, Bool.and_eq_true, beq_iff_eq] at h
  obtain ⟨⟨h1, -⟩, h2⟩ := h
  exact ⟨h1, region_lt (by cases tier <;> simp_all)⟩

theorem State.byte_of_mem {s t : State} (h : t.mem = s.mem) (a : Nat) : t.byte a = s.byte a := congrArg (AMap.getD · a 0) h

/-- The bits of the leaf after a move. -/
theorem movedLeaf_bit (e : DWord) (frame : Nat) (tier : Bool) {i : Nat} (hi : i < 64) : (movedLeaf e frame tier).getLsbD i =
    ((e.getLsbD i && !(0xFFFFFFFFF1000 : DWord).getLsbD i) || frame.testBit i || (tier && (0x1000 : DWord).getLsbD i)) := by
  rw [movedLeaf, BitVec.getLsbD_or, BitVec.getLsbD_or, BitVec.getLsbD_and, BitVec.getLsbD_not, BitVec.getLsbD_ofNat, decide_eq_true hi]
  cases tier <;> simp

/-- The fields of the leaf after a move: those of the leaf before, but for the frame and the tier. -/
theorem movedLeaf_fields (e : DWord) {frame : Nat} (tier : Bool) (h0 : frame % 65536 = 0) (hlt : frame < 2 ^ 48) :
    pteFrame (movedLeaf e frame tier) = frame ∧ pteTier (movedLeaf e frame tier) = tier ∧ pteV (movedLeaf e frame tier) = pteV e ∧
    pteKey (movedLeaf e frame tier) = pteKey e := by
  obtain ⟨q, rfl⟩ : ∃ q, frame = 2 ^ 16 * q := ⟨frame / 65536, by omega⟩
  have low {i : Nat} (hi : i < 16) : (2 ^ 16 * q).testBit i = false := by
    rw [Nat.testBit_two_pow_mul, decide_eq_false (by omega), Bool.false_and]
  refine ⟨?_, ?_, ?_, ?_⟩
  · have hset : ∀ i < 36, (0xFFFFFFFFF1000 : DWord).getLsbD (16 + i) = true ∧ (0x1000 : DWord).getLsbD (16 + i) = false := by decide
    have hq : (movedLeaf e (2 ^ 16 * q) tier).extractLsb' 16 36 = BitVec.ofNat 36 q := by
      refine BitVec.eq_of_getLsbD_eq fun i hi => ?_
      obtain ⟨h1, h2⟩ := hset i hi
      rw [BitVec.getLsbD_extractLsb', movedLeaf_bit e _ tier (by omega), h1, h2, BitVec.getLsbD_ofNat, Nat.testBit_two_pow_mul, Nat.add_sub_cancel_left]
      simp
    rw [pteFrame, bitsAt, hq, BitVec.toNat_ofNat, Nat.mod_eq_of_lt (by omega), Nat.mul_comm]
  · rw [pteTier, movedLeaf_bit e _ tier (by omega), low (by omega)]
    simp
  · rw [pteV, movedLeaf_bit e _ tier (by omega), low (by omega)]
    simp [pteV]
  · have hset : ∀ i < 5, (0xFFFFFFFFF1000 : DWord).getLsbD (7 + i) = false ∧ (0x1000 : DWord).getLsbD (7 + i) = false := by decide
    have hk : (movedLeaf e (2 ^ 16 * q) tier).extractLsb' 7 5 = e.extractLsb' 7 5 := by
      refine BitVec.eq_of_getLsbD_eq fun i hi => ?_
      obtain ⟨h1, h2⟩ := hset i hi
      rw [BitVec.getLsbD_extractLsb', BitVec.getLsbD_extractLsb', movedLeaf_bit e _ tier (by omega), h1, h2, low (by omega)]
      simp
    rw [pteKey, bitsAt, hk, pteKey, bitsAt]

/-- A page that moves: its bytes are at the frame, its leaf is the new one, and other bytes are as they were. -/
theorem State.movePage_bytes {s : State} {f : Leaf} {frame : Nat} (ctx : Nat) (va : DWord) (tier : Bool) (hlvl : f.lvl = 0) (hlt : frame + 65536 ≤ 2 ^ 48)
    (hpte : ∀ k, k < 8 → homeOf (f.pte + k) < frame ∨ frame + 65536 ≤ homeOf (f.pte + k)) :
    let u := s.movePage ctx va f frame tier
    (∀ k, k < 65536 → u.byte (frame + k) = s.byte (pteFrame f.e + k)) ∧
    (∀ pa, (pa < frame ∨ frame + 65536 ≤ pa) → (∀ k, k < 8 → pa ≠ homeOf (f.pte + k)) → u.byte pa = s.byte pa) ∧
    leDWord ((List.range 8).map fun k => u.byte (homeOf (f.pte + k))) = movedLeaf f.e frame tier := by
  intro u
  obtain ⟨v, w, hv, hw, hu⟩ := s.movePage_mem ctx va f frame tier
  have hn : 2 ^ pageLog f.lvl = 65536 := by rw [hlvl]; rfl
  rw [hn] at hw
  have hlen : (v.bytes (pteFrame f.e) 65536).length = 65536 := by simp [State.bytes]
  have hhome {k : Nat} (hk : k < 65536) : homeOf (frame + k) = frame + k := homeOf_of_lt (by omega)
  have far {pa : Nat} (h : ∀ k, k < 8 → pa ≠ homeOf (f.pte + k)) : u.byte pa = (v.homeWrite none [] (span frame (v.bytes (pteFrame f.e) 65536))).byte pa := by
    rw [State.byte_of_mem hu, State.homeWrite_byte_of_not_mem _ _ _ _ _ (not_mem_span (by simpa using h)), State.byte_of_mem hw]
  refine ⟨fun k hk => ?_, fun pa hpa hne => ?_, ?_⟩
  · have hget := v.homeWrite_span_byte none [] (pa := frame) (i := k) (bs := v.bytes (pteFrame f.e) 65536) (by omega) (by omega)
    rw [hhome hk] at hget
    rw [far fun i hi h => by have := hpte i hi; omega, hget]
    simp [State.bytes, State.byte_of_mem hv]
  · rw [far hne, State.homeWrite_byte_of_not_mem _ _ _ _ _ (not_mem_span fun i hi h => ?_), State.byte_of_mem hv]
    rw [hlen] at hi
    rw [hhome hi] at h
    omega
  · have hb := w.homeWrite_span_bytes none [] f.pte (bs := leBytes 8 (movedLeaf f.e frame tier).toNat) (by simp)
    rw [leBytes_length] at hb
    have hu' (a : Nat) : u.byte a = _ := State.byte_of_mem hu a
    simp only [hu', hb, leDWord, leNat_leBytes]
    exact BitVec.eq_of_toNat_eq (by rw [BitVec.toNat_ofNat]; have := (movedLeaf f.e frame tier).isLt; omega)

theorem exec_tierMigration_of_leaf {s : State} {ctx frame : Nat} {va : DWord} {tier : Bool} {f : Leaf} (hf : s.movable ctx va tier = some f)
    (hm : s.hostMode 1 = false) (hlvl : f.lvl = 0) (hok : frameOk frame 65536 tier = true) (hw : s.moveWaits f frame 65536 = false) :
    exec (.tierMigration ctx va tier frame) s = .next (s.movePage ctx va f frame tier) := by
  rw [exec_tierMigration, execTierMigration, hf]
  simp only [hm, hlvl, hok, hw]
  rfl

/-- Settles O53: a scrub by what the word reads as, a loss through `State.recordLoss`, and a move through the two writes of `State.movePage_mem`. -/
theorem scrubLossAndMigration : Obligations.ScrubLossAndMigration := by
  refine ⟨fun s stack word ht hw hl hpois hue hh => ?_, fun s stack ht hh => ⟨fun hl => ?_, fun hl hp hj hwr => ?_⟩,
    fun s ctx frame va tier f hf hm hlvl hok hw hpte => ?_⟩
  · have hun : s.unmarked stack (32 * word) = true := by rw [State.unmarked, hpois, hue]; rfl
    have clean {u : State} (h : u.dramUe = s.dramUe) : u.repair stack [32 * word] = u := State.repair_of_readable fun off ho => by
      rw [List.mem_singleton.1 ho, h, hue]
    refine ⟨?_, ?_, fun hnone hj => ?_⟩
    · rw [exec_patrolScrub_of_stack ht hw hl, State.meet_good, clean rfl]
    · obtain ⟨d, hce, hd⟩ := s.countCe_eq hh
      refine ⟨s.setDev fun _ => d, ?_, rfl, rfl, hd⟩
      rw [exec_patrolScrub_of_stack ht hw hl, State.meet_corrected hun, hce, clean (u := s.setDev fun _ => d) rfl]
    · obtain ⟨u, j, J, hu, hrest⟩ := scrub_of_uncorrectable ht hun hh hnone hj
      exact ⟨u, j, J, by rw [exec_patrolScrub_of_stack ht hw hl, hu], hrest⟩
  · rw [exec_stackLoss, execStackLoss, hl, Bool.or_true]
    rfl
  · have hexec : exec (.stackLoss stack) s = .next (s.loseStack stack) := by
      rw [exec_stackLoss, execStackLoss, hl, Bool.or_false, if_neg (by simpa using ht)]
      rfl
    rw [State.loseStack_of_quiet hp hj hwr] at hexec
    have hlost (k : Nat) : ((s.recordLoss stack).cxlEvent 1 stack (s.recordLoss stack).nLost).isLost k = if k = stack then true else s.isLost k :=
      State.recordLoss_isLost hh k
    exact ⟨_, hexec, rfl, rfl, (hlost stack).trans (if_pos rfl), fun k hk => (hlost k).trans (if_neg hk), rfl, rfl, _, rfl, rfl⟩
  · obtain ⟨h0, hlt⟩ := frameOk_spec hok
    obtain ⟨hpage, hrest, hleaf⟩ := s.movePage_bytes ctx va tier hlvl (by omega) hpte
    refine ⟨_, exec_tierMigration_of_leaf hf hm hlvl hok hw, hpage, hrest, ?_⟩
    rw [hleaf]
    exact movedLeaf_fields f.e tier h0 (by omega)

end Sys2Proof.Machine
end

section
/-! SUPPORT. Places of HBM bytes, and the cells (R152, R153, R159). -/

namespace Sys2Proof.Machine

/-! ### Places (R150, R153) -/

theorem dramPlace_of_hbm {pa : Nat} (h : pa < 0x00F000000000) : dramPlace pa = (dataStack pa, stripeOf pa * 256 + pa % 256) := by
  rw [dramPlace, region, if_pos h]

theorem placePa_dramPlace {pa : Nat} (h : pa < 0x00F000000000) : placePa (dramPlace pa).1 (dramPlace pa).2 = some pa := by
  have hs : (stripeOf pa * 256 + pa % 256) / 256 = stripeOf pa := by omega
  rw [dramPlace_of_hbm h]
  simp only [placePa, hs]
  unfold dataStack parityStack stripeOf
  rw [if_neg (by omega)]
  congr 1
  omega

theorem homeSlice_lt (pa : Nat) : homeSlice pa < 1536 := by
  have hx {a b : Nat} : a < 512 → b < 512 → Nat.xor a b < 512 := Nat.xor_lt_two_pow (n := 9)
  have hm (a : Nat) : a % 512 < 512 := Nat.mod_lt a (by decide)
  have key {f : Nat} (hf : f < 512) (x : Nat) : 512 * (x % 3) + f < 1536 := by omega
  exact key (hx (hx (hx (hm _) (hm _)) (hx (hm _) (hm _))) (lt_trans (Nat.mod_lt _ (by decide)) (by decide : 16 < 512))) _

/-- An HBM byte has a place on a data stack of its stripe, and no other byte has it. -/
theorem dramPlace_spec {pa : Nat} (h : pa < 0x00F000000000) : (dramPlace pa).1 < 16 ∧ (dramPlace pa).2 < 2 ^ 36 ∧
    (dramPlace pa).1 ≠ parityStack ((dramPlace pa).2 / 256) ∧ ∀ pb, pb < 0x00F000000000 → dramPlace pb = dramPlace pa → pb = pa := by
  refine ⟨?_, ?_, ?_, fun pb hb he => ?_⟩
  · rw [dramPlace_of_hbm h]; exact Nat.mod_lt _ (by decide)
  · rw [dramPlace_of_hbm h]; unfold stripeOf; dsimp only; omega
  · rw [dramPlace_of_hbm h]; unfold dataStack parityStack stripeOf; dsimp only; omega
  · have := placePa_dramPlace hb
    rw [he, placePa_dramPlace h] at this
    exact (Option.some.inj this).symm

/-! ### The cells -/

/-- A state with other cells. -/
def State.withCells (s : State) (dram : AMap Byte) : State := { s with dram }

theorem State.setDram_eq : ∀ (bs : List Byte) (s : State) (t off : Nat), ∃ d, s.setDram t off bs = s.withCells d
  | [], s, _, _ => ⟨s.dram, rfl⟩
  | b :: bs, s, t, off => State.setDram_eq bs { s with dram := AMap.set 0 s.dram (dramKey t off) b } t (off + 1)

/-- A byte of the cells after some were written: at a place of the write, and at a place whose key is none of theirs. -/
theorem State.setDram_dramByte : ∀ (bs : List Byte) (s : State) (t off : Nat),
    (∀ i, i < bs.length → (s.setDram t off bs).dramByte t (off + i) = bs.getD i 0) ∧
    ∀ t' a, (∀ i, i < bs.length → dramKey t (off + i) ≠ dramKey t' a) → (s.setDram t off bs).dramByte t' a = s.dramByte t' a
  | [], s, t, off => ⟨fun i hi => absurd hi (Nat.not_lt_zero i), fun _ _ _ => rfl⟩
  | b :: bs, s, t, off => by
    obtain ⟨h1, h2⟩ := State.setDram_dramByte bs { s with dram := AMap.set 0 s.dram (dramKey t off) b } t (off + 1)
    have head (t' a : Nat) : ({ s with dram := AMap.set 0 s.dram (dramKey t off) b } : State).dramByte t' a =
        if dramKey t off = dramKey t' a then b else s.dramByte t' a := AMap.getD_set ..
    refine ⟨fun i hi => ?_, fun t' a hk => ?_⟩
    · cases i with
      | zero =>
        refine (h2 t (off + 0) fun i hi => ?_).trans ((head ..).trans (if_pos rfl))
        unfold dramKey
        omega
      | succ i =>
        rw [show off + (i + 1) = off + 1 + i by omega]
        exact (h1 i (by simpa using hi)).trans rfl
    · refine (h2 t' a fun i hi => ?_).trans ((head ..).trans (if_neg (hk 0 (by simp))))
      rw [show off + 1 + i = off + (i + 1) by omega]
      exact hk (i + 1) (by simpa using hi)

theorem State.setDram_dramBytes (s : State) (t off : Nat) (bs : List Byte) : (s.setDram t off bs).dramBytes t off bs.length = bs := by
  refine List.ext_getElem (by simp [State.dramBytes]) fun i h1 h2 => ?_
  simp only [State.dramBytes, List.getElem_map, List.getElem_range]
  rw [(State.setDram_dramByte bs s t off).1 i h2, List.getD_eq_getElem _ _ h2]

/-- Cells of the same stack outside a write. -/
theorem State.setDram_dramByte_of_outside (s : State) {t off a : Nat} {bs : List Byte} (h : a < off ∨ off + bs.length ≤ a) :
    (s.setDram t off bs).dramByte t a = s.dramByte t a :=
  (State.setDram_dramByte bs s t off).2 t a fun i hi => by unfold dramKey; omega

/-- Cells of another stack. -/
theorem State.setDram_dramByte_of_stack (s : State) {t t' off a : Nat} {bs : List Byte} (ht : t ≠ t') (ho : off + bs.length ≤ 2 ^ 44) (ha : a < 2 ^ 44) :
    (s.setDram t off bs).dramByte t' a = s.dramByte t' a :=
  (State.setDram_dramByte bs s t off).2 t' a fun i hi => by unfold dramKey; omega

@[simp] theorem State.dramBytes_length (s : State) (t off n : Nat) : (s.dramBytes t off n).length = n := by simp [State.dramBytes]

theorem State.dramBytes_getD (s : State) (t off : Nat) {n i : Nat} (hi : i < n) : (s.dramBytes t off n).getD i 0 = s.dramByte t (off + i) := by
  rw [List.getD_eq_getElem _ _ (by simpa using hi)]
  simp [State.dramBytes]

theorem State.dramBytes_congr {s u : State} {t off n : Nat} (h : ∀ i, i < n → u.dramByte t (off + i) = s.dramByte t (off + i)) :
    u.dramBytes t off n = s.dramBytes t off n := List.map_congr_left fun i hi => h i (List.mem_range.1 hi)

@[simp] theorem Beat.merge_length (b : Beat) (old : List Byte) : (b.merge old).length = old.length := by simp [Beat.merge]

/-! ### The words of a packet, each rewritten from what it held -/

/-- `n` words from an offset, each rewritten. -/
def State.rewriteWords (s : State) (t off n : Nat) (f : Nat → List Byte → List Byte) : State :=
  (List.range n).foldl (fun s i => s.setDram t (off + 32 * i) (f i (s.dramBytes t (off + 32 * i) 32))) s

theorem State.rewriteWords_succ (s : State) (t off n : Nat) (f : Nat → List Byte → List Byte) : s.rewriteWords t off (n + 1) f =
    (s.rewriteWords t off n f).setDram t (off + 32 * n) (f n ((s.rewriteWords t off n f).dramBytes t (off + 32 * n) 32)) := by
  rw [State.rewriteWords, List.range_succ, List.foldl_append]
  rfl

theorem State.rewriteWords_eq (s : State) (t off : Nat) (f : Nat → List Byte → List Byte) : ∀ n, ∃ d, s.rewriteWords t off n f = s.withCells d
  | 0 => ⟨s.dram, rfl⟩
  | n + 1 => by
    obtain ⟨d, hd⟩ := State.rewriteWords_eq s t off f n
    rw [State.rewriteWords_succ, hd]
    exact State.setDram_eq _ (s.withCells d) t _

/-- Each word holds its new bytes, made of those that it held before; other bytes of the stack stay. -/
theorem State.rewriteWords_spec (s : State) (t off : Nat) {f : Nat → List Byte → List Byte} (hf : ∀ i bs, bs.length = 32 → (f i bs).length = 32) : ∀ n,
    (∀ i, i < n → (s.rewriteWords t off n f).dramBytes t (off + 32 * i) 32 = f i (s.dramBytes t (off + 32 * i) 32)) ∧
    ∀ a, a < off ∨ off + 32 * n ≤ a → (s.rewriteWords t off n f).dramByte t a = s.dramByte t a
  | 0 => ⟨fun i hi => absurd hi (Nat.not_lt_zero i), fun _ _ => rfl⟩
  | n + 1 => by
    obtain ⟨hin, hout⟩ := State.rewriteWords_spec s t off hf n
    have hlen (u : State) : (f n (u.dramBytes t (off + 32 * n) 32)).length = 32 := hf n _ (by simp)
    have hlast : (s.rewriteWords t off n f).dramBytes t (off + 32 * n) 32 = s.dramBytes t (off + 32 * n) 32 :=
      State.dramBytes_congr fun i hi => hout _ (by omega)
    rw [State.rewriteWords_succ, hlast]
    refine ⟨fun i hi => ?_, fun a ha => ?_⟩
    · rcases Nat.lt_succ_iff_lt_or_eq.1 hi with hi | rfl
      · rw [← hin i hi]
        exact State.dramBytes_congr fun k hk => State.setDram_dramByte_of_outside _ (by omega)
      · have := (s.rewriteWords t off i f).setDram_dramBytes t (off + 32 * i) (f i (s.dramBytes t (off + 32 * i) 32))
        rwa [hlen] at this
    · rw [State.setDram_dramByte_of_outside _ (by rw [hlen]; omega), hout a (by omega)]

/-- A pass over the words of a packet that rewrites one word after the other. -/
theorem State.foldl_words_eq {s : State} {p : Packet} {t : Nat} {step : State → Nat × Nat → State} {f : Nat → List Byte → List Byte}
    (h : ∀ d i, i < p.beats → step (s.withCells d) (i, p.off + 32 * i) =
      (s.withCells d).setDram t (p.off + 32 * i) (f i ((s.withCells d).dramBytes t (p.off + 32 * i) 32))) :
    p.words.foldl step s = s.rewriteWords t p.off p.beats f := by
  have upTo : ∀ n, n ≤ p.beats → ((List.range n).map fun i => (i, p.off + 32 * i)).foldl step s = s.rewriteWords t p.off n f := by
    intro n
    induction n with
    | zero => exact fun _ => rfl
    | succ n ih =>
      intro hn
      obtain ⟨d, hd⟩ := s.rewriteWords_eq t p.off f n
      rw [List.range_succ, List.map_append, List.foldl_append, ih (by omega), State.rewriteWords_succ, hd]
      exact h d n (by omega)
  exact upTo p.beats le_rfl

end Sys2Proof.Machine
end

section
/-! SUPPORT. The parity of a stripe (R153, R159, R160): the XOR of the words at one offset, and what a write with its parity leaves of it. -/

namespace Sys2Proof.Machine

/-! ### XOR over a list of stacks -/

/-- The XOR of a byte of each stack. -/
def xorOver (f : Nat → Byte) (ks : List Nat) : Byte := ks.foldl (fun b k => b ^^^ f k) 0#8

theorem foldl_xor (f : Nat → Byte) : ∀ (ks : List Nat) (b : Byte), ks.foldl (fun b k => b ^^^ f k) b = b ^^^ xorOver f ks
  | [], b => (BitVec.xor_zero).symm
  | k :: ks, b => by
    rw [xorOver, List.foldl_cons, List.foldl_cons, foldl_xor f ks, foldl_xor f ks (0#8 ^^^ f k), BitVec.zero_xor, BitVec.xor_assoc]

theorem xorOver_cons (f : Nat → Byte) (k : Nat) (ks : List Nat) : xorOver f (k :: ks) = f k ^^^ xorOver f ks := by
  rw [xorOver, List.foldl_cons, foldl_xor, BitVec.zero_xor]

theorem xorOver_congr {f g : Nat → Byte} {ks : List Nat} (h : ∀ k ∈ ks, f k = g k) : xorOver f ks = xorOver g ks :=
  List.foldl_ext _ _ 0#8 fun b k hk => by rw [h k hk]

/-- One stack's byte, and the rest. -/
theorem xorOver_split (f : Nat → Byte) {ks : List Nat} (hn : ks.Nodup) {t : Nat} (ht : t ∈ ks) : xorOver f ks = f t ^^^ xorOver f (ks.filter (· != t)) := by
  induction ks with
  | nil => cases ht
  | cons k ks ih =>
    obtain ⟨hk, hn⟩ := List.nodup_cons.1 hn
    rcases eq_or_ne k t with rfl | hne
    · have hall : ks.filter (· != k) = ks := List.filter_eq_self.2 fun a ha => by
        rw [bne_iff_ne]
        rintro rfl
        exact hk ha
      rw [List.filter_cons_of_neg (by simp), hall, xorOver_cons]
    · rw [List.filter_cons_of_pos (by simpa using hne), xorOver_cons, xorOver_cons, ih hn ((List.mem_cons.1 ht).resolve_left hne.symm),
        ← BitVec.xor_assoc, ← BitVec.xor_assoc, BitVec.xor_comm (f k)]

/-- The same change of two stacks' bytes cancels. -/
theorem xorOver_of_two_changes {f g : Nat → Byte} {ks : List Nat} (hn : ks.Nodup) {t p : Nat} (ht : t ∈ ks) (hp : p ∈ ks) (hne : p ≠ t) {x : Byte}
    (hgt : g t = f t ^^^ x) (hgp : g p = f p ^^^ x) (hg : ∀ k, k ≠ t → k ≠ p → g k = f k) : xorOver g ks = xorOver f ks := by
  have hp' : p ∈ ks.filter (· != t) := List.mem_filter.2 ⟨hp, by simpa using hne⟩
  have hrest : xorOver g ((ks.filter (· != t)).filter (· != p)) = xorOver f ((ks.filter (· != t)).filter (· != p)) :=
    xorOver_congr fun k hk => by
      simp only [List.mem_filter, bne_iff_ne] at hk
      exact hg k hk.1.2 hk.2
  rw [xorOver_split g hn ht, xorOver_split g (hn.filter _) hp', xorOver_split f hn ht, xorOver_split f (hn.filter _) hp', hrest, hgt, hgp]
  generalize xorOver f _ = rest
  calc f t ^^^ x ^^^ (f p ^^^ x ^^^ rest) = f t ^^^ (f p ^^^ rest) ^^^ (x ^^^ x) := by ac_rfl
    _ = f t ^^^ (f p ^^^ rest) := by rw [BitVec.xor_self, BitVec.xor_zero]

/-! ### Bytes once every delta on its way is applied -/

/-- A byte of a stack with what a packet on its way changes in it. -/
def withDelta (t off : Nat) (b : Byte) (e : Nat × Packet) : Byte :=
  if e.2.ty == .delta && e.2.target == t && decide (e.2.off ≤ off) && decide (off < e.2.off + 32 * e.2.beats) then
    b ^^^ (e.2.data.getD ((off - e.2.off) / 32) { data := [], mask := 0 }).data.getD ((off - e.2.off) % 32) 0
  else b

theorem withDelta_xor (t off : Nat) (a b : Byte) (e : Nat × Packet) : withDelta t off (a ^^^ b) e = a ^^^ withDelta t off b e := by
  unfold withDelta
  split
  · exact BitVec.xor_assoc ..
  · rfl

/-- What the deltas on their way to a stack change in one of its bytes. -/
def State.pendingDelta (s : State) (t off : Nat) : Byte := s.packets.foldl (withDelta t off) 0#8

theorem State.settledByte_eq (s : State) (t off : Nat) : s.settledByte t off = s.dramByte t off ^^^ s.pendingDelta t off := by
  have hom := List.foldl_hom (s.dramByte t off ^^^ ·) (l := s.packets) (init := 0#8) fun b e => withDelta_xor t off (s.dramByte t off) b e
  rw [BitVec.xor_zero] at hom
  exact hom

theorem State.pendingDelta_of_none {s : State} {t : Nat} (h : ∀ e ∈ s.packets, e.2.ty = .delta → e.2.target ≠ t) (off : Nat) :
    s.pendingDelta t off = 0#8 := by
  have other (b : Byte) (e : Nat × Packet) (he : e ∈ s.packets) : withDelta t off b e = b := if_neg fun hc => by
    simp only [Bool.and_eq_true, beq_iff_eq] at hc
    obtain ⟨⟨⟨hty, htarget⟩, -⟩, -⟩ := hc
    exact h e he hty htarget
  rw [State.pendingDelta, List.foldl_ext _ (fun b _ => b) 0#8 other]
  exact List.foldl_fixed _

theorem State.xorAt_eq (s : State) (ks : List Nat) (off : Nat) : s.xorAt ks off = xorOver (fun k => s.settledByte k off) ks := rfl

/-- A chunk that no delta is on its way to is the XOR of the other fifteen, where the sixteen cancel. -/
theorem State.xorAt_otherStacks {s : State} {t off : Nat} (ht : t < 16) (h : ∀ e ∈ s.packets, e.2.ty = .delta → e.2.target ≠ t)
    (h0 : s.xorAt (List.range 16) off = 0#8) : s.xorAt (otherStacks t) off = s.dramByte t off := by
  rw [State.xorAt_eq, xorOver_split _ List.nodup_range (List.mem_range.2 ht), BitVec.xor_eq_zero_iff, State.settledByte_eq,
    State.pendingDelta_of_none h, BitVec.xor_zero] at h0
  rw [h0]
  rfl

/-! ### A write with its parity (R159) -/

/-- No stack is lost and no word is marked. -/
structure State.Sound (s : State) : Prop where
  present : ∀ k, s.isLost k = false
  unpoisoned : s.dramPois = []
  readable : s.dramUe = []

theorem State.Sound.withCells {s : State} (h : s.Sound) (d : AMap Byte) : (s.withCells d).Sound := ⟨h.present, h.unpoisoned, h.readable⟩

theorem State.rebuild_of_readable {s : State} {t off : Nat} (h : s.dramUe = []) : s.rebuild t off = s := by
  rw [State.rebuild, h]
  rfl

theorem State.markWord_of_unmarked {s : State} (hp : s.dramPois = []) (hu : s.dramUe = []) (t off : Nat) : s.markWord t off false = s := by
  cases s
  subst hp hu
  rfl

/-- A word of the second tier. -/
theorem State.putWord_of_tier2 {s : State} (h : s.Sound) {t : Nat} (ht : 16 ≤ t) (off : Nat) {b : Beat} (hb : b.pois = false) :
    s.putWord t off b = s.setDram t off (b.merge (s.dramBytes t off 32)) := by
  obtain ⟨d, hd⟩ := State.setDram_eq (b.merge (s.dramBytes t off 32)) s t off
  simp only [State.putWord, State.rebuild_of_readable h.readable, h.unpoisoned, State.writeWord]
  rw [if_pos ht, if_neg (by rw [hb]; exact Bool.false_ne_true), if_neg (by exact Bool.false_ne_true), hd,
    State.markWord_of_unmarked (h.withCells d).unpoisoned (h.withCells d).readable]

/-- The parity word takes the change of a data word. -/
theorem State.putWord_of_hbm {s : State} (h : s.Sound) {t : Nat} (ht : t < 16) (off : Nat) {b : Beat} (hb : b.pois = false) :
    let u := s.setDram t off (b.merge (s.dramBytes t off 32))
    s.putWord t off b = u.setDram (parityStack (off / 256)) off ((List.range 32).map fun i => u.dramByte (parityStack (off / 256)) (off + i) ^^^
      (s.dramBytes t off 32).getD i 0 ^^^ (b.merge (s.dramBytes t off 32)).getD i 0) := by
  obtain ⟨d, hd⟩ := State.setDram_eq (b.merge (s.dramBytes t off 32)) s t off
  have hu := h.withCells d
  simp only [State.putWord, State.rebuild_of_readable h.readable, h.unpoisoned, h.present, hd, hu.unpoisoned, hu.present]
  rw [if_neg (Nat.not_le.2 ht), if_neg (by exact Bool.false_ne_true), if_neg (by rw [hb]; exact Bool.false_ne_true), if_neg (by exact Bool.false_ne_true),
    if_neg (by exact Bool.false_ne_true)]

/-- A write with its parity keeps the parity of its stripe. -/
theorem State.putWord_parity {s : State} (h : s.Sound) {t off : Nat} {b : Beat} (ht : t < 16) (hp : t ≠ parityStack (off / 256)) (ho : off + 32 ≤ 2 ^ 44)
    (hb : b.pois = false) (h0 : ∀ i, i < 32 → s.xorAt (List.range 16) (off + i) = 0) (hd : ∀ e ∈ s.packets, e.2.ty = .delta → e.2.target ≠ t) :
    let u := s.putWord t off b
    u.dramBytes t off 32 = b.merge (s.dramBytes t off 32) ∧ (∀ i, i < 32 → u.xorAt (List.range 16) (off + i) = 0) ∧
    ∀ i, i < 32 → u.xorAt (otherStacks t) (off + i) = u.dramByte t (off + i) := by
  intro u
  obtain ⟨v, hv⟩ : ∃ v, v = s.setDram t off (b.merge (s.dramBytes t off 32)) := ⟨_, rfl⟩
  obtain ⟨bs, hbs⟩ : ∃ bs, bs = (List.range 32).map fun i => v.dramByte (parityStack (off / 256)) (off + i) ^^^
      (s.dramBytes t off 32).getD i 0 ^^^ (b.merge (s.dramBytes t off 32)).getD i 0 := ⟨_, rfl⟩
  have hu : u = v.setDram (parityStack (off / 256)) off bs := by
    rw [hbs, hv]
    exact State.putWord_of_hbm h ht off hb
  have hlen : bs.length = 32 := by simp [hbs]
  have hnew : (b.merge (s.dramBytes t off 32)).length = 32 := by simp
  have hpackets : u.packets = s.packets := by
    obtain ⟨d, hvd⟩ := State.setDram_eq (b.merge (s.dramBytes t off 32)) s t off
    obtain ⟨d', hud⟩ := State.setDram_eq bs v (parityStack (off / 256)) off
    rw [hu, hud, hv, hvd]
    rfl
  have data {i : Nat} (hi : i < 32) : u.dramByte t (off + i) = v.dramByte t (off + i) := by
    rw [hu, State.setDram_dramByte_of_stack v hp.symm (by omega) (by omega)]
  have new {i : Nat} (hi : i < 32) : v.dramByte t (off + i) = (b.merge (s.dramBytes t off 32)).getD i 0 := by
    rw [hv, (State.setDram_dramByte _ s t off).1 i (by omega)]
  have other {i k : Nat} (hi : i < 32) (hk : k ≠ t) : v.dramByte k (off + i) = s.dramByte k (off + i) := by
    rw [hv, State.setDram_dramByte_of_stack s hk.symm (by omega) (by omega)]
  have settled (k i : Nat) : u.settledByte k (off + i) = u.dramByte k (off + i) ^^^ s.pendingDelta k (off + i) := by
    rw [State.settledByte_eq, State.pendingDelta, hpackets, State.pendingDelta]
  have hzero : ∀ i, i < 32 → u.xorAt (List.range 16) (off + i) = 0 := fun i hi => by
    have htp : parityStack (off / 256) < 16 := Nat.mod_lt _ (by decide)
    rw [← h0 i hi, State.xorAt_eq, State.xorAt_eq]
    refine xorOver_of_two_changes (p := parityStack (off / 256)) (x := (s.dramBytes t off 32).getD i 0 ^^^ (b.merge (s.dramBytes t off 32)).getD i 0)
      List.nodup_range (List.mem_range.2 ht) (List.mem_range.2 htp) hp.symm ?_ ?_ fun k hkt hkp => ?_
    · rw [settled, State.settledByte_eq, data hi, new hi, s.dramBytes_getD t off hi]
      generalize (b.merge (s.dramBytes t off 32)).getD i 0 = new
      generalize s.dramByte t (off + i) = old
      generalize s.pendingDelta t (off + i) = d
      calc new ^^^ d = old ^^^ old ^^^ new ^^^ d := by rw [BitVec.xor_self, BitVec.zero_xor]
        _ = old ^^^ d ^^^ (old ^^^ new) := by ac_rfl
    · rw [settled, State.settledByte_eq, hu, (State.setDram_dramByte bs v _ off).1 i (by omega), hbs, List.getD_eq_getElem _ _ (by simpa using hi)]
      simp only [List.getElem_map, List.getElem_range]
      rw [other hi hp.symm]
      ac_rfl
    · rw [settled, State.settledByte_eq, hu, State.setDram_dramByte_of_stack v (Ne.symm hkp) (by omega) (by omega), other hi hkt]
  refine ⟨?_, hzero, fun i hi => State.xorAt_otherStacks ht (by rw [hpackets]; exact hd) (hzero i hi)⟩
  rw [State.dramBytes_congr fun i hi => data hi, hv]
  have := s.setDram_dramBytes t off (b.merge (s.dramBytes t off 32))
  rwa [hnew] at this

end Sys2Proof.Machine
end

section
/-! SUPPORT. Requests of the ports: reads and write-backs at the base dies (R151, R155, R156, R159, R163). -/

namespace Sys2Proof.Machine

theorem exec_rd (port tag pa beats : Nat) (src : ReqSource) (met : Met) (s : State) :
    exec (.rd port tag pa beats src met) s = execRd port tag pa beats src met s := rfl
theorem exec_wr (port tag pa beats : Nat) (masks : List Word) (src : ReqSource) (met : Met) (s : State) :
    exec (.wr port tag pa beats masks src met) s = execWr port tag pa beats masks src met s := rfl

/-! ### Tags (R155, R156) -/

theorem lt_of_requestOk {port tag pa beats : Nat} (h : requestOk port tag pa beats = true) : tag < 8 := by
  simp only [requestOk, Bool.and_eq_true, decide_eq_true_eq] at h
  obtain ⟨⟨⟨⟨⟨⟨h, -⟩, -⟩, -⟩, -⟩, -⟩, -⟩ := h
  exact h

theorem State.freeTag_eq_none {s : State} {port : Nat} (h : ∀ k, k < 8 → s.tagBusy port k = true) : s.freeTag port = none :=
  List.find?_eq_none.2 fun k hk => by simp [h k (List.mem_range.1 hk)]

theorem State.freeTag_isSome {s : State} {port tag : Nat} (ht : tag < 8) (h : s.tagBusy port tag = false) : (s.freeTag port).isSome = true :=
  List.find?_isSome.2 ⟨tag, List.mem_range.2 ht, by rw [h]; rfl⟩

/-! ### What a request does -/

theorem State.request_of_none_free {s : State} {p : Packet} (h : s.freeTag p.port = none) : s.request p = { s with portQ := s.portQ ++ [p] } := by
  rw [State.request, h]
  rfl

/-- The request of a read. -/
def readRequest (port tag beats t off cls budget : Nat) (errs : List EccState) (late : Bool) : Packet :=
  { ty := .rd, target := t, off, beats, port, tag, cls, budget, errs, late }

theorem exec_rd_of_request {s : State} {port tag pa beats t off cls b : Nat} {src : ReqSource} (hp : dramPlace pa = (t, off))
    (hr : requestOk port tag pa beats = true) (hs : s.serviceOf src = some (cls, b)) (errs : List EccState) (late : Bool) :
    exec (.rd port tag pa beats src ⟨errs, late⟩) s = event s (
      if s.tagOk port tag then some (s.request (readRequest port tag beats t off cls (budgetCode b) errs late)) else none) := by
  rw [exec_rd, execRd]
  simp only [hp, hs, hr]
  cases s.tagOk port tag <;> rfl

/-- What a request's arrival at its base die counts (R158). -/
def State.arrived (s : State) (p : Packet) : State := if p.late && p.budget != 0 then s.countMiss p.port else s

theorem State.arrived_eq (s : State) (p : Packet) : ∃ d : Dev, s.arrived p = s.setDev (fun _ => d) ∧ d.stkh = s.dev.stkh := by
  unfold State.arrived
  split
  · exact ⟨_, rfl, rfl⟩
  · exact ⟨s.dev, rfl, rfl⟩

theorem State.Sound.setDev {s : State} (h : s.Sound) {d : Dev} (hd : ∀ k, (d.stkh.getD k {}).lost = (s.dev.stkh.getD k {}).lost) :
    (s.setDev fun _ => d).Sound := ⟨fun k => (hd k).trans (h.present k), h.unpoisoned, h.readable⟩

theorem State.Sound.arrived {s : State} (h : s.Sound) (p : Packet) : (s.arrived p).Sound := by
  obtain ⟨d, hd, hst⟩ := s.arrived_eq p
  rw [hd]
  exact h.setDev fun k => by rw [hst]

theorem State.request_of_read {s : State} {p : Packet} (hf : (s.freeTag p.port).isSome = true) (hty : p.ty = .rd) :
    s.request p = (s.arrived p).serveRead { p with late := false } := by
  rw [State.request, if_pos hf, State.accept]
  simp only [hty]
  rfl

/-! ### Reads (R154, R156, R161) -/

/-- A sound package's words are as stored. -/
theorem State.cellCopy_of_sound {s : State} (h : s.Sound) (t off : Nat) : s.cellCopy t off = (s.dramBytes t off 32, false) := by
  simp only [State.cellCopy, State.eccGood, h.present, h.unpoisoned, h.readable]
  split <;> rfl

/-- The reply of a read whose words are as stored. -/
theorem State.readReply_of_sound {s : State} (h : s.Sound) {p : Packet} (hf : p.fwd = []) (st : Nat) : s.readReply p st = { p with
    ty := .rdr, fwd := [], errs := [], status := st
    data := p.words.map fun w => { data := s.dramBytes p.target w.2 32, mask := 0xFFFFFFFF } } := by
  have hclean : (p.words.map fun w => ({ data := s.dramBytes p.target w.2 32, mask := 0xFFFFFFFF } : Beat)).any (·.pois) = false :=
    List.any_eq_false.2 fun b hb => by
      obtain ⟨w, -, rfl⟩ := List.mem_map.1 hb
      exact Bool.false_ne_true
  simp only [State.readReply, hf, List.filter_nil, List.map_nil, State.overlay, List.foldl_nil, s.cellCopy_of_sound h]
  rw [if_neg (by rw [hclean]; exact Bool.false_ne_true)]

theorem Packet.words_getD {β : Type} (p : Packet) {w : Nat} (hw : w < p.beats) (f : Nat × Nat → β) (d : β) :
    (p.words.map f).getD w d = f (w, p.off + 32 * w) := by
  rw [List.getD_eq_getElem _ _ (by simpa [Packet.words] using hw)]
  simp [Packet.words]

/-- A read that arrives while no write is held takes no bytes from one. -/
theorem forwarded_of_none_held {s : State} (hw : ∀ e ∈ s.writes, e.2.sent = true) (p : Packet) :
    (p.words.flatMap fun w => (beatsFor ((s.writes.filter fun e => !e.2.sent).map fun e => e.2.p) p.target w.2).map fun b => (w.1, b)) = [] := by
  have hnone : (s.writes.filter fun e => !e.2.sent) = [] := List.filter_eq_nil_iff.2 fun e he => by rw [hw e he]; exact Bool.false_ne_true
  rw [hnone]
  exact List.flatMap_eq_nil_iff.2 fun w _ => rfl

/-- A read that meets no more than corrected errors is answered at once. -/
theorem State.serveRead_of_readable {s u : State} {p : Packet} (hs : s.Sound) (hw : ∀ e ∈ s.writes, e.2.sent = true)
    (hu : s.meetAll p.target p.offs p.errs = u) (h : u.Sound) :
    s.serveRead p = u.send (u.readReply { p with fwd := [] } (b2n ((p.offs.zip p.errs).any fun e => e.2 == .corrected))) := by
  have hfresh : ((p.offs.zip p.errs).any fun e => e.2 == .corrected && !(s.dramPois.contains (eccKey p.target e.1)) && !(s.dramUe.contains (eccKey p.target e.1)))
      = (p.offs.zip p.errs).any fun e => e.2 == .corrected := by
    rw [hs.unpoisoned, hs.readable]
    simp
  have hoffs : ({ p with fwd := [] } : Packet).offs = p.offs := rfl
  have hlost : (decide (p.target < 16) && s.isLost p.target) = false := by rw [hs.present, Bool.and_false]
  have hbad : (p.offs.any fun off => u.dramUe.contains (eccKey p.target off)) = false := by
    rw [h.readable]
    exact List.any_eq_false.2 fun _ _ => Bool.false_ne_true
  simp only [State.serveRead, forwarded_of_none_held hw p, hoffs, hlost, hfresh]
  rw [if_neg Bool.false_ne_true, if_neg Bool.false_ne_true, hu, hbad, if_neg (by simp),
    State.repair_of_readable fun off _ => by rw [h.readable]; rfl]

/-- A read that meets a word that cannot be corrected waits for its reconstruction. -/
theorem State.serveRead_of_unreadable {s u : State} {p : Packet} (hs : s.Sound) (hw : ∀ e ∈ s.writes, e.2.sent = true) (ht : p.target < 16)
    (hu : s.meetAll p.target p.offs p.errs = u) (hl : ∀ k, u.isLost k = false) (hbad : (p.offs.any fun off => u.dramUe.contains (eccKey p.target off)) = true) :
    s.serveRead p = u.startJob p.target { p with fwd := [] } none := by
  have hoffs : ({ p with fwd := [] } : Packet).offs = p.offs := rfl
  have hlost : (decide (p.target < 16) && s.isLost p.target) = false := by rw [hs.present, Bool.and_false]
  simp only [State.serveRead, forwarded_of_none_held hw p, hoffs, hlost]
  rw [if_neg Bool.false_ne_true, hu, hbad, u.others_of_none_lost hl, decide_eq_true ht]
  rfl

theorem State.dramBytes_of_dram {s u : State} (h : u.dram = s.dram) (t off n : Nat) : u.dramBytes t off n = s.dramBytes t off n := by
  simp only [State.dramBytes, State.dramByte, h]

/-- A packet is the reply of a read: it carries the bytes of the cells (R156, R159). -/
structure RepliesTo (s : State) (port tag t off beats : Nat) (p : Packet) : Prop where
  ty : p.ty = .rdr
  reqPort : p.port = port
  reqTag : p.tag = tag
  target : p.target = t
  place : p.off = off
  length : p.data.length = beats
  data : ∀ w, w < beats → (p.data.getD w { data := [], mask := 0 }).data = s.dramBytes t (off + 32 * w) 32

/-- A read's reply sets out; its STATUS says whether an error was corrected. -/
theorem read_answered {s u : State} {port tag beats t off cls b : Nat} {errs : List EccState} {late : Bool} (hs : s.Sound) (hw : ∀ e ∈ s.writes, e.2.sent = true)
    (hf : (s.freeTag port).isSome = true)
    (hu : (s.arrived (readRequest port tag beats t off cls b errs late)).meetAll t (readRequest port tag beats t off cls b errs late).offs errs = u)
    (h : u.Sound) (hm : u.mem = s.mem) (hd : u.dram = s.dram) : ∃ (v : State) (i : Nat) (p : Packet),
    s.request (readRequest port tag beats t off cls b errs late) = v ∧ v.mem = s.mem ∧ v.dram = s.dram ∧ v.dev = u.dev ∧
      AMap.get? v.packets i = some p ∧ RepliesTo s port tag t off beats p ∧
      p.status = b2n (((readRequest port tag beats t off cls b errs late).offs.zip errs).any fun e => e.2 == .corrected) := by
  obtain ⟨d, harr, -⟩ := s.arrived_eq (readRequest port tag beats t off cls b errs late)
  have hreq := (State.request_of_read (p := readRequest port tag beats t off cls b errs late) hf rfl).trans
    (State.serveRead_of_readable (hs.arrived _) (by rw [harr]; exact hw) hu h)
  rw [State.readReply_of_sound h rfl] at hreq
  refine ⟨_, _, _, hreq, hm, hd, rfl, AMap.get?_put_self .., ⟨rfl, rfl, rfl, rfl, rfl, by simp [Packet.words, readRequest], fun w hlt => ?_⟩, rfl⟩
  rw [Packet.words_getD { readRequest port tag beats t off cls b errs late with late := false, fwd := [] } hlt]
  exact State.dramBytes_of_dram hd ..

theorem read_of_good {s : State} {port tag beats t off cls b : Nat} {errs : List EccState} {late : Bool} (hs : s.Sound) (hw : ∀ e ∈ s.writes, e.2.sent = true)
    (hf : (s.freeTag port).isSome = true) (hg : ∀ e ∈ errs, e = .good) : ∃ (v : State) (i : Nat) (p : Packet),
    s.request (readRequest port tag beats t off cls b errs late) = v ∧ v.mem = s.mem ∧ v.dram = s.dram ∧
      AMap.get? v.packets i = some p ∧ RepliesTo s port tag t off beats p ∧ p.status = 0 := by
  obtain ⟨d, harr, -⟩ := s.arrived_eq (readRequest port tag beats t off cls b errs late)
  obtain ⟨v, i, p, hreq, hm, hd, -, hget, hp, hst⟩ := read_answered hs hw hf (State.meetAll_good _ t hg) (hs.arrived _) (by rw [harr]; rfl) (by rw [harr]; rfl)
  refine ⟨v, i, p, hreq, hm, hd, hget, hp, hst.trans ?_⟩
  rw [List.any_eq_false.2 fun e he => by rw [hg e.2 (List.of_mem_zip he).2]; decide]
  rfl

theorem State.Sound.countCe {s : State} (h : s.Sound) (t : Nat) : (s.countCe t).Sound := by
  obtain ⟨d, hd, -⟩ := s.setStack_eq t fun h => { h with cecnt := min 255 (h.cecnt + 1) }
  have hs : s.countCe t = s.setDev fun _ => d := hd
  have hl := s.settings_setStack t (f := fun h => { h with cecnt := min 255 (h.cecnt + 1) }) fun _ => rfl
  exact ⟨fun k => (isLost_of_settings hl k).trans (h.present k), by rw [hs]; exact h.unpoisoned, by rw [hs]; exact h.readable⟩

theorem State.Sound.unmarked {s : State} (h : s.Sound) (t off : Nat) : s.unmarked t off = true := by
  rw [State.unmarked, h.unpoisoned, h.readable]
  rfl

/-- A corrected error is counted, and the reply says so. -/
theorem read_of_corrected {s : State} {port tag t off cls b : Nat} {late : Bool} (hs : s.Sound) (hw : ∀ e ∈ s.writes, e.2.sent = true)
    (hf : (s.freeTag port).isSome = true) (ht : t < s.dev.stkh.length) : ∃ (v : State) (i : Nat) (p : Packet),
    s.request (readRequest port tag 1 t off cls b [.corrected] late) = v ∧ v.mem = s.mem ∧ v.dram = s.dram ∧
      AMap.get? v.packets i = some p ∧ RepliesTo s port tag t off 1 p ∧ p.status = 1 ∧
      (v.dev.stkh.getD t {}).cecnt = min 255 ((s.dev.stkh.getD t {}).cecnt + 1) := by
  obtain ⟨d, harr, hst⟩ := s.arrived_eq (readRequest port tag 1 t off cls b [.corrected] late)
  have hsa := hs.arrived (readRequest port tag 1 t off cls b [.corrected] late)
  have hmeet : (s.arrived (readRequest port tag 1 t off cls b [.corrected] late)).meetAll t [off] [.corrected] = _ := State.meet_corrected (hsa.unmarked t off)
  have hsound := hsa.countCe t
  rw [harr] at hmeet hsound
  obtain ⟨d', hce, hcount⟩ := (s.setDev fun _ => d).countCe_eq (t := t) (by rw [← hst] at ht; exact ht)
  rw [hce] at hmeet hsound
  obtain ⟨v, i, p, hreq, hm, hd, hdev, hget, hp, hstatus⟩ := read_answered hs hw hf (by rw [harr]; exact hmeet) hsound rfl rfl
  refine ⟨v, i, p, hreq, hm, hd, hget, hp, hstatus, ?_⟩
  rw [hdev, ← hst]
  exact hcount

/-- A word that cannot be corrected is counted, and the read waits for its chunk. -/
theorem read_of_uncorrectable {s : State} {port tag t off cls b : Nat} {late : Bool} (hs : s.Sound) (hw : ∀ e ∈ s.writes, e.2.sent = true)
    (hf : (s.freeTag port).isSome = true) (ht : t < s.dev.stkh.length) (ht16 : t < 16) : ∃ (v : State) (k : Nat) (J : StripeJob),
    s.request (readRequest port tag 1 t off cls b [.uncorrectable] late) = v ∧ v.mem = s.mem ∧ v.dram = s.dram ∧
      (v.dev.stkh.getD t {}).uecnt = min 255 ((s.dev.stkh.getD t {}).uecnt + 1) ∧ AMap.get? v.jobs k = some J ∧
      J.stripe = off / 256 ∧ J.want = t ∧ J.req.port = port ∧ J.req.tag = tag := by
  obtain ⟨d, harr, hst⟩ := s.arrived_eq (readRequest port tag 1 t off cls b [.uncorrectable] late)
  have hsa := hs.arrived (readRequest port tag 1 t off cls b [.uncorrectable] late)
  rw [harr] at hsa
  obtain ⟨c, hc⟩ : ∃ c : State, c = { s.setDev fun _ => d with dramUe := setIns (eccKey t off) s.dramUe } := ⟨_, rfl⟩
  have hstkh : c.dev.stkh = s.dev.stkh := by rw [hc]; exact hst
  obtain ⟨d', hue, hcount⟩ := c.countUe_eq (t := t) (by rw [hstkh]; exact ht)
  have hmeet : (s.setDev fun _ => d).meetAll t [off] [.uncorrectable] = c.countUe t :=
    (State.meet_uncorrectable (hsa.unmarked t off)).trans (by rw [hc]; rfl)
  have hlost (k : Nat) : (c.countUe t).isLost k = false := (c.countUe_isLost t k).trans (by rw [hc]; exact hsa.present k)
  have hbad : ([off].any fun off => (c.countUe t).dramUe.contains (eccKey t off)) = true := by
    rw [hue, hc]
    exact List.any_eq_true.2 ⟨off, List.mem_singleton_self off, mem_setIns_self ..⟩
  have hreq := State.request_of_read (p := readRequest port tag 1 t off cls b [.uncorrectable] late) hf rfl
  have hserve := State.serveRead_of_unreadable (p := { readRequest port tag 1 t off cls b [.uncorrectable] late with late := false })
    hsa hw ht16 hmeet hlost hbad
  rw [harr, hserve] at hreq
  obtain ⟨ps, J, hjob, hstripe, hwant, hJ, -⟩ := (c.countUe t).startJob_eq t
    { readRequest port tag 1 t off cls b [.uncorrectable] late with late := false, fwd := [] } none
  refine ⟨_, _, J, hreq.trans hjob, ?_, ?_, ?_, AMap.get?_put_self .., hstripe, hwant, by rw [hJ]; rfl, by rw [hJ]; rfl⟩
  · rw [hue, hc]; rfl
  · rw [hue, hc]; rfl
  · rw [hue, ← hstkh]; exact hcount

/-! ### Write-backs (R151, R156, R159, R163) -/

/-- The lines of a write-back are clean. -/
def State.cleaned (s : State) (lines : List Nat) : State :=
  lines.foldl (fun (s : State) l => { s with l2 := AMap.upd s.l2 l fun x => { x with dirty := false } }) s

/-- A state with other lines in the slices. -/
def State.withLines (s : State) (l2 : AMap L2Line) : State := { s with l2 }

theorem State.cleaned_eq : ∀ (lines : List Nat) (s : State), ∃ m, s.cleaned lines = s.withLines m ∧
    ∀ l, (l ∈ lines ∨ ∀ x, AMap.get? s.l2 l = some x → x.dirty = false) → ∀ x, AMap.get? m l = some x → x.dirty = false
  | [], s => ⟨s.l2, rfl, fun l h => h.resolve_left (by simp)⟩
  | a :: lines, s => by
    obtain ⟨m, hm, hclean⟩ := State.cleaned_eq lines (s.withLines (AMap.upd s.l2 a fun x => { x with dirty := false }))
    refine ⟨m, hm, fun l h => ?_⟩
    by_cases hl : l ∈ lines
    · exact hclean l (.inl hl)
    · refine hclean l (.inr fun x hx => ?_)
      have hx : AMap.get? (AMap.upd s.l2 a fun x => { x with dirty := false }) l = some x := hx
      rw [AMap.get?_upd] at hx
      split at hx
      · obtain ⟨y, -, rfl⟩ := Option.map_eq_some_iff.1 hx
        rfl
      · next hne =>
        rcases h with h | h
        · exact absurd ((List.mem_cons.1 h).resolve_right hl).symm hne
        · exact h x hx

/-- The lines of the words of a request. -/
def linesFrom (pa beats : Nat) : List Nat := (List.range beats).map fun i => (pa + 32 * i) / 64

/-- The beat that writes a word of a request back. -/
def State.beatAt (s : State) (pa w : Nat) : Beat := s.beatOf ((pa + 32 * w) / 64) ((pa + 32 * w) / 32 % 2)

/-- The beats of a request. -/
def State.beatsFrom (s : State) (pa beats : Nat) : List Beat := (List.range beats).map (s.beatAt pa)

theorem State.beatsFrom_getD (s : State) (pa : Nat) {beats w : Nat} (hw : w < beats) (d : Beat) : (s.beatsFrom pa beats).getD w d = s.beatAt pa w := by
  rw [State.beatsFrom, List.getD_eq_getElem _ _ (by simpa using hw)]
  simp

/-- The request of a write-back. -/
def writeRequest (port tag beats t off cls budget : Nat) (errs : List EccState) (late : Bool) (data : List Beat) : Packet :=
  { ty := .wr, target := t, off, beats, port, tag, cls, budget, errs, late, data }

theorem exec_wr_of_request {s : State} {port tag pa beats t off cls b : Nat} {masks : List Word} {src : ReqSource} (hp : dramPlace pa = (t, off))
    (hr : requestOk port tag pa beats = true) (hs : s.serviceOf src = some (cls, b)) (htag : s.tagOk port tag = true)
    (hm : masks = (List.range beats).map fun w => (s.beatAt pa w).mask)
    (hall : ∀ w, w < beats → ∀ h, h < 2 → (∃ v, v < beats ∧ (pa + 32 * v) / 64 = (pa + 32 * w) / 64 ∧ (pa + 32 * v) / 32 % 2 = h) ∨
      (s.beatOf ((pa + 32 * w) / 64) h).mask = 0) (errs : List EccState) (late : Bool) :
    exec (.wr port tag pa beats masks src ⟨errs, late⟩) s = .next ((s.cleaned (linesFrom pa beats)).request
      (writeRequest port tag beats t off cls (budgetCode b) errs late (s.beatsFrom pa beats))) := by
  have hmask : (masks != (s.beatsFrom pa beats).map (·.mask)) = false := by
    rw [hm, State.beatsFrom, List.map_map, bne_eq_false_iff_eq]
    rfl
  have hwhole : ((linesFrom pa beats).all fun l => [0, 1].all fun h =>
      ((List.range beats).map fun i => ((pa + 32 * i) / 64, (pa + 32 * i) / 32 % 2)).contains (l, h) || (s.beatOf l h).mask == 0) = true := by
    refine List.all_eq_true.2 fun l hl => List.all_eq_true.2 fun h hh => ?_
    obtain ⟨w, hw, rfl⟩ := List.mem_map.1 hl
    rw [Bool.or_eq_true, List.contains_iff_mem, List.mem_map, beq_iff_eq]
    refine (hall w (List.mem_range.1 hw) h (by simp at hh; omega)).imp (fun ⟨v, hv, h1, h2⟩ => ⟨v, List.mem_range.2 hv, ?_⟩) id
    rw [h1, h2]
  have hlines : (((List.range beats).map fun i => ((pa + 32 * i) / 64, (pa + 32 * i) / 32 % 2)).map (·.1)) = linesFrom pa beats := by
    rw [List.map_map]
    rfl
  have hdata : (((List.range beats).map fun i => ((pa + 32 * i) / 64, (pa + 32 * i) / 32 % 2)).map fun e => s.beatOf e.1 e.2) = s.beatsFrom pa beats := by
    rw [List.map_map]
    rfl
  rw [exec_wr, execWr]
  simp only [hp, hs, hr, htag, hlines, hdata, hmask, hwhole]
  rfl

/-- A write joins the queue of its base die. -/
def State.enqueueWrite (s : State) (p : Packet) : State := { s with writes := AMap.put s.writes (AMap.next s.writes) { p } }

theorem State.request_of_write {s : State} {p : Packet} (hf : (s.freeTag p.port).isSome = true) (hty : p.ty = .wr) : ∃ d : Dev, d.stkh = s.dev.stkh ∧
    s.request p = ((s.setDev fun _ => d).enqueueWrite { p with late := false }).serveWrite (AMap.next s.writes) := by
  obtain ⟨d, hd, hst⟩ := s.arrived_eq p
  have hacc : s.request p = ((s.arrived p).enqueueWrite { p with late := false }).serveWrite (AMap.next (s.arrived p).writes) := by
    rw [State.request, if_pos hf, State.accept]
    simp only [hty]
    rfl
  exact ⟨d, hst, hacc.trans (by rw [hd]; rfl)⟩

/-- A write takes effect at once where its stripe is free and its words can be read. -/
theorem State.serveWrite_of_free {s : State} (h : s.Sound) {k : Nat} {p : Packet} (hget : AMap.get? s.writes k = some { p }) (hg : ∀ e ∈ p.errs, e = .good)
    (hlock : s.locks = []) (hj : ∀ e ∈ s.jobs, e.2.stripe ≠ p.off / 256 ∧ e.2.entry = none) : s.serveWrite k = s.applyWrite k p := by
  have hentry : (s.jobs.any fun j => j.2.entry == some k) = false := List.any_eq_false.2 fun e he => by rw [(hj e he).2]; exact Bool.false_ne_true
  have hjobs : (s.jobs.any fun j => j.2.stripe == p.off / 256 && j.2.coord == p.target) = false :=
    List.any_eq_false.2 fun e he => by simp [(hj e he).1]
  have hgood (l : List (Nat × Nat)) : ∀ e ∈ l.map fun w => p.errs.getD w.1 .good, e = .good := fun e he => by
    obtain ⟨w, -, rfl⟩ := List.mem_map.1 he
    rw [List.getD_eq_getElem?_getD]
    cases hget : p.errs[w.1]? with
    | none => rfl
    | some e => exact hg e (List.mem_of_getElem? hget)
  have hbad : (p.words.any fun w => s.dramUe.contains (eccKey p.target w.2) || (s.dramPois.contains (eccKey p.target w.2) && (p.beat w.1).full)) = false := by
    rw [h.readable, h.unpoisoned]
    exact List.any_eq_false.2 fun _ _ => Bool.false_ne_true
  simp only [State.serveWrite, hget, hentry, hjobs, hlock, h.present, State.meetAll_good s p.target hg, State.meetAll_good s p.target (hgood _), hbad]
  split
  · rename_i hsent
    cases hsent
  · split <;> rfl

/-- A write to the second tier is done and acknowledged. -/
theorem State.applyWrite_of_tier2 {s : State} (h : s.Sound) {p : Packet} (ht : 16 ≤ p.target) (hb : ∀ i, i < p.beats → (p.beat i).pois = false) (k : Nat) :
    s.applyWrite k p = (s.rewriteWords p.target p.off p.beats fun i old => (p.beat i).merge old).ackWrite k p := by
  rw [State.applyWrite, if_pos ht, State.foldl_words_eq fun d i hi => State.putWord_of_tier2 (h.withCells d) ht _ (hb i hi)]

/-- A write to HBM is in the cells, and a delta sets out for the parity stack. -/
theorem State.applyWrite_of_hbm {s : State} (h : s.Sound) {p : Packet} (ht : p.target < 16) (hb : ∀ i, i < p.beats → (p.beat i).pois = false) (k : Nat) :
    ∃ (pend : AMap Nat) (ws : AMap HeldWrite) (ds : List Beat), s.applyWrite k p =
      ({ s.rewriteWords p.target p.off p.beats fun i _ => (p.beat i).merge (s.dramBytes p.target (p.off + 32 * i) 32) with pendPar := pend, writes := ws }).send
        { ringPacket .delta p.target (parityStack (p.off / 256)) p.off p.beats 0 with data := ds } := by
  have hfold : p.words.foldl (fun (s' : State) w => if (p.beat w.1).pois then s'.markWord p.target w.2 true else s'.setDram p.target w.2
      ((p.words.map fun w => if (p.beat w.1).pois || s.dramPois.contains (eccKey p.target w.2) then (p.words.map fun w => s.dramBytes p.target w.2 32).getD w.1 []
        else (p.beat w.1).merge ((p.words.map fun w => s.dramBytes p.target w.2 32).getD w.1 [])).getD w.1 [])) s =
      s.rewriteWords p.target p.off p.beats fun i _ => (p.beat i).merge (s.dramBytes p.target (p.off + 32 * i) 32) :=
    State.foldl_words_eq fun d i hi => by
      rw [p.words_getD hi, p.words_getD hi, hb i hi, h.unpoisoned]
      rfl
  obtain ⟨d, hd⟩ := s.rewriteWords_eq p.target p.off (fun i _ => (p.beat i).merge (s.dramBytes p.target (p.off + 32 * i) 32)) p.beats
  have hlost : (s.withCells d).isLost (parityStack (p.off / 256)) = false := h.present _
  rw [State.applyWrite, if_neg (Nat.not_le.2 ht)]
  simp only [hfold]
  rw [hd, if_neg (by rw [hlost]; exact Bool.false_ne_true)]
  exact ⟨_, _, _, rfl⟩

/-- What a write-back leaves in the cells, and the packet that sets out for it: its delta, or in the second tier its acknowledgement. -/
structure WrittenBack (s u : State) (port tag pa t off beats : Nat) (p : Packet) : Prop where
  words : ∀ w, w < beats → u.dramBytes t (off + 32 * w) 32 = (s.beatAt pa w).merge (s.dramBytes t (off + 32 * w) 32)
  delta : t < 16 → p.ty = .delta ∧ p.target = parityStack (off / 256) ∧ p.src = t ∧ p.port = t ∧ p.tag = 0 ∧ p.off = off
  wack : 16 ≤ t → p.ty = .wack ∧ p.port = port ∧ p.tag = tag

/-- A write of clean beats that takes effect in a state with the cells and beats of another. -/
theorem applyWrite_writtenBack {s v : State} {port tag pa beats t off cls b : Nat} {errs : List EccState} (hv : v.Sound) (hd : v.dram = s.dram)
    (hb : ∀ w, w < beats → (s.beatAt pa w).pois = false) (k : Nat) :
    ∃ (i : Nat) (p : Packet), AMap.get? (v.applyWrite k (writeRequest port tag beats t off cls b errs false (s.beatsFrom pa beats))).packets i = some p ∧
      WrittenBack s (v.applyWrite k (writeRequest port tag beats t off cls b errs false (s.beatsFrom pa beats))) port tag pa t off beats p := by
  obtain ⟨q, hq⟩ : ∃ q, q = writeRequest port tag beats t off cls b errs false (s.beatsFrom pa beats) := ⟨_, rfl⟩
  have hbeat {w : Nat} (hw : w < q.beats) : q.beat w = s.beatAt pa w := by
    subst hq
    exact s.beatsFrom_getD pa hw noBeat
  have hclean : ∀ w, w < q.beats → (q.beat w).pois = false := fun w hw => by
    rw [hbeat hw]
    exact hb w (by subst hq; exact hw)
  have hlen (old : Nat → List Byte → List Byte) (hold : ∀ i bs, bs.length = 32 → (old i bs).length = 32) (i : Nat) (bs : List Byte) (hbs : bs.length = 32) :
      ((q.beat i).merge (old i bs)).length = 32 := by rw [Beat.merge_length, hold i bs hbs]
  have hold {u : State} (hu : ∀ w, w < q.beats → u.dramBytes q.target (q.off + 32 * w) 32 = (q.beat w).merge (v.dramBytes q.target (q.off + 32 * w) 32)) :
      ∀ w, w < beats → u.dramBytes t (off + 32 * w) 32 = (s.beatAt pa w).merge (s.dramBytes t (off + 32 * w) 32) :=
    fun w hw => by
      have := hu w (by subst hq; exact hw)
      rw [hbeat (by subst hq; exact hw), State.dramBytes_of_dram hd] at this
      subst hq
      exact this
  rw [← hq]
  rcases Nat.lt_or_ge q.target 16 with ht | ht
  · obtain ⟨pend, ws, ds, happ⟩ := State.applyWrite_of_hbm hv ht hclean k
    have hwords := (State.rewriteWords_spec v q.target q.off (f := fun i _ => (q.beat i).merge (v.dramBytes q.target (q.off + 32 * i) 32))
      (hlen (fun i _ => v.dramBytes q.target (q.off + 32 * i) 32) fun _ _ _ => by simp) q.beats).1
    rw [happ]
    refine ⟨_, _, State.send_packet .., hold hwords, fun _ => ?_, fun h => ?_⟩
    · subst hq
      exact ⟨rfl, rfl, rfl, rfl, rfl, rfl⟩
    · subst hq
      exact absurd ht (Nat.not_lt.2 h)
  · have hwords := (State.rewriteWords_spec v q.target q.off (f := fun i old => (q.beat i).merge old) (hlen (fun _ bs => bs) fun _ _ h => h) q.beats).1
    rw [State.applyWrite_of_tier2 hv ht hclean k]
    refine ⟨_, _, State.send_packet .., hold hwords, fun h => ?_, fun _ => ?_⟩
    · subst hq
      exact absurd h (Nat.not_lt.2 ht)
    · subst hq
      exact ⟨rfl, rfl, rfl⟩

/-- A write-back with a free tag: its lines are clean, its words are in the cells, and its packet is on its way. -/
theorem write_done {s : State} {port tag pa beats t off cls b : Nat} {errs : List EccState} {late : Bool} (hs : s.Sound) (hf : (s.freeTag port).isSome = true)
    (hg : ∀ e ∈ errs, e = .good) (hlock : s.locks = []) (hj : ∀ e ∈ s.jobs, e.2.stripe ≠ off / 256 ∧ e.2.entry = none)
    (hb : ∀ w, w < beats → (s.beatAt pa w).pois = false) : ∃ (u : State) (i : Nat) (p : Packet),
    (s.cleaned (linesFrom pa beats)).request (writeRequest port tag beats t off cls b errs late (s.beatsFrom pa beats)) = u ∧ u.mem = s.mem ∧
      (∀ w, w < beats → ∀ l, AMap.get? u.l2 ((pa + 32 * w) / 64) = some l → l.dirty = false) ∧
      AMap.get? u.packets i = some p ∧ WrittenBack s u port tag pa t off beats p := by
  obtain ⟨m, hm, hclean⟩ := State.cleaned_eq (linesFrom pa beats) s
  rw [hm]
  have hkeeps := (s.withLines m).request_keeps (writeRequest port tag beats t off cls b errs late (s.beatsFrom pa beats))
  have hcaches := (s.withLines m).request_caches (writeRequest port tag beats t off cls b errs late (s.beatsFrom pa beats))
  obtain ⟨d, hst, hreq⟩ := State.request_of_write (s := s.withLines m) (p := writeRequest port tag beats t off cls b errs late (s.beatsFrom pa beats)) hf rfl
  obtain ⟨v, hv⟩ : ∃ v, v = ((s.withLines m).setDev fun _ => d).enqueueWrite
    (writeRequest port tag beats t off cls b errs false (s.beatsFrom pa beats)) := ⟨_, rfl⟩
  have hsound : v.Sound := by
    rw [hv]
    exact ⟨fun k => (congrArg (fun l : List StackHealth => (l.getD k {}).lost) hst).trans (hs.present k), hs.unpoisoned, hs.readable⟩
  have hserve : v.serveWrite (AMap.next s.writes) = v.applyWrite (AMap.next s.writes) (writeRequest port tag beats t off cls b errs false (s.beatsFrom pa beats)) :=
    State.serveWrite_of_free hsound (by rw [hv]; exact AMap.get?_put_self ..) hg (by rw [hv]; exact hlock) (by rw [hv]; exact hj)
  obtain ⟨i, p, hget, hwritten⟩ := applyWrite_writtenBack (port := port) (tag := tag) (t := t) (off := off) (cls := cls) (b := b) (errs := errs) hsound
    (by rw [hv]; rfl) hb (AMap.next s.writes)
  rw [← hserve] at hget hwritten
  have hu : (s.withLines m).request (writeRequest port tag beats t off cls b errs late (s.beatsFrom pa beats)) = v.serveWrite (AMap.next s.writes) :=
    hreq.trans (by rw [hv]; rfl)
  refine ⟨_, i, p, hu, by rw [← hu]; exact hkeeps.mem, fun w hw l hl => ?_, hget, hwritten⟩
  rw [← hu, hcaches.2] at hl
  exact hclean _ (.inl (List.mem_map.2 ⟨w, List.mem_range.2 hw, rfl⟩)) l hl

end Sys2Proof.Machine
end

section
/-! SUPPORT. The packets of the memory side as they arrive (R155, R156, R159 to R161, R163). -/

namespace Sys2Proof.Machine

theorem exec_rdr (i : Nat) (s : State) : exec (.rdr i) s = execRdr i s := rfl
theorem exec_wack (i : Nat) (s : State) : exec (.wack i) s = execWack i s := rfl
theorem exec_delta (r : PacketRead) (s : State) : exec (.delta r) s = execDelta r s := rfl
theorem exec_dack (i : Nat) (s : State) : exec (.dack i) s = execDack i s := rfl
theorem exec_lock (i : Nat) (s : State) : exec (.lock i) s = execLock i s := rfl
theorem exec_locked (i : Nat) (s : State) : exec (.locked i) s = execLocked i s := rfl
theorem exec_chunkrd (r : PacketRead) (s : State) : exec (.chunkrd r) s = execChunkrd r s := rfl
theorem exec_chunk (i : Nat) (s : State) : exec (.chunk i) s = execChunk i s := rfl
theorem exec_unlock (i : Nat) (s : State) : exec (.unlock i) s = execUnlock i s := rfl

theorem State.packet?_eq {s : State} {i : Nat} {p : Packet} {ty : PType} (hp : AMap.get? s.packets i = some p) (hty : p.ty = ty) : s.packet? i ty = some p := by
  rw [State.packet?, hp]
  simp [hty]

/-- A packet that arrives is taken, and does what its type says. -/
theorem onPacket_of_packet {s : State} {i : Nat} {p : Packet} {ty : PType} (hp : AMap.get? s.packets i = some p) (hty : p.ty = ty)
    (f : Packet → State → Option State) : onPacket i ty f s = event s (f p (s.taken i)) := by
  rw [onPacket, State.packet?_eq hp hty]
  rfl

/-! ### Tags that become free (R156) -/

theorem State.tagFreed_of_none_waiting {s : State} {port : Nat} (h : ∀ q ∈ s.portQ, q.port ≠ port) : s.tagFreed port = s := by
  have hnone : (s.portQ.findIdx? fun p => p.port == port) = none := List.findIdx?_eq_none_iff.2 fun q hq => by simpa using h q hq
  rw [State.tagFreed, hnone]

theorem State.tagFreed_of_first {s : State} {port tag : Nat} {q : Packet} {rest : List Packet} (hq : s.portQ = q :: rest) (hport : q.port = port)
    (ht : s.freeTag port = some tag) : s.tagFreed port = ({ s with portQ := rest }).accept { q with tag } := by
  have hfirst : (s.portQ.findIdx? fun p => p.port == port) = some 0 := by rw [hq, List.findIdx?_cons, if_pos (by simpa using hport)]
  rw [State.tagFreed, hfirst, ht]
  simp only [hq, List.getElem?_cons_zero]
  rfl

theorem State.tagFreed_keeps (s : State) (port : Nat) : s.KeepsMem (s.tagFreed port) := by
  unfold State.tagFreed
  split
  · split
    · exact State.KeepsMem.trans (.of_eq rfl rfl) (State.accept_keeps _ _)
    · exact .refl s
  · exact .refl s

/-! ### The reply of a read (R151, R163) -/

theorem State.receive_keeps (s : State) (pa : Nat) (bad : Bool) : s.KeepsMem (s.receive pa bad) := by
  simp only [State.receive]
  split
  · exact s.alloc_keeps pa _
  · split
    · exact .of_eq rfl rfl
    · exact .of_eq rfl rfl

/-- The lines that one state has are lines of another with no fewer words; packets, requests that wait and cells are the same. -/
structure State.Receives (s u : State) : Prop where
  dram : u.dram = s.dram
  packets : u.packets = s.packets
  portQ : u.portQ = s.portQ
  lines : ∀ k l, AMap.get? s.l2 k = some l → ∃ l', AMap.get? u.l2 k = some l' ∧ ∀ b, l.mask.getLsbD b = true → l'.mask.getLsbD b = true

theorem State.Receives.refl (s : State) : s.Receives s := ⟨rfl, rfl, rfl, fun _ l h => ⟨l, h, fun _ hb => hb⟩⟩

theorem State.Receives.trans {s t u : State} (h : s.Receives t) (g : t.Receives u) : s.Receives u :=
  ⟨g.dram.trans h.dram, g.packets.trans h.packets, g.portQ.trans h.portQ, fun k l hl => by
    obtain ⟨l', hl', hm⟩ := h.lines k l hl
    obtain ⟨l'', hl'', hm'⟩ := g.lines k l' hl'
    exact ⟨l'', hl'', fun b hb => hm' b (hm b hb)⟩⟩

/-- The lines of a state after a word has come, apart from the poison of its half. -/
theorem State.receive_lines {s : State} {pa : Nat} {l : L2Line} (h : AMap.get? s.l2 (pa / 64) = some l) (bad : Bool) :
    (s.receive pa bad).dram = s.dram ∧ (s.receive pa bad).packets = s.packets ∧ (s.receive pa bad).portQ = s.portQ ∧
    (∀ k, k ≠ pa / 64 → AMap.get? (s.receive pa bad).l2 k = AMap.get? s.l2 k) ∧
    ∃ l', AMap.get? (s.receive pa bad).l2 (pa / 64) = some l' ∧ l'.mask = l.mask ||| (0xFF : Half) <<< (8 * (pa / 32 % 2)) := by
  have hput (k : Nat) (x : L2Line) (hk : k ≠ pa / 64) : AMap.get? (AMap.put s.l2 (pa / 64) x) k = AMap.get? s.l2 k := AMap.get?_put_ne _ _ (Ne.symm hk)
  have hline : pa / 32 / 2 = pa / 64 := by omega
  simp only [State.receive, h]
  split
  · refine ⟨rfl, rfl, rfl, fun k hk => ?_, ?_⟩
    · rw [State.takePoison, AMap.get?_upd, if_neg (by rw [hline]; exact Ne.symm hk)]
      exact hput k _ hk
    · rw [State.takePoison, AMap.get?_upd, if_pos hline, AMap.get?_put_self]
      exact ⟨_, rfl, rfl⟩
  · exact ⟨rfl, rfl, rfl, fun k hk => hput k _ hk, _, AMap.get?_put_self .., rfl⟩

theorem State.receive_receives {s : State} {pa : Nat} (h : (AMap.get? s.l2 (pa / 64)).isSome = true) (bad : Bool) : s.Receives (s.receive pa bad) ∧
    ∃ l, AMap.get? (s.receive pa bad).l2 (pa / 64) = some l ∧ ∀ k, k < 8 → l.mask.getLsbD (8 * (pa / 32 % 2) + k) = true := by
  obtain ⟨l, hl⟩ := Option.isSome_iff_exists.1 h
  obtain ⟨hd, hp, hq, hother, l', hl', hmask⟩ := State.receive_lines hl bad
  have hbits : ∀ j < 2, ∀ k < 8, ((0xFF : Half) <<< (8 * j)).getLsbD (8 * j + k) = true := by decide
  refine ⟨⟨hd, hp, hq, fun k x hx => ?_⟩, l', hl', fun k hk => ?_⟩
  · rcases eq_or_ne k (pa / 64) with rfl | hne
    · obtain rfl := Option.some.inj (hl.symm.trans hx)
      exact ⟨l', hl', fun b hb => by rw [hmask, BitVec.getLsbD_or, hb, Bool.true_or]⟩
    · exact ⟨x, (hother k hne).trans hx, fun _ hb => hb⟩
  · rw [hmask, BitVec.getLsbD_or, hbits _ (Nat.mod_lt _ (by decide)) k hk, Bool.or_true]

/-- Words that come one after the other for lines that the slices hold. -/
theorem State.foldl_receive (pa : Nat) (bad : Nat × Nat → Bool) : ∀ (ws : List (Nat × Nat)) (s : State),
    (∀ w ∈ ws, (AMap.get? s.l2 ((pa + 32 * w.1) / 64)).isSome = true) →
    s.Receives (ws.foldl (fun (s : State) w => s.receive (pa + 32 * w.1) (bad w)) s) ∧
    ∀ w ∈ ws, ∃ l, AMap.get? (ws.foldl (fun (s : State) w => s.receive (pa + 32 * w.1) (bad w)) s).l2 ((pa + 32 * w.1) / 64) = some l ∧
      ∀ k, k < 8 → l.mask.getLsbD (8 * ((pa + 32 * w.1) / 32 % 2) + k) = true
  | [], s, _ => ⟨.refl s, fun _ hw => absurd hw List.not_mem_nil⟩
  | w :: ws, s, h => by
    obtain ⟨hstep, l, hl, hmask⟩ := State.receive_receives (h w List.mem_cons_self) (bad w)
    obtain ⟨hrest, hws⟩ := State.foldl_receive pa bad ws (s.receive (pa + 32 * w.1) (bad w)) fun v hv => by
      obtain ⟨x, hx⟩ := Option.isSome_iff_exists.1 (h v (List.mem_cons_of_mem _ hv))
      obtain ⟨x', hx', -⟩ := hstep.lines _ x hx
      rw [hx']
      rfl
    refine ⟨hstep.trans hrest, fun v hv => ?_⟩
    rcases List.mem_cons.1 hv with rfl | hv
    · obtain ⟨l', hl', hm⟩ := hrest.lines _ l hl
      exact ⟨l', hl', fun k hk => hm _ (hmask k hk)⟩
    · exact hws v hv

/-- The words of a reply reach their lines. -/
def State.receiveAll (s : State) (p : Packet) (pa : Nat) : State := p.words.foldl (fun (s : State) w => s.receive (pa + 32 * w.1) (p.beat w.1).pois) s

theorem State.receiveAll_keeps (s : State) (p : Packet) (pa : Nat) : s.KeepsMem (s.receiveAll p pa) :=
  State.KeepsMem.foldl (fun s (w : Nat × Nat) => s.receive_keeps (pa + 32 * w.1) (p.beat w.1).pois) _ _

theorem exec_rdr_of_packet {s : State} {i : Nat} {p : Packet} (hp : AMap.get? s.packets i = some p) (hty : p.ty = .rdr) :
    exec (.rdr i) s = .next (((addrOf p.target p.off).elim (s.taken i) ((s.taken i).receiveAll p)).tagFreed p.port) := by
  rw [exec_rdr, execRdr, onPacket_of_packet hp hty]
  cases addrOf p.target p.off <;> rfl

/-- A reply's words are in the lines that the slices hold. -/
theorem rdr_spec {s : State} {i : Nat} {p : Packet} (hp : AMap.get? s.packets i = some p) (hty : p.ty = .rdr) :
    ∃ u : State, exec (.rdr i) s = .next u ∧ u.mem = s.mem ∧ ∀ pa, addrOf p.target p.off = some pa → (∀ q ∈ s.portQ, q.port ≠ p.port) →
      (∀ w, w < p.beats → (AMap.get? s.l2 ((pa + 32 * w) / 64)).isSome = true) →
      u.dram = s.dram ∧ u.packets = (s.taken i).packets ∧
      ∀ w, w < p.beats → ∃ l, AMap.get? u.l2 ((pa + 32 * w) / 64) = some l ∧ ∀ k, k < 8 → l.mask.getLsbD (8 * ((pa + 32 * w) / 32 % 2) + k) = true := by
  have htaken : s.KeepsMem (s.taken i) := .of_eq rfl rfl
  have hwords : s.KeepsMem ((addrOf p.target p.off).elim (s.taken i) ((s.taken i).receiveAll p)) := by
    cases addrOf p.target p.off with
    | none => exact htaken
    | some pa => exact htaken.trans (State.receiveAll_keeps ..)
  refine ⟨_, exec_rdr_of_packet hp hty, (hwords.trans (State.tagFreed_keeps _ _)).mem, fun pa ha hq hheld => ?_⟩
  obtain ⟨hrec, hlines⟩ := State.foldl_receive pa (fun w => (p.beat w.1).pois) p.words (s.taken i) fun w hw => by
    obtain ⟨n, hn, rfl⟩ := List.mem_map.1 hw
    exact hheld n (List.mem_range.1 hn)
  have hfree : ((s.taken i).receiveAll p pa).tagFreed p.port = (s.taken i).receiveAll p pa :=
    State.tagFreed_of_none_waiting fun q hm => hq q (by rw [← show _ = s.portQ from hrec.portQ]; exact hm)
  simp only [ha, Option.elim_some, hfree]
  exact ⟨hrec.dram, hrec.packets, fun w hw => hlines (w, p.off + 32 * w) (List.mem_map.2 ⟨w, List.mem_range.2 hw, rfl⟩)⟩

/-! ### Deltas and their acknowledgements (R159, R161) -/

/-- A byte of a word with the byte of a delta. -/
def deltaWord (p : Packet) (i : Nat) (old : List Byte) : List Byte := (List.range 32).map fun k => old.getD k 0 ^^^ (p.beat i).data.getD k 0

theorem State.takeDelta_eq {s : State} {p : Packet} (h : ∀ w, w < p.beats → s.eccGood p.target (p.off + 32 * w) = true) :
    s.takeDelta p = s.rewriteWords p.target p.off p.beats (deltaWord p) := State.foldl_words_eq fun d i hi => by
  have hgood : (s.withCells d).eccGood p.target (p.off + 32 * i) = true := h i hi
  rw [if_pos hgood]
  refine congrArg _ (List.map_congr_left fun k hk => ?_)
  rw [State.dramBytes_getD _ _ _ (List.mem_range.1 hk)]

theorem State.takeDelta_byte {s : State} {p : Packet} (h : ∀ w, w < p.beats → s.eccGood p.target (p.off + 32 * w) = true) {w k : Nat}
    (hw : w < p.beats) (hk : k < 32) :
    (s.takeDelta p).dramByte p.target (p.off + 32 * w + k) = s.dramByte p.target (p.off + 32 * w + k) ^^^ (p.beat w).data.getD k 0 := by
  have hword := (s.rewriteWords_spec p.target p.off (f := deltaWord p) (fun _ _ _ => by simp [deltaWord]) p.beats).1 w hw
  rw [State.takeDelta_eq h, ← State.dramBytes_getD _ _ _ hk, hword, deltaWord, List.getD_eq_getElem _ _ (by simpa using hk)]
  simp only [List.getElem_map, List.getElem_range]
  rw [State.dramBytes_getD _ _ _ hk]

theorem State.takeDelta_keeps (s : State) (p : Packet) : s.KeepsMem (s.takeDelta p) :=
  State.KeepsMem.foldl (fun s w => by split; exacts [State.setDram_keeps _ s _ _, .refl s]) _ s

/-- A delta that meets no error is in the parity words, and DACK answers. -/
theorem delta_spec {s : State} {i : Nat} {p : Packet} {errs : List EccState} (hp : AMap.get? s.packets i = some p) (hty : p.ty = .delta)
    (hg : ∀ e ∈ errs, e = .good) (hecc : ∀ w, w < p.beats → s.eccGood p.target (p.off + 32 * w) = true) :
    ∃ (u : State) (j : Nat), exec (.delta ⟨i, errs⟩) s = .next u ∧ u.mem = s.mem ∧
      (∀ w k, w < p.beats → k < 32 → u.dramByte p.target (p.off + 32 * w + k) = s.dramByte p.target (p.off + 32 * w + k) ^^^ (p.beat w).data.getD k 0) ∧
      AMap.get? u.packets j = some (ringPacket .dack p.target p.src p.off p.beats 0) := by
  have hecc' : ∀ w, w < p.beats → (s.taken i).eccGood p.target (p.off + 32 * w) = true := hecc
  obtain ⟨d, hd⟩ := (s.taken i).rewriteWords_eq p.target p.off (deltaWord p) p.beats
  rw [← State.takeDelta_eq hecc'] at hd
  have hread (off : Nat) (ho : off ∈ p.offs) :
      (((s.taken i).takeDelta p).send (ringPacket .dack p.target p.src p.off p.beats 0)).dramUe.contains (eccKey p.target off) = false := by
    obtain ⟨x, hx, rfl⟩ := List.mem_map.1 ho
    obtain ⟨w, hw, rfl⟩ := List.mem_map.1 hx
    have := hecc w (List.mem_range.1 hw)
    simp only [State.eccGood, Bool.and_eq_true, Bool.not_eq_true'] at this
    obtain ⟨⟨-, h⟩, -⟩ := this
    rw [hd]
    exact h
  refine ⟨((s.taken i).takeDelta p).send (ringPacket .dack p.target p.src p.off p.beats 0), _, ?_, ?_, fun w k hw hk => State.takeDelta_byte hecc' hw hk,
    State.send_packet ..⟩
  · rw [exec_delta, execDelta, onPacket_of_packet hp hty]
    simp only [State.meetAll_good _ _ hg, State.repair_of_readable hread]
    rfl
  · exact (State.takeDelta_keeps (s.taken i) p).mem

/-- What a packet of the ring counts and locks under: its stripe, at the stack that it goes to. -/
def Packet.stripeKey (p : Packet) : Nat := pendKey (p.off / 256) p.target

/-- The counts of the deltas that are pending, once one of them is acknowledged. -/
def acknowledged (m : AMap Nat) (key : Nat) : AMap Nat := if AMap.getD m key 0 ≤ 1 then AMap.del m key else AMap.put m key (AMap.getD m key 0 - 1)

theorem getD_acknowledged (m : AMap Nat) (key : Nat) : AMap.getD (acknowledged m key) key 0 = AMap.getD m key 0 - 1 := by
  unfold acknowledged
  split
  · next hle =>
    rw [Nat.sub_eq_zero_of_le hle, AMap.getD, AMap.get?_del, if_pos rfl]
    rfl
  · rw [AMap.getD, AMap.get?_put_self]
    rfl

theorem dack_spec {s : State} {i : Nat} {p : Packet} {e : Nat × HeldWrite} (hp : AMap.get? s.packets i = some p) (hty : p.ty = .dack)
    (he : (s.writes.find? fun e => e.2.sent && e.2.p.target == p.target && e.2.p.off == p.off && e.2.p.beats == p.beats) = some e) :
    ∃ (u : State) (j : Nat), exec (.dack i) s = .next u ∧ u.mem = s.mem ∧ u.dram = s.dram ∧
      AMap.get? u.packets j = some { e.2.p with ty := .wack, data := [], errs := [] } ∧ u.writes = AMap.del s.writes e.1 ∧
      AMap.getD u.pendPar p.stripeKey 0 = AMap.getD s.pendPar p.stripeKey 0 - 1 := by
  refine ⟨({ s.taken i with pendPar := acknowledged s.pendPar p.stripeKey } : State).ackWrite e.1 e.2.p, _, ?_, rfl, rfl, State.send_packet .., rfl,
    getD_acknowledged s.pendPar p.stripeKey⟩
  have hfind : ((s.taken i).writes.find? fun e => e.2.sent && e.2.p.target == p.target && e.2.p.off == p.off && e.2.p.beats == p.beats) = some e := he
  rw [exec_dack, execDack, onPacket_of_packet hp hty, State.deltaDone]
  simp only [hfind]
  rfl

/-! ### The stripe lock (R160) -/

theorem exec_lock_of_pending {s : State} {i : Nat} {p : Packet} (hp : AMap.get? s.packets i = some p) (hty : p.ty = .lock)
    (hpend : AMap.getD s.pendPar p.stripeKey 0 ≠ 0) : exec (.lock i) s = .next (
      if AMap.get? s.locks p.stripeKey = none then { s with locks := AMap.put s.locks p.stripeKey p.job } else s.passOver) := by
  unfold Packet.stripeKey at *
  have hwaits : (AMap.getD s.pendPar (pendKey (p.off / 256) p.target) 0 != 0) = true := by simpa using hpend
  rw [exec_lock, execLock, State.packet?_eq hp hty]
  simp only [hwaits]
  cases AMap.get? s.locks (pendKey (p.off / 256) p.target) <;> rfl

theorem lock_taken {s : State} {i : Nat} {p : Packet} (hp : AMap.get? s.packets i = some p) (hty : p.ty = .lock)
    (hj : ∀ j, AMap.get? s.locks p.stripeKey = some j → j = p.job) (hpend : AMap.getD s.pendPar p.stripeKey 0 = 0) :
    ∃ (u : State) (k : Nat), exec (.lock i) s = .next u ∧ u.mem = s.mem ∧ AMap.get? u.locks p.stripeKey = some p.job ∧
      AMap.get? u.packets k = some (ringPacket .locked p.target p.src p.off 0 p.job) := by
  unfold Packet.stripeKey at *
  have hwaits : (AMap.getD s.pendPar (pendKey (p.off / 256) p.target) 0 != 0) = false := by simpa using hpend
  have hexec : exec (.lock i) s = execLock i s := exec_lock i s
  rw [execLock, State.packet?_eq hp hty] at hexec
  simp only [hwaits] at hexec
  cases hl : AMap.get? s.locks (pendKey (p.off / 256) p.target) with
  | none =>
    rw [hl] at hexec
    exact ⟨_, _, hexec, rfl, AMap.get?_put_self .., State.send_packet ..⟩
  | some j =>
    obtain rfl := hj j hl
    rw [hl] at hexec
    simp only [Bool.false_or, bne_self_eq_false] at hexec
    exact ⟨_, _, hexec, rfl, hl, State.send_packet ..⟩

theorem locked_spec {s : State} {i : Nat} {p : Packet} {j : StripeJob} (hp : AMap.get? s.packets i = some p) (hty : p.ty = .locked)
    (hj : AMap.get? s.jobs p.job = some j) : ∃ u : State, exec (.locked i) s = .next u ∧ u.mem = s.mem ∧
      AMap.get? u.jobs p.job = some { j with locked := setIns p.src j.locked } := by
  have hj' : AMap.get? (s.taken i).jobs p.job = some j := hj
  rw [exec_locked, execLocked, onPacket_of_packet hp hty]
  simp only [hj']
  split
  · obtain ⟨ps, heq, -⟩ := State.foldl_send_eq (fun k => ringPacket .chunkrd j.coord k (j.stripe * 256) 0 p.job) (otherStacks j.want)
      { s.taken i with jobs := AMap.put (s.taken i).jobs p.job { j with locked := setIns p.src j.locked } }
    rw [heq]
    exact ⟨_, rfl, rfl, AMap.get?_put_self ..⟩
  · exact ⟨_, rfl, rfl, AMap.get?_put_self ..⟩

theorem State.rebuild_packets (s : State) (t off : Nat) : (s.rebuild t off).packets = s.packets := by
  have hset (bs : List Byte) : (s.setDram t off bs).packets = s.packets := by
    obtain ⟨d, hd⟩ := State.setDram_eq bs s t off
    rw [hd]
    rfl
  simp only [State.rebuild]
  split_ifs
  · rfl
  · rfl
  · exact hset _
  · rfl

/-- Packets on their way stay while a stack repairs its words. -/
theorem State.repair_packet (s : State) (t : Nat) (offs : List Nat) {k : Nat} {p : Packet} (h : AMap.get? s.packets k = some p) :
    AMap.get? (s.repair t offs).packets k = some p := by
  have hfold : ∀ (l : List Nat) (s : State), (l.foldl (fun (s : State) off => s.rebuild t off) s).packets = s.packets := by
    intro l
    induction l with
    | nil => exact fun _ => rfl
    | cons a l ih => exact fun s => (ih _).trans (s.rebuild_packets t a)
  simp only [State.repair]
  split
  · exact h
  · split
    · rw [hfold]
      exact h
    · split
      · exact h
      · obtain ⟨ps, J, heq, -, -, -, hps⟩ := s.startJob_eq t (ringPacket .rd t t (offs.headD 0 / 256 * 256) 0 0) none
        rw [heq]
        exact hps k p h

theorem State.dramBytes_add (s : State) (t off m n : Nat) : s.dramBytes t off (m + n) = s.dramBytes t off m ++ s.dramBytes t (off + m) n := by
  simp only [State.dramBytes, List.range_add, List.map_append, List.map_map, Function.comp_def, Nat.add_assoc]

/-- Consecutive words are the bytes from the first on. -/
theorem State.flatMap_dramBytes (s : State) (t off : Nat) : ∀ n, ((List.range n).flatMap fun w => s.dramBytes t (off + 32 * w) 32) = s.dramBytes t off (32 * n)
  | 0 => rfl
  | n + 1 => by rw [List.range_succ, List.flatMap_append, State.flatMap_dramBytes s t off n, Nat.mul_succ, State.dramBytes_add]; simp

/-- The words of a chunk as its stack reads them. -/
def State.chunkBeats (s : State) (t off : Nat) : List Beat := ((List.range 8).map fun w => off + 32 * w).map fun off =>
  { data := s.dramBytes t off 32, mask := 0xFFFFFFFF, pois := !s.eccGood t off }

theorem State.chunkBeats_data (s : State) (t off : Nat) : (s.chunkBeats t off).flatMap (·.data) = s.dramBytes t off 256 := by
  rw [State.chunkBeats, List.map_map, List.flatMap_map]
  exact s.flatMap_dramBytes t off 8

/-- A stack that meets no error sends its chunk. -/
theorem chunkrd_spec {s : State} {i : Nat} {p : Packet} {errs : List EccState} (hp : AMap.get? s.packets i = some p) (hty : p.ty = .chunkrd)
    (hg : ∀ e ∈ errs, e = .good) :
    ∃ (u : State) (k : Nat) (q : Packet), exec (.chunkrd ⟨i, errs⟩) s = .next u ∧ u.mem = s.mem ∧
      AMap.get? u.packets k = some q ∧ q.ty = .chunk ∧ q.target = p.src ∧ q.src = p.target ∧ q.data.flatMap (·.data) = s.dramBytes p.target p.off 256 := by
  obtain ⟨v, hv⟩ : ∃ v, v = (s.taken i).send
    { ringPacket .chunk p.target p.src p.off 8 p.job with data := (s.taken i).chunkBeats p.target p.off } := ⟨_, rfl⟩
  refine ⟨v.repair p.target ((List.range 8).map fun w => p.off + 32 * w), _, _, ?_, ?_,
    State.repair_packet _ _ _ (by rw [hv]; exact State.send_packet ..), rfl, rfl, rfl, (s.taken i).chunkBeats_data p.target p.off⟩
  · rw [exec_chunkrd, execChunkrd, onPacket_of_packet hp hty]
    simp only [State.meetAll_good _ _ hg]
    rw [hv]
    rfl
  · rw [(State.repair_keeps v _ _).mem, hv]
    rfl

theorem exec_chunk_of_job {s : State} {i : Nat} {p : Packet} {j : StripeJob} (hp : AMap.get? s.packets i = some p) (hty : p.ty = .chunk)
    (hj : AMap.get? s.jobs p.job = some j) :
    let j' := { j with chunks := (p.src, p.data.flatMap (·.data), p.data.map (·.pois)) :: j.chunks }
    let u := { s.taken i with jobs := AMap.put s.jobs p.job j' }
    exec (.chunk i) s = .next (if (otherStacks j.want).all (fun k => j'.chunks.any fun c => c.1 == k) then u.finishJob p.job j' else u) := by
  intro j' u
  have hj' : AMap.get? (s.taken i).jobs p.job = some j := hj
  rw [exec_chunk, execChunk, onPacket_of_packet hp hty]
  simp only [hj', event]
  split <;> rfl

theorem exec_unlock_of_no_writes {s : State} {i : Nat} {p : Packet} (hp : AMap.get? s.packets i = some p) (hty : p.ty = .unlock)
    (hw : ∀ e ∈ s.writes, ¬ (e.2.p.target = p.target ∧ e.2.p.off / 256 = p.off / 256)) :
    exec (.unlock i) s = .next { s.taken i with locks := AMap.del s.locks (pendKey (p.off / 256) p.target) } := by
  have hnone : (s.writes.filter fun e => e.2.p.target == p.target && e.2.p.off / 256 == p.off / 256) = [] :=
    List.filter_eq_nil_iff.2 fun e he => by simpa using hw e he
  rw [exec_unlock, execUnlock, onPacket_of_packet hp hty]
  change Host.Outcome.next ((s.writes.filter fun e => e.2.p.target == p.target && e.2.p.off / 256 == p.off / 256).foldl _ _) = _
  rw [hnone]
  rfl

/-- Settles O51: places by their inverse (`placePa_dramPlace`), requests by what they meet (`read_of_good`, `read_of_corrected`,
`read_of_uncorrectable`, `write_done`), a packet by its type, and the parity of a stripe by `State.putWord_parity`. -/
theorem memoryPackets : Obligations.MemoryPackets := by
  refine ⟨fun pa hpa => ?_, ⟨fun s port tag pa beats src errs late cls b t off hplace hok hsrc hlost hue hpois => ?_, fun s port => ⟨?_, ?_⟩,
    fun s i p hp => ?_⟩, fun s t off b ht hpar hal hoff hb _ hlost hpois hue h0 hdelta => ?_⟩
  · obtain ⟨hstack, hoff, hpar, hinj⟩ := dramPlace_spec hpa
    exact ⟨hstack, hoff, hpar, placePa_dramPlace hpa, homeSlice_lt pa, hinj⟩
  · have hs : s.Sound := ⟨hlost, hpois, hue⟩
    have htag := lt_of_requestOk hok
    have hexec := exec_rd_of_request hplace hok hsrc errs late
    refine ⟨fun hbusy => ?_, fun hbusy k hk hfree => ?_, fun hfree hsent => ⟨fun herrs => ?_, fun hbeats herrs ht16 ht hj => ?_⟩,
      fun masks hfree hg hlock hj hmasks hb hall => ?_⟩
    · have hnone := State.freeTag_eq_none hbusy
      rw [hexec, State.tagOk, hbusy tag htag, hnone]
      exact congrArg Host.Outcome.next (State.request_of_none_free hnone)
    · rw [hexec, State.tagOk, hbusy, Option.isNone_eq_false_iff.2 (State.freeTag_isSome hk hfree)]
      rfl
    · rw [State.tagOk, hfree] at hexec
      have hport := State.freeTag_isSome htag hfree
      by_cases hc : errs = [.corrected]
      · subst hc
        obtain ⟨rfl, ht, -⟩ := (herrs .corrected List.mem_cons_self).resolve_left (by decide)
        obtain ⟨v, i, p, hreq, hm, hd, hget, ⟨hty, hreqPort, hreqTag, htarget, hoff, hlen, hdata⟩, hst, hce⟩ := read_of_corrected hs hsent hport ht
        exact ⟨v, i, p, hexec.trans (congrArg _ hreq), hm, hd, hget, hty, hreqPort, hreqTag, htarget, hoff, hlen, hdata, fun _ => ⟨hst, hce⟩,
          fun h => nomatch h .corrected List.mem_cons_self⟩
      · have hg : ∀ e ∈ errs, e = .good := fun e he => (herrs e he).resolve_right fun h => hc h.2.2
        obtain ⟨v, i, p, hreq, hm, hd, hget, ⟨hty, hreqPort, hreqTag, htarget, hoff, hlen, hdata⟩, hst⟩ := read_of_good hs hsent hport hg
        exact ⟨v, i, p, hexec.trans (congrArg _ hreq), hm, hd, hget, hty, hreqPort, hreqTag, htarget, hoff, hlen, hdata, fun h => absurd h hc, fun _ => hst⟩
    · subst hbeats herrs
      rw [State.tagOk, hfree] at hexec
      obtain ⟨v, k, J, hreq, hrest⟩ := read_of_uncorrectable hs hsent (State.freeTag_isSome htag hfree) ht ht16
      exact ⟨v, k, J, hexec.trans (congrArg _ hreq), hrest⟩
    · have hok' : s.tagOk port tag = true := by rw [State.tagOk, hfree]; rfl
      obtain ⟨u, i, p, hreq, hm, hclean, hget, hwords, hdelta, hwack⟩ := write_done hs (State.freeTag_isSome htag hfree) hg hlock hj hb
      exact ⟨u, i, p, (exec_wr_of_request hplace hok hsrc hok' hmasks hall errs late).trans (congrArg _ hreq), hm, hwords, hclean, hget, hdelta, hwack⟩
  · exact State.tagFreed_of_none_waiting
  · exact fun q rest tag hq hport ht => State.tagFreed_of_first hq hport ht
  · refine ⟨rdr_spec hp, fun hty => ?_, fun errs hty hg hecc => delta_spec hp hty hg hecc, fun e hty he => dack_spec hp hty he,
      fun hty hj => ⟨lock_taken hp hty hj, fun hpend hl => ?_, fun hpend hl => ?_⟩, fun j hty hj => locked_spec hp hty hj,
      fun errs hty hg => chunkrd_spec hp hty hg, fun j hty hj => exec_chunk_of_job hp hty hj, exec_unlock_of_no_writes hp⟩
    · rw [exec_wack, execWack, onPacket_of_packet hp hty]
      rfl
    · exact (exec_lock_of_pending hp hty hpend).trans (congrArg _ (if_pos hl))
    · exact (exec_lock_of_pending hp hty hpend).trans (congrArg _ (if_neg hl))
  · obtain ⟨hword, hzero, hothers⟩ := State.putWord_parity ⟨hlost, hpois, hue⟩ ht hpar (by omega) hb h0 hdelta
    exact ⟨hword, hzero, (s.putWord_keeps t off b).mem, hothers⟩

end Sys2Proof.Machine
end
